-- ==== Sys2Proof/Word.lean ====
section
/-! DEFINITION. The word types of the model: bytes, register words and stitch IDs. -/

namespace Sys2Proof

/-- One byte of memory; multi-byte values are little-endian (01 R15). -/
abbrev Byte := BitVec 8

/-- A 32-bit register word: a pin (08 R236), a handle, an FP32 or INT32 pattern. -/
abbrev Word32 := BitVec 32

/-- A 64-bit register word: a stroke number, an FP64 pattern, a job seed. -/
abbrev Word64 := BitVec 64

/-- A 64-bit stitch ID (08 R235). -/
abbrev Sid := BitVec 64

end Sys2Proof
end

