-- ==== Sys2Proof/Types.lean ====
section
/-! DEFINITION. The types of the commands' operands: what an event brings in from outside the part. -/

namespace Sys2Proof

/-- The three grades of 00_scope R1. -/
inductive Grade where
  | m8f | m8s | m6f
  deriving DecidableEq, Repr, Inhabited

/-- What the granule code finds at a read (10 R301); poison is the granule's own bit. -/
inductive ReadOutcome where
  | clean
  | corrected
  | uncorrectable
  deriving DecidableEq, Repr, Inhabited

/-- What a read finds, and the granules of its row (0 to 15) that the remap which the read may start finds uncorrectable (10 R301, R309). -/
structure Found where
  outcome : ReadOutcome
  bad : List Nat := []
  deriving DecidableEq, Repr, Inhabited

/-- A held write-combining entry whose time is over, and what the read of its read-modify-write finds (10 R296, R297). -/
structure HeldGranule where
  granule : Nat
  outcome : ReadOutcome
  deriving DecidableEq, Repr, Inhabited

/-- Bytes for one granule of HBM (10 R295), and the nib whose stitch writes them; none for a writer that is no nib. -/
structure Piece where
  addr : Nat
  data : List Byte
  nib : Option (Nat × Nat) := none
  deriving DecidableEq, Repr, Inhabited

/-- What a retrain settles: the peer's new hello and the delay that the probes measure (11 R324). -/
structure Hello where
  station : Nat
  port : Nat
  delayNs : Nat
  deriving DecidableEq, Repr, Inhabited

/-- Who reads a granule (10 R301). -/
inductive Reader where
  | nib (panel nib : Nat)
  /-- The narrow path of a nib reads one 32-byte half of the granule (09 R282). -/
  | narrow (panel nib half : Nat)
  | host
  | ohmub
  /-- Ohmub reads one of the two copies, 0 or 1, of its own part-wide structures (12 R380). -/
  | own (copy : Nat)
  deriving DecidableEq, Repr, Inhabited

/-- Message types of the table Message types (11 R334). -/
inductive MsgType where
  | write | writeEnd | ack | nack | unreach | redUp | redDown | control | mgmt | mirror | journal
  deriving DecidableEq, Repr, Inhabited

/-- The 32-byte message header of 11 R334; `arg` is its `ARG` field. -/
structure MsgHdr where
  dst : Nat
  rdst : Nat
  src : Nat
  hops : Nat
  tag : Nat
  sdie : Nat
  mtype : MsgType
  fjk : Word32
  epoch : BitVec 16
  len : Nat
  arg : BitVec 96
  deriving DecidableEq, Repr, Inhabited

/-- What a message of a `SEND` or `MULTICAST` carries about its source (11 R339, R348): the descriptor's map, which side tensors the source
has, its level-1 handle, and the pin that a `SEND` is to signal. -/
structure SendSource where
  sizes : List Nat
  type : Nat
  shape : Nat
  bdim0 : Nat
  bdim1 : Nat
  hasScale : Bool
  hasZero : Bool
  hasGimp : Bool
  twist : Word64
  l1 : Nat
  pin : Option Nat
  deriving DecidableEq, Repr, Inhabited

/-- What a `RED_DOWN` brings: a delivered sum, or a piece of a `MULTICAST`, whose pieces describe its source (11 R346, R348). -/
structure DownBody where
  source : Option SendSource := none
  bytes : List Byte
  deriving DecidableEq, Repr, Inhabited

/-- A commit vote or its result (05 R172): step number, replay and halt bits, and the demanded level of each layer tag
(tags at level L0 left out). -/
structure Vote where
  step : Word64
  replay : Bool
  halt : Bool
  levels : List (Nat × Nat)
  deriving DecidableEq, Repr, Inhabited

/-- The counts of a stitch (02 R77, 03 R107, 01 R37) and its VE flags and fault (06 R188, R191). The record holds each at its
field's maximum. -/
structure Counts where
  clips : Nat := 0
  spill : Nat := 0
  zeroBlk : Nat := 0
  skipSteps : Nat := 0
  gimpOvf : Nat := 0
  s8Exh : Nat := 0
  nonfinite : Nat := 0
  cancel : Nat := 0
  degenBlk : Nat := 0
  routeDrop : Nat := 0
  malformed : Nat := 0
  elems : Nat := 0
  vflags : BitVec 8 := 0
  vfault : Nat := 0
  vfaultPc : Nat := 0
  deriving DecidableEq, Repr, Inhabited

/-- What the majority execution of a share has produced (12 R384, R385): the bytes of its outputs, the integers
that it adds to accumulator elements by linear index, and the counts that the stitch then has. -/
structure ShareResult where
  bytes : List (Nat × Byte)
  contrib : List (Nat × Int) := []
  counts : Counts
  /-- It raised a NaN or infinity in a wide path that no count shows (01 R30, 02 R55). -/
  wideNf : Bool := false
  deriving DecidableEq, Repr, Inhabited

/-- A Journal record (12 R360), held by the sender until acknowledged and by the partner until released. -/
structure JRec where
  fjk : Word32 := 0
  handle : Nat := 0
  tag : Nat := 0
  step : Nat := 0
  rms : Word64 := 0
  params : BitVec 512 := 0
  ternary : List Int := []
  tally : BitVec 16 := 0
  crcOk : Bool := true
  deriving DecidableEq, Repr, Inhabited

/-- What the partner sends of a tensor for a restore (12 R371): a mirror slot with its number and step, and the Journal records of the steps after
it. -/
structure PeerCopy where
  handle : Nat := 0
  slot : Nat := 0
  step : Nat := 0
  master : List Byte := []
  state : List Byte := []
  records : List JRec := []
  deriving DecidableEq, Repr, Inhabited

/-- A `LOCAL` restore: its page, and what the partner sends of the tensors whose fronts are poisoned (12 R370, R382). -/
structure LocalRestore where
  page : Nat
  received : List PeerCopy := []
  deriving DecidableEq, Repr, Inhabited

/-- Ohmub's own exchanges on lane 1 (11 R334 CONTROL). The spec names them and gives no encoding: log entry 12. -/
inductive CtrlMsg where
  /-- A part's feed tag and the registered tensors of open jobs on it (12 R355, R356). -/
  | feedTag (tag : Nat) (force : Bool) (tensors : Nat)
  | feedAnswer (tag tensors : Nat)
  | unbind
  /-- Correlated pairs, other pairs and unpaired stations that the sender contributes to a job's sums (12 R373). -/
  | pairCounts (correlated other unpaired : Nat)
  /-- The partner has accepted the Journal record of a tally (12 R362). -/
  | journalAck (tally : BitVec 16)
  /-- Journal records of these tallies are lost (12 R362, 13 R400). -/
  | journalLoss (first last : BitVec 16)
  /-- A drain's last byte is acknowledged: its slot is the complete one (12 R364). -/
  | drainDone (handle slot step : Nat)
  /-- The owner drops its copies: one tensor's, or all of the job's (14 R418). -/
  | dropCopies (handle : Option Nat)
  /-- The last cost of a checkpoint on the part that sends it, in ns (12 R373). -/
  | checkpointCost (ns : Nat)
  /-- A slot, or the Journal record of a step, of a tensor is poisoned at the partner that holds it (12 R381). -/
  | copyPoisoned (handle : Nat) (slot : Option Nat) (step : Nat)
  /-- Registered tensors of open jobs on the part that sends it (12 R356). -/
  | tensors (count : Nat)
  deriving DecidableEq, Repr, Inhabited

/-- A stroke mark (09 R273). -/
structure Mark where
  stroke : Word64
  root : Nat
  hops : Nat
  periodUs : Nat
  nextUs : Nat
  changeIn : Nat
  xchPct : Nat
  nextXch : Nat
  holdover : Bool
  tally : BitVec 16
  deriving DecidableEq, Repr, Inhabited

/-- Kinds of flit (11 R317 `FKIND`). -/
inductive FlitKind where
  | data | ctrl | idle
  deriving DecidableEq, Repr, Inhabited

/-- What a link control flit carries (11 R319): a NAK, credit initialisation, training, a delay probe, link down. -/
inductive LinkCtrl where
  | none | nakFor (fseq : Nat) | credits | train | probe | down
  deriving DecidableEq, Repr, Inhabited

/-- A 256-byte flit of 11 R317; its payload's meaning is kept as the message it carries. -/
structure Flit where
  kind : FlitKind
  vl : Nat
  fseq : Nat
  fack : Nat
  som : Bool
  eom : Bool
  crVl : Nat
  crN : Nat
  ctrl : LinkCtrl
  hdr : MsgHdr
  payload : List Byte
  plen : Nat
  crc : Word32
  /-- The poison marks of its message: the bytes of the message's data that come from poisoned granules (11 R341), and what the message says of its
  source (11 R339). The flit's layout names no place for either; the first flit of a message carries them. -/
  marks : List Nat := []
  source : Option SendSource := none
  deriving DecidableEq, Repr, Inhabited

/-- What the code of a link says of a flit that arrives (11 R318): whether it overlaps an uncorrectable codeword, and the uncorrectable codewords
that have arrived since the flit before it, each counted once. -/
structure Fec where
  overlaps : Bool := false
  uncorr : Nat := 0
  deriving DecidableEq, Repr, Inhabited

/-- The two MCTP endpoints (15 R433). -/
inductive Transport where
  | i3c | sgmii
  deriving DecidableEq, Repr, Inhabited

/-- A signature as the Hub ROM's check sees it (15 R439): whether it verifies against the public key that the content carries, and that key's
SHA-384. -/
structure Signature where
  verifies : Bool
  key : BitVec 384
  deriving DecidableEq, Repr, Inhabited

/-- A fuse slot for the SHA-384 of a public key (15 R439). -/
structure KeySlot where
  digest : BitVec 384 := 0
  revoked : Bool := false
  deriving DecidableEq, Repr, Inhabited

/-- A firmware image with its package header (15 R439, R441): the header's bytes and its CRC-32, the image's SHA-384, and its two signatures. -/
structure FwImage where
  version : Word32
  svn : Nat
  digest : BitVec 384
  header : List Byte
  headerCrc : Word32
  ecdsa : Signature
  lms : Signature
  deriving DecidableEq, Repr, Inhabited

/-- A slice of a Pricking pack: its program and the CRC-32C signature that its results are to have (15 R442). -/
structure Slice where
  program : List Byte
  signature : Word32
  deriving DecidableEq, Repr, Inhabited

/-- A Pricking pack, signed as firmware is (15 R442). -/
structure PrickPack where
  version : Word32
  gradeMask : BitVec 3
  slices : List Slice
  digest : BitVec 384
  ecdsa : Signature
  lms : Signature
  deriving DecidableEq, Repr, Inhabited

/-- The IEEE 1149.1 instructions of 15 R448. -/
inductive JtagInstr where
  | bypass | idcode | samplePreload | extest | clamp | highz | other (code : Nat)
  deriving DecidableEq, Repr, Inhabited

/-- One reading of SENSOR_POLL (16 R471): sensors 0 to 55 in 0.125 °C; 57 input power in W; 58 coolant flow in 0.01 L/min. -/
structure Reading where
  sensor : Nat
  value : Int
  deriving DecidableEq, Repr, Inhabited

end Sys2Proof
end

