-- ==== Sys2Proof/Config.lean ====
section
/-! DEFINITION. What an implementation fixes and the free values: constants with no body, so that no proof can see them. -/

namespace Sys2Proof

/-- A free value: what the spec leaves undefined, drawn with the counter that State holds (log entry 2). -/
opaque Config.freeValue : Nat → BitVec 64

/-- Which of the results within the error bound of 06 R201 an approximate function gives, by opcode, width (BF16 when true) and operand:
each is a fixed function of its operand (log entry 4). -/
opaque Config.approxPick : Nat → Bool → Word32 → Nat

/-- For each execution of each instruction that the cost floor of a script counts: the instruction's place in the script and the elements it
works on, from the script's words, the elements of its slots and output, and its runs. The spec names the rates (06 R202) and not how often
an instruction is counted (log entry 18). -/
opaque Config.scriptCounted : List Word64 → List Nat → Nat → List (Nat × Nat)

/-- The part's own seed for shadow selection, drawn at power-on (12 R383). -/
opaque Config.shadowSeed : Word64

/-- Serial number, MAC address, the firmware image that the part is delivered with, and the digest of the ROM (14 IDENTIFY, 15 R435, R438). -/
opaque Config.serial : BitVec 128
opaque Config.macAddr : BitVec 48
opaque Config.romDigest : BitVec 384
opaque Config.factoryDigest : BitVec 384
opaque Config.factoryVersion : Word32
opaque Config.factorySvn : Nat
opaque Config.jep106 : BitVec 11
opaque Config.siliconVersion : BitVec 4

/-- What the registers of the PCIe configuration space hold at reset: PCIe gives them (14 R402). -/
opaque Config.cfgSpace : Nat → Word32

/-- The register of the configuration space that holds the Resizable BAR control of BAR4: PCIe leaves its place to the part (14 R404). -/
opaque Config.rbarRegister : Nat

/-- The partner of a failed station, which a spare binds itself to; the spec does not say how the spare learns it (12 R375). -/
opaque Config.partnerOf : Nat → Nat

/-- Results of the SPDM responder's cryptography (15 R437, R438): the spec names the algorithms, the model leaves their values
free (log entry 13). The Alias key signs, and its certificate is the chain's last: both follow from the SHA-384 of the running image. -/
opaque Config.spdmSignature : BitVec 384 → List Byte → List Byte
opaque Config.certificateChain : BitVec 384 → List Byte
opaque Config.spdmSecret : Word64 → Word64
opaque Config.sha384 : List Byte → List Byte

/-- The child index that a RED_UP of a collective and instance carries to a parent station: the sender's tree node does not hold it (11 R334, R342;
log entry 20). -/
opaque Config.childIndex : Nat → Nat → Nat → BitVec 6

/-- Payload of a link control flit: the spec names what it carries and gives no encoding (11 R319; log entry 12). -/
opaque Config.ctrlPayload : LinkCtrl → List Byte

/-- The physical positions of an M8S panel's 16 fused nibs differ from part to part (00_scope R2, 08 R259). -/
opaque Config.fusedNibs : Nat → List Nat

/-- The 16 fused nibs of an M8S's panel: the first 16 different positions that the free list gives, filled up in ascending order. -/
def Config.fused (p : Nat) : List Nat := ((Config.fusedNibs p).filter (· < 160) ++ List.range 160).eraseDups.take 16

/-- The grade of the modelled part: the figures that name no grade are the M8F's (00_scope R1; log entry 5). -/
def Config.grade : Grade := .m8f

/-- Spare rows of each bank group at manufacture (10 R307 step 2 reads them from the stack; log entry 5). -/
def Config.spareRows : Nat := 4

end Sys2Proof
end

