-- ==== Sys2Proof/Syntax.lean ====
section
/-! DEFINITION. The commands: one constructor for each row of spec/opcode_table.json, in the table's order. A stitch is named by its
stitch ID (08 R235), a run of a `VSCRIPT` by the stitch and the run number (06 R179), a mailbox command by the page that rang. -/

namespace Sys2Proof

/-- The rows of spec/opcode_table.json. -/
inductive Instr where
  /-- STITCH_ADMIT (R248). -/
  | stitchAdmit (queue : Nat)
  /-- NOP (R232). -/
  | nop (sid : Sid)
  /-- COMMIT (R171). -/
  | commit (sid : Sid)
  /-- MATMUL (R78). -/
  | matmul (sid : Sid)
  /-- GATHER_MM (R105). -/
  | gatherMm (sid : Sid)
  /-- ROUTE (R104). -/
  | route (sid : Sid)
  /-- CONVERT (R74). -/
  | convert (sid : Sid)
  /-- DERIV (R157). -/
  | deriv (sid : Sid)
  /-- UPDATE (R165). -/
  | update (sid : Sid)
  /-- VSCRIPT (R179). -/
  | vscript (sid : Sid)
  /-- VSCRIPT_RUN_START (R180). -/
  | vscriptRunStart (sid : Sid) (run : Nat)
  /-- COPY (R217). -/
  | copy (sid : Sid)
  /-- FETCH (R255). -/
  | fetch (sid : Sid)
  /-- GATHER (R224). -/
  | gather (sid : Sid)
  /-- SCATTER (R226). -/
  | scatter (sid : Sid)
  /-- STASH_FREE (R148). -/
  | stashFree (sid : Sid)
  /-- REDUCE (R342). -/
  | reduce (sid : Sid)
  /-- MULTICAST (R348). -/
  | multicast (sid : Sid)
  /-- SEND (R339). -/
  | send (sid : Sid)
  /-- CHECK (R393). -/
  | check (sid : Sid)
  /-- GROUND_INJECT (R352). -/
  | groundInject (sid : Sid)
  /-- STITCH_COMPLETE (R256). -/
  | stitchComplete (sid : Sid) (elapsed : Nat)
  /-- WATCH_RESPONSE (R114). -/
  | watchResponse (sid : Sid)
  /-- STITCH_GROUP_REPLAY (R117). -/
  | stitchGroupReplay (sid : Sid)
  /-- STITCH_GROUP_REPLAY_DONE (R117). -/
  | stitchGroupReplayDone (sid : Sid)
  /-- STEP_REPLAY (R118). -/
  | stepReplay (job : Nat)
  /-- COMMIT_VOTE_SEND (R363). -/
  | commitVoteSend (job : Nat)
  /-- COMMIT_VOTE_RESULT (R172). -/
  | commitVoteResult (job : Nat) (vote : Vote)
  /-- MIRROR_DRAIN_COMPLETE (R364). -/
  | mirrorDrainComplete (job handle : Nat)
  /-- STASH_MOVE_COMPLETE (R149). -/
  | stashMoveComplete (job handle : Nat)
  /-- STASH_RECALL_COMPLETE (R150). -/
  | stashRecallComplete (job handle : Nat)
  /-- STASH_RECOMPUTE (R152). -/
  | stashRecompute (sid : Sid)
  /-- TILE_QUEUE_PUSH (R192). -/
  | tileQueuePush (sid : Sid) (position : Nat)
  /-- SETVL (R184). -/
  | setvl (sid : Sid) (run : Nat)
  /-- JMP (R183). -/
  | jmp (sid : Sid) (run : Nat)
  /-- BZVL (R184). -/
  | bzvl (sid : Sid) (run : Nat)
  /-- BTQE (R192). -/
  | btqe (sid : Sid) (run : Nat)
  /-- CURRUN (R183). -/
  | currun (sid : Sid) (run : Nat)
  /-- END (R181). -/
  | endRun (sid : Sid) (run : Nat)
  /-- SETRM (R200). -/
  | setrm (sid : Sid) (run : Nat)
  /-- VLD (R185). -/
  | vld (sid : Sid) (run : Nat)
  /-- VST (R185). -/
  | vst (sid : Sid) (run : Nat)
  /-- VGATH (R186). -/
  | vgath (sid : Sid) (run : Nat)
  /-- VSCAT (R186). -/
  | vscat (sid : Sid) (run : Nat)
  /-- TQPOP (R192). -/
  | tqpop (sid : Sid) (run : Nat)
  /-- VLDT (R185). -/
  | vldt (sid : Sid) (run : Nat)
  /-- VSTT (R185). -/
  | vstt (sid : Sid) (run : Nat)
  /-- VMOVI (R182). -/
  | vmovi (sid : Sid) (run : Nat)
  /-- VADD (R199). -/
  | vadd (sid : Sid) (run : Nat)
  /-- VSUB (R199). -/
  | vsub (sid : Sid) (run : Nat)
  /-- VMUL (R199). -/
  | vmul (sid : Sid) (run : Nat)
  /-- VFMA (R199). -/
  | vfma (sid : Sid) (run : Nat)
  /-- VFNMA (R199). -/
  | vfnma (sid : Sid) (run : Nat)
  /-- VDIV (R199). -/
  | vdiv (sid : Sid) (run : Nat)
  /-- VSQRT (R199). -/
  | vsqrt (sid : Sid) (run : Nat)
  /-- VMIN (R190). -/
  | vmin (sid : Sid) (run : Nat)
  /-- VMAX (R190). -/
  | vmax (sid : Sid) (run : Nat)
  /-- VABS (R183). -/
  | vabs (sid : Sid) (run : Nat)
  /-- VNEG (R183). -/
  | vneg (sid : Sid) (run : Nat)
  /-- VCVT (R199). -/
  | vcvt (sid : Sid) (run : Nat)
  /-- VRNDI (R199). -/
  | vrndi (sid : Sid) (run : Nat)
  /-- VAND (R183). -/
  | vand (sid : Sid) (run : Nat)
  /-- VOR (R183). -/
  | vor (sid : Sid) (run : Nat)
  /-- VXOR (R183). -/
  | vxor (sid : Sid) (run : Nat)
  /-- VSHL (R183). -/
  | vshl (sid : Sid) (run : Nat)
  /-- VSHR (R183). -/
  | vshr (sid : Sid) (run : Nat)
  /-- VEXP2 (R201). -/
  | vexp2 (sid : Sid) (run : Nat)
  /-- VLOG2 (R201). -/
  | vlog2 (sid : Sid) (run : Nat)
  /-- VRCP (R201). -/
  | vrcp (sid : Sid) (run : Nat)
  /-- VRSQ (R201). -/
  | vrsq (sid : Sid) (run : Nat)
  /-- VTANH (R201). -/
  | vtanh (sid : Sid) (run : Nat)
  /-- VCMP (R183). -/
  | vcmp (sid : Sid) (run : Nat)
  /-- MAND (R183). -/
  | mand (sid : Sid) (run : Nat)
  /-- MOR (R183). -/
  | mor (sid : Sid) (run : Nat)
  /-- MNOT (R183). -/
  | mnot (sid : Sid) (run : Nat)
  /-- VSEL (R184). -/
  | vsel (sid : Sid) (run : Nat)
  /-- RSUM (R195). -/
  | rsum (sid : Sid) (run : Nat)
  /-- RSSQ (R195). -/
  | rssq (sid : Sid) (run : Nat)
  /-- RMAX (R195). -/
  | rmax (sid : Sid) (run : Nat)
  /-- RMIN (R195). -/
  | rmin (sid : Sid) (run : Nat)
  /-- RAMAX (R195). -/
  | ramax (sid : Sid) (run : Nat)
  /-- RGET (R183). -/
  | rget (sid : Sid) (run : Nat)
  /-- RBCAST (R183). -/
  | rbcast (sid : Sid) (run : Nat)
  /-- RSET (R183). -/
  | rset (sid : Sid) (run : Nat)
  /-- VE_INSTRUCTION_LIMIT (R181). -/
  | veInstructionLimit (sid : Sid) (run : Nat)
  /-- STROKE_EDGE (R261). -/
  | strokeEdge
  /-- STROKE_MARK_RECEIVE (R275). -/
  | strokeMarkReceive (port : Nat) (mark : Mark) (crc : Word32) (arrival : Nat)
  /-- STROKE_MARK_MISSED (R278). -/
  | strokeMarkMissed (port : Nat)
  /-- HOLDOVER_TIMEOUT (R279). -/
  | holdoverTimeout
  /-- STROKE_REF_EDGE (R459). -/
  | strokeRefEdge (time : Nat)
  /-- STROKE_REF_MISSING (R459). -/
  | strokeRefMissing
  /-- FLIT_SEND (R321). -/
  | flitSend (port : Nat)
  /-- FLIT_RECEIVE (R318). -/
  | flitReceive (port : Nat) (flit : Flit) (fec : Fec)
  /-- NAK (R319). -/
  | nak (port fseq : Nat)
  /-- FLIT_STALL_TIMEOUT (R330). -/
  | flitStallTimeout (port lane : Nat)
  /-- PORT_TRAIN_START (R323). -/
  | portTrainStart (port : Nat)
  /-- PORT_TRAIN_COMPLETE (R323). -/
  | portTrainComplete (port peerStation peerPort delayNs : Nat)
  /-- PORT_TRAIN_TIMEOUT (R323). -/
  | portTrainTimeout (port : Nat)
  /-- RETRAIN (R324). -/
  | retrain (port : Nat)
  /-- RETRAIN_COMPLETE (R324). -/
  | retrainComplete (port : Nat) (hello : Hello) (ok : Bool)
  /-- LINK_DOWN_FLIT (R325). -/
  | linkDownFlit (port : Nat)
  /-- PORT_RETRY_TIMER (R326). -/
  | portRetryTimer (port : Nat)
  /-- MESSAGE_FORWARD (R329). -/
  | messageForward (hdr : MsgHdr) (data : List Byte)
  /-- WRITE (R341). -/
  | write (hdr : MsgHdr) (source : SendSource) (data : List Byte) (marks : List Nat)
  /-- WRITE_END (R341). -/
  | writeEnd (hdr : MsgHdr)
  /-- ACK (R336). -/
  | ack (hdr : MsgHdr)
  /-- NACK (R340). -/
  | nack (hdr : MsgHdr)
  /-- UNREACH (R337). -/
  | unreach (hdr : MsgHdr)
  /-- RED_UP (R344). -/
  | redUp (hdr : MsgHdr) (data : List Byte) (poisoned : Bool)
  /-- RED_DOWN (R346). -/
  | redDown (hdr : MsgHdr) (body : DownBody) (marks : List Nat)
  /-- HALT_NOTICE (R338). -/
  | haltNotice (hdr : MsgHdr)
  /-- STEP_REPLAY_REQUEST (R127). -/
  | stepReplayRequest (hdr : MsgHdr)
  /-- ALIAS_MESSAGE (R332). -/
  | aliasMessage (hdr : MsgHdr) (fromStation toStation : Nat)
  /-- CONTROL (R334). -/
  | control (hdr : MsgHdr) (msg : CtrlMsg)
  /-- MGMT (R334). -/
  | mgmt (hdr : MsgHdr) (data : List Byte)
  /-- MIRROR (R364). -/
  | mirror (hdr : MsgHdr) (data : List Byte) (poisoned : Bool)
  /-- JOURNAL (R362). -/
  | journal (hdr : MsgHdr) (data : List Byte) (poisoned : Bool)
  /-- TRANSACTION_TIMEOUT (R337). -/
  | transactionTimeout (die tag : Nat)
  /-- HELD_MESSAGE_TIMEOUT (R335). -/
  | heldMessageTimeout (position : Nat)
  /-- JOURNAL_GAP_TIMEOUT (R400). -/
  | journalGapTimeout
  /-- WCB_WRITE (R295). -/
  | wcbWrite (piece : Piece) (sid : Sid) (outcome : ReadOutcome)
  /-- WCB_HOLD_TIMEOUT (R296). -/
  | wcbHoldTimeout (held : HeldGranule)
  /-- HBM_GRANULE_READ (R301). -/
  | hbmGranuleRead (granule : Nat) (found : Found) (reader : Reader)
  /-- REQUEST_PROMOTE (R284). -/
  | requestPromote (granule since : Nat)
  /-- SCRUB_READ (R306). -/
  | scrubRead (found : Found)
  /-- ZEROISE_COMPLETE (R447). -/
  | zeroiseComplete (batch : Nat)
  /-- UNMAP_TAKE_EFFECT (R294). -/
  | unmapTakeEffect (job window : Nat)
  /-- NV_WRITE_RETRY (R465). -/
  | nvWriteRetry
  /-- SHADOW_COMPLETE (R384). -/
  | shadowComplete (sid : Sid) (crcs : List (Word32 × Word32))
  /-- THIRD_EXEC_COMPLETE (R385). -/
  | thirdExecComplete (sid : Sid) (share : Nat) (crc : Word32) (majority : ShareResult)
  /-- LOSER_REPEAT_COMPLETE (R386). -/
  | loserRepeatComplete (sid : Sid) (share : Nat) (crc : Word32)
  /-- NIB_RETIRE_COMPLETE (R387). -/
  | nibRetireComplete (panel nib : Nat)
  /-- SELFTEST_SLICE_END (R445). -/
  | selftestSliceEnd (panel nib : Nat) (crc : Word32)
  /-- CHECKPOINT_DUE (R373). -/
  | checkpointDue (job : Nat)
  /-- LONG_OPERATION_END (R427). -/
  | longOperationEnd (kind subject : Nat) (done : Option (List PeerCopy))
  /-- DB_TAIL (R247). -/
  | dbTail (job : Nat) (value : Word64)
  /-- Q_RESUME_RETRY (R250). -/
  | qResumeRetry (job : Nat) (value : Word64)
  /-- Q_RESUME_SKIP (R250). -/
  | qResumeSkip (job : Nat) (value : Word64)
  /-- PIN_ADD (R240). -/
  | pinAdd (job : Nat) (value : Word64)
  /-- REGISTER_WRITE (R11). -/
  | registerWrite (bar offset : Nat) (data : List Byte)
  /-- BAR4_READ (R405). -/
  | bar4Read (offset len : Nat)
  /-- BAR4_WRITE (R405). -/
  | bar4Write (offset : Nat) (data : List Byte) (ep : Bool)
  /-- IDENTIFY (R420). -/
  | identify (page : Nat)
  /-- READ_FEATURES (R420). -/
  | readFeatures (page : Nat)
  /-- JOB_OPEN (R416). -/
  | jobOpen (page : Nat)
  /-- JOB_CLOSE (R418). -/
  | jobClose (page : Nat)
  /-- JOB_RESET (R417). -/
  | jobReset (page : Nat)
  /-- MAP_WINDOW (R292). -/
  | mapWindow (page : Nat)
  /-- UNMAP_WINDOW (R294). -/
  | unmapWindow (page : Nat)
  /-- QUEUE_CREATE (R243). -/
  | queueCreate (page : Nat)
  /-- QUEUE_DESTROY (R423). -/
  | queueDestroy (page : Nat)
  /-- HANDLE_TABLE_SET (R423). -/
  | handleTableSet (page : Nat)
  /-- STROKE_SET_PART (R265). -/
  | strokeSetPart (page : Nat)
  /-- STROKE_SET_JOB (R264). -/
  | strokeSetJob (page : Nat)
  /-- WATCH_SET (R108). -/
  | watchSet (page : Nat)
  /-- LADDER_SET_LEVELS (R124). -/
  | ladderSetLevels (page : Nat)
  /-- LADDER_SET_MAP (R125). -/
  | ladderSetMap (page : Nat)
  /-- LADDER_SET_CLEAR (R125). -/
  | ladderSetClear (page : Nat)
  /-- STASH_POLICY (R143). -/
  | stashPolicy (page : Nat)
  /-- PAIR_BIND (R354). -/
  | pairBind (page : Nat)
  /-- PAIR_UNBIND (R356). -/
  | pairUnbind (page : Nat)
  /-- PROTECT_REGISTER (R358). -/
  | protectRegister (page : Nat)
  /-- PROTECT_UNREGISTER (R358). -/
  | protectUnregister (page : Nat)
  /-- PROTECT_SETTINGS (R358). -/
  | protectSettings (page : Nat)
  /-- CHECKPOINT_SNAPSHOT (R372). -/
  | checkpointSnapshot (page : Nat)
  /-- CHECKPOINT_STORED (R372). -/
  | checkpointStored (page : Nat)
  /-- RESTORE_QUERY (R369). -/
  | restoreQuery (page : Nat)
  /-- RESTORE_LOCAL (R370). -/
  | restoreLocal (restore : LocalRestore)
  /-- RESTORE_PARTNER (R371). -/
  | restorePartner (page : Nat)
  /-- RESTORE_IMAGE (R369). -/
  | restoreImage (page : Nat)
  /-- STATION_SET (R328). -/
  | stationSet (page : Nat)
  /-- ROUTE_LOAD (R331). -/
  | routeLoad (page : Nat)
  /-- SPARE_ASSUME (R375). -/
  | spareAssume (page : Nat)
  /-- PROGRESS_QUERY (R427). -/
  | progressQuery (page : Nat)
  /-- PRICKING_LOAD (R442). -/
  | prickingLoad (page : Nat) (pack : PrickPack)
  /-- POWER_STATE_ENTER (R479). -/
  | powerStateEnter (page : Nat)
  /-- DROWSE_ENTRY (R479). -/
  | drowseEntry (page : Nat)
  /-- POWER_STATE_PRESERVE (R476). -/
  | powerStatePreserve (page : Nat)
  /-- POWER_STATE_RESTART (R475). -/
  | powerStateRestart (page : Nat)
  /-- FW_UPDATE_STAGE (R441). -/
  | fwUpdateStage (page : Nat) (image : FwImage)
  /-- FW_UPDATE_ACTIVATE (R441). -/
  | fwUpdateActivate (page : Nat)
  /-- FW_UPDATE_DISCARD (R424). -/
  | fwUpdateDiscard (page : Nat)
  /-- RETURN_PREPARE (R450). -/
  | returnPrepare (page : Nat)
  /-- HBM_REPAIR_QUERY (R424). -/
  | hbmRepairQuery (page : Nat)
  /-- HBM_REPAIR_SOFT (R308). -/
  | hbmRepairSoft (page : Nat)
  /-- HBM_REPAIR_HARD (R308). -/
  | hbmRepairHard (page : Nat)
  /-- HBM_REPAIR_HARD_LOGGED (R308). -/
  | hbmRepairHardLogged (page : Nat)
  /-- HUB_FAILOVER (R415). -/
  | hubFailover
  /-- HEALTH_RESEND (R432). -/
  | healthResend
  /-- HEALTH_ACK (R432). -/
  | healthAck (hseq : Nat)
  /-- GET_TID (R434). -/
  | getTid (via : Transport)
  /-- GET_PLDM_VERSION (R434). -/
  | getPldmVersion (via : Transport) (pldmType : Nat)
  /-- GET_PLDM_TYPES (R434). -/
  | getPldmTypes (via : Transport)
  /-- GET_PLDM_COMMANDS (R434). -/
  | getPldmCommands (via : Transport) (pldmType : Nat)
  /-- SET_EVENT_RECEIVER (R432). -/
  | setEventReceiver (via : Transport) (session : Option Nat) (eid : Nat)
  /-- GET_SENSOR_READING (R434). -/
  | getSensorReading (via : Transport) (sensorId : Nat)
  /-- REQUEST_UPDATE (R441). -/
  | requestUpdate (via : Transport) (session : Option Nat) (component : Nat)
  /-- ACTIVATE_FIRMWARE (R441). -/
  | activateFirmware (via : Transport) (session : Option Nat)
  /-- PLDM_FW_TRANSFER (R441). -/
  | pldmFwTransfer (via : Transport) (session : Option Nat) (data : List Byte) (image : Option FwImage) (pack : Option PrickPack)
  /-- MGMT_READ (R435). -/
  | mgmtRead (via : Transport) (addr count : Nat)
  /-- MGMT_WRITE (R435). -/
  | mgmtWrite (via : Transport) (session : Option Nat) (addr : Nat) (words : List Word64)
  /-- PLDM_UNSUPPORTED (R434). -/
  | pldmUnsupported (via : Transport) (pldmType code : Nat)
  /-- GET_VERSION (R437). -/
  | getVersion (via : Transport)
  /-- GET_CAPABILITIES (R437). -/
  | getCapabilities (via : Transport)
  /-- NEGOTIATE_ALGORITHMS (R437). -/
  | negotiateAlgorithms (via : Transport) (offersSet : Bool)
  /-- GET_DIGESTS (R437). -/
  | getDigests (via : Transport)
  /-- GET_CERTIFICATE (R437). -/
  | getCertificate (via : Transport) (slot offset len : Nat)
  /-- CHALLENGE (R437). -/
  | challenge (via : Transport) (slot : Nat) (nonce : List Byte)
  /-- GET_MEASUREMENTS (R438). -/
  | getMeasurements (via : Transport) (index : Nat) (nonce : List Byte)
  /-- KEY_EXCHANGE (R437). -/
  | keyExchange (via : Transport) (reqSession : Nat) (exchange : Word64)
  /-- FINISH (R437). -/
  | finish (via : Transport) (session : Nat) (hmacOk : Bool)
  /-- END_SESSION (R437). -/
  | endSession (via : Transport) (session : Nat)
  /-- HEARTBEAT (R437). -/
  | heartbeat (via : Transport) (session : Nat)
  /-- POWER_ON_RESET (R460). -/
  | powerOnReset
  /-- STRAP_LATCH (R457). -/
  | strapLatch (slotId feedTag : Nat)
  /-- PWR_EN_RISE (R461). -/
  | pwrEnRise (inputMv : Nat)
  /-- PWR_GOOD_RELEASE (R461). -/
  | pwrGoodRelease
  /-- BRING_UP_COMPLETE (R412). -/
  | bringUpComplete
  /-- PWR_EN_FALL (R462). -/
  | pwrEnFall
  /-- PERST_N_RESET (R475). -/
  | perstNReset
  /-- OHMUB_WARM_RESTART (R476). -/
  | ohmubWarmRestart
  /-- HUB_WATCHDOG (R475). -/
  | hubWatchdog
  /-- UV_WARN (R464). -/
  | uvWarn (inputMv : Nat)
  /-- SAG (R466). -/
  | sag (lowUs minMv : Nat)
  /-- NV_STOP (R463). -/
  | nvStop
  /-- NV_STOP_CLEAR (R463). -/
  | nvStopClear
  /-- UV_RESET (R467). -/
  | uvReset
  /-- OV_STOP (R468). -/
  | ovStop (maxMv : Nat)
  /-- PAIR_IMBALANCE (R452). -/
  | pairImbalance (low : Nat)
  /-- POWER_LIMIT (R469). -/
  | powerLimit
  /-- POWER_LIMIT_CLEAR (R469). -/
  | powerLimitClear
  /-- SENSOR_POLL (R471). -/
  | sensorPoll (readings : List Reading)
  /-- THERMAL_TRIP (R472). -/
  | thermalTrip (reading : Reading)
  /-- LEAK_DETECT (R473). -/
  | leakDetect
  /-- PANEL_RESET (R477). -/
  | panelReset (panel : Nat)
  /-- PANEL_HEARTBEAT_TIMEOUT (R477). -/
  | panelHeartbeatTimeout (panel : Nat)
  /-- MB_RING (R409). -/
  | mbRing (page : Nat)
  /-- SNAPSHOT_COMPLETE (R372). -/
  | snapshotComplete (job : Nat)
  /-- ATOMICOP_REQUEST (R299). -/
  | atomicopRequest (offset : Nat)
  /-- CONFIGURATION_REQUEST (R461). -/
  | configurationRequest (isWrite : Bool) (register : Nat) (value : Word32)
  /-- ENTDAA (R433). -/
  | entdaa (address : Nat)
  /-- JTAG_INSTRUCTION (R448). -/
  | jtagInstruction (code : JtagInstr)
  /-- PAIR_IMBALANCE_CLEAR (R452). -/
  | pairImbalanceClear
  /-- OPERATING_RANGE_ENTRY (R461). -/
  | operatingRangeEntry (inputMv : Nat)
  deriving DecidableEq, Repr, Inhabited

end Sys2Proof
end

