-- ==== Sys2Proof/Machine/State.lean ====
section
/-! DEFINITION. The state of the part: everything the spec gives it, as plain data, and the state after a power-on reset. Tables keyed
by a number (memory, pins, ports, jobs, queues) are lists of (key, value) pairs with rising keys; an unlisted key reads as the default
that the table's reader names. Times are nanoseconds of the part's timebase. -/

namespace Sys2Proof.Machine

/-- Where a step stops with a fault. -/
inductive Fault where
  /-- Raised by the controller rows WCB_WRITE, HBM_GRANULE_READ and REQUEST_PROMOTE for an address that 10 R289 gives no memory: safe. -/
  | addressHole (addr : Nat)
  deriving DecidableEq, Repr, Inhabited

/-- Where a step refuses. -/
inductive Refusal where
  /-- Raised by an arm of exec whose meaning is not written: safe. -/
  | notModelled (mnemonic : String)
  /-- Raised by JTAG_INSTRUCTION in the return state for a code outside the public instructions, whose effect 15 R448 and R450 leave to
  the vendor's own test modes: safe. -/
  | vendorTestMode (code : Nat)
  deriving DecidableEq, Repr, Inhabited

/-- A table keyed by a number, keys strictly rising. -/
abbrev Tbl (α : Type) := List (Nat × α)

/-- An element's value: a signed magnitude (the sign of a zero kept), an infinity or a NaN. -/
inductive Num where
  | fin (neg : Bool) (mag : Rat)
  | inf (neg : Bool)
  | nan
  deriving DecidableEq, Repr, Inhabited

/-- A tensor descriptor as read at admission (07 R205). -/
structure Desc where
  handle : Nat := 0
  twSeed : Nat := 0
  twDim : Nat := 0
  twSize : Nat := 0
  base : Nat := 0
  sizes : List Nat := [0, 0, 0, 0, 0]
  strides : List Int := [0, 0, 0, 0, 0]
  scOff : Nat := 0
  zpOff : Nat := 0
  gpOff : Nat := 0
  tag : Nat := 0
  rank : Nat := 0
  bdim1 : Nat := 0
  bdim0 : Nat := 0
  shape : Nat := 0
  type : Nat := 0
  stash : Bool := false
  readOnly : Bool := false
  frozen : Bool := false
  rsv : Bool := false
  deriving DecidableEq, Repr, Inhabited

/-- A named tensor with the side tensors reached from it (07 R207). -/
structure Operand where
  desc : Desc := {}
  scale : Option Desc := none
  zero : Option Desc := none
  gimp : Option Desc := none
  l1 : Option Desc := none
  amax : Option Desc := none
  deriving DecidableEq, Repr, Inhabited

/-- The unit where an event arose (15 R429); nib 0xFF when it is no nib, and the stack or the Selvedge die where it is one of those. -/
structure UnitRef where
  engine : Nat := 0
  panel : Nat := 0
  nib : Nat := 0xFF
  stack : Nat := 0
  deriving DecidableEq, Repr, Inhabited

/-- A stitch's fields (08 R229). -/
structure Stitch where
  opcode : Nat := 0
  compat : Nat := 0
  pass : Nat := 0
  mb : Nat := 0
  passes : Nat := 0
  passOpnd : Nat := 0
  sparse : Nat := 0
  round : Bool := false
  scaleSrc : Bool := false
  twist : Bool := false
  strict : Bool := false
  rm : Nat := 0
  gradAcc : Bool := false
  tileq : Bool := false
  notify : Bool := false
  repSrc : Bool := false
  crEn : Bool := false
  group : Nat := 0
  nset : Nat := 0
  cost : Nat := 0
  opnd : List Nat := [0, 0, 0, 0]
  out : Nat := 0
  shapeCtl : Nat := 0
  rep : Nat := 0
  repHandle : Nat := 0
  waits : List Nat := [0, 0, 0, 0]
  signal : Nat := 0
  crecAddr : Nat := 0
  aux : Nat := 0
  user : Word64 := 0
  rsv : Bool := false
  deriving DecidableEq, Repr, Inhabited

/-- Where an admitted stitch stands. -/
inductive Stage where
  /-- Admitted, not started. -/
  | waiting
  /-- Started: a `VSCRIPT` with runs left, a Ground stitch with messages out, a chained product. -/
  | running
  /-- Its work is done and it has not been evaluated. -/
  | finished
  /-- Held under 04 R111 and awaiting Ohmub's response. -/
  | held
  /-- Re-admitted by a stitch-group replay (04 R117). -/
  | replaying
  /-- Replayed, not yet evaluated again. -/
  | replayed
  /-- Held until the step replay that Ohmub has requested. -/
  | stepReplay
  /-- Held until its shadow comparison ends (12 R384). -/
  | comparing
  deriving DecidableEq, Repr, Inhabited

/-- A 16 × 32 tile of FP32 readouts with its tag (06 R192). -/
structure Tile where
  batch : Nat := 0
  row : Nat := 0
  col : Nat := 0
  /-- Rows and columns of it within the product's sizes. -/
  rows : Nat := 0
  cols : Nat := 0
  data : List Word32 := []
  /-- Positions whose readout depends on poison (03 R96). -/
  bad : List Nat := []
  deriving DecidableEq, Repr, Inhabited

/-- One nib's side of a chained product: tiles computed and not yet pushed, and the tile queue of eight (06 R192). -/
structure NibTiles where
  stream : List Tile := []
  queue : List Tile := []
  deriving DecidableEq, Repr, Inhabited

/-- The response and outcome marks that decide a completion's status (04 R120). -/
structure Marks where
  poisoned : Bool := false
  aborted : Bool := false
  escalated : Bool := false
  replayed : Bool := false
  flagged : Bool := false
  mismatch : Bool := false
  replayRound : Bool := false
  /-- A step replay began while it ran: its status is discarded, it neither signals nor records (04 R118). -/
  discarded : Bool := false
  /-- Its job halted or was reset while it ran: it records and does not signal (12 R379, 14 R417). -/
  mute : Bool := false
  /-- Ohmub has decided a stitch-group replay and has not started it (04 R114). -/
  toReplay : Bool := false
  /-- Condition named by its `ESCALATE` record. -/
  escCond : Nat := 0
  /-- Measurement of that condition. -/
  escValue : Nat := 0
  /-- Its end halts the job (04 R118, R119, 05 R164). -/
  halts : Bool := false
  /-- Admission status of a receiver's refusal (11 R340). -/
  admitStatus : Nat := 0
  /-- Its ring slot was released by a job reset before it completed (14 R417). -/
  freed : Bool := false
  deriving DecidableEq, Repr, Inhabited

/-- A stitch that has been admitted and has not completed. -/
structure Active where
  sid : Sid := 0
  job : Nat := 0
  queue : Nat := 0
  seq : Nat := 0
  st : Stitch := {}
  opnds : List (Option Operand) := []
  out : Option Operand := none
  rep : Option Operand := none
  count : Nat := 0
  level : Nat := 0
  /-- The handle table and ladder map that its checks ran under, by `Job.tables`. -/
  tables : Nat := 0
  cost : Nat := 0
  plannedNs : Nat := 0
  plannedStroke : Option Nat := none
  admitStroke : Nat := 0
  nibs : List (Nat × Nat) := []
  stage : Stage := .waiting
  started : Option Nat := none
  /-- Nibs on which one of its shares has taken a bobbin and started (09 R280). -/
  held : List (Nat × Nat) := []
  counts : Counts := {}
  marks : Marks := {}
  /-- Watch conditions raised and not yet answered (04 R108), with their measurements. -/
  conds : List (Nat × Nat) := []
  /-- Conditions its first execution raised (04 R117). -/
  firstConds : List Nat := []
  /-- The RU's amax for each index of the output's level-1 tensor (06 R196). -/
  amax : List Rat := []
  /-- Contributions of a `GRAD_ACC` execution, so that a replay can withdraw them (05 R136). -/
  contrib : List Int := []
  /-- The contributions overflowed and are not in the accumulator (05 R139). -/
  contribOut : Bool := false
  script : List Word64 := []
  runsLeft : Nat := 0
  tiles : Tbl NibTiles := []
  /-- The last message of a Ground stitch has been sent (11 R341, R347). -/
  allSent : Bool := false
  injected : Bool := false
  firstSlotNs : Nat := 0
  shadow : Bool := false
  /-- Where it goes on after a comparison that a retirement has called for (12 R387). -/
  resume : Option Stage := none
  recompute : Bool := false
  deriving DecidableEq, Repr, Inhabited

/-- A value that a run has stored to the output and that is not yet applied (06 R179): a code of a wide type or a value for the QU. -/
inductive OutVal where
  | code (c : Nat)
  | num (x : Num)
  deriving DecidableEq, Repr, Inhabited

/-- Where a run of a `VSCRIPT` stands (06 R180, R181). -/
inductive RunState where
  | waiting | running | ended
  | faulted (code pc : Nat)
  deriving DecidableEq, Repr, Inhabited

/-- One run: its register area, cursors and length (06 R180). Registers are tables of 32-bit words keyed by register × 4,096 + word,
zero words unlisted; masks are the set bits, keyed by mask × 4,096 + element. -/
structure Run where
  sid : Sid := 0
  index : Nat := 0
  panel : Nat := 0
  nib : Nat := 0
  state : RunState := .waiting
  pc : Nat := 0
  executed : Nat := 0
  vl : Nat := 0
  rm : Nat := 0
  cursors : List Nat := [0, 0, 0, 0]
  vec : Tbl Word32 := []
  masks : List Nat := []
  acc : Tbl Word64 := []
  /-- Half words, mask bits and accumulators whose value depends on poison (01 R27). -/
  badVec : List Nat := []
  badMask : List Nat := []
  badAcc : List Nat := []
  tile : Option Tile := none
  /-- A `BTQE` of the run has found its tile stream at the end (06 R191). -/
  sawEnd : Bool := false
  flags : BitVec 8 := 0
  malformed : Nat := 0
  /-- Non-finite elements its loads passed to the Twist unit (02 R77). -/
  nonfinite : Nat := 0
  poisoned : Bool := false
  /-- Output writes, oldest first: linear index, value, and whether it depends on poison. -/
  writes : List (Nat × OutVal × Bool) := []
  deriving DecidableEq, Repr, Inhabited

/-- The watch settings of a job (04 R108 and the table Error-control settings, 05 R138). -/
structure Watch where
  clipRate : Nat := 256
  gimpRate : Nat := 64
  s8Limit : Nat := 0
  cancelLimit : Nat := 0
  normJump : Word32 := 0x41000000
  normWarmup : Nat := 8
  window : Nat := 16
  cleanSteps : Nat := 1000
  stepReplayMax : Nat := 2
  accHeadroom : Nat := 4
  nrBase : Nat := 0
  nrDepth : Nat := 0
  deriving DecidableEq, Repr, Inhabited

/-- The norm sums of one `UPDATE`, FP64 patterns (04 R129, 05 R166). -/
structure Norms where
  gSq : Word64 := 0
  wSq : Word64 := 0
  uSq : Word64 := 0
  elems : Nat := 0
  nzSteps : Nat := 0
  eta : Word32 := 0
  ownerRan : Bool := false
  repSq : Word64 := 0
  repElems : Nat := 0
  replicaRan : Bool := false
  deriving DecidableEq, Repr, Inhabited

/-- One layer tag of a job (04 R109, R121 to R124, 05 R166). -/
structure TagState where
  level : Nat := 0
  pendingLevel : Option Nat := none
  /-- Condition of the climb that waits; a change that the host made sends no record. -/
  pendingCond : Nat := 0
  pendingQuiet : Bool := false
  floor : Nat := 0
  ceil : Nat := 3
  clean : Nat := 0
  /-- Steps committed since job start or the last step replay (04 R109). -/
  warm : Nat := 0
  /-- Last occurrence of each condition: (condition, step). -/
  history : List (Nat × Nat) := []
  /-- √U_SQ / η of the last 32 committed steps, newest first. -/
  ratios : List Word64 := []
  ran : Bool := false
  occur : BitVec 6 := 0
  /-- Sums of the step by the `UPDATE` that formed them, in order of their first execution. -/
  norms : List (Sid × Norms) := []
  /-- The tag raised update-norm jump in this execution of the step (04 R109). -/
  jumped : Bool := false
  rOwner : Word64 := 0
  rReplica : Word64 := 0
  deriving DecidableEq, Repr, Inhabited

/-- An entry of the ladder map (04 R125). -/
structure MapEntry where
  baseH : Nat := 0
  l1 : Nat := 0
  l2 : Nat := 0
  l3 : Nat := 0
  res : Nat := 0
  tag : Nat := 0
  role : Nat := 0
  deriving DecidableEq, Repr, Inhabited

/-- Occurrences of one condition on one layer tag in the step, coalesced (04 R128). -/
structure WatchRec where
  tag : Nat := 0
  /-- Opcode and unit of the stitch of `sid` (15 R428, R429). -/
  opcode : Nat := 0
  unit : UnitRef := {}
  cond : Nat := 0
  n : Nat := 0
  value : Nat := 0
  action : Nat := 0
  oldLevel : Nat := 0
  sid : Sid := 0
  /-- Raised by a stitch of a step queue: the record goes with the commit or replay, else when its stitch leaves the hold (04 R119, R128). -/
  onStep : Bool := true
  deriving DecidableEq, Repr, Inhabited

/-- The accumulator of a gradient handle (05 R136 to R141): a per element, E per group of 32, and the magnitudes of the sum at the
last commit. -/
structure GradAcc where
  acc : List Int := []
  exps : List (Option Int) := []
  history : List (Option Rat) := []
  contribs : Nat := 0
  bound : Option Nat := none
  deriving DecidableEq, Repr, Inhabited

/-- The Blotter settings of a job (05 R143, 14 STASH_POLICY). -/
structure BlotCfg where
  base : Nat := 0
  size : Nat := 0
  transit : Nat := 0
  policy : List Nat := [0, 0, 0]
  hwm : Nat := 56
  lwm : Nat := 48
  peerStation : Nat := 0
  peerBase : Nat := 0
  peerSize : Nat := 0
  lendStation : Nat := 0
  lendBase : Nat := 0
  lendSize : Nat := 0
  hostWin : Nat := 0
  recallAhead : Nat := 4
  deriving DecidableEq, Repr, Inhabited

/-- `LOC` of a Blotter record (05 R146). -/
inductive Loc where
  | kept | atPeer | atHost | transit | notKept | lost
  deriving DecidableEq, Repr, Inhabited

/-- A Blotter record (05 R146): where its bytes lie, its size, and a copy of them once it has left HBM. -/
structure BlotRec where
  handle : Nat := 0
  tag : Nat := 0
  mb : Nat := 0
  loc : Loc := .kept
  step : Nat := 0
  addr : Nat := 0
  bytes : Nat := 0
  /-- Space it holds until its stitch completes (05 R145, R151). -/
  reserved : Nat := 0
  /-- Address of its copy in the host window (05 R149). -/
  hostAddr : Nat := 0
  moved : List Byte := []
  moving : Option Loc := none
  recalling : Bool := false
  writer : Sid := 0
  /-- Its stitch has written it; until then it holds its reservation. -/
  written : Bool := false
  /-- Its copy outside HBM holds poison. -/
  movedBad : Bool := false
  deriving DecidableEq, Repr, Inhabited

/-- The Blotter of a job. -/
structure Blotter where
  cfg : BlotCfg := {}
  recs : List BlotRec := []
  /-- Position in the policy list in force, none before a policy has applied. -/
  inForce : Option Nat := none
  deriving DecidableEq, Repr, Inhabited

/-- A registered tensor (12 R358) with what the part keeps of its step. -/
structure Protect where
  handle : Nat := 0
  altBase : Nat := 0
  state : Nat := 0
  stateAlt : Nat := 0
  method : Nat := 0
  /-- 0 undecided, 1 Mirror, 2 Journal (12 R366). -/
  cls : Nat := 0
  /-- Commits of the job when its class was decided (12 R366). -/
  clsAt : Nat := 0
  protected_ : Bool := false
  /-- Ternary values of the step in progress, in linear index order (05 R169). -/
  ternary : List Int := []
  /-- (NZ, ELEMS) of the last 16 Journal records, newest first (12 R366). -/
  rho : List (Nat × Nat) := []
  /-- Bytes of the Journal records that the partner retains: (step, bytes), oldest first. -/
  retained : List (Nat × Nat) := []
  /-- Step of the partner's complete mirror slot. -/
  slotStep : Option Nat := none
  slotIdx : Nat := 0
  /-- The next commit mirrors it. -/
  remirror : Bool := false
  /-- A commit asked for a drain while an earlier one of the tensor ran; it follows that one (12 R366). -/
  again : Bool := false
  deriving DecidableEq, Repr, Inhabited

/-- The protection settings of a job (12 R358). -/
structure ProtCfg where
  mirrorPct : Nat := 5
  restorePct : Nat := 50
  smallMib : Nat := 16
  rhoHi : Nat := 64
  jMaxSteps : Nat := 1024
  fleetRate : Word32 := 0x41A00000
  deriving DecidableEq, Repr, Inhabited

/-- A window of a job or a staging window (10 R292, 14 R422). -/
structure Window where
  id : Nat := 0
  kind : Nat := 0
  base : Nat := 0
  size : Nat := 0
  readOnly : Bool := false
  hostAddr : Nat := 0
  panel : Nat := 0
  nib : Nat := 0
  unmapping : Bool := false
  deriving DecidableEq, Repr, Inhabited

/-- External checkpoints of a job (12 R372, R373). -/
structure Checkpoint where
  /-- Window reference (WIN_ID, OFFSET, BYTES) of a snapshot to be taken at the next commit. -/
  pending : Option (Nat × Nat × Nat) := none
  /-- Snapshots whose copies have started, oldest first: the step whose fronts are copied, and the window reference. -/
  copying : List (Nat × Nat × Nat × Nat) := []
  lastSnapshotNs : Option Nat := none
  costNs : Option Nat := none
  /-- Last costs on the job's other parts, by station. -/
  peerCosts : Tbl Nat := []
  openedNs : Nat := 0
  replacedStations : Nat := 0
  /-- Times from a partner's loss to protection complete, measured on this job. -/
  windowNs : List Nat := []
  /-- What this part contributes to the job's sums of pairs, and what its other parts have told, by station (12 R373). -/
  correlated : Nat := 0
  otherPairs : Nat := 0
  unpaired : Nat := 0
  peerPairs : Tbl (Nat × Nat × Nat) := []
  lostNs : Option Nat := none
  /-- The record that a checkpoint is due has been sent since the last snapshot. -/
  dueSent : Bool := false
  deriving DecidableEq, Repr, Inhabited

/-- Counts of one job in the stroke in progress, and its stroke record ring (09 R264, R287). -/
structure StrokeRing where
  base : Nat := 0
  depth : Nat := 0
  since : Nat := 0
  busy : List Nat := [0, 0, 0, 0, 0, 0, 0, 0]
  planned : Nat := 0
  /-- Planned work that falls in the next stroke. -/
  plannedNext : Nat := 0
  admitted : Nat := 0
  completed : Nat := 0
  overrun : Nat := 0
  /-- When the busy time was last brought up to date. -/
  busyAt : Nat := 0
  deriving DecidableEq, Repr, Inhabited

/-- The step in progress of a job (04 R118, 05 R131, R172). -/
structure StepState where
  inProgress : Bool := false
  replays : Nat := 0
  replayRequested : Bool := false
  replayTag : Nat := 0
  replayCond : Nat := 0
  /-- Value of each pin at its first signal in the step. -/
  pinsAtStart : Tbl Word32 := []
  /-- Pins that a stitch of the step has signalled. -/
  stepPins : List Nat := []
  /-- Narrow outputs of the step's backward stitches: layer tag, stitch, output and its amax (04 R115). -/
  grads : List (Nat × Sid × Operand × List Rat) := []
  /-- Stitches that run with `SCALE_SRC` = 0 in the replay in progress (04 R115). -/
  fresh : List Sid := []
  /-- Stitches whose condition caused a replay without a scale changed (04 R120). -/
  suspects : List Sid := []
  /-- A scale or a level has changed for the replay in progress (04 R120). -/
  rescaled : Bool := false
  voteSent : Bool := false
  /-- Levels of the vote that was sent: what is decided after it waits for the commit (04 R123, R124). -/
  voted : List (Nat × Nat) := []
  /-- The `COMMIT` stitch that has started and whose vote result has not arrived. -/
  commitSid : Option Sid := none
  /-- Watch settings that apply from the next step (14 WATCH_SET). -/
  nextWatch : Option Watch := none
  rewinding : Bool := false
  /-- First start of each stitch of the step, kept across its replays (08 R258). -/
  starts : List (Sid × Nat) := []
  /-- Stitches that were released in this execution with a condition that no scale of theirs has answered (04 R120). -/
  raised : List Sid := []
  deriving DecidableEq, Repr, Inhabited

/-- An open job. -/
structure Job where
  id : Nat := 0
  page : Nat := 0
  halted : Bool := false
  /-- `JOB_CLOSE` waits for stitches that still touch the job's windows (14 R418). -/
  closing : Bool := false
  /-- Stations of the job that have become unreachable since its last reset (11 R338). -/
  lost : List Nat := []
  fjk : Word32 := 0
  seed : Word64 := 0
  stations : List Nat := []
  pinCount : Nat := 0
  pins : Tbl Word32 := []
  pinSel : Nat := 0
  dbBad : BitVec 32 := 0
  eqAddr : Nat := 0
  eqVector : Nat := 0
  eqLog : Nat := 0
  eqCount : Word64 := 0
  assumed : Option Nat := none
  /-- Handle table: address and entries (07 R203). -/
  handles : Option (Nat × Nat) := none
  /-- Handle tables and ladder maps that have been set so far: the MODEL's own number, by which a waiting head knows that they have changed (14 R423). -/
  tables : Nat := 0
  windows : List Window := []
  committed : Nat := 0
  step : StepState := {}
  watch : Watch := {}
  tags : Tbl TagState := []
  ladder : List MapEntry := []
  watchRecs : List WatchRec := []
  grads : Tbl GradAcc := []
  blot : Blotter := {}
  prot : List Protect := []
  protCfg : ProtCfg := {}
  commits : Nat := 0
  commitTimes : List Nat := []
  /-- The classes are to be decided again at the next commit (12 R365, R366). -/
  redecide : Bool := false
  ring : StrokeRing := {}
  check : Checkpoint := {}
  inDoubt : Bool := false
  deriving DecidableEq, Repr, Inhabited

/-- `STATE` of a queue status block (08 R245). -/
inductive QState where
  | running | headWaiting | rejected | halted | rewinding | empty
  deriving DecidableEq, Repr, Inhabited

/-- A queue (08 R243, R245). -/
structure Queue where
  job : Nat := 0
  ringBase : Nat := 0
  logSize : Nat := 6
  step : Bool := false
  vector : Nat := 0
  statusAddr : Nat := 0
  head : Word32 := 0
  free : Word32 := 0
  tail : Word32 := 0
  stepBase : Word32 := 0
  state : QState := .empty
  lastAdmit : BitVec 8 := 0
  dbDrop : BitVec 16 := 0
  /-- A stitch that has passed every check and waits for the horizon or for Blotter room (09 R267, 05 R145). -/
  passed : Option Active := none
  /-- The chained `VSCRIPT` that has passed with it (06 R193). -/
  passedMate : Option Active := none
  deriving DecidableEq, Repr, Inhabited

/-- The timebase and stroke state (09 R261 to R279). `source` is 0 internal, 1 Ground marks, 2 STROKE_REF. -/
structure Clock where
  now : Nat := 0
  edge : Nat := 0
  stroke : Word64 := 0
  periodUs : Nat := 20
  xchPct : Nat := 20
  nextPeriodUs : Nat := 20
  nextXchPct : Nat := 20
  changeAt : Option Word64 := none
  /-- Period and reserve that a part which follows marks keeps for when it becomes a root (09 R265). -/
  ownPeriodUs : Nat := 20
  ownXchPct : Nat := 20
  source : Nat := 0
  upPort : Nat := 0xFF
  altPort : Nat := 0xFF
  nextSource : Nat := 0
  nextUp : Nat := 0xFF
  nextAlt : Nat := 0xFF
  owner : Option Nat := none
  root : Nat := 0
  hops : Nat := 0
  followedHoldover : Bool := false
  holdover : Bool := false
  holdoverSince : Nat := 0
  refMisses : Nat := 0
  /-- A one-shot shift of the next edge by which the timebase steers towards the root (09 R275), in ns, forward positive. -/
  steer : Int := 0
  deriving DecidableEq, Repr, Inhabited

/-- A stroke that stitches are planned for and that is not judged (09 R271): stitches not complete, whether one of them completed in a later
stroke, and the jobs with a stitch planned in it. -/
structure LagStroke where
  stroke : Nat := 0
  left : Nat := 0
  overran : Bool := false
  jobs : List Nat := []
  deriving DecidableEq, Repr, Inhabited

/-- Lagging (09 R271, R272). -/
structure Lag where
  strokes : List LagStroke := []
  lagRun : Nat := 0
  lagging : Bool := false
  cleanRun : Nat := 0
  /-- Strokes that a resync has shortened: they are not judged (09 R276). -/
  unjudged : List Nat := []
  /-- Every stroke below this one has been judged or left out. -/
  judged : Nat := 0
  /-- The run in progress or last ended: its first stroke, its length, and its jobs with the `DONE_OVERRUN` completions of each up to its end. -/
  first : Nat := 0
  runLen : Nat := 0
  runJobs : Tbl Nat := []
  /-- Completions `DONE_OVERRUN` that may belong to a run: stroke and job (09 R272). -/
  overs : List (Nat × Nat) := []
  deriving DecidableEq, Repr, Inhabited

/-- A write-combining entry (10 R295). -/
structure WcbEntry where
  granule : Nat := 0
  data : Tbl Byte := []
  tags : List Sid := []
  since : Nat := 0
  /-- It holds data that depends on poison, so that it drains with `POISON` set (DEDUCED: log entry 38). -/
  poisoned : Bool := false
  deriving DecidableEq, Repr, Inhabited

/-- A read request that is outstanding (09 R282 to R284): the nib that holds a slot for it (none for Ohmub and the host), whether it stands in
its bank's queue of 32, and whether it is promoted. -/
structure MemReq where
  granule : Nat := 0
  since : Nat := 0
  nib : Option (Nat × Nat) := none
  /-- Half of its granule that the narrow path asks for. -/
  half : Option Nat := none
  /-- A read of the patrol scrub (10 R305). -/
  scrub : Bool := false
  queued : Bool := true
  promoted : Bool := false
  deriving DecidableEq, Repr, Inhabited

/-- Frames being zeroised (15 R447), with what their end frees. -/
structure ZeroBatch where
  id : Nat := 0
  job : Option Nat := none
  ranges : List (Nat × Nat) := []
  deriving DecidableEq, Repr, Inhabited

/-- The memory system (10). -/
structure Mem where
  /-- Bytes that do not read as `Mem.unwritten`, addresses rising. -/
  bytes : List Host.Cell := []
  /-- Poisoned granules and Pillow lines: address / 64, rising. -/
  poison : List Nat := []
  wcb : List WcbEntry := []
  /-- Outstanding read requests, in the order of their issue. -/
  reqs : List MemReq := []
  /-- Open row of a bank, keyed by bank number (09 R284). -/
  openRow : Tbl Nat := []
  /-- Corrected errors of a row within the scrub period, keyed by row number. -/
  rowErrs : Tbl Nat := []
  /-- Spare rows used in a bank group, keyed by bank-group number. -/
  sparesUsed : Tbl Nat := []
  /-- Repair log: (row number, hard). -/
  repairLog : List (Nat × Bool) := []
  /-- Repairs whose log entry is not in NV yet (10 R309, 16 R465). -/
  unlogged : List (Nat × Bool) := []
  /-- Retired frames: (frame base, stack). -/
  retired : List (Nat × Nat) := []
  /-- Retired frames whose NV entry is not written yet (10 R312). -/
  unsaved : List (Nat × Nat) := []
  degraded : List Nat := []
  scrub : Nat := 0
  scrubStart : Nat := 0
  /-- Stroke at which the scrub's pass started (14 R427). -/
  scrubStroke : Nat := 0
  zeroing : List ZeroBatch := []
  nextBatch : Nat := 0
  jobOpened : Bool := false
  deriving DecidableEq, Repr, Inhabited

/-- A port's link state `LSTATE` (11). -/
inductive LState where
  | disabled | training | up | retrain | down
  deriving DecidableEq, Repr, Inhabited

/-- A Ground port: its status register (11 R327) and its link layer (11 R317 to R326). -/
structure Port where
  lstate : LState := .disabled
  peerStation : BitVec 20 := 0
  peerPort : BitVec 6 := 0
  retrains : BitVec 16 := 0
  marksMissed : BitVec 16 := 0
  fecUncorr : BitVec 16 := 0
  crcErr : BitVec 16 := 0
  stallDrop : BitVec 16 := 0
  delayNs : BitVec 12 := 0
  nextFseq : Nat := 0
  expectFseq : Nat := 0
  /-- Flits sent and not covered by a FACK, oldest first. -/
  retry : List Flit := []
  /-- Flits of the retry buffer to be sent again. -/
  resend : List Flit := []
  lanes : Tbl (List Flit) := []
  credits : Tbl Nat := []
  creditsOwed : Tbl Nat := []
  /-- Lane (less 2) whose turn it is in the round robin, and the flits that it has sent in this turn. -/
  wrr : Nat := 0
  wrrUsed : Nat := 0
  /-- Flits sent since the last link control flit. -/
  sinceCtrl : Nat := 0
  discarding : Bool := false
  ctrlOut : List LinkCtrl := []
  retrainTimes : List Nat := []
  /-- Times that each flit of the retry buffer has been sent, by `FSEQ`, since the last training (11 R324). -/
  sent : Tbl Nat := []
  /-- Times of the uncorrectable codewords of the last millisecond (11 R324). -/
  uncorrAt : List Nat := []
  downSince : Nat := 0
  backoffS : Nat := 0
  missedRun : Nat := 0
  markTally : Option (BitVec 16) := none
  markTallyOut : BitVec 16 := 0
  /-- Flits of the message that is arriving, by lane. -/
  rx : Tbl (List Flit) := []
  deriving DecidableEq, Repr, Inhabited

/-- A transaction entry of a Selvedge die (11 R336, R337). -/
structure Trans where
  die : Nat := 0
  tag : Nat := 0
  hdr : MsgHdr := default
  data : List Byte := []
  /-- Its poison marks, and what it says of its source (11 R339, R341). -/
  marks : List Nat := []
  source : Option SendSource := none
  /-- Stitch that it belongs to; none for a message of Ohmub's. -/
  sid : Option Sid := none
  /-- Lane of the message, and the port by which it left (64 when this part is its destination). -/
  vl : Nat := 0
  firstPort : Nat := 64
  injectedAt : Nat := 0
  resent : Bool := false
  deriving DecidableEq, Repr, Inhabited

/-- A message held for a newer EPOCH (11 R335). -/
structure HeldMsg where
  hdr : MsgHdr := default
  data : List Byte := []
  marks : List Nat := []
  source : Option SendSource := none
  /-- Selvedge die that received it. -/
  die : Nat := 0
  since : Nat := 0
  deriving DecidableEq, Repr, Inhabited

/-- Partial sums of one block at a node (11 R343, R344). -/
structure RedBlock where
  block : Nat := 0
  /-- Children heard from; the node's own leaf is index 64. -/
  heard : List Nat := []
  sb : Option Nat := none
  /-- Sender of the first live contribution whose grid code differs. -/
  differ : Option Nat := none
  poisoned : Bool := false
  /-- Contributions are complete and summed: the result has gone up, or stands here for delivery. -/
  done : Bool := false
  /-- The down form of the block has arrived, or was formed here. -/
  down : Bool := false
  /-- Exponent of one unit of `acc`. -/
  unit : Int := 0
  /-- Sum of each element, or the code of the largest. -/
  acc : List Int := []
  /-- Values of the elements in the down form. -/
  vals : List Num := []
  deriving DecidableEq, Repr, Inhabited

/-- A node of a reduction or multicast instance (11 R342 to R348). -/
structure RedNode where
  job : Nat := 0
  coll : Nat := 0
  inst : Nat := 0
  epoch : BitVec 16 := 0
  sid : Sid := 0
  parent : Option Nat := none
  children : List Nat := []
  leaf : Bool := false
  /-- Number of blocks, where a tensor of the stitch gives it. -/
  size : Option Nat := none
  blocks : List RedBlock := []
  /-- The stitch of a node whose number of blocks no tensor gives: contributions that come after it has completed still go up (log entry 20). -/
  relay : Option Active := none
  childLeaves : Tbl Nat := []
  deriving DecidableEq, Repr, Inhabited

/-- An incoming SEND (11 R339 to R341), keyed by sender and SEND number. -/
structure RxSend where
  src : Nat := 0
  number : Nat := 0
  job : Nat := 0
  handle : Nat := 0
  epoch : BitVec 16 := 0
  refused : Nat := 0
  dst : Option Operand := none
  /-- Its WRITE_END has been acknowledged. -/
  done : Bool := false
  deriving DecidableEq, Repr, Inhabited

/-- A whole message that a port has received: port, lane, number of flits, and the message. -/
structure Arrived where
  port : Nat := 0
  vl : Nat := 0
  flits : Nat := 0
  hdr : MsgHdr := default
  data : List Byte := []
  marks : List Nat := []
  source : Option SendSource := none
  deriving DecidableEq, Repr, Inhabited

/-- A message delivered to this part that no row has taken yet, and the Selvedge die that received it. -/
structure InMsg where
  hdr : MsgHdr := default
  data : List Byte := []
  marks : List Nat := []
  source : Option SendSource := none
  die : Nat := 0
  deriving DecidableEq, Repr, Inhabited

/-- A route image loaded into the inactive copies (11 R331). -/
structure RouteLoad where
  group : Option (Tbl Word64) := none
  member : Option (Tbl Word64) := none
  aliases : Option (List (Nat × Nat)) := none
  applyAt : Word64 := 0
  /-- The image's `CRC`. -/
  trailer : Nat := 0
  loaded : Bool := false
  deriving DecidableEq, Repr, Inhabited

/-- The Ground fabric side of the part (11). -/
structure Fabric where
  ports : Tbl Port := []
  station : Nat := 0
  nvStation : Nat := 0
  /-- A station ID that is still to be written to NV (11 R328, 16 R465). -/
  stationUnsaved : Option Nat := none
  portEn : Word64 := 0
  stationSet : Bool := false
  assumed : Option Nat := none
  groupTbl : Tbl Word64 := []
  memberTbl : Tbl Word64 := []
  aliases : List (Nat × Nat) := []
  pendingRoute : Option RouteLoad := none
  noRoute : BitVec 32 := 0
  hopLimit : BitVec 32 := 0
  foreign : BitVec 32 := 0
  stale : BitVec 32 := 0
  vl7Drop : BitVec 32 := 0
  trans : List Trans := []
  /-- Messages that wait for a free transaction entry (11 R336), with their lane. -/
  waiting : List (Nat × Trans) := []
  held : List HeldMsg := []
  reds : List RedNode := []
  rx : List RxSend := []
  /-- The exchange mark X as a byte position counted from stroke 0's first slot, and the stroke and byte it stands at. -/
  xStroke : Nat := 0
  xByte : Nat := 0
  /-- Whole messages that have arrived and are not routed yet. -/
  arrived : List Arrived := []
  /-- Messages routed to this part whose row has not taken them. -/
  inbox : List InMsg := []
  deriving DecidableEq, Repr, Inhabited

/-- A mirror slot that this part holds for its partner (12 R364): bytes of master and state keyed by byte offset. -/
structure MirSlot where
  fjk : Word32 := 0
  handle : Nat := 0
  slot : Nat := 0
  step : Nat := 0
  complete : Bool := false
  master : Tbl Byte := []
  state : Tbl Byte := []
  deriving DecidableEq, Repr, Inhabited

/-- A drain in progress (12 R364). -/
structure Drain where
  job : Nat := 0
  handle : Nat := 0
  slot : Nat := 0
  step : Nat := 0
  bytes : Nat := 0
  /-- Stroke at which it started. -/
  stroke : Nat := 0
  incomplete : Bool := false
  /-- The bucket's limit is lifted for it (12 R365). -/
  lifted : Bool := false
  /-- The full drain of 12 R376. -/
  restore : Bool := false
  deriving DecidableEq, Repr, Inhabited

/-- The pair binding and the store for the partner (12 R354 to R365, 13 R399 to R401). -/
structure Pair where
  partner : Option Nat := none
  guardGib : Nat := 0
  force : Bool := false
  /-- 0 pending, 1 formed, 2 formed correlated. -/
  state : Nat := 0
  partnerFeed : Nat := 0
  /-- What a station has sent before this part named it: (station, tag, force, registered tensors). -/
  offered : List (Nat × Nat × Bool × Nat) := []
  frames : List (Nat × Nat) := []
  slots : List MirSlot := []
  journal : List JRec := []
  heldJournal : List JRec := []
  /-- Fragments of records that are not whole: job key, tally, fragment number, bytes. -/
  frags : List (Word32 × BitVec 16 × Nat × List Byte) := []
  heldSince : Nat := 0
  lastTally : Option (BitVec 16) := none
  accepted : List (BitVec 16) := []
  outTally : BitVec 16 := 0
  unacked : List JRec := []
  drains : List Drain := []
  /-- Bytes in the token bucket of lanes 4 and 5, and when it was last filled (12 R365). -/
  tokens : Nat := 0
  tokensAt : Nat := 0
  partnerParked : Bool := false
  /-- Registered tensors of open jobs on the partner, as it has told this part (12 R356; log entry 12). -/
  peerTensors : Nat := 0
  /-- What the partner has sent of a job's tensors for a restore (12 R371). -/
  received : Tbl (List PeerCopy) := []
  /-- Size of the partner's guard region in GiB, which no exchange of the spec tells this part: a free value drawn as the pair forms. -/
  peerGuardGib : Nat := 0
  /-- When the partner was asked for its feed tag (14 table Mailbox statuses, `UNREACHABLE`). -/
  askedNs : Nat := 0
  deriving DecidableEq, Repr, Inhabited

/-- A shadow execution (12 R384 to R386). -/
structure Shadow where
  sid : Sid := 0
  crcs : List (Word32 × Word32) := []
  thirds : List (Nat × Word32) := []
  /-- Shares whose loser is to repeat: (share, panel, nib, the loser's CRC). -/
  losers : List (Nat × Nat × Nat × Word32) := []
  compared : Bool := false
  deriving DecidableEq, Repr, Inhabited

/-- Self-test (15 R443 to R445). -/
structure SelfTest where
  sweeps : BitVec 16 := 0
  /-- Next (nib, slice) of each panel's sweep, keyed by panel. -/
  position : Tbl Nat := []
  sweepStart : Nat := 0
  /-- Stroke at which the sweep started (14 R427). -/
  sweepStroke : Nat := 0
  /-- Slices in flight: (panel, nib, slice). -/
  running : List (Nat × Nat × Nat) := []
  /-- Failing slices awaiting decision: (panel, nib, slice, failing CRC, repeats done, repeats that reproduced). -/
  failing : List (Nat × Nat × Nat × Word32 × Nat × Nat) := []
  lastSlice : Nat := 0
  /-- Transients of a nib: (panel × 160 + nib, times). -/
  transients : List (Nat × Nat) := []
  deriving DecidableEq, Repr, Inhabited

/-- The turning tile of a nib: its orientation, and the words of its last fill, 32 to a line (07 R220). -/
structure TurnTile where
  columns : Bool := false
  words : List Word32 := []
  deriving DecidableEq, Repr, Inhabited

/-- The nibs: what is in service, plan marks, and panels that have stopped answering (08 R259, 09 R267, 16 R477). -/
structure Nibs where
  grade : Grade := .m8f
  /-- Physical nibs out of service: panel × 160 + nib, rising. -/
  out : List Nat := []
  retired : List Nat := []
  /-- Nibs whose retirement is not complete (12 R387): nib, source (1 shadow, 2 self-test), jobs with a stitch or a window on it. -/
  retiring : List (Nat × Nat × List Nat) := []
  marks : Tbl Nat := []
  panelStopped : Tbl Nat := []
  /-- Turning tiles that a copy has filled, keyed by panel × 160 + nib (07 R220). -/
  turn : Tbl TurnTile := []
  deriving DecidableEq, Repr, Inhabited

/-- A request that a mailbox page has rung (14 R409, R410). -/
structure Request where
  opcode : Nat := 0
  flags : Nat := 0
  tally : BitVec 16 := 0
  job : Nat := 0
  payload : List Byte := []
  loss : Bool := false
  order : Nat := 0
  /-- A reserved bit of its header is set. -/
  rsv : Bool := false
  deriving DecidableEq, Repr, Inhabited

/-- A mailbox page (14 R404, R409). -/
structure Page where
  req : Tbl Byte := []
  resp : List Byte := []
  mbState : BitVec 2 := 0
  mbDrop : BitVec 32 := 0
  /-- Running value of the page's small check unit, which forms mailbox headers' values alone (13 R390). -/
  checkRun : Word32 := 0
  taken : Option Request := none
  lastTally : Option (BitVec 16) := none
  lastResp : List Byte := []
  /-- A command whose answer waits on an event (UNMAP_WINDOW, Drowse, PAIR_BIND): 14 R422, 16 R479. -/
  waiting : Bool := false
  deriving DecidableEq, Repr, Inhabited

/-- A long operation (14 R427). -/
structure LongOp where
  kind : Nat := 0
  subject : Nat := 0
  job : Option Nat := none
  page : Nat := 0
  notifyEnd : Bool := false
  position : Nat := 0
  total : Nat := 0
  unit : Bool := false
  startStroke : Word64 := 0
  result : Nat := 0
  /-- 1 running, 2 done, 3 failed. -/
  state : Nat := 1
  /-- What the operation carries to its end: a restore's source and target, a route image's address. -/
  arg : List Nat := []
  deriving DecidableEq, Repr, Inhabited

/-- What a stream context is held for (13 R397): a Journal record that spans several fragments, a snapshot that a commit pauses, a route load. -/
inductive StreamUse where
  | journal (fjk : Word32) (tally : BitVec 16)
  | snapshot (job : Nat)
  | route
  deriving DecidableEq, Repr, Inhabited

/-- A stream context of a line-rate unit: the 64-bit running value and the preset (0 CRC-32C, 1 CRC-32, 2 CRC-64), with the fragments or bytes taken so
far. Units 64d to 64d + 63 are those of Selvedge die d, 256 to 259 those of the Hub (13 R390). -/
structure Stream where
  use : StreamUse := .route
  unit : Nat := 256
  preset : Nat := 0
  value : Word64 := 0
  fragments : Nat := 0
  bytes : Nat := 0
  deriving DecidableEq, Repr, Inhabited

/-- Ohmub and the host interface (14). -/
structure Hub where
  /-- 0 bring-up, 1 ready, 2 return state. -/
  phase : BitVec 2 := 0
  hubB : Bool := false
  pages : Tbl Page := []
  ringOrder : Nat := 0
  bar4Offset : Nat := 0
  bar4Size : Nat := 0x1000000000
  /-- Bytes of the MSI-X table; an unlisted byte is 0, or 1 in the vector control word, which PCIe resets to masked (log entry 3). -/
  msixTable : Tbl Byte := []
  /-- Pending bits that are set. -/
  msixPending : List Nat := []
  pciCfg : Tbl Word32 := []
  staging : List Window := []
  longOps : List LongOp := []
  preserve : Bool := false
  /-- 0 Idle, 1 Drowse, 2 Park. -/
  pstate : BitVec 2 := 0
  drowsePage : Option Nat := none
  bootFailed : Bool := false
  /-- Contexts of the line-rate units that hold a suspended stream (13 R397). -/
  streams : List Stream := []
  /-- Copies of Ohmub's own part-wide structures that were found poisoned, with the granule of each (12 R380). -/
  badCopies : Tbl Nat := []
  deriving DecidableEq, Repr, Inhabited

/-- A health record (15 R431). -/
structure Health where
  wall : Word64 := 0
  stroke : Word64 := 0
  hseq : Nat := 0
  hcode : BitVec 16 := 0
  severity : BitVec 2 := 0
  panel : BitVec 3 := 0
  nib : BitVec 8 := 0xFF
  port : BitVec 6 := 0
  stack : BitVec 4 := 0
  temp : BitVec 12 := 0
  sensor : BitVec 7 := 0
  vcore : BitVec 12 := 0
  station : BitVec 20 := 0
  job : Option Nat := none
  value : Word64 := 0
  acked : Bool := false
  sentAt : Option Nat := none
  deriving DecidableEq, Repr, Inhabited

/-- The NV configuration (15 R436). -/
structure NvCfg where
  scrubHours : Nat := 24
  rowCeLimit : Nat := 4
  shadowRate : Nat := 10000
  retirePolicy : Nat := 1
  transientLimit : Nat := 3
  selftestEn : Nat := 1
  sweepMin : Nat := 30
  consoleEn : Nat := 0
  deriving DecidableEq, Repr, Inhabited

/-- An SPDM endpoint and its sessions (15 R437). -/
structure Spdm where
  version : Bool := false
  capabilities : Bool := false
  algorithms : Bool := false
  deriving DecidableEq, Repr, Inhabited

/-- A secured session: in handshake until FINISH (15 R437). -/
structure Session where
  id : Nat := 0
  via : Transport := .i3c
  secret : Word64 := 0
  established : Bool := false
  lastHeartbeat : Nat := 0
  deriving DecidableEq, Repr, Inhabited

/-- The management side (15): registers, health ring, sessions, event receiver, tally loss register. -/
structure Mgmt where
  /-- Wall clock at timebase 0, when set. -/
  wallBase : Option Int := none
  ring : Tbl Health := []
  hseq : Nat := 0
  healthDrop : BitVec 32 := 0
  nvCritical : List Health := []
  /-- Critical records whose NV entry is not written yet (16 R465). -/
  critUnsaved : List Health := []
  receiver : Option (Transport × Nat) := none
  mbGaps : BitVec 16 := 0
  markGaps : BitVec 16 := 0
  jrnlGaps : BitVec 16 := 0
  jrnlLoss : Bool := false
  markLoss : Bool := false
  mbLoss : Bool := false
  cfg : NvCfg := {}
  /-- What NV holds of the configuration. -/
  cfgNv : NvCfg := {}
  /-- The configuration that is still to be written to NV (15 R436, 16 R465). -/
  cfgUnsaved : Option NvCfg := none
  spdmI3c : Spdm := {}
  spdmSgmii : Spdm := {}
  sessions : List Session := []
  i3cAddress : Option Nat := none
  tunnel : List (MsgHdr × List Byte) := []
  /-- The JTAG instruction that is loaded, and the one that it acts as (15 R448). -/
  jtagCode : JtagInstr := .bypass
  jtag : JtagInstr := .bypass
  uartOn : Bool := false
  deriving DecidableEq, Repr, Inhabited

/-- Firmware, fuses, Pricking packs and returns (15 R438 to R442, R450). -/
structure Fw where
  /-- The image that the part is delivered with (log entry 3). -/
  slot0 : FwImage := { version := Config.factoryVersion, svn := Config.factorySvn, digest := Config.factoryDigest, header := [], headerCrc := 0
                       ecdsa := { verifies := true, key := 0 }, lms := { verifies := true, key := 0 } }
  slot1 : FwImage := default
  active : Nat := 0
  staged : Option FwImage := none
  staging : Bool := false
  stagingPldm : Bool := false
  stagedPack : Option PrickPack := none
  component : Nat := 1
  received : Nat := 0
  /-- A transfer over PLDM that is whole and waits for its NV writes to start (15 R441, 16 R465). -/
  content : Option (Transport × Option FwImage × Option PrickPack) := none
  bootFailures : Nat := 0
  fuses : Nat := 0
  /-- The four fuse slots of each signature algorithm for the SHA-384 of a public key (15 R439; what they hold at reset: log entry 3). -/
  ecdsaSlots : List KeySlot := List.replicate 4 {}
  lmsSlots : List KeySlot := List.replicate 4 {}
  fusePending : Option Nat := none
  pack : Option PrickPack := none
  nextPack : Option PrickPack := none
  keys : Bool := true
  returnStep : Nat := 0
  returnTally : BitVec 16 := 0
  /-- The two copies of the return record in NV (15 R450, 13 R398). -/
  returnRecord : List (List Byte) := []
  returnFuse : Bool := false
  deriving DecidableEq, Repr, Inhabited

/-- A write to NV (16 R465): a retired frame, a repaired row, the configuration or the station ID, each with what NV held before it, or the
anti-rollback fuses with the count that they are to reach. -/
inductive NvItem where
  | frame (base stack : Nat)
  | repair (row : Nat) (hard : Bool)
  | cfg (old : NvCfg)
  | fuses (target : Nat)
  | station (old : Nat)
  deriving DecidableEq, Repr, Inhabited

/-- Power, supply, cooling and pins (16). An open-drain pin holds true while the module drives it low. -/
structure Power where
  hubOn : Bool := true
  railsOn : Bool := false
  railsRamping : Bool := false
  inputMv : Nat := 40000
  pwrEn : Bool := false
  perstN : Bool := false
  pwrGoodLow : Bool := false
  faultLow : Bool := false
  alertLow : Bool := false
  thermtripLow : Bool := false
  leakLow : Bool := false
  slotId : BitVec 6 := 0
  feedTag : BitVec 4 := 0
  strapsLatched : Bool := false
  uvWarn : Bool := false
  uvWarnSince : Nat := 0
  aboveWarnSince : Nat := 0
  nvStop : Bool := false
  /-- Writes to NV that may still be under way, with the time at which each began (16 R463, R465, R478). -/
  nvBusy : List (NvItem × Nat) := []
  ovLatched : Bool := false
  divSupply : Nat := 1
  divPair : Nat := 1
  divPower : Nat := 1
  divCooling : Nat := 1
  divisor : Nat := 1
  powerCap : Bool := false
  /-- Cooling columns entered: (measurement 0 to 3, column 1 warning, 2 divide by 2, 4 divide by 4), with the time its measurement was
  last outside. -/
  cooling : List (Nat × Nat × Nat) := []
  /-- Last readings, keyed by sensor number. -/
  readings : Tbl Int := []
  uvResetFlag : Bool := false
  deriving DecidableEq, Repr, Inhabited

/-- What a BAR4 read answers (14 R405). -/
structure Bar4Reply where
  data : List Byte := []
  ur : Bool := false
  ep : Bool := false
  deriving DecidableEq, Repr, Inhabited

/-- A PLDM `PlatformEventMessage` with a health record (15 R432 to R434): the transport and EID of the event receiver, the OEM event class, the record,
whether an in-band interrupt announces it (I3C), and the UDP port of its datagram (SGMII; 0 on I3C). -/
structure EventMsg where
  via : Transport := .i3c
  eid : Nat := 0
  eventClass : Nat := 0xF0
  record : BitVec 512 := 0
  ibi : Bool := false
  udpPort : Nat := 0
  deriving DecidableEq, Repr, Inhabited

/-- What the part has answered and sent: MSI-X vectors in order, the last answer on each interface, the messages with health records. -/
structure Out where
  msix : List Nat := []
  bar4 : Option Bar4Reply := none
  /-- Advisory non-fatal errors reported to the host (14 R402). -/
  advisory : Nat := 0
  cfgData : Option Word32 := none
  atomicUr : Bool := false
  /-- What the last granule read of a controller returned: its data, none when it was poisoned (10 R301). -/
  granule : Option (Option (List Byte)) := none
  /-- Completion code and data of the last PLDM answer. -/
  pldm : Option (Transport × Nat × List Word64) := none
  /-- Request code and data of the last SPDM answer. -/
  spdm : Option (Transport × String × List Byte) := none
  healthSent : List EventMsg := []
  /-- Messages that Ohmub has sent on lane 1: destination and name. -/
  lane1 : List (Nat × String) := []
  /-- Votes sent: (job, vote). -/
  votes : List (Nat × Vote) := []
  flits : List (Nat × Flit) := []
  /-- Marks sent, with the `CRC` of each: (port, mark, `CRC`). -/
  marks : List (Nat × Mark × Word32) := []
  deriving DecidableEq, Repr, Inhabited

/-- The state of the part and the queue of commands that wait. -/
structure State where
  pending : List Instr := []
  free : Nat := 0
  clk : Clock := {}
  lag : Lag := {}
  mem : Mem := {}
  /-- Host memory behind host windows and event queues (14 R403). -/
  host : Tbl Byte := []
  nibs : Nibs := {}
  jobs : Tbl Job := []
  queues : Tbl Queue := []
  acts : List Active := []
  runs : List Run := []
  fab : Fabric := {}
  pair : Pair := {}
  shadows : List Shadow := []
  test : SelfTest := {}
  hub : Hub := {}
  mgmt : Mgmt := {}
  fw : Fw := {}
  pwr : Power := {}
  out : Out := {}
  deriving DecidableEq, Repr, Inhabited

/-- The part right after a power-on reset: every field at the default that its declaration gives (00_scope R11, 16 R460, R482; the values
the spec does not give are in log entry 3). -/
def State.reset : State := {}

end Sys2Proof.Machine
end

