-- ==== Sys2Proof/Machine/Numbers.lean ====
section
/-! DEFINITION. The number formats of 01: exact values of codes, and each rounding once from an exact value. -/

namespace Sys2Proof.Machine

/-- 2^e as an exact number. -/
def pow2 (e : Int) : Rat := if 0 ≤ e then ((2 ^ e.toNat : Nat) : Rat) else mkRat 1 (2 ^ (-e).toNat)

/-- ⌊log2 x⌋ of a positive exact number. -/
def floorLog2 (x : Rat) : Int :=
  let l : Int := (Nat.log2 x.num.toNat : Int) - (Nat.log2 x.den : Int)
  if x < pow2 l then l - 1 else l

/-- The magnitude of a rational. -/
def rabs (x : Rat) : Rat := if x < 0 then -x else x

/-- A rational as a number; zero is +0. -/
def Num.ofRat (x : Rat) : Num := .fin (x < 0) (rabs x)

/-- A finite number's value; none for infinities and NaNs. -/
def Num.rat? : Num → Option Rat
  | .fin n m => some (if n then -m else m)
  | _ => none

/-- A finite number's value, zero for the rest. -/
def Num.ratD (x : Num) : Rat := x.rat?.getD 0

def Num.isNan : Num → Bool
  | .nan => true
  | _ => false

def Num.isFinite : Num → Bool
  | .fin _ _ => true
  | _ => false

/-- Neither zero nor NaN. -/
def Num.isNonzero : Num → Bool
  | .fin _ m => m ≠ 0
  | .inf _ => true
  | .nan => false

/-- Sign of a number; NaNs count as positive. -/
def Num.neg? : Num → Bool
  | .fin n _ => n
  | .inf n => n
  | .nan => false

/-- A value times an exact finite factor. -/
def Num.scale (x : Num) (k : Rat) : Num :=
  match x with
  | .fin n m => .fin (n != decide (k < 0)) (m * rabs k)
  | .inf n => .inf (n != decide (k < 0))
  | .nan => .nan

/-- Exact sum; opposite infinities give a NaN. -/
def Num.add : Num → Num → Num
  | .nan, _ => .nan
  | _, .nan => .nan
  | .inf a, .inf b => if a = b then .inf a else .nan
  | .inf a, _ => .inf a
  | _, .inf b => .inf b
  | .fin na a, .fin nb b => if na = nb then .fin na (a + b) else Num.ofRat ((if na then -a else a) + (if nb then -b else b))

/-- Exact product; zero times infinity gives a NaN. -/
def Num.mul : Num → Num → Num
  | .nan, _ => .nan
  | _, .nan => .nan
  | .inf a, y => if y.isNonzero then .inf (a != y.neg?) else .nan
  | x, .inf b => if x.isNonzero then .inf (x.neg? != b) else .nan
  | .fin na a, .fin nb b => .fin (na != nb) (a * b)

/-- Rounding attributes, coded as the table Rounding attributes of 06 R200: 0 to nearest ties to even, 1 toward zero, 2 toward negative,
3 toward positive, 4 to nearest ties away. -/
def roundNat (rm : Nat) (neg : Bool) (q : Rat) : Nat :=
  let f := q.num.toNat / q.den
  let r := q.num.toNat % q.den
  let up := match rm with
    | 0 => decide (2 * r > q.den) || (decide (2 * r = q.den) && f % 2 == 1)
    | 1 => false
    | 2 => neg && r != 0
    | 3 => !neg && r != 0
    | _ => decide (2 * r ≥ q.den)
  if up then f + 1 else f

/-- Round to nearest, ties to even, with a sign. -/
def rneInt (x : Rat) : Int := if x < 0 then -((roundNat 0 true (-x) : Nat) : Int) else (roundNat 0 false x : Nat)

/-- A binary float format: exponent bits and fraction bits. -/
structure FloatFmt where
  eb : Nat
  mb : Nat
  deriving DecidableEq, Repr

def bf16 : FloatFmt := ⟨8, 7⟩
def fp32 : FloatFmt := ⟨8, 23⟩
def fp64 : FloatFmt := ⟨11, 52⟩

def fmtBias (f : FloatFmt) : Int := 2 ^ (f.eb - 1) - 1
def fmtEmin (f : FloatFmt) : Int := 1 - fmtBias f
/-- Largest finite magnitude. -/
def fmtMax (f : FloatFmt) : Rat := pow2 (fmtBias f) * (2 - pow2 (-(f.mb : Int)))

/-- A rounded result with what it raised. -/
structure Rounded where
  num : Num
  nx : Bool := false
  of : Bool := false
  uf : Bool := false
  deriving DecidableEq, Repr

/-- Whether overflow under an attribute gives an infinity (01 R47). -/
def overflowToInf (rm : Nat) (neg : Bool) : Bool := rm == 0 || rm == 4 || (rm == 3 && !neg) || (rm == 2 && neg)

/-- Correctly rounded to a float format, subnormals kept, tininess after rounding (01 R47, 06 R199). -/
def roundFloat (f : FloatFmt) (rm : Nat) (x : Num) : Rounded :=
  match x with
  | .nan => { num := .nan }
  | .inf n => { num := .inf n }
  | .fin n m =>
    if m = 0 then { num := .fin n 0 } else
    let e := floorLog2 m
    let ulp := pow2 (max e (fmtEmin f) - f.mb)
    let r : Rat := ((roundNat rm n (m / ulp) : Nat) : Rat) * ulp
    let ulpU := pow2 (e - f.mb)
    let rU : Rat := ((roundNat rm n (m / ulpU) : Nat) : Rat) * ulpU
    if fmtMax f < r then { num := if overflowToInf rm n then .inf n else .fin n (fmtMax f), nx := true, of := true }
    else { num := .fin n r, nx := decide (r ≠ m), uf := decide (r ≠ m) && decide (rU < pow2 (fmtEmin f)) }

/-- The pattern of a value that the format holds; a NaN is the canonical quiet NaN. -/
def encodeFloat (f : FloatFmt) (x : Num) : Nat :=
  let top := 2 ^ f.eb - 1
  let sgn (n : Bool) := if n then 2 ^ (f.eb + f.mb) else 0
  match x with
  | .nan => top * 2 ^ f.mb + 2 ^ (f.mb - 1)
  | .inf n => sgn n + top * 2 ^ f.mb
  | .fin n m =>
    if m = 0 then sgn n else
    let e := floorLog2 m
    if e < fmtEmin f then sgn n + (m / pow2 (fmtEmin f - f.mb)).num.toNat
    else sgn n + ((e + fmtBias f).toNat - 1) * 2 ^ f.mb + (m / pow2 (e - f.mb)).num.toNat

/-- The value of a pattern. -/
def decodeFloat (f : FloatFmt) (w : Nat) : Num :=
  let n := bit w (f.eb + f.mb)
  let e := bits w (f.eb + f.mb - 1) f.mb
  let m := w % 2 ^ f.mb
  if e = 2 ^ f.eb - 1 then (if m = 0 then .inf n else .nan)
  else if e = 0 then .fin n ((m : Rat) * pow2 (fmtEmin f - f.mb))
  else .fin n (((2 ^ f.mb + m : Nat) : Rat) * pow2 ((e : Int) - fmtBias f - f.mb))

/-- A NaN pattern whose quiet bit is clear. -/
def isSignalling (f : FloatFmt) (w : Nat) : Bool :=
  bits w (f.eb + f.mb - 1) f.mb == 2 ^ f.eb - 1 && w % 2 ^ f.mb != 0 && !bit w (f.mb - 1)

/-- A subnormal pattern. -/
def isSubnormal (f : FloatFmt) (w : Nat) : Bool := bits w (f.eb + f.mb - 1) f.mb == 0 && w % 2 ^ f.mb != 0

/-- Whether a value is subnormal in a format. -/
def Num.subnormal (f : FloatFmt) : Num → Bool
  | .fin _ m => m ≠ 0 && decide (m < pow2 (fmtEmin f))
  | _ => false

/-- A subnormal value becomes zero of its sign (06 R198). -/
def Num.flush (f : FloatFmt) (x : Num) : Num := if x.subnormal f then .fin x.neg? 0 else x

/-- FP64 addition of the reduction unit: patterns, ties to even, subnormals kept (06 R195). -/
def fp64Add (a b : Word64) : Word64 :=
  BitVec.ofNat 64 (encodeFloat fp64 (roundFloat fp64 0 (Num.add (decodeFloat fp64 a.toNat) (decodeFloat fp64 b.toNat))).num)

/-- An exact value rounded once to FP64. -/
def toFp64 (x : Num) : Word64 := BitVec.ofNat 64 (encodeFloat fp64 (roundFloat fp64 0 x).num)
/-- An exact value rounded once to FP32. -/
def toFp32 (x : Num) : Word32 := BitVec.ofNat 32 (encodeFloat fp32 (roundFloat fp32 0 x).num)
def ofFp32 (w : Word32) : Num := decodeFloat fp32 w.toNat
def ofFp64 (w : Word64) : Num := decodeFloat fp64 w.toNat

/-! ### Narrow formats: type codes of the table Element formats -/

def tK4 : Nat := 1
def tF4 : Nat := 2
def tU4Z : Nat := 3
def tA8 : Nat := 4
def tG8 : Nat := 5
def tW16 : Nat := 6
def tBF16 : Nat := 7
def tFP32 : Nat := 8
def tINT32 : Nat := 9
def tS8 : Nat := 10
def tV1 : Nat := 11
def tV16 : Nat := 12
def tM8 : Nat := 13

/-- Element width in bits (table Element formats). -/
def typeBits (t : Nat) : Nat :=
  if t ≤ 3 then 4 else if t = 4 || t = 5 || t = 10 || t = 13 then 8 else if t = 6 || t = 7 || t = 12 then 16 else if t = 11 then 1 else 32

/-- Narrow types that the QU writes (02 R50). -/
def quType (t : Nat) : Bool := (1 ≤ t && t ≤ 6) || t == 13

/-- Pairings of type code and block shape in the table Element formats (01 R13). -/
def pairing (t shape : Nat) : Bool :=
  match shape with
  | 0 => t == 4 || t == 5 || (7 ≤ t && t ≤ 13)
  | 1 => 1 ≤ t && t ≤ 6
  | 2 => 1 ≤ t && t ≤ 5
  | _ => false

/-- A small float's value: exponent bits, fraction bits, magnitude bits (F4, A8, G8 below their special codes). -/
def smallFloat (bias : Int) (mb mag : Nat) : Rat :=
  let e := mag / 2 ^ mb
  let m := mag % 2 ^ mb
  if e = 0 then (m : Rat) * pow2 (1 - bias - mb) else ((2 ^ mb + m : Nat) : Rat) * pow2 ((e : Int) - bias - mb)

/-- A sign and magnitude whose negative zero reads as zero (01 R20). -/
def signMag (neg : Bool) (m : Rat) : Num := if m = 0 then .fin false 0 else .fin neg m

/-- Value of an A8 code (table A8 layout). -/
def a8Val (c : Nat) : Num := if c % 128 = 127 then .nan else signMag (bit c 7) (smallFloat 7 3 (c % 128))

/-- Value of a G8 code (table G8 layout). -/
def g8Val (c : Nat) : Num :=
  if c % 128 = 124 then .inf (bit c 7) else if 124 < c % 128 then .nan else signMag (bit c 7) (smallFloat 15 2 (c % 128))

/-- Value of a code in its format, in units of the block scale for blocked formats; U4Z takes the zero point (01 R14). A K4 escape
reads as zero here, its gimp entry is taken by the block's reader. -/
def codeVal (t zp c : Nat) : Num :=
  match t with
  | 1 => if c % 16 = 8 then .fin false 0 else Num.ofRat ((signed 4 c : Int) : Rat)
  | 2 => signMag (bit c 3) (smallFloat 1 1 (c % 8))
  | 3 => Num.ofRat (((c % 16 : Nat) : Rat) - (zp : Rat))
  | 4 => a8Val c
  | 5 => g8Val c
  | 6 => Num.ofRat ((signed 16 c : Int) : Rat)
  | 7 => decodeFloat bf16 (c % 2 ^ 16)
  | 8 => decodeFloat fp32 (c % 2 ^ 32)
  | 9 => Num.ofRat ((signed 32 c : Int) : Rat)
  | 10 => if c % 256 = 0 then .fin false 0 else Num.ofRat (pow2 ((c % 256 : Nat) - 127))
  | 11 => Num.ofRat (if c % 2 = 1 then -1 else 1)
  | 12 => Num.ofRat ((signed 16 c : Int) : Rat)
  | 13 => Num.ofRat (((signed 8 c : Int) : Rat) / 128)
  | _ => .fin false 0

/-- Largest finite magnitude of a QU format for a sign (table Saturation and clips). -/
def narrowMax (t : Nat) (neg : Bool) : Rat :=
  match t with
  | 1 => 7
  | 2 => 6
  | 4 => 448
  | 5 => 57344
  | 6 => 32767
  | 13 => if neg then 1 else mkRat 127 128
  | _ => 15

/-- Spacing of the unbounded grid at a magnitude (01 R41). -/
def gridStep (t : Nat) (m : Rat) : Rat :=
  let fl (emin emax : Int) (mb : Nat) : Rat := pow2 ((if m = 0 then emin else min emax (max emin (floorLog2 m))) - mb)
  match t with
  | 2 => fl 0 2 1
  | 4 => fl (-6) 8 3
  | 5 => fl (-14) 15 2
  | 13 => mkRat 1 128
  | _ => 1

/-- Round a magnitude to the grid of a format: to nearest ties to even, or stochastically with 16 random bits; answers the magnitude
and whether the element clips, which depends only on the magnitude (01 R41, R42, 02 R65). -/
def roundMag (t : Nat) (neg : Bool) (rnd : Option Nat) (m : Rat) : Rat × Bool :=
  let st := gridStep t m
  let near : Rat := ((roundNat 0 neg (m / st) : Nat) : Rat) * st
  let top := narrowMax t neg
  if top < near then (top, true) else
  match rnd with
  | none => (near, false)
  | some r =>
    let lo : Rat := ((roundNat 1 neg (m / st) : Nat) : Rat) * st
    if lo = m then (m, false)
    else if top ≤ lo then (top, false)
    else if (r : Rat) < ((roundNat 1 neg ((m - lo) / st * 65536) : Nat) : Rat) then (lo + st, false) else (lo, false)

/-- The code of a magnitude that the format holds; every zero is +0 (01 R17, R20). -/
def magCode (t : Nat) (neg : Bool) (m : Rat) : Nat :=
  let small (bias : Int) (mb width : Nat) : Nat :=
    let e := floorLog2 m
    let mag := if e < 1 - bias then (m / pow2 (1 - bias - mb)).num.toNat
      else ((e + bias).toNat - 1) * 2 ^ mb + (m / pow2 (e - mb)).num.toNat
    mag + (if neg then 2 ^ (width - 1) else 0)
  if m = 0 then 0 else
  match t with
  | 1 => unsigned 4 (if neg then -m.num else m.num)
  | 2 => small 1 1 4
  | 4 => small 7 3 8
  | 5 => small 15 2 8
  | 6 => unsigned 16 (if neg then -m.num else m.num)
  | 13 => unsigned 8 (if neg then -(m * 128).num else (m * 128).num)
  | _ => 0

/-- Round one value to a code of a format other than U4Z (01 R41, R42, R46): the code and whether it clips. An infinity that G8 strict writes as
an infinity counts as a clip, as every value at and above 61,440 does in the table Saturation and clips (DESIGN CHOICE: log entry 37). -/
def roundCode (t : Nat) (strict : Bool) (rnd : Option Nat) (x : Num) : Nat × Bool :=
  match x with
  | .nan => (if t = 4 then 0x7F else if t = 5 then 0x7E else 0, false)
  | .inf n => if t = 5 && strict then (if n then 0xFC else 0x7C, true) else (magCode t n (narrowMax t n), true)
  | .fin n m =>
    let r := roundMag t n rnd m
    if r.2 && t == 5 && strict then (if n then 0xFC else 0x7C, true) else (magCode t n r.1, r.2)

/-- Round one scaled value to a U4Z code with zero point `z` (01 R43, R46, 02 R63). -/
def roundU4 (z : Nat) (rnd : Option Nat) (x : Num) : Nat × Bool :=
  match x with
  | .nan => (z, false)
  | .inf n => (if n then 0 else 15, true)
  | .fin n m =>
    let near : Nat := roundNat 0 n m
    let room : Nat := if n then z else 15 - z
    if room < near then (if n then 0 else 15, true) else
    let v := match rnd with
      | none => near
      | some r =>
        let lo := roundNat 1 n m
        if (lo : Rat) = m then lo
        else if room ≤ lo then room
        else if (r : Rat) < ((roundNat 1 n ((m - (lo : Rat)) * 65536) : Nat) : Rat) then lo + 1 else lo
    (if n then z - v else z + v, false)

/-- The counter generator of 02 R64. -/
def counterGen (seed : Word64) (stream domain index : Nat) : Word64 :=
  let m1 : Word64 := 0xA5F152C39B0D7E6B
  let m2 : Word64 := 0x6C8E9CF5703421D9
  let b0 : Word64 := BitVec.ofNat 64 (stream % 2 ^ 32 * 2 ^ 32 + domain)
  let round (p : Word64 × Word64) : Word64 × Word64 :=
    let s := (p.1 ^^^ p.2) * m1
    let s := (s ^^^ (s >>> 31)) * m2
    (s ^^^ (s >>> 29), p.2.rotateLeft 16)
  (round (round (round (round (seed ^^^ BitVec.ofNat 64 index, b0))))).1

/-- The 16 random bits of an element (02 R65 step 4). -/
def stochBits (seed : Word64) (sid : Sid) (index : Nat) : Nat := (counterGen seed (sid.toNat % 2 ^ 32) 2 index).toNat / 2 ^ 48

/-- The Twist sign of a position: negative when bit 63 is 1 (02 R69). -/
def twistNeg (seed : Word64) (twSeed p : Nat) : Bool := (counterGen seed twSeed 1 p).toNat / 2 ^ 63 = 1

end Sys2Proof.Machine
end

