-- ==== Sys2Proof/Machine/Flags.lean ====
section
/-! DEFINITION. The flags of the vector engine and of conversion stitches, and their arithmetic in fast and strict mode (06 R188 to R201). -/

namespace Sys2Proof.Machine

/-- Bits of `VFLAGS` (table VFLAGS). -/
def fNV : BitVec 8 := 0x01
def fDZ : BitVec 8 := 0x02
def fOF : BitVec 8 := 0x04
def fUF : BitVec 8 := 0x08
def fNX : BitVec 8 := 0x10
def fNfSt : BitVec 8 := 0x20
def fFault : BitVec 8 := 0x40

/-- A flag when a condition holds. -/
def flagIf (c : Bool) (f : BitVec 8) : BitVec 8 := if c then f else 0

/-- Arithmetic mode of an operation: strict with its rounding attribute, or fast. -/
structure Mode where
  strict : Bool
  rm : Nat
  deriving DecidableEq, Repr

/-- An operand in its mode: a subnormal is read as zero of its sign in fast mode (06 R198). -/
def inMode (m : Mode) (f : FloatFmt) (x : Num) : Num := if m.strict then x else x.flush f

/-- An exact result rounded in its mode, with the flags of rounding (06 R198, R199). -/
def outMode (m : Mode) (f : FloatFmt) (x : Num) : Num × BitVec 8 :=
  let r := roundFloat f (if m.strict then m.rm else 0) x
  if m.strict then (r.num, flagIf r.nx fNX ||| flagIf r.of fOF ||| flagIf r.uf fUF) else (r.num.flush f, flagIf r.of fOF)

/-- Integer square root, bit by bit from bit `i` down. -/
def isqrtFrom (n : Nat) : Nat → Nat → Nat
  | 0, r => if (r + 1) * (r + 1) ≤ n then r + 1 else r
  | i + 1, r => isqrtFrom n i (if (r + 2 ^ (i + 1)) * (r + 2 ^ (i + 1)) ≤ n then r + 2 ^ (i + 1) else r)

def isqrt (n : Nat) : Nat := isqrtFrom n (Nat.log2 n / 2 + 1) 0

/-- A number that rounds to every format of at most 64 bits of precision as √x does: exact where √x is a short fraction, otherwise
between the neighbouring 130-bit fractions. -/
def sqrtRat (x : Rat) : Rat :=
  if x ≤ 0 then 0 else
  let k : Int := 130 - floorLog2 x / 2
  let y := x * pow2 (2 * k)
  let n := y.num.toNat / y.den
  let r := isqrt n
  (((2 * r + if ((r * r : Nat) : Rat) = y then 0 else 1 : Nat) : Rat)) * pow2 (-k - 1)

/-- Total order of values that are not NaNs: a < b. -/
def Num.lt (a b : Num) : Bool :=
  match a, b with
  | .nan, _ => false
  | _, .nan => false
  | .inf n, .inf k => n && !k
  | .inf n, _ => n
  | _, .inf k => !k
  | x, y => decide (x.ratD < y.ratD)

def Num.eqv (a b : Num) : Bool := !a.isNan && !b.isNan && !a.lt b && !b.lt a

/-- minimumNumber, −0 below +0 (06 R190); the other operand when exactly one is a NaN. -/
def minNum (a b : Num) : Num :=
  match a, b with
  | .nan, y => y
  | x, .nan => x
  | x, y => if x.lt y then x else if y.lt x then y else if x.neg? then x else y
/-- maximumNumber. -/
def maxNum (a b : Num) : Num :=
  match a, b with
  | .nan, y => y
  | x, .nan => x
  | x, y => if x.lt y then y else if y.lt x then x else if x.neg? then y else x

def Num.negate : Num → Num
  | .fin n m => .fin (!n) m
  | .inf n => .inf (!n)
  | .nan => .nan

/-- Sum with the sign of an exact zero by the attribute: +0, or −0 under roundTowardNegative; equal-signed zeros keep their sign. -/
def addRm (rm : Nat) (a b : Num) : Num :=
  match a, b with
  | .fin na x, .fin nb y =>
    let s := a.add b
    match s with
    | .fin _ m => if m = 0 && !(na == nb) then .fin (rm == 2) 0 else if m = 0 && (x ≠ 0 || y ≠ 0) then .fin (rm == 2) 0 else s
    | t => t
  | _, _ => a.add b

/-- Quotient with the invalid and division-by-zero cases of the standard. -/
def divNum (a b : Num) : Num × BitVec 8 :=
  match a, b with
  | .nan, _ => (.nan, 0)
  | _, .nan => (.nan, 0)
  | .inf _, .inf _ => (.nan, fNV)
  | .inf n, y => (.inf (n != y.neg?), 0)
  | x, .inf k => (.fin (x.neg? != k) 0, 0)
  | .fin n x, .fin k y =>
    if y = 0 then (if x = 0 then (.nan, fNV) else (.inf (n != k), fDZ)) else (.fin (n != k) (x / y), 0)

/-- Square root: −0 stays, negatives are invalid. -/
def sqrtNum : Num → Num × BitVec 8
  | .nan => (.nan, 0)
  | .inf n => if n then (.nan, fNV) else (.inf false, 0)
  | .fin n m => if m = 0 then (.fin n 0, 0) else if n then (.nan, fNV) else (.fin false (sqrtRat m), 0)

/-- An invalid sum: infinities of opposite signs. -/
def addInvalid (a b : Num) : Bool :=
  match a, b with
  | .inf x, .inf y => x != y
  | _, _ => false
/-- An invalid product: an infinity times zero. -/
def mulInvalid (a b : Num) : Bool :=
  match a, b with
  | .inf _, .fin _ y => y = 0
  | .fin _ x, .inf _ => x = 0
  | _, _ => false

/-- A value rounded to an integer by an attribute. -/
def toIntegral (rm : Nat) : Num → Num
  | .fin n m => .fin n ((roundNat rm n m : Nat) : Rat)
  | x => x

/-- Conversion to a signed integer of given limits: a NaN gives 0, a value out of range the nearer limit, both invalid; convertToInteger of the standard
raises no inexact (01 R47, 06 R190, R199; DEDUCED, log entry 15). -/
def toIntIn (lo hi : Int) (m : Mode) (x : Num) : Int × BitVec 8 :=
  match x with
  | .nan => (0, fNV)
  | .inf n => (if n then lo else hi, fNV)
  | .fin n q =>
    let k : Int := (roundNat (if m.strict then m.rm else 0) n q : Nat)
    let v := if n then -k else k
    if v < lo then (lo, fNV) else if hi < v then (hi, fNV) else (v, 0)

def toInt32 (m : Mode) (x : Num) : Int × BitVec 8 := toIntIn (-2147483648) 2147483647 m x
/-- To V16 as to INT32, held at ±32,767 (06 R187). -/
def toV16 (m : Mode) (x : Num) : Int × BitVec 8 := toIntIn (-32767) 32767 m x

/-- A value as a wide code of BF16, FP32 or INT32 under a mode, with its flags; an infinity or NaN that is stored raises `NF_ST`. -/
def wideOut (t : Nat) (m : Mode) (x : Num) : Nat × BitVec 8 :=
  if t = 9 then let r := toInt32 m x; (unsigned 32 r.1, r.2)
  else if t = 12 then let r := toV16 m x; (unsigned 16 r.1, r.2)
  else
    let f := if t = 7 then bf16 else fp32
    let r := outMode m f x
    (encodeFloat f r.1, r.2 ||| flagIf (!r.1.isFinite) fNfSt)

end Sys2Proof.Machine
end

