-- ==== Sys2Proof/Machine/Memory.lean ====
section
/-! DEFINITION. The memory system's operations: the address map, bytes, poison, write-combining entries and the placement of pages
in stacks (10). -/

namespace Sys2Proof.Machine

/-! ### The address map (10 R289, R290) -/

/-- HBM stacks of a grade (table Stack attachment). -/
def stacksOf : Grade → Nat
  | .m6f => 12
  | _ => 16

/-- Panels of a grade (00_scope R1). -/
def panelsOf : Grade → Nat
  | .m6f => 6
  | _ => 8

def globalEnd (g : Grade) : Nat := stacksOf g * 0x800000000
def localBase (g : Grade) (p : Nat) : Nat := globalEnd g + p * 0x1000000000
def localEnd (g : Grade) : Nat := localBase g (panelsOf g)
def pillowBase : Nat := 0x10000000000
def pillowEnd : Nat := 0x10100000000
def hostBase : Nat := 0x400000000000
def hostEnd : Nat := 0x800000000000

/-- Address of the Pillow of a physical nib. -/
def pillowOf (panel nib : Nat) : Nat := pillowBase + panel * 0x20000000 + nib * 0x200000

def inHbm (g : Grade) (a : Nat) : Bool := a < localEnd g
def inPillow (g : Grade) (a : Nat) : Bool :=
  pillowBase ≤ a && a < pillowEnd && (a - pillowBase) / 0x20000000 < panelsOf g && (a - pillowBase) % 0x20000000 / 0x200000 < 160
def inHost (a : Nat) : Bool := hostBase ≤ a && a < hostEnd
/-- Panel and physical nib of a Pillow address. -/
def pillowNib (a : Nat) : Nat × Nat := ((a - pillowBase) / 0x20000000, (a - pillowBase) % 0x20000000 / 0x200000)

/-! ### Placement of pages (10 R291) -/

/-- The exclusive or of the `w`-bit slices of a number, over enough slices for an address. -/
def foldBits (w x : Nat) : Nat := (List.range 12).foldl (fun acc i => acc ^^^ (x / 2 ^ (w * i) % 2 ^ w)) 0

/-- Where an HBM byte lies. -/
structure Place where
  stack : Nat
  pc : Nat
  sid : Nat
  bg : Nat
  bank : Nat
  row : Nat
  column : Nat
  deriving DecidableEq, Repr

/-- The controller's placement of an address in global or local HBM. -/
def place (g : Grade) (a : Nat) : Place :=
  let isGlobal := decide (a < globalEnd g)
  let p := (a - globalEnd g) / 0x1000000000
  let n := if isGlobal then stacksOf g else 2
  let base := if isGlobal then 0 else localBase g p
  let pg := (a - base) / 4096
  let r := pg % n
  let q := pg / n
  let idx := (r + foldBits 4 q) % n
  let k := q / 64 + if isGlobal then 0 else 131072
  let gb := (k % 16) ^^^ foldBits 4 (k / 16)
  { stack := if isGlobal then idx else 2 * p + idx
    pc := (q % 64) ^^^ foldBits 6 (q / 64)
    sid := gb / 4
    bg := gb % 4
    bank := (a - base) % 4096 / 1024
    row := k / 16
    column := (a - base) % 1024 }

/-- A number that names a row of the part. -/
def rowKey (l : Place) : Nat := ((((l.stack * 64 + l.pc) * 4 + l.sid) * 4 + l.bg) * 4 + l.bank) * 16384 + l.row
/-- A number that names a bank group of the part. -/
def groupKey (l : Place) : Nat := ((l.stack * 64 + l.pc) * 4 + l.sid) * 4 + l.bg

/-- A number that names a bank of the part. -/
def bankKey (l : Place) : Nat := rowKey l / 16384
/-- A number that names a pseudo-channel of the part. -/
def channelKey (l : Place) : Nat := l.stack * 64 + l.pc

/-- Two addresses lie in one pseudo-channel. -/
def sameChannel (g : Grade) (a b : Nat) : Bool := channelKey (place g a) == channelKey (place g b)
/-- Two addresses lie in one bank. -/
def sameBank (g : Grade) (a b : Nat) : Bool := bankKey (place g a) == bankKey (place g b)

/-! ### Bytes and poison (10 R301, R303, R311) -/

/-- What a byte reads as that nothing has written (log entry 6). -/
def Mem.unwritten : Byte := 0

/-- The canonical form: addresses rise strictly and no entry holds what an unlisted address reads as. -/
def Memory.wf (l : List Host.Cell) : Bool := rising l && l.all fun c => c.2 != Mem.unwritten

/-- Pending write-combining entries stand in their form: one for a granule, each holding bytes of its own granule alone (10 R295). -/
def Memory.wcbOk (l : List WcbEntry) : Bool :=
  decide (l.map (·.granule)).Nodup && l.all fun e => rising e.data && e.data.all fun c => c.1 / 64 * 64 == e.granule

/-- The stored byte at an address. -/
def cellGet (l : List Host.Cell) (a : Nat) : Byte := tgetD l a Mem.unwritten

/-- Store a byte, keeping the canonical form. -/
def cellSet (l : List Host.Cell) (a : Nat) (b : Byte) : List Host.Cell := if b = Mem.unwritten then tdel l a else tset l a b

/-- 64 KiB frame of an address. -/
def frameOf (a : Nat) : Nat := a / 65536 * 65536

/-- The frame of an address is retired (10 R311). -/
def frameRetired (m : Mem) (a : Nat) : Bool := m.retired.any fun r => r.1 == frameOf a

/-- A granule reads poisoned: its bit is set or a pending entry's is, or its frame is retired (10 R301, R311). -/
def granulePoisoned (m : Mem) (a : Nat) : Bool :=
  m.poison.contains (a / 64) || frameRetired m a || m.wcb.any fun e => e.poisoned && e.granule == a / 64 * 64

/-- Any granule of a byte range reads poisoned, by its bit, by a pending entry's or by its frame. -/
def rangePoisoned (m : Mem) (a n : Nat) : Bool :=
  n != 0 && (m.poison.any (fun g => a / 64 ≤ g && g ≤ (a + n - 1) / 64) || m.retired.any (fun r => a < r.1 + 65536 && r.1 < a + n) ||
    m.wcb.any fun e => e.poisoned && a < e.granule + 64 && e.granule < a + n)

/-- Store one byte unless its frame is retired (10 R303). -/
def storeByte (m : Mem) (a : Nat) (b : Byte) : Mem := if frameRetired m a then m else { m with bytes := cellSet m.bytes a b }

def storeBytes (m : Mem) (ws : List (Nat × Byte)) : Mem := ws.foldl (fun m w => storeByte m w.1 w.2) m

def setPoison (m : Mem) (g : Nat) : Mem := { m with poison := ninsert m.poison g }
def clearPoison (m : Mem) (g : Nat) : Mem := { m with poison := m.poison.filter (· != g) }

/-- Drain one write-combining entry: data that depends on poison sets the granule's poison, a full mask of clean data writes the granule and clears
it, and any other merges its bytes and keeps it (10 R296, R297, R303). -/
def drainEntry (m : Mem) (e : WcbEntry) : Mem :=
  let m := storeBytes m e.data
  if e.poisoned then setPoison m (e.granule / 64) else if e.data.length = 64 then clearPoison m (e.granule / 64) else m

/-- Drain every entry that satisfies a test, oldest first. -/
def drainIf (m : Mem) (p : WcbEntry → Bool) : Mem :=
  { (m.wcb.filter p).foldl drainEntry m with wcb := m.wcb.filter fun e => !p e }

/-- The byte at an address as a reader finds it: a pending entry's byte is drained before the read (10 R296). -/
def memByte (m : Mem) (a : Nat) : Byte :=
  if frameRetired m a then 0 else
  match (m.wcb.filter fun e => e.granule == a / 64 * 64).getLast? with
  | some e => (tget e.data a).getD (cellGet m.bytes a)
  | none => cellGet m.bytes a

/-- What a stitch writes: its bytes by address, and the granules whose data depends on poison. -/
structure WriteSet where
  bytes : Tbl Byte := []
  poisoned : List Nat := []
  deriving DecidableEq, Repr, Inhabited

/-- Granules that a write set touches. -/
def touched (ws : WriteSet) : List Nat := ws.bytes.foldl (fun l w => ninsert l (w.1 / 64)) []

/-- Bytes merged into an entry, with the tag of their stitch and whether they depend on poison (10 R295). -/
def mergeEntry (e : WcbEntry) (data : Tbl Byte) (bad : Bool) (sid : Option Sid) : WcbEntry :=
  { e with data := data.foldl (fun t c => tset t c.1 c.2) e.data, poisoned := bad || (e.poisoned && data.length != 64)
           tags := sid.elim e.tags fun x => if e.tags.contains x then e.tags else e.tags ++ [x] }

/-- The entry that must drain to free one for a granule: the oldest of its pseudo-channel's buffer, when that is full (10 R296). -/
def fullOldest (g : Grade) (m : Mem) (a : Nat) : Option WcbEntry :=
  if m.wcb.length < 64 || m.wcb.any fun e => e.granule == a then none else
  let mine := m.wcb.filter fun e => sameChannel g e.granule a
  if mine.length < 64 then none else mine.head?

/-- An entry for a granule: the one it has, or a new one. -/
def allocEntry (g : Grade) (now : Nat) (m : Mem) (gr : Nat) : Mem :=
  if m.wcb.any fun e => e.granule == gr then m else
  let m := (fullOldest g m gr).elim m fun e => drainIf m fun x => x.granule == e.granule
  { m with wcb := m.wcb ++ [{ granule := gr, since := now }] }

/-- A write is accepted into the entry of its granule, which drains when its mask is full (10 R295, R296). -/
def acceptGranule (g : Grade) (now : Nat) (sid : Option Sid) (m : Mem) (gr : Nat) (data : Tbl Byte) (bad : Bool) : Mem :=
  let m := allocEntry g now m gr
  let m := { m with wcb := m.wcb.map fun e => if e.granule == gr then mergeEntry e data bad sid else e }
  drainIf m fun e => e.data.length == 64

/-- The share of one granule in a write set, given by its number. -/
def shareOf (ws : WriteSet) (k : Nat) : Tbl Byte := ws.bytes.filter fun c => c.1 / 64 == k

/-- A Pillow has no write-combining buffer: its lines are written at once (10 R304). -/
def storeLine (m : Mem) (k : Nat) (data : Tbl Byte) (bad : Bool) : Mem :=
  drainEntry m { granule := k * 64, data := data, poisoned := bad }

/-- One granule of a write set goes into memory. -/
def commitGranule (g : Grade) (now : Nat) (sid : Option Sid) (ws : WriteSet) (m : Mem) (k : Nat) : Mem :=
  let bad := ws.poisoned.contains k
  if inHbm g (k * 64) then acceptGranule g now sid m (k * 64) (shareOf ws k) bad else storeLine m k (shareOf ws k) bad

/-- Put a write set into memory, granule by granule; a granule of it that depends on poison and holds none of its bytes gets its poison bit (10
R295, R303). -/
def commitWrites (g : Grade) (now : Nat) (sid : Option Sid) (m : Mem) (ws : WriteSet) : Mem :=
  let gs := touched ws
  (ws.poisoned.filter fun k => !gs.contains k).foldl setPoison (gs.foldl (commitGranule g now sid ws) m)

/-- A write set of bytes from an address. -/
def bytesAt (a : Nat) (l : List Byte) : WriteSet := { bytes := (List.range l.length).map fun i => (a + i, l.getD i 0) }

/-- Drain the pending entries of a byte range, which a read reaches (10 R296). -/
def drainRange (m : Mem) (a n : Nat) : Mem := drainIf m fun e => a < e.granule + 64 && e.granule < a + n

/-- Zero bytes of a range and clear its poison, retired frames excepted (15 R447, 10 R303). -/
def zeroRange (m : Mem) (a n : Nat) : Mem :=
  let m := drainRange m a n
  { m with bytes := m.bytes.filter fun c => c.1 < a || a + n ≤ c.1
           poison := m.poison.filter fun g => g * 64 < a || a + n ≤ g * 64 }

end Sys2Proof.Machine
end

