-- ==== Sys2Proof/Machine/Operands.lean ====
section
/-! DEFINITION. Operand forms: bytes at part addresses, windows, stitches, descriptors, footprints, and the elements of a tensor under its
descriptor and side tensors (07, 08). -/

namespace Sys2Proof.Machine

/-! ### Bytes at part addresses -/

/-- The host bus address behind a part address of the host region (14 R403). -/
def hostXlat (s : State) (a : Nat) : Option Nat :=
  let ws := (s.jobs.map fun j => j.2.windows).flatten ++ s.hub.staging
  (ws.find? fun w => w.kind == 3 && w.base ≤ a && a < w.base + w.size).map fun w => w.hostAddr + (a - w.base)

/-- The byte at a part address. -/
def rdByte (s : State) (a : Nat) : Byte :=
  if inHost a then (hostXlat s a).elim 0 fun h => tgetD s.host h 0 else memByte s.mem a

def rdBytes (s : State) (a n : Nat) : List Byte := (List.range n).map fun i => rdByte s (a + i)
def rdLe (s : State) (a n : Nat) : Nat := leNat (rdBytes s a n)

/-- Any granule of a byte range at part addresses is poisoned; a Pillow whose nib is retired reads poisoned (10 R290). -/
def rangePoison (s : State) (a n : Nat) : Bool :=
  rangePoisoned s.mem a n ||
    (n != 0 && inPillow s.nibs.grade a && (let p := pillowNib a; s.nibs.retired.contains (p.1 * 160 + p.2)))

/-- `w` bits at a bit address. -/
def rdBits (s : State) (ba w : Nat) : Nat :=
  if w ≤ 8 then (rdByte s (ba / 8)).toNat / 2 ^ (ba % 8) % 2 ^ w else rdLe s (ba / 8) (w / 8)

/-- Put a write set into HBM and the Pillows, for a stitch or for Ohmub and the host. -/
def putMem (s : State) (sid : Option Sid) (ws : WriteSet) : State := { s with mem := commitWrites s.nibs.grade s.clk.now sid s.mem ws }

/-- Write bytes at a part address, through a host window or to HBM or a Pillow. -/
def wrBytes (s : State) (a : Nat) (l : List Byte) : State :=
  if inHost a then
    (List.range l.length).foldl (fun s i =>
      match hostXlat s (a + i) with
      | some h => { s with host := tset s.host h (l.getD i 0) }
      | none => s) s
  else putMem s none (bytesAt a l)

/-- Apply a write set of a stitch, or of Ohmub, whose addresses may lie in host windows. -/
def applyWrites (s : State) (sid : Option Sid) (ws : WriteSet) : State :=
  let host := ws.bytes.filter fun w => inHost w.1
  let s := putMem s sid { bytes := ws.bytes.filter (fun w => !inHost w.1), poisoned := ws.poisoned }
  host.foldl (fun s w => wrBytes s w.1 [w.2]) s

/-- A read reaches a byte range: its pending entries drain (10 R296). -/
def reachRange (s : State) (a n : Nat) : State := { s with mem := drainRange s.mem a n }

/-! ### Jobs, queues and admitted stitches by number -/

def jobOf (s : State) (j : Nat) : Option Job := tget s.jobs j
def putJob (s : State) (j : Job) : State := { s with jobs := tset s.jobs j.id j }
def queueOf (s : State) (q : Nat) : Option Queue := tget s.queues q
def putQueue (s : State) (n : Nat) (q : Queue) : State := { s with queues := tset s.queues n q }
/-- Change a job if it is open. -/
def updJob (s : State) (j : Nat) (f : Job → Job) : State := (jobOf s j).elim s fun jb => putJob s (f jb)
def actOf (s : State) (sid : Sid) : Option Active := s.acts.find? fun a => a.sid == sid
def putAct (s : State) (a : Active) : State := { s with acts := s.acts.map fun b => if b.sid == a.sid then a else b }
def dropAct (s : State) (sid : Sid) : State := { s with acts := s.acts.filter fun b => b.sid != sid }
def pinOf (j : Job) (p : Nat) : Word32 := tgetD j.pins p 0

/-- A range lies in one window of the job (07 R212). -/
def inWindow (j : Job) (a n : Nat) : Bool := j.windows.any fun w => w.base ≤ a && a + n ≤ w.base + w.size
def windowAt (j : Job) (a : Nat) : Option Window := j.windows.find? fun w => w.base ≤ a && a < w.base + w.size

/-! ### Stitches (08 R229) -/

/-- A stitch from its 128 bytes. -/
def parseStitch (l : List Byte) : Stitch :=
  let x := leNat l
  let f (hi lo : Nat) := bits x hi lo
  { opcode := f 7 0, compat := f 11 8, pass := f 13 12, mb := f 21 14, passes := f 23 22, passOpnd := f 24 24, sparse := f 26 25
    round := bit x 27, scaleSrc := bit x 28, twist := bit x 29, strict := bit x 30, rm := f 33 31, gradAcc := bit x 34
    tileq := bit x 35, notify := bit x 36, repSrc := bit x 37, crEn := bit x 38, group := f 63 48, nset := f 95 64, cost := f 127 96
    opnd := [f 159 128, f 191 160, f 223 192, f 255 224], out := f 287 256, shapeCtl := f 319 288, rep := f 351 320
    repHandle := f 383 352, waits := [f 447 384, f 511 448, f 575 512, f 639 576], signal := f 703 640, crecAddr := f 751 704
    aux := f 895 768, user := BitVec.ofNat 64 (f 959 896), rsv := f 1023 960 != 0 || f 767 752 != 0 || f 47 39 != 0 }

/-- Address of the ring slot of a sequence number (08 R235). -/
def slotAddr (q : Queue) (seq : Nat) : Nat := q.ringBase + seq % 2 ^ q.logSize * 128

/-- The stitch in a ring slot. -/
def slotStitch (s : State) (q : Queue) (seq : Nat) : Stitch := parseStitch (rdBytes s (slotAddr q seq) 128)

/-- The 64-bit stitch ID (08 R235). -/
def stitchId (job queue seq : Nat) : Sid :=
  let mix : Word32 := (BitVec.ofNat 32 (queue * 0x9E3779B9)).rotateLeft 16
  BitVec.ofNat 64 (job % 4096 * 2 ^ 52 + queue % 2 ^ 20 * 2 ^ 32 + (BitVec.ofNat 32 seq ^^^ mix).toNat)

/-- Opcodes of the table Opcodes. -/
def opNop : Nat := 0x01
def opCommit : Nat := 0x02
def opMatmul : Nat := 0x10
def opGatherMm : Nat := 0x11
def opRoute : Nat := 0x12
def opConvert : Nat := 0x18
def opDeriv : Nat := 0x19
def opUpdate : Nat := 0x1A
def opVscript : Nat := 0x20
def opCopy : Nat := 0x28
def opFetch : Nat := 0x29
def opGather : Nat := 0x2A
def opScatter : Nat := 0x2B
def opStashFree : Nat := 0x2C
def opReduce : Nat := 0x30
def opMulticast : Nat := 0x31
def opSend : Nat := 0x32
def opCheck : Nat := 0x38

def isProduct (op : Nat) : Bool := op == opMatmul || op == opGatherMm
def isGround (op : Nat) : Bool := op == opReduce || op == opMulticast || op == opSend
/-- Opcodes that run on nibs, so that `NSET` must name some (08 R233). -/
def onNibs (op : Nat) : Bool :=
  isProduct op || op == opRoute || op == opConvert || op == opDeriv || op == opUpdate || op == opVscript || op == opCopy || op == opFetch ||
    op == opGather || op == opScatter || op == opCheck
/-- Opcodes that carry the quantiser controls (02 R53). -/
def quOpcode (op : Nat) : Bool := isProduct op || op == opConvert || op == opDeriv || op == opVscript || op == opReduce
/-- Bit-for-bit moves (02 R50). -/
def isMove (op : Nat) : Bool :=
  op == opCopy || op == opFetch || op == opGather || op == opScatter || op == opSend || op == opMulticast
/-- The repeat count of these opcodes is a number of rows or runs (table Opcodes). -/
def countsRows (op : Nat) : Bool := op == opGatherMm || op == opVscript || op == opGather || op == opScatter

/-- A wait in force is satisfied by its pin's value (08 R237). -/
def waitMet (pin value : Word32) : Bool := (pin - value).toNat < 2 ^ 31
def wPin (w : Nat) : Nat := bits w 19 0
def wEn (w : Nat) : Bool := bit w 31
def wValue (w : Nat) : Word32 := BitVec.ofNat 32 (bits w 63 32)
def sInc (x : Nat) : Nat := bits x 47 32
/-- All waits of a stitch are satisfied at once. -/
def waitsMet (j : Job) (st : Stitch) : Bool := st.waits.all fun w => !wEn w || waitMet (pinOf j (wPin w)) (wValue w)

/-- Dimension roles of `SHAPE_CTL` (08 R229). -/
def aRed (st : Stitch) : Nat := bits st.shapeCtl 2 0
def aRow (st : Stitch) : Nat := bits st.shapeCtl 5 3
def bRed (st : Stitch) : Nat := bits st.shapeCtl 8 6
def bCol (st : Stitch) : Nat := bits st.shapeCtl 11 9
def oRow (st : Stitch) : Nat := bits st.shapeCtl 14 12
def oCol (st : Stitch) : Nat := bits st.shapeCtl 17 15
/-- `PERM`[d]. -/
def permOf (st : Stitch) (d : Nat) : Nat := bits st.shapeCtl (3 * d + 2) (3 * d)
def slotOf (st : Stitch) (i : Nat) : Nat := st.opnd.getD i 0

/-! ### Descriptors (07 R205) -/

def parseDesc (handle : Nat) (l : List Byte) : Desc :=
  let x := leNat l
  let f (hi lo : Nat) := bits x hi lo
  { handle := handle, twSeed := f 511 480, twDim := f 458 456, twSize := f 449 448, base := f 447 400
    sizes := [f 399 368, f 367 336, f 335 304, f 303 272, f 271 240]
    strides := [signed 40 (f 239 200), signed 40 (f 199 160), signed 40 (f 159 120), signed 40 (f 119 80), signed 40 (f 79 40)]
    scOff := f 39 36, zpOff := f 35 32, gpOff := f 31 28, tag := f 27 20, rank := f 19 17, bdim1 := f 16 14, bdim0 := f 13 11
    shape := f 10 9, type := f 8 5, stash := bit x 4, readOnly := bit x 3, frozen := bit x 2
    rsv := f 1 0 != 0 || f 479 459 != 0 || f 455 450 != 0 }

/-- A handle-table entry names a descriptor (07 R203): its address. -/
def handleEntry (s : State) (j : Job) (h : Nat) : Option Nat :=
  match j.handles with
  | none => none
  | some (addr, n) =>
    if h = 0 || n ≤ h || 16777215 < h then none else
    let e := rdLe s (addr + 8 * h) 8
    if bit e 63 && bits e 62 48 == 0 && bits e 5 0 == 0 then some (bits e 47 0) else none

/-- The descriptor of a handle, as it stands in memory now (07 R204). -/
def readDesc (s : State) (j : Job) (h : Nat) : Option Desc := (handleEntry s j h).map fun a => parseDesc h (rdBytes s a 64)

/-- A descriptor's bytes or its table entry lie in a poisoned granule (12 R378). -/
def descPoisoned (s : State) (j : Job) (h : Nat) : Bool :=
  match j.handles with
  | none => false
  | some (addr, _) => rangePoison s (addr + 8 * h) 8 || (handleEntry s j h).any fun a => rangePoison s a 64

/-- Side handles of a descriptor (07 R207). -/
def scHandle (d : Desc) : Nat := if d.scOff = 0 then 0 else d.handle + d.scOff
def zpHandle (d : Desc) : Nat := if d.zpOff = 0 then 0 else d.handle + d.zpOff
def gpHandle (d : Desc) : Nat := if d.gpOff = 0 then 0 else d.handle + d.gpOff

/-- A named tensor with every side tensor that resolves. -/
def readOperand (s : State) (j : Job) (h : Nat) : Option Operand :=
  (readDesc s j h).map fun d =>
    let side (k : Nat) := if k = 0 then none else readDesc s j k
    let sc := side (scHandle d)
    { desc := d, scale := sc, zero := side (zpHandle d), gimp := side (gpHandle d)
      l1 := sc.bind fun e => side (scHandle e), amax := sc.bind fun e => side (zpHandle e) }

/-- Sizes and strides within the rank. -/
def dims (d : Desc) : List Nat := d.sizes.take d.rank
def strd (d : Desc) : List Int := d.strides.take d.rank
def sizeAt (d : Desc) (i : Nat) : Nat := d.sizes.getD i 0
def strideAt (d : Desc) (i : Nat) : Int := d.strides.getD i 0
def blocked (d : Desc) : Bool := d.shape == 1 || d.shape == 2
/-- Elements of a tensor. -/
def elems (d : Desc) : Nat := (dims d).foldl (· * ·) 1
/-- Block edge along a dimension: 32 or 8 on a block dimension, else 1. -/
def edgeAt (d : Desc) (i : Nat) : Nat :=
  if d.shape = 1 && i == d.bdim0 then 32 else if d.shape = 2 && (i == d.bdim0 || i == d.bdim1) then 8 else 1
/-- Positions of a block. -/
def blockLen (d : Desc) : Nat := if d.shape = 1 then 32 else if d.shape = 2 then 64 else 1
/-- A K4 descriptor whose zero-point handle names metadata is 2-of-4 (07 R211). -/
def isSparse (d : Desc) : Bool := d.type == 1 && d.zpOff != 0 && blocked d
/-- Codes stored for one block. -/
def storedLen (d : Desc) : Nat := if isSparse d then blockLen d / 2 else blockLen d
/-- Number of blocks along each dimension: the sizes of the S8 tensor (01 R28). -/
def gridDims (d : Desc) : List Nat := (List.range d.rank).map fun i => ceilDiv (sizeAt d i) (edgeAt d i)
/-- Blocks of a blocked tensor, elements of an unblocked one. -/
def cells (d : Desc) : Nat := (gridDims d).foldl (· * ·) 1

/-- Linear index of a multi-index, last dimension fastest (02 R65). -/
def linear (sizes idx : List Nat) : Nat := (List.zip sizes idx).foldl (fun acc p => acc * p.1 + p.2) 0
/-- Multi-index of a linear index. -/
def unlinear (sizes : List Nat) (n : Nat) : List Nat :=
  (sizes.foldr (fun z acc => (acc.1 / z, acc.1 % z :: acc.2)) (n, [])).2

/-- The cell of an element and its position in it (01 R31, 07 R209). -/
def cellOf (d : Desc) (idx : List Nat) : Nat × Nat :=
  let at_ (i : Nat) := idx.getD i 0
  let cell := linear (gridDims d) ((List.range d.rank).map fun i => at_ i / edgeAt d i)
  (cell, if d.shape = 1 then at_ d.bdim0 % 32 else if d.shape = 2 then at_ d.bdim0 % 8 * 8 + at_ d.bdim1 % 8 else 0)

/-- The element at a position of a cell, none for a pad position (01 R33). -/
def elemAt (d : Desc) (cell pos : Nat) : Option (List Nat) :=
  let g := unlinear (gridDims d) cell
  let idx := (List.range d.rank).map fun i =>
    let b := g.getD i 0 * edgeAt d i
    if d.shape = 1 && i == d.bdim0 then b + pos else if d.shape = 2 && i == d.bdim0 then b + pos / 8
    else if d.shape = 2 && i == d.bdim1 then b + pos % 8 else b
  if (List.zip idx (dims d)).all fun p => p.1 < p.2 then some idx else none

/-- Element offset of a cell's first stored code (07 R208, R209). -/
def cellOffset (d : Desc) (cell : Nat) : Int :=
  (List.zip (unlinear (gridDims d) cell) (strd d)).foldl (fun acc p => acc + (p.1 : Int) * p.2) 0

/-- Bit address of stored code `j` of a cell. -/
def codeBit (d : Desc) (cell j : Nat) : Nat :=
  ((d.base : Int) * 8 + (cellOffset d cell + (j : Int)) * (typeBits d.type : Int)).toNat

/-- Footprint of a tensor whose blocks store `u` codes: first byte and length (07 R212); packed side tensors are counted from their base
(07 R483). -/
def footprintOf (u : Nat) (d : Desc) : Int × Nat :=
  let ms := List.zip (gridDims d) (strd d)
  let lo : Int := ms.foldl (fun acc p => acc + min 0 (p.2 * ((p.1 : Int) - 1))) 0
  let hi : Int := ms.foldl (fun acc p => acc + max 0 (p.2 * ((p.1 : Int) - 1))) 0 + (u : Int) - 1
  let w : Int := typeBits d.type
  let first := (d.base : Int) + (lo * w) / 8
  let last := (d.base : Int) + ((hi + 1) * w + 7) / 8
  (first, (last - first).toNat)

def footprint (d : Desc) : Int × Nat := footprintOf (storedLen d) d

/-! ### 2-of-4 metadata (01 R38, R39, 07 R211) -/

/-- Sparsity dimension. -/
def sparseDim (d : Desc) : Nat := if d.shape = 2 then d.bdim1 else d.bdim0
/-- Sizes of the grid of groups. -/
def groupDims (d : Desc) : List Nat := (List.range d.rank).map fun i => if i = sparseDim d then ceilDiv (sizeAt d i) 4 else sizeAt d i
/-- Number of groups. -/
def groups (d : Desc) : Nat := (groupDims d).foldl (· * ·) 1
/-- Group number of an element. -/
def groupOf (d : Desc) (idx : List Nat) : Nat :=
  linear (groupDims d) ((List.range d.rank).map fun i => if i = sparseDim d then idx.getD i 0 / 4 else idx.getD i 0)

/-- Items of a packed side tensor (07 R483): what it must hold in 32-bit words. -/
def packedWords (d : Desc) (gimp sparse : Bool) : Nat :=
  if gimp then cells d else if sparse then ceilDiv (groups d) 8 else ceilDiv (cells d) 8

/-! ### Tensors as their readers see them -/

/-- A tensor's stored data by cell. -/
structure View where
  desc : Desc
  gimp : Bool
  /-- Stored code `j` of a cell. -/
  code : Nat → Nat → Nat
  s8 : Nat → Nat
  zp : Nat → Nat
  gword : Nat → Nat
  /-- Group entry. -/
  group : Nat → Nat
  l1 : Nat → Num
  /-- Stored code `j` of a cell lies in poison. -/
  codeBad : Nat → Nat → Bool
  /-- The cell's S8 code lies in poison. -/
  s8Bad : Nat → Bool
  /-- The cell's gimp word or zero point lies in poison. -/
  sideBad : Nat → Bool
  /-- A group entry lies in poison. -/
  groupBad : Nat → Bool
  /-- The level-1 scale of an index of dimension 0 lies in poison. -/
  l1Bad : Nat → Bool

/-- A tensor all of whose data reads as poison. -/
def View.poison (v : View) : View := { v with codeBad := fun _ _ => true, s8Bad := fun _ => true }

/-- S8 code of a cell in an S8 tensor. -/
def s8Addr (sc : Desc) (cell : Nat) : Nat := codeBit sc cell 0 / 8

/-- Bit address of the level-1 scale of an index of dimension 0 (01 R29). -/
def l1Bit (d : Desc) (i0 : Nat) : Nat := codeBit d (if d.rank = 0 then 0 else i0) 0

/-- Level-1 scale of an index of dimension 0 (01 R29). -/
def level1 (s : State) (l1 : Option Desc) (i0 : Nat) : Num :=
  l1.elim (.fin false 1) fun d => decodeFloat fp32 (rdBits s (l1Bit d i0) 32)

/-- A registered handle reads its front buffer (05 R162). -/
def frontDesc (j : Job) (d : Desc) (back : Bool) : Desc :=
  let odd := decide (j.committed % 2 = 1) != back
  match j.prot.find? fun p => p.handle == d.handle || (p.state != 0 && p.state == d.handle) with
  | none => d
  | some p => if odd then { d with base := if p.handle == d.handle then p.altBase else p.stateAlt } else d

/-- A tensor in memory. -/
def memView (s : State) (o : Operand) : View :=
  let d := o.desc
  let nib (t : Option Desc) (n : Nat) := t.elim 0 fun z => rdBits s (z.base * 8 + 4 * n) 4
  let w := typeBits d.type
  { desc := d, gimp := o.gimp.isSome, code := fun c j => rdBits s (codeBit d c j) w
    s8 := fun c => o.scale.elim 127 fun z => rdBits s (codeBit z c 0) 8
    zp := fun c => if d.type = 3 then nib o.zero c else 0
    gword := fun c => o.gimp.elim 0 fun z => rdLe s (z.base + 4 * c) 4
    group := fun g => nib o.zero g
    l1 := level1 s o.l1
    codeBad := fun c j => rangePoison s (codeBit d c j / 8) ((w + 7) / 8)
    s8Bad := fun c => o.scale.any fun z => rangePoison s (s8Addr z c) 1
    sideBad := fun c => (o.gimp.any fun z => rangePoison s (z.base + 4 * c) 4) || (d.type == 3 && o.zero.any fun z => rangePoison s (z.base + c / 2) 1)
    groupBad := fun g => isSparse d && o.zero.any fun z => rangePoison s (z.base + g / 2) 1
    l1Bad := fun i => o.l1.any fun z => rangePoison s (l1Bit z i / 8) 4 }

/-! ### The Blotter's records (05 R146) -/

def zeroUnit : Nat × List Nat := (0, [])

/-- The runs of a record: (literal, length). -/
def runWords (s : State) (a n : Nat) : List (Bool × Nat) :=
  (List.range n).map fun i => let w := rdLe s (a + 2 * i) 2; (bit w 15, w % 32768)

/-- For each unit of a record: its place among the literal units, none for a zero unit. -/
def literalIndex (runs : List (Bool × Nat)) : List (Option Nat) :=
  (runs.foldl (fun (acc : List (Option Nat) × Nat) r =>
    if r.1 then (acc.1 ++ (List.range r.2).map (fun i => some (acc.2 + i)), acc.2 + r.2) else (acc.1 ++ List.replicate r.2 none, acc.2))
    ([], 0)).1

def pad64 (n : Nat) : Nat := ceilDiv n 64 * 64

/-- Where the parts of a record lie: run words, S8 codes, gimp words, literal codes. -/
structure RecLayout where
  runs : Nat
  s8 : Nat
  gimp : Nat
  codes : Nat
  deriving DecidableEq, Repr

def recLayout (addr runs lit : Nat) (isBlocked gimp : Bool) : RecLayout :=
  let s8 := addr + 64 + pad64 (2 * runs)
  let gw := s8 + if isBlocked then pad64 lit else 0
  { runs := addr + 64, s8 := s8, gimp := gw, codes := gw + if gimp then 4 * lit else 0 }

/-- A tensor in the Blotter: zero units reach the engines as zero blocks or zero granules (05 R147). `crcBad` marks a record whose body
fails its CRC. -/
def stashView (s : State) (o : Operand) (addr : Nat) (crcBad : Bool) : View :=
  let d := o.desc
  let hdr := rdBytes s addr 64
  let x := leNat hdr
  let lay := recLayout addr (bits x 351 320) (bits x 319 288) (blocked d) (bit x 457)
  let lits := literalIndex (runWords s lay.runs (bits x 351 320))
  let w := typeBits d.type
  let lit (u : Nat) := (lits.getD u none)
  let l1 := decodeFloat fp32 (bits x 255 224)
  let nib (t : Option Desc) (n : Nat) := t.elim 0 fun z => rdBits s (z.base * 8 + 4 * n) 4
  let headBad := crcBad || rangePoison s addr (64 + 2 * bits x 351 320)
  { desc := d, gimp := bit x 457
    code := fun c j =>
      if blocked d then (lit c).elim 0 fun k => rdBits s ((lay.codes * 8) + (k * storedLen d + j) * w) w
      else let b := c * w; (lit (b / 512)).elim 0 fun k => rdBits s (lay.codes * 8 + k * 512 + b % 512) w
    s8 := fun c => if blocked d then (lit c).elim 0 fun k => (rdByte s (lay.s8 + k)).toNat else 127
    zp := fun c => if d.type = 3 then nib o.zero c else 0
    gword := fun c => (lit c).elim 0 fun k => rdLe s (lay.gimp + 4 * k) 4
    group := fun g => nib o.zero g
    l1 := fun _ => l1
    codeBad := fun c j =>
      if blocked d then (lit c).any fun k => rangePoison s ((lay.codes * 8 + (k * storedLen d + j) * w) / 8) ((w + 7) / 8)
      else headBad || (lit (c * w / 512)).any fun k => rangePoison s (lay.codes + k * 64 + c * w % 512 / 8) ((w + 7) / 8)
    s8Bad := fun c => headBad || (lit c).any fun k => rangePoison s (lay.s8 + k) 1
    sideBad := fun c => (bit x 457 && (lit c).any fun k => rangePoison s (lay.gimp + 4 * k) 4) ||
      (d.type == 3 && o.zero.any fun z => rangePoison s (z.base + c / 2) 1)
    groupBad := fun g => isSparse d && o.zero.any fun z => rangePoison s (z.base + g / 2) 1
    l1Bad := fun _ => false }

/-! ### Element values -/

def slotPos (g : Nat) : Nat := bits g 7 2
def slotVal (g : Nat) : Nat := bits g 15 8
/-- The non-empty slots of a gimp word; the reserved bits [1:0] of a slot are ignored (00 R11, 01 R34). -/
def slots (w : Nat) : List Nat := [w % 65536 / 4 * 4, w / 65536 % 65536 / 4 * 4].filter (· != 0)

/-- Stored code of a dense position of a 2-of-4 block, none where it is dropped or its group is malformed (07 R211). -/
def keptIndex (v : View) (cell pos : Nat) : Option Nat :=
  if !isSparse v.desc then some pos else
  match elemAt v.desc cell pos with
  | none => none
  | some idx =>
    let e := v.group (groupOf v.desc idx)
    let i0 := e % 4
    let i1 := e / 4 % 4
    if i1 ≤ i0 then none
    else if pos % 4 = i0 then some (pos / 4 * 2) else if pos % 4 = i1 then some (pos / 4 * 2 + 1) else none

/-- Code of a dense position, zero where a 2-of-4 block drops it. -/
def denseCode (v : View) (cell pos : Nat) : Nat := (keptIndex v cell pos).elim 0 fun j => v.code cell j

/-- A gimp slot is malformed: no escape code at its position, beyond the block, dropped, or an A8 NaN (01 R37). A pad position is taken as
zero whatever its code (01 R33), so a slot that names one is malformed in a dense and in a 2-of-4 block alike (DESIGN CHOICE: log entry 37). -/
def slotBad (v : View) (cell : Nat) (g : Nat) : Bool :=
  blockLen v.desc ≤ slotPos g || (elemAt v.desc cell (slotPos g)).isNone || (keptIndex v cell (slotPos g)).isNone ||
    denseCode v cell (slotPos g) != 8 || slotVal g % 128 == 127

/-- The gimp value at a position: the slot that names it, unless it is malformed or doubled. -/
def gimpAt (v : View) (cell pos : Nat) : Option Num :=
  match (slots (v.gword cell)).filter fun g => slotPos g == pos with
  | [g] => if slotBad v cell g then none else some (a8Val (slotVal g))
  | _ => none

/-- Value of a position in units of the block scale, before S8 and level 1. -/
def unitVal (v : View) (cell pos : Nat) : Num :=
  match keptIndex v cell pos with
  | none => .fin false 0
  | some j =>
    let c := v.code cell j
    if v.desc.type = 1 && c == 8 then (if v.gimp then (gimpAt v cell pos).getD (.fin false 0) else .fin false 0)
    else codeVal v.desc.type (v.zp cell) c

/-- S8 of a cell; unblocked cells have 2^0. -/
def cellS8 (v : View) (cell : Nat) : Nat := if blocked v.desc then v.s8 cell else 127

/-- Value of a position without the level-1 scale: a zero block reads zero (01 R14, R26). -/
def scaledVal (v : View) (cell pos : Nat) : Num :=
  if !blocked v.desc then unitVal v cell pos
  else if v.s8 cell = 0 then .fin false 0
  else (unitVal v cell pos).scale (pow2 ((v.s8 cell : Int) - 127))

/-- A cell is a zero block (01 R26). -/
def zeroCell (v : View) (cell : Nat) : Bool := blocked v.desc && v.s8 cell == 0

/-- Exact value of an element (01 R14); a zero block reads zero whatever its level-1 scale (01 R26, 02 R74). -/
def elemVal (v : View) (idx : List Nat) : Num :=
  let c := cellOf v.desc idx
  if zeroCell v c.1 then .fin false 0 else (v.l1 (idx.getD 0 0)).mul (scaledVal v c.1 c.2)

/-- An element depends on poison (01 R27): of a zero block only the S8 code is read (01 R26), of any other block its S8 code, the code kept
for the element, its gimp word or zero point, its group entry and its level-1 scale. -/
def elemBad (v : View) (idx : List Nat) : Bool :=
  let c := cellOf v.desc idx
  if !blocked v.desc then v.codeBad c.1 0
  else v.s8Bad c.1 || v.s8 c.1 == 255 || (v.s8 c.1 != 0 &&
    (v.sideBad c.1 || v.l1Bad (idx.getD 0 0) || (isSparse v.desc && v.groupBad (groupOf v.desc idx)) || (keptIndex v c.1 c.2).any (v.codeBad c.1)))

/-- The level-1 scale of an operand that an element uses is no finite number (01 R30). -/
def elemL1Bad (v : View) (idx : List Nat) : Bool := !(v.l1 (idx.getD 0 0)).isFinite

/-- Malformed items of a cell (01 R37): escapes without a slot, and slots that name none. Two non-empty slots at one position are one item
beside the slots that are malformed on another ground (DESIGN CHOICE: log entry 37). -/
def cellMalformed (v : View) (cell : Nat) : Nat :=
  if v.desc.type ≠ 1 || v.s8 cell = 0 || v.s8 cell = 255 then 0 else
  let ps := (List.range (blockLen v.desc)).filter fun p => (elemAt v.desc cell p).isSome
  let esc := ps.filter fun p => (keptIndex v cell p).any fun j => v.code cell j == 8
  if !v.gimp then esc.length else
  let sl := slots (v.gword cell)
  let dup := match sl with
    | [a, b] => slotPos a == slotPos b
    | _ => false
  (esc.filter fun p => (gimpAt v cell p).isNone && !(sl.any fun g => slotPos g == p)).length +
    (sl.filter fun g => slotBad v cell g).length + if dup then 1 else 0

/-- Malformed groups of the cells `rd` of a 2-of-4 tensor (01 R39), blocks that read zero or poisoned left out. -/
def groupMalformed (v : View) (rd : Nat → Bool) : Nat :=
  if !isSparse v.desc then 0 else
  ((List.range (groups v.desc)).filter fun g =>
    let gi := unlinear (groupDims v.desc) g
    let idx := (List.range v.desc.rank).map fun i => if i = sparseDim v.desc then gi.getD i 0 * 4 else gi.getD i 0
    let c := (cellOf v.desc idx).1
    rd c && v.s8 c != 0 && v.s8 c != 255 && v.group g / 4 % 4 ≤ v.group g % 4).length

/-- Malformed items of the cells of a tensor that a stitch reads (01 R37). -/
def malformedIn (v : View) (rd : Nat → Bool) : Nat :=
  if !blocked v.desc then 0
  else ((List.range (cells v.desc)).filter rd).foldl (fun n c => n + cellMalformed v c) 0 + groupMalformed v rd

/-- Malformed items of a tensor. -/
def malformedOf (v : View) : Nat := malformedIn v fun _ => true

end Sys2Proof.Machine
end

