-- ==== Sys2Proof/Machine/Ops.lean ====
section
/-! DEFINITION. The shared operations of the part: time, free values, MSI-X, health records, job-facing records, queue status blocks, pins,
halting a job, and what a completion makes visible. -/

namespace Sys2Proof.Machine

/-- A command that is no event in this state leaves the state as it stands (log entry 7). -/
def onlyIf (g : Bool) (s t : State) : Host.Outcome State Fault Refusal := .next (if g then t else s)

/-! ### Time -/

def periodNs (s : State) : Nat := s.clk.periodUs * 1000
/-- The stroke that contains an instant, counted from the last edge taken. -/
def strokeAt (s : State) (t : Nat) : Nat := s.clk.stroke.toNat + if t < s.clk.edge then 0 else (t - s.clk.edge) / max 1 (periodNs s)
def strokeNow (s : State) : Nat := strokeAt s s.clk.now
/-- Move the timebase forward to an instant; it never moves back. -/
def advance (s : State) (t : Nat) : State := { s with clk := { s.clk with now := max s.clk.now t } }
/-- Wall clock in ns, 0 while unset (15 R428). -/
def wallNow (s : State) : Nat := (s.mgmt.wallBase.elim 0 fun b => (b + (s.clk.now : Int)).toNat) % 2 ^ 64

/-- A free value and the state that has drawn it (log entry 2). -/
def drawn (s : State) : Nat := (Config.freeValue s.free).toNat
def draw (s : State) : State := { s with free := s.free + 1 }

/-! ### Writes to NV (16 R465) -/

/-- A non-volatile write may start: the input has been above UV-warn for 10 ms (16 R465). -/
def nvReady (s : State) : Bool := !s.pwr.uvWarn && !s.pwr.nvStop && 43500 ≤ s.pwr.inputMv && s.pwr.aboveWarnSince + 10000000 ≤ s.clk.now

/-- A write to NV has begun. -/
def nvWrite (s : State) (i : NvItem) : State := { s with pwr := { s.pwr with nvBusy := s.pwr.nvBusy ++ [(i, s.clk.now)] } }

/-- The anti-rollback fuses as they read (15 R440): those known to be blown and those that a write to NV blows. -/
def fusesNow (s : State) : Nat :=
  s.pwr.nvBusy.foldl (fun n w => match w.1 with | .fuses k => max n k | _ => n) s.fw.fuses

/-! ### MSI-X (14 R404, R407) -/

def msixByte (s : State) (o : Nat) : Byte := tgetD s.hub.msixTable o (if o % 16 = 12 then 1 else 0)
def msixMasked (s : State) (v : Nat) : Bool := (msixByte s (16 * v + 12)).toNat % 2 = 1
/-- Send a vector's message, or set its pending bit while it is masked. -/
def sendMsix (s : State) (v : Nat) : State :=
  if msixMasked s v then { s with hub := { s.hub with msixPending := ninsert s.hub.msixPending v } }
  else { s with out := { s.out with msix := s.out.msix ++ [v] } }
/-- Send a queue's or a job's vector; vector 0 there means no interrupt. -/
def sendVector (s : State) (v : Nat) : State := if v = 0 then s else sendMsix s v

/-! ### Units of a record (15 R429) -/

def readingOf (s : State) (n : Nat) : Int := tgetD s.pwr.readings n 0
/-- The hottest of a run of sensors. -/
def hottestFrom (s : State) (first n : Nat) : Nat := (List.range n).foldl (fun b i => if readingOf s b < readingOf s (first + i) then first + i else b) first
/-- The hottest panel sensor. -/
def hottest (s : State) : Nat := hottestFrom s 0 32
/-- The sensor nearest a unit; quadrants are taken over the 16 × 10 mesh in row order, and a panel as a whole has its hottest one (log entry 8). -/
def sensorOf (s : State) (u : UnitRef) : Nat :=
  if u.engine = 0 then hottest s
  else if u.engine = 9 then 32 + u.stack
  else if u.engine = 10 then 48 + u.stack
  else if u.engine = 11 then (if s.hub.hubB then 53 else 52)
  else if u.nib = 0xFF then hottestFrom s (4 * u.panel) 4
  else 4 * u.panel + (if u.nib / 10 < 8 then 0 else 2) + if u.nib % 10 < 5 then 0 else 1
/-- Core voltage in mV: a sample that the spec gives no value (log entry 2). -/
def vcoreOf (s : State) (u : UnitRef) : Nat := if 9 ≤ u.engine then 0 else drawn s % 4096

/-- The engine that runs the stitches of an opcode (00_scope, 15 table Engine codes; DEDUCED: log entry 8). -/
def engineOf (op : Nat) : Nat :=
  if isProduct op || op == opRoute then 1
  else if op = opVscript || op = opUpdate || op = opDeriv then 2
  else if op = opConvert then 4
  else if op = opCopy || op = opFetch then 6
  else if op = opGather || op = opScatter then 7
  else if op = opCheck then 8
  else if op = opReduce || op = opMulticast || op = opSend then 10 else 0
/-- The unit of a stitch: its engine, with its nib when it runs on one, and its panel when it runs on one (log entry 8). -/
def stitchUnit (a : Active) : UnitRef :=
  match a.nibs with
  | [] => { engine := engineOf a.st.opcode }
  | n :: r => { engine := engineOf a.st.opcode, panel := if r.all fun m => m.1 == n.1 then n.1 else 0, nib := if r.isEmpty then n.2 else 0xFF }

/-! ### Health records (15 R431, R432) -/

/-- What a health record says besides the common fields. -/
structure HealthInfo where
  code : Nat
  severity : Nat
  panel : Nat := 0
  nib : Nat := 0xFF
  port : Nat := 0
  stack : Nat := 0
  job : Option Nat := none
  value : Nat := 0
  deriving DecidableEq, Repr

/-- `ALERT_N` is low while an unacknowledged record is critical. -/
def setAlert (s : State) : State :=
  { s with pwr := { s.pwr with alertLow := s.mgmt.ring.any fun h => h.2.severity == 2 && !h.2.acked } }

/-- The record to overwrite when the ring of 1,024 is full. -/
def healthVictim (r : Tbl Health) : Option (Nat × Health) :=
  (r.find? fun h => h.2.acked).orElse fun _ => (r.find? fun h => h.2.severity == 0).orElse fun _ => r.head?

/-- The unit that a health record is about: a Selvedge die for a port's, a memory controller for a stack's, a nib or a panel for the panel side's, and
the Hub for Ohmub's own; what is about the supply, the coolant or the part's strokes has no unit (DEDUCED: log entry 8). -/
def healthUnit (i : HealthInfo) : UnitRef :=
  let group := i.code / 256
  if i.code = 0x0101 || i.code = 0x0102 then { engine := 10, stack := i.port / 16 }
  else if group = 3 then { engine := 9, panel := i.stack / 2, stack := i.stack }
  else if i.nib != 0xFF || i.code = 0x0805 then { engine := 1, panel := i.panel, nib := i.nib }
  else if group = 2 || group = 8 || i.code = 0x0104 then {} else { engine := 11 }

def makeHealth (s : State) (i : HealthInfo) : Health :=
  let u := healthUnit i
  { wall := BitVec.ofNat 64 (wallNow s), stroke := BitVec.ofNat 64 (strokeNow s), hseq := s.mgmt.hseq, hcode := BitVec.ofNat 16 i.code
    severity := BitVec.ofNat 2 i.severity, panel := BitVec.ofNat 3 i.panel, nib := BitVec.ofNat 8 i.nib, port := BitVec.ofNat 6 i.port
    stack := BitVec.ofNat 4 i.stack, temp := BitVec.ofInt 12 (readingOf s (sensorOf s u)), sensor := BitVec.ofNat 7 (sensorOf s u)
    vcore := BitVec.ofNat 12 (vcoreOf s u), station := BitVec.ofNat 20 s.fab.station, job := i.job, value := BitVec.ofNat 64 i.value
    sentAt := if s.mgmt.receiver.isSome then some s.clk.now else none }

/-- The bits of a health record (15 R431). -/
def healthWord (h : Health) : Nat :=
  h.value.toNat * 2 ^ 128 + h.job.elim 0 (fun j => 2 ^ 261 + j % 4096 * 2 ^ 249) + h.station.toNat * 2 ^ 262 + h.vcore.toNat * 2 ^ 282 + h.sensor.toNat * 2 ^ 294 +
    h.temp.toNat * 2 ^ 301 + h.stack.toNat * 2 ^ 313 + h.port.toNat * 2 ^ 317 + h.nib.toNat * 2 ^ 323 + h.panel.toNat * 2 ^ 331 + h.severity.toNat * 2 ^ 334 +
    h.hcode.toNat * 2 ^ 336 + h.hseq % 2 ^ 32 * 2 ^ 352 + h.stroke.toNat * 2 ^ 384 + h.wall.toNat * 2 ^ 448

/-- UDP port of the MCTP endpoint on SGMII (15 R433). -/
def udpPort : Nat := 7770
/-- The message that carries a health record to the event receiver; on I3C an in-band interrupt announces it (15 R432 to R434). -/
def eventOf (s : State) (h : Health) : Option EventMsg :=
  s.mgmt.receiver.map fun r =>
    { via := r.1, eid := r.2, record := BitVec.ofNat 512 (healthWord h), ibi := r.1 == .i3c, udpPort := if r.1 == .sgmii then udpPort else 0 }

/-- The 64 newest critical records. -/
def newestCritical (l : List Health) : List Health := l.drop (l.length - 64)

/-- Make a health record, keep it in the ring and NV, and send it to the event receiver. -/
def health (s : State) (i : HealthInfo) : State :=
  let h := makeHealth s i
  let m := s.mgmt
  let victim := if m.ring.length < 1024 then none else healthVictim m.ring
  let ring := victim.elim m.ring fun v => tdel m.ring v.1
  let drop := if victim.any fun v => !v.2.acked then satInc m.healthDrop else m.healthDrop
  let s := draw { s with mgmt := { m with ring := tset ring m.hseq h, hseq := m.hseq + 1, healthDrop := drop
                                          nvCritical := if i.severity = 2 && nvReady s then newestCritical (m.nvCritical ++ m.critUnsaved ++ [h]) else m.nvCritical
                                          critUnsaved := if i.severity = 2 then (if nvReady s then [] else newestCritical (m.critUnsaved ++ [h])) else m.critUnsaved } }
  setAlert { s with out := { s.out with healthSent := s.out.healthSent ++ (eventOf s h).toList } }

/-! ### Job-facing records (14 R419, 15 R428) -/

/-- The event-specific area and the unit and stitch of a record. -/
structure Event where
  area : Nat
  sid : Sid := 0
  opcode : Nat := 0
  unit : UnitRef := {}
  deriving DecidableEq, Repr

/-- Nanoseconds since the edge of the stroke that contains the present instant (15 R428). -/
def offsetNow (s : State) : Nat := (s.clk.now - s.clk.edge) % max 1 (periodNs s)

/-- Bytes of a job-facing record. -/
def recordBytes (s : State) (j : Job) (e : Event) : List Byte :=
  let sen := sensorOf s e.unit
  leBytes 64 (e.area % 2 ^ 192 + (j.eqCount.toNat + 1) % 2 ^ 32 * 2 ^ 204 + vcoreOf s e.unit * 2 ^ 236 + sen % 128 * 2 ^ 248 +
    unsigned 12 (readingOf s sen) * 2 ^ 255 + e.unit.engine * 2 ^ 267 + e.unit.nib % 256 * 2 ^ 271 + e.unit.panel % 8 * 2 ^ 279 +
    j.id % 4096 * 2 ^ 282 + e.opcode % 256 * 2 ^ 294 + offsetNow s % 2 ^ 18 * 2 ^ 302 + e.sid.toNat * 2 ^ 320 +
    strokeNow s % 2 ^ 64 * 2 ^ 384 + wallNow s * 2 ^ 448)

/-- Bytes of host memory; one that nothing has written reads as zero (log entry 6). -/
def rdHost (s : State) (h n : Nat) : List Byte := (List.range n).map fun i => tgetD s.host (h + i) 0
def wrHost (s : State) (h : Nat) (l : List Byte) : State :=
  { s with host := (List.range l.length).foldl (fun t i => tset t (h + i) (l.getD i 0)) s.host }

/-- Write a job-facing record, then `EQ_COUNT`, then the event vector; a job that is not open gets none. -/
def jobEvent (s : State) (job : Nat) (e : Event) : State :=
  match jobOf s job with
  | none => s
  | some j =>
    let k := j.eqCount.toNat
    let s1 := wrHost s (j.eqAddr + 64 + k % 2 ^ j.eqLog * 64) (recordBytes s j e)
    let s2 := wrHost s1 j.eqAddr (leBytes 8 (k + 1))
    sendVector (draw (putJob s2 { j with eqCount := j.eqCount + 1 })) j.eqVector

/-- Areas of the events (04 R128, 05 R156, 09 R272, 10 R314, 11 R353, 12 R389, 08 R250). -/
def areaWatch (step value event cond action tag old new occur replay : Nat) : Nat :=
  step % 2 ^ 64 * 2 ^ 128 + value % 2 ^ 64 * 2 ^ 64 + event * 2 ^ 56 + cond * 2 ^ 52 + action * 2 ^ 48 + tag * 2 ^ 40 + old * 2 ^ 38 +
    new * 2 ^ 36 + min occur 255 * 2 ^ 24 + min replay 255 * 2 ^ 16
def areaStash (step handle occMib action idx tag mb : Nat) : Nat :=
  step % 2 ^ 64 * 2 ^ 128 + handle * 2 ^ 96 + satTo 32 occMib * 2 ^ 64 + 0x14 * 2 ^ 56 + action * 2 ^ 52 + idx * 2 ^ 48 + tag * 2 ^ 40 + mb * 2 ^ 32
def areaLag (stroke first action run overruns : Nat) : Nat :=
  stroke % 2 ^ 64 * 2 ^ 128 + first % 2 ^ 64 * 2 ^ 64 + 0x15 * 2 ^ 56 + action * 2 ^ 52 + min run 255 * 2 ^ 44 + satTo 32 overruns
def areaMemory (addr stroke action stack pch : Nat) : Nat :=
  addr * 2 ^ 128 + stroke % 2 ^ 64 * 2 ^ 64 + 0x16 * 2 ^ 56 + action * 2 ^ 52 + stack * 2 ^ 48 + pch * 2 ^ 42
def areaFabric (sid : Sid) (station coll action admSt : Nat) : Nat :=
  sid.toNat * 2 ^ 128 + station * 2 ^ 108 + coll % 2 ^ 32 * 2 ^ 64 + 0x17 * 2 ^ 56 + action * 2 ^ 52 + admSt * 2 ^ 44
def areaResil (step handle station event action value : Nat) : Nat :=
  step % 2 ^ 64 * 2 ^ 128 + handle * 2 ^ 96 + station * 2 ^ 76 + event * 2 ^ 56 + action * 2 ^ 52 + min value (2 ^ 20 - 1) * 2 ^ 32
def areaReject (sid : Sid) (queue handle admSt place : Nat) : Nat :=
  sid.toNat * 2 ^ 128 + queue * 2 ^ 96 + handle * 2 ^ 64 + 0x20 * 2 ^ 56 + admSt * 2 ^ 48 + place * 2 ^ 44

/-! ### Queues (08 R245, R246) -/

def qstateCode : QState → Nat
  | .running => 1
  | .headWaiting => 2
  | .rejected => 3
  | .halted => 4
  | .rewinding => 5
  | .empty => 6

/-- Bytes of a queue status block. -/
def statusBytes (q : Queue) : List Byte :=
  leBytes 64 (q.dbDrop.toNat * 2 ^ 352 + q.lastAdmit.toNat * 2 ^ 368 + qstateCode q.state * 2 ^ 376 + q.stepBase.toNat * 2 ^ 384 +
    q.tail.toNat * 2 ^ 416 + q.free.toNat * 2 ^ 448 + q.head.toNat * 2 ^ 480)

/-- Put a queue back and write its status block. -/
def saveQueue (s : State) (n : Nat) (q : Queue) : State := wrBytes (putQueue s n q) q.statusAddr (statusBytes q)

/-- The state of a queue that nothing stops: empty when its head has reached its tail. -/
def settled (q : Queue) : QState := if q.head = q.tail then .empty else .running

def queuesOf (s : State) (job : Nat) : List (Nat × Queue) := s.queues.filter fun q => q.2.job == job
/-- The queue of an admitted stitch is a step queue. -/
def onStepQueue (s : State) (a : Active) : Bool := (queueOf s a.queue).any fun q => q.step

/-! ### Pins (08 R236 to R240, 04 R118) -/

/-- Add to a pin; its first value in the step is kept, and a stitch of the step marks the pin for the step's replay. -/
def addPin (j : Job) (pin inc : Nat) (byStep : Bool) : Job :=
  let old := pinOf j pin
  let st := j.step
  let st := if st.inProgress && (tget st.pinsAtStart pin).isNone then { st with pinsAtStart := tset st.pinsAtStart pin old } else st
  let st := if byStep && st.inProgress then { st with stepPins := ninsert st.stepPins pin } else st
  { j with pins := tset j.pins pin (old + BitVec.ofNat 32 inc), step := st }

/-! ### Statuses of admission and completion (08 R248, R258) -/

def stDone : Nat := 0x00
def stFlagged : Nat := 0x20
def stOverrun : Nat := 0x21
def stReplayed : Nat := 0x22
def stEscalated : Nat := 0x23
def stPoisoned : Nat := 0x30
def stAborted : Nat := 0x31
def stMismatch : Nat := 0x32

def adBadOpcode : Nat := 0x01
def adBadHandle : Nat := 0x02
def adBadFormat : Nat := 0x03
def adRankLimit : Nat := 0x04
def adWriteAlias : Nat := 0x05
def adCopyOverlap : Nat := 0x06
def adEngineAbsent : Nat := 0x07
def adGradTied : Nat := 0x08
def adOverBudget : Nat := 0x09
def adWindowFault : Nat := 0x0A
def adPinRange : Nat := 0x0B
def adCompat : Nat := 0x0C
def adHalted : Nat := 0x0D
def adStashFull : Nat := 0x0E

/-- Statuses with which a stitch signals its pin (08 R239). -/
def signals (status : Nat) : Bool := status == stDone || (stFlagged ≤ status && status ≤ stEscalated)

/-- A count, flag or malformed item is to be reported (02 R77, 03 R107, 01 R37, 06 R189, R191). -/
def countsFlagged (c : Counts) : Bool :=
  c.clips != 0 || c.gimpOvf != 0 || c.s8Exh != 0 || c.nonfinite != 0 || c.cancel != 0 || c.routeDrop != 0 || c.malformed != 0 ||
    c.vflags.toNat &&& 0x65 != 0

/-- The completion status by the order of 04 R120, with `SHADOW_MISMATCH` directly after `POISONED` (08 R258). -/
def statusOf (a : Active) (now : Nat) : Nat :=
  if a.marks.poisoned then stPoisoned
  else if a.marks.mismatch then stMismatch
  else if a.marks.aborted then stAborted
  else if a.marks.escalated then stEscalated
  else if a.marks.replayed then stReplayed
  else if a.plannedStroke.any fun p => p < now then stOverrun
  else if a.marks.flagged || countsFlagged a.counts then stFlagged
  else stDone

/-- Bytes of a completion record (08 R258). -/
def crecBytes (s : State) (sid : Sid) (st : Stitch) (c : Counts) (elapsed status adm : Nat) : List Byte :=
  leBytes 64 (satTo 10 c.vfaultPc * 2 ^ 10 + satTo 4 c.vfault * 2 ^ 20 + c.vflags.toNat * 2 ^ 24 + adm * 2 ^ 32 + status * 2 ^ 40 +
    satTo 16 c.malformed * 2 ^ 48 + satTo 16 c.routeDrop * 2 ^ 64 + satTo 16 c.degenBlk * 2 ^ 80 + satTo 16 c.cancel * 2 ^ 96 +
    satTo 16 c.nonfinite * 2 ^ 112 + satTo 16 c.s8Exh * 2 ^ 128 + satTo 16 c.gimpOvf * 2 ^ 144 + satTo 32 c.skipSteps * 2 ^ 160 +
    satTo 32 c.zeroBlk * 2 ^ 192 + satTo 32 c.spill * 2 ^ 224 + satTo 32 c.clips * 2 ^ 256 + satTo 32 elapsed * 2 ^ 288 +
    strokeNow s % 2 ^ 64 * 2 ^ 320 + st.user.toNat * 2 ^ 384 + sid.toNat * 2 ^ 448)

/-- The record of a stitch that was not admitted (08 R250, R251). -/
def rejectRecord (s : State) (sid : Sid) (st : Stitch) (adm : Nat) : State :=
  if st.crEn then wrBytes s st.crecAddr (crecBytes s sid st {} 0 stAborted adm) else s

/-! ### Busy time and lagging (09 R270 to R272, R287) -/

/-- Nibs of a panel that hold a started share of a stitch of the job. -/
def busyNibs (s : State) (job p : Nat) : Nat :=
  ((s.acts.filter fun a => a.job == job && a.started.isSome).foldl
    (fun l a => (a.held.filter fun n => n.1 == p).foldl (fun l n => ninsert l n.2) l) []).length

/-- Bring a job's busy time up to an instant. -/
def accrue (s : State) (job t : Nat) : State :=
  updJob s job fun j =>
    let dt := t - j.ring.busyAt
    { j with ring := { j.ring with busyAt := max t j.ring.busyAt
                                   busy := (List.range 8).map fun p => j.ring.busy.getD p 0 + dt * busyNibs s job p } }

/-- A stitch planned for a stroke enters its account. -/
def lagPlan (l : List LagStroke) (stroke job : Nat) : List LagStroke :=
  match l with
  | [] => [{ stroke := stroke, left := 1, jobs := [job] }]
  | x :: r =>
    if stroke < x.stroke then { stroke := stroke, left := 1, jobs := [job] } :: x :: r
    else if stroke = x.stroke then { x with left := x.left + 1, jobs := ninsert x.jobs job } :: r
    else x :: lagPlan r stroke job

/-- A planned stitch completes, in time or in a later stroke. -/
def lagDone (l : List LagStroke) (stroke : Nat) (late : Bool) : List LagStroke :=
  l.map fun x => if x.stroke = stroke then { x with left := x.left - 1, overran := x.overran || late } else x

/-- Completions `DONE_OVERRUN` of a job since the first stroke of the run. -/
def runOverruns (l : Lag) (job : Nat) : Nat := (l.overs.filter fun o => l.first ≤ o.1 && o.2 == job).length
/-- The jobs of a run with their `DONE_OVERRUN` completions so far. -/
def countRun (l : Lag) : Lag := { l with runJobs := l.runJobs.map fun p => (p.1, runOverruns l p.1) }

/-- `LAG` records to the jobs of the run and a health record (09 R272). -/
def lagReport (s : State) (action : Nat) : State :=
  let l := s.lag
  let s := l.runJobs.foldl (fun s p => jobEvent s p.1 { area := areaLag (strokeNow s) l.first action l.runLen p.2 }) s
  health s { code := 0x0201, severity := if action = 1 then 1 else 0, value := l.runLen }

/-- A local overrun stroke (09 R271): the run goes on or starts with it. -/
def lagOverrun (s : State) (x : LagStroke) : State :=
  let l := s.lag
  let fresh := decide (l.lagRun = 0)
  let l := { l with lagRun := l.lagRun + 1, cleanRun := 0, first := if fresh then x.stroke else l.first, runLen := (if fresh then 0 else l.runLen) + 1
                    runJobs := x.jobs.foldl (fun t j => tset t j 0) (if fresh then [] else l.runJobs) }
  let l := countRun l
  if l.lagRun = 8 && !l.lagging then lagReport { s with lag := { l with lagging := true } } 1 else { s with lag := l }

/-- A stroke that is not a local overrun stroke: the run ends. -/
def lagClean (s : State) (x : LagStroke) : State :=
  let l := s.lag
  let l := if l.lagRun = 0 then l else countRun l
  let l := { l with lagRun := 0, cleanRun := if l.lagging then l.cleanRun + 1 else 0, overs := l.overs.filter fun o => x.stroke < o.1 }
  if l.lagging && l.cleanRun = 16 then lagReport { s with lag := { l with lagging := false, cleanRun := 0 } } 2 else { s with lag := l }

/-- Judge one stroke (09 R271), unless a resync has shortened it. A stroke for which stitches are planned after it has been judged counts once more
only if one of them overruns (DESIGN CHOICE: log entry 39). -/
def judge (s : State) (x : LagStroke) : State :=
  let l := s.lag
  let again := decide (x.stroke < l.judged)
  let s := { s with lag := { l with judged := max l.judged (x.stroke + 1) } }
  if l.unjudged.contains x.stroke then s else if x.overran then lagOverrun s x else if again then s else lagClean s x

/-- Judge, oldest first, every stroke up to the current one whose last planned stitch has completed; a cut stroke that is over is forgotten. -/
def judgeAll (s : State) : State :=
  let due := s.lag.strokes.takeWhile fun x => x.left == 0 && x.stroke ≤ s.clk.stroke.toNat
  let s := due.foldl judge { s with lag := { s.lag with strokes := s.lag.strokes.drop due.length } }
  { s with lag := { s.lag with unjudged := s.lag.unjudged.filter fun k => s.clk.stroke.toNat ≤ k || s.lag.strokes.any fun x => x.stroke == k } }

/-! ### Completion (08 R239, R245, R256; 09 R270) -/

/-- Plan marks of a set of nibs raised to an instant. -/
def raiseMarks (m : Tbl Nat) (nibs : List (Nat × Nat)) (t : Nat) : Tbl Nat :=
  nibs.foldl (fun m n => tadj m (n.1 * 160 + n.2) 0 (max · t)) m

/-- First start of a stitch: that of the step's first execution that ran it (08 R258). -/
def firstStart (s : State) (a : Active) : Option Nat :=
  ((jobOf s a.job).bind fun j => (j.step.starts.find? fun x => x.1 == a.sid).map (·.2)).orElse fun _ => a.started
/-- Keep the first start of a stitch of the step. -/
def noteStart (s : State) (a : Active) (now : Nat) : State :=
  if !onStepQueue s a then s else
  updJob s a.job fun j => if j.step.starts.any fun x => x.1 == a.sid then j else { j with step := { j.step with starts := j.step.starts ++ [(a.sid, now)] } }

/-- Steps 1 to 4 of 08 R256 at the end of a stitch: its pending writes drain, its record is written, its pin signals, its message is sent. A
discarded stitch does none of these but the first, a muted one does not signal. -/
def publish (s : State) (a : Active) (status : Nat) : State :=
  let s := { s with mem := drainIf s.mem fun e => e.tags.contains a.sid }
  if a.marks.discarded then s else
  let s := if a.st.crEn then
      wrBytes s a.st.crecAddr (crecBytes s a.sid a.st a.counts ((firstStart s a).elim 0 fun t => s.clk.now - t) status a.marks.admitStatus) else s
  let live := !a.marks.mute && (jobOf s a.job).any fun j => !j.halted
  let s := if bit a.st.signal 31 && signals status && live then
      updJob s a.job fun j => addPin j (wPin a.st.signal) (sInc a.st.signal) (onStepQueue s a) else s
  if a.st.notify then sendVector s ((queueOf s a.queue).elim 0 fun q => q.vector) else s

/-- A ring slot of a queue that is not a step queue is released (08 R245). -/
def releaseSlot (s : State) (n : Nat) : State :=
  match queueOf s n with
  | none => s
  | some q => if q.step then s else saveQueue s n { q with free := q.free + 1 }

/-! ### Request slots of a nib (09 R282, R283) -/

/-- The slot that a request takes: one for a 512-byte request, or for a 32-byte granule of the narrow path. -/
def slotKey (granule : Nat) (half : Option Nat) : Nat := half.elim (2 * (granule / 512)) fun h => 2 * (granule / 32 + h) + 1
/-- Slots that a nib holds, of requests that satisfy a test. -/
def slotsHeld (s : State) (nib : Nat × Nat) (p : MemReq → Bool) : List Nat :=
  ((s.mem.reqs.filter fun r => r.nib == some nib && p r).map fun r => slotKey r.granule r.half).eraseDups
/-- Slots that a nib holds on the pseudo-channel of an address. -/
def slotsOn (s : State) (nib : Nat × Nat) (a : Nat) : Nat := (slotsHeld s nib fun r => sameChannel s.nibs.grade r.granule a).length
/-- A nib has a slot for one more request: one of its 48, of which 16 may wait on a pseudo-channel. -/
def slotRoom (s : State) (nib : Nat × Nat) (a : Nat) : Bool := decide ((slotsHeld s nib fun _ => true).length < 48) && decide (slotsOn s nib a < 16)
/-- A read has a slot: that of the request which it belongs to, or one more. -/
def slotFree (s : State) (nib : Nat × Nat) (a : Nat) (half : Option Nat) : Bool :=
  (slotsHeld s nib fun _ => true).contains (slotKey a half) || slotRoom s nib a
/-- A nib that holds every slot, or 16 on a pseudo-channel where some of the bytes lie, waits before it reads a byte range. -/
def rangeWaits (s : State) (nib : Nat × Nat) (a n : Nat) : Bool :=
  let g := s.nibs.grade
  let full := s.mem.reqs.filter fun r => r.nib == some nib && !slotRoom s nib r.granule
  let lies (r : MemReq) : Bool := decide (48 ≤ (slotsHeld s nib fun _ => true).length) ||
    (List.range (n / 64 + 2)).any fun i => let x := a / 64 * 64 + 64 * i; x < a + n && inHbm g x && sameChannel g x r.granule
  n != 0 && inHbm g a && full.any lies

/-- An accumulator after a reset or a restore: it stays allocated, holds zeros and has no history (05 R137, R138). -/
def freshAcc (g : GradAcc) : GradAcc := { acc := g.acc.map fun _ => 0, exps := g.exps.map fun _ => none, history := g.history.map fun _ => none }

/-- Space of the Blotter that a record takes (05 R145, R151). -/
def recSpace (r : BlotRec) : Nat := pad64 (max r.bytes r.reserved)
/-- Bytes of the kept area of a Blotter, and those in use or reserved in it (05 R143, R145). -/
def keptArea (c : BlotCfg) : Nat := c.size - c.transit
def keptBytes (j : Job) : Nat := (j.blot.recs.filter fun r => r.loc == .kept).foldl (fun n r => n + recSpace r) 0
def lowMark (c : BlotCfg) : Nat := keptArea c * c.lwm / 64
def highMark (c : BlotCfg) : Nat := keptArea c * c.hwm / 64
/-- A policy in force ends when occupancy has reached `LWM`, `RECOMPUTE` when it has fallen below it (05 R149, R151). -/
def relaxPolicy (j : Job) : Job :=
  match j.blot.inForce with
  | none => j
  | some i =>
    if (if j.blot.cfg.policy.getD i 0 = 3 then keptBytes j < lowMark j.blot.cfg else keptBytes j ≤ lowMark j.blot.cfg)
    then { j with blot := { j.blot with inForce := none } } else j

/-- The record of a stitch that completes gives back what it does not use, and a reservation that was not used goes (05 R145). -/
def settleRecords (j : Job) (sid : Sid) : Job :=
  let recs := (j.blot.recs.filter fun r => r.written || r.writer != sid).map fun r => if r.writer = sid then { r with reserved := 0 } else r
  relaxPolicy { j with blot := { j.blot with recs := recs } }

/-- A stitch completes with a status: what 08 R256 makes visible, the accounts of its stroke and job, a Blotter reservation that it has not
used, its slot and its bobbins. -/
def completeWith (s : State) (a : Active) (status : Nat) : State :=
  let s := accrue s a.job s.clk.now
  let s := publish s a status
  let late := status == stOverrun
  let s := { s with nibs := { s.nibs with marks := raiseMarks s.nibs.marks a.nibs s.clk.now } }
  let s := updJob s a.job fun j => { j with ring := { j.ring with completed := j.ring.completed + 1, overrun := j.ring.overrun + if late then 1 else 0 } }
  let after := a.plannedStroke.any fun p => p < strokeNow s
  let s := if isGround a.st.opcode then s else
    { s with lag := { s.lag with strokes := a.plannedStroke.elim s.lag.strokes fun p => lagDone s.lag.strokes p after } }
  let s := if late then { s with lag := { s.lag with overs := s.lag.overs ++ [(strokeNow s, a.job)] } } else s
  let s := updJob s a.job fun j => settleRecords j a.sid
  let s := { dropAct s a.sid with runs := s.runs.filter (fun r => r.sid != a.sid), shadows := s.shadows.filter fun h => h.sid != a.sid }
  judgeAll (if a.marks.freed then s else releaseSlot s a.queue)

/-- A stitch completes with the status that its marks and counts give. -/
def complete (s : State) (a : Active) : State := completeWith s a (statusOf a (strokeNow s))

/-! ### Halting a job (08 R251, 12 R379) -/

/-- The head stitch of a queue, if it is not admitted, gets a record with `JOB_HALTED`; the queue takes `STATE` 0x4. -/
def haltQueue (s : State) (n : Nat) (q : Queue) : State :=
  let st := slotStitch s q q.head.toNat
  let s := if q.head != q.tail then rejectRecord s (stitchId q.job n q.head.toNat) st adHalted else s
  saveQueue s n { q with state := .halted, passed := none, passedMate := none }

/-- Every queue of the job stops; later admissions return `JOB_HALTED`. -/
def haltJob (s : State) (job : Nat) : State :=
  match jobOf s job with
  | none => s
  | some j => if j.halted then s else (queuesOf s job).foldl (fun s q => haltQueue s q.1 q.2) (putJob s { j with halted := true })

/-- A stitch with no work under way: it has not started, or it is a `COMMIT`, which only waits for its vote's result. A step replay counts a `COMMIT` that
has started as not started, so that it completes `ABORTED` with a record (DESIGN CHOICE: log entry 39). -/
def noWork (a : Active) : Bool := a.started.isNone || a.st.opcode == opCommit

/-- Admitted stitches of the job that have not started complete `ABORTED`; started ones run on without signalling (12 R379). -/
def abortUnstarted (s : State) (p : Active → Bool) : State :=
  let s := { s with acts := s.acts.map fun a => if p a && a.started.isSome then { a with marks := { a.marks with mute := true } } else a }
  (s.acts.filter fun a => p a && noWork a).foldl (fun s a => completeWith s a stAborted) s

/-- Halt of a job after a consumed poison or a notice of one: the records of 12 R379. -/
def haltPoison (s : State) (job action : Nat) (sid : Sid) (opcode : Nat) (unit : UnitRef) (station : Nat) : State :=
  match jobOf s job with
  | none => s
  | some j =>
    if j.halted then s else
    let s := haltJob s job
    let s := abortUnstarted s fun a => a.job == job && a.sid != sid
    jobEvent s job { area := areaResil j.committed 0 station 0x19 action 0, sid := sid, opcode := opcode, unit := unit }

end Sys2Proof.Machine
end

