-- ==== Sys2Proof/Machine/Features.lean ====
section
/-! DEFINITION. The grade's features and the nibs in service (00_scope R9; 08 R233, R234, R259). -/

namespace Sys2Proof.Machine

def featPanels (s : State) : Nat := panelsOf s.nibs.grade
/-- Nibs of the grade (table Feature register values by grade). -/
def featNibs (s : State) : Nat :=
  match s.nibs.grade with
  | .m8f => 1280
  | .m8s => 1152
  | .m6f => 960
/-- Highest precision-pass count. -/
def featPasses (s : State) : Nat :=
  match s.nibs.grade with
  | .m8s => 2
  | _ => 3
/-- Strict mode is present. -/
def featStrict (s : State) : Bool := s.nibs.grade != .m8s
def stitchCompat : Nat := 1

/-- Physical nibs in service of a panel, ascending. -/
def nibsLive (s : State) (p : Nat) : List Nat :=
  if featPanels s ≤ p then [] else
  (List.range 160).filter fun n => !s.nibs.out.contains (p * 160 + n) && !(s.nibs.grade == .m8s && (Config.fused p).contains n)
/-- The nibs on which a shadow runs the shares of a stitch (12 R384). -/
def shadowNibs (s : State) (nibs : List (Nat × Nat)) : List (Nat × Nat) :=
  match nibs with
  | [n] =>
    let live := nibsLive s n.1
    [(n.1, ((live.find? fun k => n.2 < k).getD (live.headD n.2)))]
  | l => l.drop 1 ++ l.take 1

/-- `FEAT_NIBS_LIVE`. -/
def featLive (s : State) : Nat := (List.range 8).foldl (fun n p => n + (nibsLive s p).length) 0
/-- `FEAT_NIB_MAP` of a panel. -/
def nibMap (s : State) (p : Nat) : Nat := (nibsLive s p).foldl (fun m n => m + 2 ^ n) 0

def nsPanels (x : Nat) : List Nat := (List.range 8).filter fun p => bit x (24 + p)
def nsFirst (x : Nat) : Nat := bits x 23 16
def nsCount (x : Nat) : Nat := bits x 15 8

/-- The nibs that a nib set names, panel by panel in logical order; none when a panel is absent or has too few. -/
def nibSet (s : State) (x : Nat) : Option (List (Nat × Nat)) :=
  if (nsPanels x).all fun p => p < featPanels s && nsFirst x + nsCount x ≤ (nibsLive s p).length then
    some ((nsPanels x).map fun p => (((nibsLive s p).drop (nsFirst x)).take (nsCount x)).map fun n => (p, n)).flatten
  else none

end Sys2Proof.Machine
end

