-- ==== Sys2Proof/Machine/Quantiser.lean ====
section
/-! DEFINITION. The quantiser unit, the Twist unit and the writing of a stitch's output (02; 06 R196). -/

namespace Sys2Proof.Machine

/-- Counts of two pieces of work added. -/
def addCounts (a b : Counts) : Counts :=
  { clips := a.clips + b.clips, spill := a.spill + b.spill, zeroBlk := a.zeroBlk + b.zeroBlk, skipSteps := a.skipSteps + b.skipSteps
    gimpOvf := a.gimpOvf + b.gimpOvf, s8Exh := a.s8Exh + b.s8Exh, nonfinite := a.nonfinite + b.nonfinite, cancel := a.cancel + b.cancel
    degenBlk := a.degenBlk + b.degenBlk, routeDrop := a.routeDrop + b.routeDrop, malformed := a.malformed + b.malformed
    elems := a.elems + b.elems, vflags := a.vflags ||| b.vflags
    vfault := if a.vflags.toNat &&& 64 != 0 then a.vfault else b.vfault
    vfaultPc := if a.vflags.toNat &&& 64 != 0 then a.vfaultPc else b.vfaultPc }

/-! ### One block (02 R56 to R63) -/

/-- A quantised block. -/
structure QBlock where
  s8 : Nat := 0
  zp : Nat := 0
  gword : Nat := 0
  codes : List Nat := []
  counts : Counts := {}
  /-- Exponent of the block, for its residual digits. -/
  exp : Int := 0
  zeroBlock : Bool := false
  deriving DecidableEq, Repr

/-- A magnitude clips in a format (01 R44). -/
def clipsIn (t : Nat) (m : Rat) : Bool := (roundMag t false none m).2

/-- The smallest exponent under which a magnitude does not clip (01 R44). -/
def freshExp (t : Nat) (amax : Rat) : Int :=
  let e0 := floorLog2 amax - floorLog2 (narrowMax t false)
  ([e0 - 1, e0, e0 + 1].find? fun e => !clipsIn t (amax / pow2 e)).getD (e0 + 2)

/-- The smallest exponent that fits a U4Z block (02 R60). -/
def freshU4 (lo hi : Rat) : Int :=
  let e0 := floorLog2 (max (-lo) hi)
  ([e0 - 3, e0 - 2, e0 - 1].find? fun e => roundNat 0 false (-lo / pow2 e) + roundNat 0 false (hi / pow2 e) ≤ 15).getD e0

/-- Zero point of a fresh U4Z block (02 R61). -/
def freshZp (lo hi : Rat) (e : Int) : Nat :=
  let zmin := roundNat 0 false (-lo / pow2 e)
  let h := roundNat 0 false (hi / pow2 e)
  let t := roundNat 0 false (15 * -lo / (hi - lo))
  if zmin + h ≤ 15 then max zmin (min t (15 - h)) else t

/-- Insert a position by magnitude, largest first, then by position (02 R56). -/
def insEscape (l : List (Nat × Num)) (p : Nat × Num) : List (Nat × Num) :=
  match l with
  | [] => [p]
  | q :: r =>
    let bigger : Bool := match p.2, q.2 with
      | .inf _, .inf _ => false
      | .inf _, _ => true
      | .fin _ a, .fin _ b => decide (b < a)
      | _, _ => false
    if bigger then p :: q :: r else q :: insEscape r p

/-- Descending insertion of magnitudes. -/
def insDesc (l : List Rat) (x : Rat) : List Rat :=
  match l with
  | [] => [x]
  | y :: r => if y < x then x :: y :: r else y :: insDesc r x

/-- The magnitude by which a fresh scale is chosen, of a block's finite non-zero values: the largest, or with gimp the third-largest, and of
fewer than three the smallest (01 R44; 02 R57). -/
def amaxOf (gimp : Bool) (l : List Rat) : Rat :=
  let d := l.foldl insDesc []
  if gimp then d.getD 2 (d.getLastD 0) else d.headD 0

/-- How a block is to be quantised. -/
structure QuCtl where
  type : Nat
  gimp : Bool
  strict : Bool
  /-- Supplied S8 code and zero point (02 R54). -/
  supplied : Option (Nat × Nat)
  /-- Stored positions: all, or those that a 2-of-4 output keeps. -/
  rnd : Nat → Option Nat

/-- A zero block (01 R26). -/
def zeroQ (n : Nat) (c : QuCtl) (counts : Counts) : QBlock :=
  let keepZ := match c.supplied with
    | some (s8, zp) => if s8 = 0 then 0 else zp
    | none => 0
  { codes := List.replicate n (if c.type = 3 then keepZ else 0), zp := keepZ, s8 := c.supplied.elim 0 (·.1)
    counts := { counts with zeroBlk := 1 }, zeroBlock := true }

/-- A level-1 scale by which no element can be divided (02 R55). -/
def badScale (l1 : Num) : Bool := !l1.isFinite || !l1.isNonzero

/-- The block algorithm of 02 R56 with U4Z by R60 to R63: `x` holds the value at each live position, none at pad positions; `l1` gives
each position the level-1 scale of its own index of dimension 0 (01 R29). -/
def quantiseBlock (c : QuCtl) (l1 : Nat → Num) (x : List (Option Num)) (poisoned : Bool) : QBlock :=
  let n := x.length
  let ps := (List.range n).filterMap fun i => (x.getD i none).map fun v => (i, v)
  let base : Counts := { elems := ps.length, nonfinite := (ps.filter fun p => !p.2.isFinite).length }
  if poisoned || c.supplied.any fun p => p.1 == 255 then { s8 := 255, codes := List.replicate n 0, counts := { elems := ps.length } } else
  if ps.any fun p => badScale (l1 p.1) then zeroQ n c base else
  let u := ps.map fun p => (p.1, p.2.scale (1 / (l1 p.1).ratD))
  if !(u.any fun p => p.2.isNonzero) then zeroQ n c base else
  let vals := u.map (·.2)
  let degen : Bool := match vals with
    | v :: r => v.isFinite && v.isNonzero && r.all fun w => w.rat? == v.rat?
    | [] => false
  let base := { base with degenBlk := if degen then 1 else 0 }
  if c.supplied.any fun p => p.1 == 0 then zeroQ n c { base with clips := (vals.filter Num.isNonzero).length } else
  let fin := vals.filterMap Num.rat?
  let nz := (fin.filter (· ≠ 0)).map rabs
  let lo := fin.foldl min 0
  let hi := fin.foldl max 0
  let raw : Int := match c.supplied with
    | some p => (p.1 : Int) - 127
    | none =>
      if nz.isEmpty then 0
      else if c.type = 3 then freshU4 lo hi
      else freshExp c.type (amaxOf c.gimp nz)
  let e := max (-126) (min 127 raw)
  let exhausted := c.supplied.isNone && decide (e ≠ raw)
  let infP := vals.any fun v => v == .inf false
  let infN := vals.any fun v => v == .inf true
  let z : Nat := if c.type ≠ 3 then 0 else match c.supplied with
    | some p => p.2
    | none => if nz.isEmpty then (if infP && infN then 8 else if infN then 15 else 0) else freshZp lo hi e
  let sc := pow2 (-e)
  let v := u.map fun p => (p.1, p.2.scale sc)
  let big (w : Num) : Bool := match w with
    | .inf _ => true
    | .fin _ m => decide (mkRat 15 2 ≤ m)
    | .nan => false
  let esc := if c.gimp then (v.filter fun p => big p.2).foldl insEscape [] else []
  let isEsc (i : Nat) : Bool := esc.any fun q => q.1 == i
  let plain := v.map fun p =>
    if isEsc p.1 then (p.1, 0, false)
    else if c.type = 3 then (let r := roundU4 z (c.rnd p.1) p.2; (p.1, r.1, r.2))
    else (let r := roundCode c.type c.strict (c.rnd p.1) p.2; (p.1, r.1, r.2))
  let two := esc.take 2
  let rest := esc.drop 2
  let slotOf (p : Nat × Num) : Nat × Nat × Bool := let r := roundCode 4 false (c.rnd p.1) p.2; (p.1, r.1 * 256 + p.1 * 4, r.2)
  let sl := two.map slotOf
  let sl := match sl with
    | [a, b] => if b.1 < a.1 then [b, a] else [a, b]
    | l => l
  let gword := sl.foldr (fun p acc => p.2.1 + 65536 * acc) 0
  let code (i : Nat) : Nat :=
    if two.any fun q => q.1 == i then 8
    else match rest.find? fun q => q.1 == i with
      | some q => if q.2.neg? then 9 else 7
      | none => match plain.find? fun p => p.1 == i with
        | some p => p.2.1
        | none => if c.type = 3 then z else 0
  let codes := (List.range n).map code
  let clips := (plain.filter fun p => p.2.2).length + (sl.filter fun p => p.2.2).length + rest.length
  let counts := { base with clips := clips, gimpOvf := rest.length, s8Exh := if exhausted then 1 else 0 }
  if decide (e = -126) && sl.isEmpty && rest.isEmpty && v.all (fun p => code p.1 == if c.type = 3 then z else 0) then zeroQ n c counts
  else { s8 := c.supplied.elim (e + 127).toNat (·.1), zp := z, gword := gword, codes := codes, counts := counts, exp := e }

/-! ### Twist (02 R68 to R70) -/

def twistLog (d : Desc) : Nat := d.twSize + 1
def twistLen (d : Desc) : Nat := 4 ^ twistLog d
/-- Sign of the Walsh–Hadamard matrix in natural order. -/
def hadamardNeg (i j : Nat) : Bool := (List.range 8).foldl (fun p b => p != (bit i b && bit j b)) false

/-- The rotation of a tensor along a dimension, or its inverse, at one element; `f` reads the elements. -/
def twistAt (seed : Word64) (twSeed k dim : Nat) (inverse : Bool) (f : List Nat → Num) (idx : List Nat) : Num :=
  let n := 4 ^ k
  let p := idx.getD dim 0
  let g := p / n * n
  let i := p % n
  let sum := (List.range n).foldl (fun acc j =>
    let q := g + j
    let neg := hadamardNeg i j != (if inverse then twistNeg seed twSeed p else twistNeg seed twSeed q)
    acc.add ((f (idx.set dim q)).scale (if neg then -1 else 1))) (Num.fin false 0)
  sum.scale (pow2 (-(k : Int)))

/-- An element of a rotated group depends on poison anywhere in the group. -/
def twistBad (k dim : Nat) (f : List Nat → Bool) (idx : List Nat) : Bool :=
  let n := 4 ^ k
  let g := idx.getD dim 0 / n * n
  (List.range n).any fun j => f (idx.set dim (g + j))

/-- The exact element of a tensor with its Twist undone (02 R73, R74). -/
def plainVal (seed : Word64) (v : View) (idx : List Nat) : Num :=
  if v.desc.twSize = 0 then elemVal v idx
  else twistAt seed v.desc.twSeed (twistLog v.desc) v.desc.twDim true (elemVal v) idx

/-- Poison of an element with its Twist undone. -/
def plainBad (v : View) (idx : List Nat) : Bool :=
  if v.desc.twSize = 0 then elemBad v idx else twistBad (twistLog v.desc) v.desc.twDim (elemBad v) idx

/-- Values by linear index, rotated along a dimension with the state of `td` or rotated back; an index that was not computed counts as
zero. -/
def rotateVals (seed : Word64) (td : Desc) (dim : Nat) (inverse : Bool) (sizes : List Nat) (vals : List (Nat × Num × Bool)) :
    List (Nat × Num × Bool) :=
  let at_ (idx : List Nat) := vals.find? fun q => q.1 == linear sizes idx
  let val (idx : List Nat) : Num := (at_ idx).elim (.fin false 0) (·.2.1)
  let bad (idx : List Nat) : Bool := (at_ idx).any (·.2.2)
  vals.map fun q =>
    let idx := unlinear sizes q.1
    (q.1, twistAt seed td.twSeed (twistLog td) dim inverse val idx, twistBad (twistLog td) dim bad idx)

/-- Non-finite values that reach the Twist unit (02 R77). -/
def twistNf (vals : List (Nat × Num × Bool)) : Nat := (vals.filter fun q => !q.2.2 && !q.2.1.isFinite).length

/-- Computed values on their way to an output: rotated when its descriptor carries Twist (02 R52, R68), with the non-finite ones that reached
the Twist unit. -/
def towardOutput (seed : Word64) (d : Desc) (vals : List (Nat × Num × Bool)) : List (Nat × Num × Bool) × Nat :=
  if d.twSize = 0 then (vals, 0) else (rotateVals seed d d.twDim false (dims d) vals, twistNf vals)

/-! ### Outputs -/

/-- What a stitch produced for one cell of its output: stored codes (none where it produced nothing), and side data. -/
structure CellOut where
  cell : Nat
  codes : List (Option Nat)
  s8 : Nat := 0
  zp : Nat := 0
  gword : Nat := 0
  poisoned : Bool := false
  exp : Int := 0
  deriving DecidableEq, Repr

/-- A stitch's whole output before it is written. -/
structure Produced where
  cells : List CellOut := []
  counts : Counts := {}
  /-- Largest magnitude that reached the QU for each index of the level-1 tensor (06 R196). -/
  amax : Tbl Rat := []
  badL1 : Bool := false
  poisoned : Bool := false
  deriving DecidableEq, Repr

/-- The computed value at a linear index. -/
def valAt (vals : List (Nat × OutVal × Bool)) (lin : Nat) : Option (OutVal × Bool) := (vals.find? fun v => v.1 == lin).map (·.2)

def outNum : OutVal → Num
  | .num x => x
  | .code _ => .fin false 0

/-- Level-1 index of an element. -/
def l1Index (o : Operand) (i0 : Nat) : Nat := if o.l1.any fun d => d.rank == 1 then i0 else 0

/-- Quantise or encode a stitch's computed elements: blocks through the QU, unblocked narrow elements one by one, wide codes as they
are (02 R50, R51). A block of which the stitch computes some elements takes its scale, zero point and gimp word from those, and the
elements it does not compute keep their codes (DESIGN CHOICE: log entry 37). A 2-of-4 block that keeps no position is written as a zero
block. A supplied scale or zero point, a level-1 scale or kept metadata in a poisoned granule is poison that the block depends on (12 R378). -/
def produce (s : State) (seed : Word64) (sid : Sid) (st : Stitch) (o : Operand) (vals : List (Nat × OutVal × Bool)) : Produced :=
  let d := o.desc
  let view := memView s o
  let rnd (lin : Nat) : Option Nat := if st.round then some (stochBits seed sid lin) else none
  (List.range (cells d)).foldl (fun acc cell =>
    if blocked d then
      let pos := (List.range (blockLen d)).map fun p =>
        (elemAt d cell p).bind fun idx => if (keptIndex view cell p).isNone then none else some (idx, linear (dims d) idx)
      let xs := pos.map fun q => q.bind fun r => valAt vals r.2
      let computed := (List.range (blockLen d)).any fun p => (elemAt d cell p).any fun idx => (valAt vals (linear (dims d) idx)).isSome
      if !computed then acc else
      let key (p : Nat) : Nat := (pos.getD p none).elim 0 fun r => l1Index o (r.1.getD 0 0)
      let l1 (p : Nat) : Num := view.l1 (key p)
      let sideBad := (st.scaleSrc && (view.s8Bad cell || (d.type == 3 && view.sideBad cell))) ||
        (xs.zipIdx.any fun x => x.1.isSome && view.l1Bad (key x.2)) ||
        (isSparse d && (List.range (blockLen d)).any fun p => (elemAt d cell p).any fun idx => view.groupBad (groupOf d idx))
      let bad := sideBad || xs.any fun x => x.any fun y => y.2
      let sup := if st.scaleSrc then some (view.s8 cell, view.zp cell) else none
      let lins := pos.map fun q => q.elim 0 (·.2)
      let q := quantiseBlock { type := d.type, gimp := o.gimp.isSome, strict := st.strict, supplied := sup, rnd := fun p => rnd (lins.getD p 0) }
        l1 (xs.map fun x => x.map fun y => outNum y.1) bad
      let dense := (List.range (blockLen d)).filterMap fun p =>
        if isSparse d then (keptIndex view cell p).map fun j => (j, q.codes.getD p 0) else some (p, q.codes.getD p 0)
      let whole := (List.range (blockLen d)).all fun p => (pos.getD p none).isNone || (xs.getD p none).isSome
      let codes := (List.range (storedLen d)).map fun j =>
        match dense.find? fun e => e.1 == j with
        | some e =>
          if whole || isSparse d || (xs.getD j none).isSome || (pos.getD j none).isNone then some e.2 else none
        | none => some 0
      let mags := xs.zipIdx.filterMap fun x => x.1.bind fun y => if y.2 then none else (outNum y.1).rat?.map fun m => (key x.2, rabs m)
      { acc with
        cells := acc.cells ++ [{ cell := cell, codes := codes, s8 := q.s8, zp := q.zp, gword := q.gword, poisoned := q.s8 == 255, exp := q.exp }]
        counts := addCounts acc.counts q.counts, amax := mags.foldl (fun t m => tadj t m.1 0 (max · m.2)) acc.amax
        badL1 := acc.badL1 || (q.s8 != 255 && (xs.zipIdx.any fun x => x.1.isSome && badScale (l1 x.2))), poisoned := acc.poisoned || q.s8 == 255 }
    else
      match valAt vals cell with
      | none => acc
      | some (v, bad) =>
        if bad then { acc with cells := acc.cells ++ [{ cell := cell, codes := [some 0], poisoned := true }], poisoned := true } else
        match v with
        | .code k => { acc with cells := acc.cells ++ [{ cell := cell, codes := [some k] }] }
        | .num x =>
          let r := roundCode d.type st.strict (rnd cell) x
          let c : Counts := { elems := 1, clips := if r.2 then 1 else 0, nonfinite := if x.isFinite then 0 else 1 }
          { acc with cells := acc.cells ++ [{ cell := cell, codes := [some r.1] }], counts := addCounts acc.counts c })
    {}

/-- Put `w` bits into a write set, merging with what it or memory holds of the byte. -/
def wsBits (s : State) (ws : WriteSet) (ba w v : Nat) : WriteSet :=
  if 8 ≤ w then
    { ws with bytes := (List.range (w / 8)).foldl (fun t i => tset t (ba / 8 + i) (BitVec.ofNat 8 (v / 256 ^ i))) ws.bytes }
  else
    let old := ((tget ws.bytes (ba / 8)).getD (rdByte s (ba / 8))).toNat
    let sh := 2 ^ (ba % 8)
    let new := old - old / sh % 2 ^ w * sh + v % 2 ^ w * sh
    { ws with bytes := tset ws.bytes (ba / 8) (BitVec.ofNat 8 new) }

def wsPoison (ws : WriteSet) (a n : Nat) : WriteSet :=
  { ws with poisoned := (List.range ((a + n - 1) / 64 - a / 64 + 1)).foldl (fun l i => ninsert l (a / 64 + i)) ws.poisoned }

/-- The amax tensor of an output, rounded up (06 R196). -/
def writeAmax (s : State) (o : Operand) (p : Produced) (ws : WriteSet) : WriteSet :=
  o.amax.elim ws fun z => (List.range (elems z)).foldl (fun ws i =>
    wsBits s ws (codeBit z i 0) 32 (encodeFloat fp32 (roundFloat fp32 3 (.fin false (tgetD p.amax i 0))).num)) ws

/-- The write set of a produced output in memory: codes and side data; supplied scales and zero points are not written, except that a
poisoned block is marked (01 R27, 02 R52). -/
def writeCells (s : State) (st : Stitch) (o : Operand) (p : Produced) (ws : WriteSet) : WriteSet :=
  let d := o.desc
  let w := typeBits d.type
  let ws := p.cells.foldl (fun ws c =>
    let ws := (List.range c.codes.length).foldl (fun ws j =>
      (c.codes.getD j none).elim ws fun k => wsBits s ws (codeBit d c.cell j) w k) ws
    if !blocked d then (if c.poisoned then wsPoison ws (codeBit d c.cell 0 / 8) ((w + 7) / 8) else ws) else
    let ws := if st.scaleSrc && !c.poisoned then ws else o.scale.elim ws fun z => wsBits s ws (codeBit z c.cell 0) 8 c.s8
    let ws := if d.type = 3 && !st.scaleSrc then o.zero.elim ws fun z => wsBits s ws (z.base * 8 + 4 * c.cell) 4 c.zp else ws
    o.gimp.elim ws fun z => wsBits s ws ((z.base + 4 * c.cell) * 8) 32 c.gword) ws
  writeAmax s o p ws

/-! ### Blotter records (05 R145, R146) -/

/-- Bytes that a record reserves: header, one run word a unit, every unit literal. -/
def recordMax (o : Operand) : Nat :=
  let d := o.desc
  let units := if blocked d then cells d else ceilDiv (cells d * typeBits d.type) 512
  64 + pad64 (2 * units) + (if blocked d then pad64 units else 0) + (if o.gimp.isSome then 4 * units else 0) +
    units * (if blocked d then storedLen d * typeBits d.type / 8 else 64)

/-- Split a run into words of at most 32,767 units. -/
def runSplit (kind : Bool) (n fuel : Nat) : List Nat :=
  match fuel with
  | 0 => []
  | f + 1 => if n = 0 then [] else let k := min n 32767; ((if kind then 32768 else 0) + k) :: runSplit kind (n - k) f

/-- Run words of a sequence of units, literal ones marked. -/
def runsOf (lit : List Bool) : List Nat :=
  let groups := lit.foldr (fun b acc => match acc with
    | (k, n) :: r => if k = b then (k, n + 1) :: r else (b, 1) :: (k, n) :: r
    | [] => [(b, 1)]) ([] : List (Bool × Nat))
  (groups.map fun g => runSplit g.1 g.2 (g.2 / 32767 + 1)).flatten

/-- CRC of the small check unit (13 R391). -/
def reflectBits (w x : Nat) : Nat := (List.range w).foldl (fun acc i => if bit x i then acc + 2 ^ (w - 1 - i) else acc) 0
def crcByte (w poly : Nat) (refin : Bool) (r : Nat) (b : Byte) : Nat :=
  let v := if refin then reflectBits 8 b.toNat else b.toNat
  (List.range 8).foldl (fun r _ => if bit r (w - 1) then (r * 2 % 2 ^ w) ^^^ poly else r * 2 % 2 ^ w) (r ^^^ (v * 2 ^ (w - 8)))
def crcBytes (w poly : Nat) (refin : Bool) (r : Nat) (l : List Byte) : Nat := l.foldl (crcByte w poly refin) r
def crcFinal (w : Nat) (refout finv : Bool) (r : Nat) : Nat :=
  let r := if refout then reflectBits w r else r
  if finv then r ^^^ (2 ^ w - 1) else r
/-- Width and polynomial of a line-rate preset (13 R396). -/
def presetWidth (p : Nat) : Nat := if p = 2 then 64 else 32
def presetPoly (p : Nat) : Nat := if p = 0 then 0x1EDC6F41 else if p = 1 then 0x04C11DB7 else 0x42F0E1EBA9EA3693
/-- The running value before the first byte, after more bytes, and the check value of it (13 R391, R396). -/
def presetInit (p : Nat) : Nat := 2 ^ presetWidth p - 1
def presetRun (p r : Nat) (l : List Byte) : Nat := crcBytes (presetWidth p) (presetPoly p) true r l
def presetFinal (p r : Nat) : Nat := crcFinal (presetWidth p) true true r
def crc32c (l : List Byte) : Nat := presetFinal 0 (presetRun 0 (presetInit 0) l)
def crc32 (l : List Byte) : Nat := presetFinal 1 (presetRun 1 (presetInit 1) l)
def crc64 (l : List Byte) : Nat := presetFinal 2 (presetRun 2 (presetInit 2) l)

/-- The context of a stream that is suspended, or the one with which it starts; reading the running value back resumes it (13 R390, R397). -/
def contextOf (s : State) (u : StreamUse) (preset : Nat) : Stream :=
  (s.hub.streams.find? fun c => c.use == u).getD { use := u, preset := preset, value := BitVec.ofNat 64 (presetInit preset) }
/-- A stream ends and frees its context. -/
def endStream (s : State) (u : StreamUse) : State := { s with hub := { s.hub with streams := s.hub.streams.filter fun c => c.use != u } }
/-- Line-rate units of a Selvedge die, and of the Hub (13 R390). -/
def dieUnits (d : Nat) : List Nat := List.range' (64 * d) 64
def hubUnits : List Nat := [256, 257, 258, 259]
/-- A unit of a list has one of its 256 contexts free (13 R397). -/
def unitRoom (s : State) (u : Nat) : Bool := decide ((s.hub.streams.filter fun c => c.unit == u).length < 256)
/-- A stream is suspended: its running value is kept in a context of one of the units, that which it has where there is one. -/
def suspendStream (s : State) (us : List Nat) (c : Stream) : State :=
  let held := s.hub.streams.any fun x => x.use == c.use
  let t := endStream s c.use
  let u := if held && us.contains c.unit then c.unit else (us.find? (unitRoom t)).getD (us.headD 0)
  { t with hub := { t.hub with streams := t.hub.streams ++ [{ c with unit := u }] } }

/-- Bytes of a sequence of `w`-bit items, lower items in lower bits. -/
def packItems (w : Nat) (l : List Nat) : List Byte :=
  leBytes (ceilDiv (l.length * w) 8) (l.foldr (fun v acc => v % 2 ^ w + 2 ^ w * acc) 0)

def padTo64 (l : List Byte) : List Byte := l ++ List.replicate (pad64 l.length - l.length) 0

/-- The record of a produced `STASH` output, header first, with the header field values that Ohmub gives. -/
def recordOf (o : Operand) (p : Produced) (l1 : Num) (mb step loc : Nat) : List Byte :=
  let d := o.desc
  let w := typeBits d.type
  let cellAt (c : Nat) := p.cells.find? fun x => x.cell == c
  let codesOf (c : Nat) : List Nat := ((cellAt c).elim (List.replicate (storedLen d) (some 0)) (·.codes)).map fun k => k.getD 0
  let unitBytes : List (List Byte) :=
    if blocked d then (List.range (cells d)).map fun c => packItems w (codesOf c)
    else
      let all := packItems w ((List.range (cells d)).map fun c => (codesOf c).headD 0)
      (List.range (ceilDiv all.length 64)).map fun g => slice all (64 * g) 64
  let s8 (c : Nat) : Nat := (cellAt c).elim 0 (·.s8)
  let lit := (List.range unitBytes.length).map fun u => if blocked d then s8 u != 0 else (unitBytes.getD u []).any (· != 0)
  let lits := (List.range unitBytes.length).filter fun u => lit.getD u false
  let runs := runsOf lit
  let body := padTo64 (packItems 16 runs) ++ (if blocked d then padTo64 (lits.map fun u => BitVec.ofNat 8 (s8 u)) else []) ++
    (if o.gimp.isSome then packItems 32 (lits.map fun u => (cellAt u).elim 0 (·.gword)) else []) ++
    (lits.map fun u => unitBytes.getD u []).flatten
  let body := padTo64 body
  let hdr := crc32c body + encodeFloat fp32 (roundFloat fp32 0 l1).num * 2 ^ 224 + (64 + body.length) * 2 ^ 256 + lits.length * 2 ^ 288 +
    runs.length * 2 ^ 320 + unitBytes.length * 2 ^ 352 + step % 2 ^ 64 * 2 ^ 384 + loc * 2 ^ 452 +
    (if o.gimp.isSome then 2 ^ 457 else 0) + d.shape * 2 ^ 458 + d.type * 2 ^ 460 + mb * 2 ^ 464 + d.tag * 2 ^ 472 + d.handle * 2 ^ 480
  leBytes 64 hdr ++ body

/-- The CRC of a stored record's body matches its header (05 R147). -/
def recordCrcOk (s : State) (addr : Nat) : Bool :=
  let x := leNat (rdBytes s addr 64)
  crc32c (rdBytes s (addr + 64) (bits x 287 256 - 64)) == bits x 31 0

end Sys2Proof.Machine
end

