-- ==== Sys2Proof/Machine/Start.lean ====
section
/-! DEFINITION. When an admitted stitch may start, the tensors it reads, and the end of its execution (08 R253, R254; 09 R280; 05 R147, R150,
R152, R154; 04 R117). -/

namespace Sys2Proof.Machine

/-- Condition number under which a stitch whose contribution overflowed its accumulator waits (05 R139); the codes of 04 R108 are 1 to 6. -/
def condAcc : Nat := 7

/-! ### Handles a stitch reads and writes -/

def sideDescs (o : Operand) : List Desc := [o.scale, o.zero, o.gimp, o.l1].filterMap id
def handlesOf (l : List (Option Desc)) : List Nat := (l.filterMap id).map (·.handle)

/-- Side tensors that a stitch writes with its output: all that move with a bit-for-bit move, with a rank-1 level-1 tensor for row moves (07
R219, R224); else fresh scales and zero points, gimp words and the amax (02 R52, 06 R196). The scales and gimp words of a `STASH` output go into
its Blotter record (05 R146). -/
def outWrites (st : Stitch) (o : Operand) : List (Option Desc) :=
  let inMem (t : Option Desc) : Option Desc := if o.desc.stash then none else t
  if isMove st.opcode then
    [inMem o.scale, o.zero, inMem o.gimp, if st.opcode == opGather || st.opcode == opScatter then o.l1.filter fun d => d.rank == 1 else none]
  else (if st.scaleSrc then [] else [inMem o.scale, if o.desc.type = 3 then o.zero else none]) ++ [inMem o.gimp, o.amax]

/-- Side tensors of the output that a stitch reads: its level-1 scale, supplied scales, and the metadata that a quantiser output keeps. -/
def outReads (st : Stitch) (o : Operand) : List (Option Desc) :=
  if isMove st.opcode then []
  else [o.l1] ++ (if st.scaleSrc then [o.scale, o.zero] else [if isSparse o.desc then o.zero else none])

/-- Slots that a stitch writes: the counts of `ROUTE`, the master and momentum of `UPDATE`, the residual digits of a conversion. -/
def slotWritten (st : Stitch) (i : Nat) : Bool :=
  (st.opcode == opRoute && i == 1) || (st.opcode == opUpdate && (i == 1 || i == 2)) || (st.opcode == opConvert && st.passes != 0 && i == 2)
/-- Slots whose tensors a stitch does not read: those it only writes, and the weight of a `GRAD_ACC`, which gives sizes alone (05 R136). -/
def slotUnread (st : Stitch) (i : Nat) : Bool := (slotWritten st i && st.opcode != opUpdate) || (st.gradAcc && i == 2)

/-- Handles that a stitch reads after it has started. -/
def readHandles (a : Active) : List Nat :=
  let ins := ((a.opnds.zipIdx).filter fun p => !slotUnread a.st p.2).filterMap (·.1)
  (ins.map fun o => o.desc.handle :: (sideDescs o).map (·.handle)).flatten ++ a.out.elim [] fun o =>
    handlesOf (outReads a.st o) ++ if a.st.gradAcc then [o.desc.handle] else []

/-- Handles that a stitch writes. -/
def writeHandles (a : Active) : List Nat :=
  (((a.opnds.zipIdx).filter fun p => slotWritten a.st p.2).filterMap (·.1)).map (·.desc.handle) ++
    a.out.elim [] fun o => o.desc.handle :: handlesOf (outWrites a.st o)

/-- Handles that a stitch's repeat count comes from: read at admission, so that only what both reads and writes them waits on it (08 R253, R254). -/
def repHandles (a : Active) : List Nat := a.rep.elim [] fun o => o.desc.handle :: (sideDescs o).map (·.handle)

/-- The stitches admitted before one. -/
def earlier (s : State) (sid : Sid) : List Active := s.acts.takeWhile fun a => a.sid != sid

/-- A stitch has finished reading: a `FETCH` when its copy is complete, any other when it has left (08 R253). -/
def readsDone (a : Active) : Bool := a.st.opcode == opFetch && a.stage == .finished

/-- The handle hazards of 08 R253 and R254 within the stitch's job let it start. -/
def hazardsClear (s : State) (a : Active) : Bool :=
  let es := (earlier s a.sid).filter fun b => b.job == a.job
  let w := writeHandles a
  let r := readHandles a
  let both := w.filter fun h => r.contains h || (repHandles a).contains h
  (es.all fun b => readsDone b || (readHandles b).all fun h => !w.contains h) &&
    es.all fun b => both.all fun h => !(readHandles b).contains h && !(repHandles b).contains h && !(writeHandles b).contains h

/-! ### Bobbins (09 R280) -/

/-- A stitch that Ohmub admits again: a replay or a recomputation. -/
def byOhmub (a : Active) : Bool := a.recompute || a.stage == .replaying || a.marks.replayRound
/-- A stitch under comparison has a shadow execution: a stitch that a step replay has cleared is compared with its own earlier execution instead (12 R388). -/
def shadowed (a : Active) : Bool := a.shadow || a.resume.isSome
/-- The shadow execution of a stitch waits for a bobbin of a nib, or runs in one. -/
def shadowWants (s : State) (n : Nat × Nat) (a : Active) : Bool :=
  a.stage == .comparing && shadowed a && !(s.shadows.any fun h => h.sid == a.sid) && (shadowNibs s a.nibs).contains n
/-- Bobbins of a nib that shares of a kind hold: one for each started share, one for each run. -/
def bobbinsOf (s : State) (n : Nat × Nat) (p : Active → Bool) : Nat :=
  (s.acts.filter fun a => p a && a.st.opcode != opVscript && a.held.contains n).length +
    (s.runs.filter fun r => r.state == .running && r.panel == n.1 && r.nib == n.2 && s.acts.any fun a => a.sid == r.sid && p a).length
/-- Bobbins of a nib that are taken by anything but shadow executions: shares, runs and a self-test slice (15 R444). -/
def bobbinsTaken (s : State) (n : Nat × Nat) : Nat :=
  bobbinsOf s n (fun _ => true) + if s.test.running.any fun r => r.1 == n.1 && r.2.1 == n.2 then 1 else 0
/-- Bobbins of a nib that shadow executions hold: they take free ones in the order of their stitches, the others wait. -/
def bobbinsShadow (s : State) (n : Nat × Nat) : Nat := min (s.acts.filter (shadowWants s n)).length (16 - bobbinsTaken s n)
/-- The shadow execution of a stitch has its turn on every nib of it. -/
def shadowRuns (s : State) (a : Active) : Bool :=
  !shadowed a || (shadowNibs s a.nibs).all fun n => ((earlier s a.sid).filter (shadowWants s n)).length + bobbinsTaken s n < 16
/-- Bobbins that what Ohmub has admitted again holds on a nib, the first of them bobbin 15 (DESIGN CHOICE: log entry 39), with that of a self-test
slice (15 R444). -/
def bobbinsOhmub (s : State) (n : Nat × Nat) : Nat := bobbinsTaken s n - bobbinsOf s n (fun a => !byOhmub a) + bobbinsShadow s n
/-- A share may take a bobbin of a nib: a job's stitch one of 0 to 14, one that Ohmub admits again any of the 16. -/
def bobbinRoom (s : State) (again : Bool) (n : Nat × Nat) : Bool :=
  let jobs := bobbinsOf s n fun a => !byOhmub a
  if again then jobs + bobbinsOhmub s n < 16 else jobs + (bobbinsOhmub s n - 1) < 15
/-- Every share of a stitch has its bobbin or can have one; the runs of a script take theirs as they start. -/
def bobbinFree (s : State) (a : Active) : Bool := a.st.opcode == opVscript || a.nibs.all fun n => a.held.contains n || bobbinRoom s (byOhmub a) n

/-! ### Reads of the Blotter -/

/-- The record that serves a handle: the last one written. -/
def recordFor (j : Job) (h : Nat) : Option BlotRec := (j.blot.recs.filter fun r => r.handle == h && r.written).getLast?
/-- `RECOMPUTE` stands in the policy list, which a 0 ends (05 R143). -/
def recomputeListed (j : Job) : Bool := (j.blot.cfg.policy.takeWhile (· ≠ 0)).contains 3
/-- A record must be recomputed before it can be read (05 R152, R154). -/
def needsRecompute (j : Job) (r : BlotRec) : Bool := r.loc == .notKept || (r.loc == .lost && recomputeListed j)
/-- A record can be read where it is. -/
def recordReady (r : BlotRec) : Bool := r.loc == .kept || r.loc == .transit
/-- A read of the record is a read of poison: it is lost and nothing recomputes it. -/
def recordLost (j : Job) (r : BlotRec) : Bool := r.loc == .lost && !recomputeListed j

/-- Tensors whose records a stitch reads: its stashed operands, and a stashed output of a row move, of which rows may keep their contents (07 R226). -/
def recordReads (a : Active) : List Operand :=
  a.opnds.filterMap id ++ if a.st.opcode == opScatter || a.st.opcode == opGather then a.out.toList else []

/-- Every stashed tensor that it reads can be read now, or reads as poison. -/
def stashReady (s : State) (a : Active) : Bool :=
  (recordReads a).all fun o => !o.desc.stash || (jobOf s a.job).all fun j =>
    match recordFor j o.desc.handle with
    | none => true
    | some r => recordReady r || recordLost j r

/-- A drain or snapshot of a committed step reads the buffer that the step in progress writes (05 R162, R175). -/
def readsBack (j : Job) (step : Nat) : Bool := step % 2 == (j.committed + 1) % 2
/-- A drain still reads the back buffer of an `UPDATE`'s master. -/
def drainHolds (j : Job) (a : Active) (d : Drain) : Bool :=
  d.job == a.job && readsBack j d.step && (a.opnds.getD 1 none).any fun o => o.desc.handle == d.handle
/-- An `UPDATE` waits while a drain or a snapshot still reads its back buffer (05 R175, 12 R372). -/
def drainClear (s : State) (a : Active) : Bool :=
  a.st.opcode != opUpdate || (jobOf s a.job).all fun j => !(j.check.copying.any fun c => readsBack j c.1) && !(s.pair.drains.any (drainHolds j a))

/-- Stages from which an execution may run: first, in a replay, or one that recomputes. -/
def mayExecute (a : Active) : Bool := a.stage == .waiting || a.stage == .replaying

/-- A recomputed stitch waits on the one before it (05 R152). -/
def recomputeOrder (s : State) (a : Active) : Bool := !a.recompute || (earlier s a.sid).all fun b => !(b.recompute && b.job == a.job)

/-- The shares of an admitted stitch of an opcode may start as soon as they have a bobbin. -/
def mayStart (s : State) (a : Active) (opcode : Nat) : Bool :=
  a.st.opcode == opcode && mayExecute a && hazardsClear s a && stashReady s a && drainClear s a && recomputeOrder s a

/-- An admitted stitch of an opcode may execute now: every share has a bobbin. -/
def canRun (s : State) (a : Active) (opcode : Nat) : Bool := mayStart s a opcode && bobbinFree s a

/-- The view of an operand: its Blotter record, its front buffer, or its memory. A handle without a record reads as poison (log entry 9). -/
def viewOf (s : State) (j : Job) (o : Operand) : View :=
  if o.desc.stash then
    match recordFor j o.desc.handle with
    | some r => if recordReady r then stashView s o r.addr (!recordCrcOk s r.addr) else (stashView s o r.addr true).poison
    | none => (memView s o).poison
  else memView s { o with desc := frontDesc j o.desc false }

def opnd (a : Active) (i : Nat) : Option Operand := a.opnds.getD i none

/-- Layer tag of a stitch: its output's, else that of slot 0, else 0 (DESIGN CHOICE: log entry 39). -/
def tagOf (a : Active) : Nat := (a.out.orElse fun _ => a.opnds.getD 0 none).elim 0 fun o => o.desc.tag

def tagState (j : Job) (t : Nat) : TagState := tgetD j.tags t {}
def updTag (j : Job) (t : Nat) (f : TagState → TagState) : Job := { j with tags := tset j.tags t (f (tagState j t)) }

/-- The stitch starts: busy time is brought up to date, its first start kept, and the layer tag of a step's stitch has run (04 R122). -/
def startAct (s : State) (a : Active) : State × Active :=
  let s := accrue s a.job s.clk.now
  let s := if onStepQueue s a then updJob s a.job fun j => updTag j (tagOf a) fun t => { t with ran := true } else s
  let s := noteStart s a (a.started.getD s.clk.now)
  (s, { a with started := some (a.started.getD s.clk.now), held := if a.st.opcode = opVscript then a.held else a.nibs })

/-- The shares of a stitch that can have a bobbin start, the others wait for theirs (09 R280). -/
def takeBobbins (s : State) (a : Active) : State :=
  let room := a.nibs.filter fun n => a.held.contains n || bobbinRoom s (byOhmub a) n
  if room.isEmpty then s else
  let p := startAct s a
  putAct p.1 { p.2 with held := room }

/-- Keep the amax of a backward stitch's narrow output for a recompute of its tag's gradient scales (04 R115). -/
def keepGrad (s : State) (a : Active) (o : Operand) (amax : List Rat) : State :=
  if a.st.pass == 2 && onStepQueue s a && quType o.desc.type then
    updJob s a.job fun j =>
      { j with step := { j.step with grads := (j.step.grads.filter fun g => g.2.1 != a.sid) ++ [(tagOf a, a.sid, o, amax)] } }
  else s

/-- Stage after an execution. -/
def afterStage (a : Active) : Stage := if a.stage == .replaying then .replayed else .finished

/-- What an execution leaves: a write set, counts, whether it read poison, its amax, the conditions it raised by itself. -/
structure Done where
  ws : WriteSet := {}
  counts : Counts := {}
  poisoned : Bool := false
  amax : Tbl Rat := []
  /-- NaN or infinity in a wide path, raised without a count (01 R30, 02 R55). -/
  wideNf : Bool := false
  deriving DecidableEq, Repr

/-- The RU's amax for each index of the output's level-1 tensor, from index 0 on. -/
def amaxList (t : Tbl Rat) : List Rat := (List.range ((t.map (·.1)).foldl max 0 + 1)).map fun i => tgetD t i 0

/-- The end of an execution that wrote memory: its writes, counts and stage. -/
def finishExec (s : State) (a : Active) (d : Done) : State :=
  let p := startAct s a
  let s := applyWrites p.1 (some a.sid) d.ws
  let amax := amaxList d.amax
  let s := a.out.elim s fun o => keepGrad s a o amax
  putAct s { p.2 with stage := afterStage a, counts := addCounts { malformed := a.counts.malformed } d.counts
                      marks := { a.marks with poisoned := a.marks.poisoned || d.poisoned, flagged := a.marks.flagged || d.wideNf }
                      amax := amax
                      conds := if d.wideNf then [(5, d.counts.nonfinite)] else if isGround a.st.opcode then a.conds else [] }

/-- The record that an execution writes: the stitch's reservation, or in a group replay the one that it wrote. -/
def ownRecord (j : Job) (sid : Sid) (h : Nat) : Option BlotRec :=
  let mine := j.blot.recs.filter fun r => r.writer == sid && r.handle == h
  (mine.find? fun r => !r.written).orElse fun _ => mine.getLast?

/-- A cell as a tensor's last record holds it; none before a record. -/
def heldCell (v : Option View) (c : Nat) : Option CellOut :=
  v.map fun v =>
    let n := storedLen v.desc
    let bad := v.s8Bad c || v.s8 c == 255 || (!zeroCell v c && (v.sideBad c || (List.range n).any (v.codeBad c)))
    if bad then { cell := c, codes := List.replicate n (some 0), s8 := if blocked v.desc then 255 else 0, poisoned := true }
    else { cell := c, codes := (List.range n).map fun k => some (v.code c k), s8 := v.s8 c, zp := v.zp c, gword := if v.gimp then v.gword c else 0 }

/-- A produced `STASH` output with what it does not write: the codes and cells of the handle's last record, which keep their contents (07 R224, R226),
or zero where no record stands (DESIGN CHOICE: log entry 17). -/
def withHeld (v : Option View) (d : Desc) (p : Produced) : Produced :=
  let made := p.cells.map fun c =>
    let old := (heldCell v c.cell).elim [] (·.codes)
    if c.codes.all (·.isSome) then c else { c with codes := (c.codes.zipIdx).map fun k => k.1.orElse fun _ => old.getD k.2 none }
  let rest := ((List.range (cells d)).filter fun c => !(p.cells.any fun x => x.cell == c)).filterMap (heldCell v)
  { p with cells := made ++ rest, poisoned := p.poisoned || rest.any (·.poisoned) }

/-- Put a produced output where its descriptor says: memory, or the stitch's Blotter record at the address it reserved; a second write to
the handle releases every earlier record of it, wherever it lies (05 R145, R148, R152). -/
def storeOutput (s : State) (a : Active) (o : Operand) (p : Produced) (extra : WriteSet) : State × WriteSet :=
  if !o.desc.stash then (s, writeCells s a.st o p extra) else
  let ws := if o.desc.type = 3 && !a.st.scaleSrc then
      p.cells.foldl (fun ws c => o.zero.elim ws fun z => wsBits s ws (z.base * 8 + 4 * c.cell) 4 c.zp) extra else extra
  let ws := writeAmax s o p ws
  match jobOf s a.job with
  | none => (s, ws)
  | some j =>
    match ownRecord j a.sid o.desc.handle with
    | none => (s, ws)
    | some r =>
      let old := if (recordFor j o.desc.handle).isSome then some (viewOf s j o) else none
      let p := withHeld old o.desc p
      let bytes := recordOf o p (level1 s o.l1 0) a.st.mb (j.committed + 1) (if r.loc == .transit then 3 else 0)
      let ws := { ws with bytes := (List.range bytes.length).foldl (fun t i => tset t (r.addr + i) (bytes.getD i 0)) ws.bytes }
      let ws := if p.poisoned && !blocked o.desc then wsPoison ws r.addr bytes.length else ws
      let new : BlotRec := { r with bytes := bytes.length, written := true, step := j.committed + 1, tag := o.desc.tag, mb := a.st.mb }
      let recs := (j.blot.recs.filter fun q => q.handle != r.handle || q == r).map fun q => if q == r then new else q
      (putJob s { j with blot := { j.blot with recs := recs } }, ws)

/-- An execution that produced its whole output. -/
def finishOutput (s : State) (a : Active) (o : Operand) (p : Produced) (d : Done) : State :=
  let r := storeOutput s a o p d.ws
  finishExec r.1 a { ws := r.2, counts := addCounts d.counts p.counts, poisoned := d.poisoned || p.poisoned, amax := p.amax
                     wideNf := d.wideNf || p.badL1 }

/-- A read reaches the bytes of a descriptor, and the entries that are pending in them drain (10 R296). -/
def reachDesc (s : State) (d : Desc) : State := reachRange s (footprint d).1.toNat (footprint d).2
/-- A read reaches an operand: its codes or its Blotter record, and its side tensors. -/
def reachOperand (s : State) (j : Job) (o : Operand) : State :=
  if o.desc.stash then
    o.zero.toList.foldl reachDesc ((recordFor j o.desc.handle).elim s fun r => reachRange s r.addr r.bytes)
  else (sideDescs o).foldl reachDesc (reachDesc s (frontDesc j o.desc false))
/-- Slots that the execution of a stitch reads; a script's data slots are read by its instructions. -/
def slotRead (st : Stitch) (i : Nat) : Bool := !slotUnread st i && (st.opcode != opVscript || i == 3)
/-- An execution reads its tensors: the entries that are pending in them drain first, those of the address range that a tensor spans (DEDUCED:
log entry 38). -/
def reachReads (s : State) (j : Job) (a : Active) : State :=
  let s := ((a.opnds.zipIdx).filter fun p => slotRead a.st p.2).foldl (fun s p => p.1.elim s fun o => reachOperand s j o) s
  a.out.elim s fun o => ((outReads a.st o).filterMap id).foldl reachDesc (if a.st.gradAcc then reachDesc s (frontDesc j o.desc false) else s)

/-- Byte ranges of an operand as a stitch reads it. -/
def operandRanges (j : Job) (o : Operand) : List (Nat × Nat) :=
  let at_ (d : Desc) : Nat × Nat := ((footprint d).1.toNat, (footprint d).2)
  if o.desc.stash then o.zero.toList.map at_ ++ ((recordFor j o.desc.handle).toList.map fun r => (r.addr, r.bytes))
  else at_ (frontDesc j o.desc false) :: (sideDescs o).map at_
/-- The bobbins of a stitch that hold out for a request slot of their nib (09 R282, R283): the execution, whose reads are one event here, waits. -/
def slotsWait (s : State) (j : Job) (a : Active) : Bool :=
  let rs := (((a.opnds.zipIdx).filter fun p => slotRead a.st p.2).filterMap Prod.fst).map (operandRanges j)
  !s.mem.reqs.isEmpty && a.nibs.any fun n => rs.flatten.any fun r => rangeWaits s n r.1 r.2

/-- Run an execution of a stitch if it is admitted, of the opcode and may start; while shares of it wait for a bobbin the others start, and
otherwise the command is no event. -/
def runAct (s : State) (sid : Sid) (opcode : Nat) (f : State → Job → Active → State) : Host.Outcome State Fault Refusal :=
  match actOf s sid with
  | none => .next s
  | some a =>
    match jobOf s a.job with
    | none => .next s
    | some j =>
      .next (if slotsWait s j a then s else if canRun s a opcode then f (reachReads s j a) j a else if mayStart s a opcode then takeBobbins s a else s)

end Sys2Proof.Machine
end

