-- ==== Sys2Proof/Machine/Fabric.lean ====
section
/-! DEFINITION. The Ground fabric's message layer: headers, routing, injection, transactions, and what a lost station does (11 R320, R328 to
R338). -/

namespace Sys2Proof.Machine

def portOf (s : State) (p : Nat) : Port := tgetD s.fab.ports p {}
def putPort (s : State) (p : Nat) (x : Port) : State := { s with fab := { s.fab with ports := tset s.fab.ports p x } }

/-- Credits of a lane at the end of training (table Virtual lanes). -/
def laneCredits (vl : Nat) : Nat := [4, 60, 896, 512, 256, 256, 64, 0].getD vl 0
/-- Lanes that take the lowest port of the mask. -/
def fixedLane (vl : Nat) : Bool := vl == 1 || vl == 6

/-- Lane of a message by its type; an answer travels on its request's lane. -/
def laneOf : MsgType → Nat
  | .write => 3
  | .writeEnd => 3
  | .ack => 3
  | .nack => 3
  | .unreach => 1
  | .redUp => 2
  | .redDown => 2
  | .control => 1
  | .mgmt => 6
  | .mirror => 4
  | .journal => 5

/-- Types that hold a transaction entry from injection to their answer (11 R336). -/
def tracked : MsgType → Bool
  | .write => true
  | .writeEnd => true
  | .redUp => true
  | .redDown => true
  | _ => false

/-- The epoch of a job: its step in progress and its replays (11 R334 `EPOCH`). -/
def epochOf (j : Job) : BitVec 16 := BitVec.ofNat 16 ((j.committed + 1) % 4096 * 16 + j.step.replays % 16)

/-- Bits of an `ARG`. -/
def argBits (h : MsgHdr) (hi lo : Nat) : Nat := bits h.arg.toNat hi lo

/-- This part answers to a station ID (11 R333). -/
def answersTo (s : State) (st : Nat) : Bool := st == s.fab.station || s.fab.assumed == some st
/-- The station ID that a job's messages are sent with. -/
def srcOf (s : State) (j : Job) : Nat := j.assumed.getD s.fab.station
/-- Routing destination of a message at injection (11 R332). -/
def rdstOf (s : State) (dst : Nat) : Nat := ((s.fab.aliases.find? fun a => a.1 == dst).map (·.2)).getD dst

/-- Ports in UP of the mask towards a routing destination (11 R329). -/
def routeMask (s : State) (rdst : Nat) : List Nat :=
  let own := s.fab.station
  let m : Word64 := if rdst / 1024 != own / 1024 then tgetD s.fab.groupTbl (rdst / 1024) 0 else tgetD s.fab.memberTbl (rdst % 1024) 0
  (List.range 64).filter fun p => bit m.toNat p && (portOf s p).lstate == .up

/-- Where a message goes next (11 R329). -/
inductive Hop where
  | deliver
  | hopLimit
  | noRoute
  | port (p : Nat)
  deriving DecidableEq, Repr

/-- Choose the port of a message, leaving one port out where another serves. -/
def routeHop (s : State) (rdst hops vl : Nat) (avoid : Option Nat) : Hop :=
  if answersTo s rdst then .deliver
  else if hops = 15 then .hopLimit
  else
    let m := routeMask s rdst
    let m' := m.filter fun p => avoid != some p
    let m := if m'.isEmpty then m else m'
    match m with
    | [] => .noRoute
    | p :: r =>
      if fixedLane vl then .port p else
      let cr (q : Nat) : Nat := tgetD (portOf s q).credits vl 0
      .port (r.foldl (fun b q => if cr b < cr q then q else b) p)

/-! ### The bits of a flit (11 R317, R334) -/

def mtypeCode : MsgType → Nat
  | .write => 1
  | .writeEnd => 2
  | .ack => 3
  | .nack => 4
  | .unreach => 5
  | .redUp => 6
  | .redDown => 7
  | .control => 8
  | .mgmt => 9
  | .mirror => 10
  | .journal => 11

/-- The 32-byte header of a message. -/
def hdrBytes (h : MsgHdr) : List Byte :=
  leBytes 32 (h.arg.toNat + h.len * 2 ^ 96 + h.epoch.toNat * 2 ^ 112 + h.fjk.toNat * 2 ^ 128 + mtypeCode h.mtype * 2 ^ 174 + h.sdie * 2 ^ 178 +
    h.tag * 2 ^ 180 + h.hops * 2 ^ 192 + h.src * 2 ^ 196 + h.rdst * 2 ^ 216 + h.dst * 2 ^ 236)

def kindCode : FlitKind → Nat
  | .data => 0
  | .ctrl => 1
  | .idle => 2

/-- `PAYLOAD` of a flit: the header stands at its bit 0 in the first flit of a message; a stroke mark has none. -/
def flitPayload (f : Flit) : List Byte :=
  match f.kind with
  | .data => (if f.som && f.vl != 0 then hdrBytes f.hdr else []) ++ f.payload
  | .ctrl => Config.ctrlPayload f.ctrl
  | .idle => []

/-- Bits [2015:0] of a flit. -/
def flitBody (f : Flit) : List Byte :=
  leBytes 252 (f.plen * 2 ^ 8 + f.crN * 2 ^ 18 + f.crVl * 2 ^ 30 + (if f.eom then 2 ^ 33 else 0) + (if f.som then 2 ^ 34 else 0) +
    kindCode f.kind * 2 ^ 35 + f.vl * 2 ^ 37 + f.fack * 2 ^ 40 + f.fseq * 2 ^ 52 + leNat (flitPayload f) % 2 ^ 1952 * 2 ^ 64)

/-- `CRC` of a flit: CRC-32C over bits [2015:0]. -/
def flitCrc (f : Flit) : Word32 := BitVec.ofNat 32 (crc32c (flitBody f))

/-- The flit with its `PLEN` and `CRC`, as it goes onto the link. -/
def sealFlit (f : Flit) : Flit :=
  let f := { f with plen := max 1 (flitPayload f).length }
  { f with crc := flitCrc f }

/-- Bits [255:32] of a stroke mark (09 R273). -/
def markBody (m : Mark) : List Byte :=
  leBytes 28 (m.tally.toNat + (if m.holdover then 2 ^ 83 else 0) + m.nextXch * 2 ^ 84 + m.xchPct * 2 ^ 92 + m.changeIn * 2 ^ 100 +
    m.nextUs * 2 ^ 116 + m.periodUs * 2 ^ 124 + m.hops * 2 ^ 132 + m.root * 2 ^ 140 + m.stroke.toNat * 2 ^ 160)
/-- `CRC` of a mark: CRC-32C over its bits [255:32]. -/
def markCrc (m : Mark) : Word32 := BitVec.ofNat 32 (crc32c (markBody m))
/-- The 32 bytes of a stroke mark, its `CRC` in the first four. -/
def markBytes (m : Mark) : List Byte := leBytes 4 (markCrc m).toNat ++ markBody m
/-- The flit that carries a mark on lane 0. -/
def markFlit (m : Mark) : Flit := { (default : Flit) with kind := .data, vl := 0, som := true, eom := true, payload := markBytes m }

/-- The flits of a message: 212 data bytes beside the header in the first, 244 in each later one (11 R317, R334). -/
def flitsOf (h : MsgHdr) (vl : Nat) (data : List Byte) (marks : List Nat := []) (source : Option SendSource := none) : List Flit :=
  let n := if data.length ≤ 212 then 1 else 1 + ceilDiv (data.length - 212) 244
  (List.range n).map fun i =>
    { kind := .data, vl := vl, fseq := 0, fack := 0, som := decide (i = 0), eom := decide (i + 1 = n), crVl := 0, crN := 0, ctrl := .none
      hdr := h, marks := if i = 0 then marks else [], source := if i = 0 then source else none, plen := 0, crc := 0, payload := if i = 0 then data.take 212 else ((data.drop (212 + 244 * (i - 1))).take 244) }

/-- Queue the flits of a message on a lane of a port. -/
def enqueue (s : State) (p vl : Nat) (fs : List Flit) : State :=
  let x := portOf s p
  putPort s p { x with lanes := tadj x.lanes vl [] (· ++ fs) }

/-- A message is delivered to this part: it waits for the row of its type. -/
def deliverHere (s : State) (m : InMsg) : State := { s with fab := { s.fab with inbox := s.fab.inbox ++ [m] } }

/-- Route a message once; answers the port taken, 64 for this part, none when it was discarded. -/
def sendOn (s : State) (h : MsgHdr) (vl : Nat) (data : List Byte) (avoid : Option Nat) (marks : List Nat := []) (source : Option SendSource := none) :
    State × Option Nat :=
  match routeHop s h.rdst h.hops vl avoid with
  | .deliver => (deliverHere s { hdr := h, data := data, marks := marks, source := source, die := h.sdie }, some 64)
  | .hopLimit => ({ s with fab := { s.fab with hopLimit := satInc s.fab.hopLimit } }, none)
  | .noRoute => ({ s with fab := { s.fab with noRoute := satInc s.fab.noRoute } }, none)
  | .port p => (enqueue s p vl (flitsOf h vl data marks source), some p)

/-- Selvedge die whose entry a held message takes: that of a collective's instance (11 R345), else the one that received it (11 R336). -/
def heldDie (m : HeldMsg) : Nat :=
  if m.hdr.mtype == .redUp || m.hdr.mtype == .redDown then (argBits m.hdr 95 64 ^^^ argBits m.hdr 63 48) % 4 else m.die

/-- Transaction entries in use on a die: its own and the messages it holds (11 R336). -/
def entriesUsed (s : State) (die : Nat) : Nat :=
  (s.fab.trans.filter fun t => t.die == die).length + (s.fab.held.filter fun m => heldDie m == die).length

/-- The lowest tag that a die does not use. -/
def freeTag (s : State) (die : Nat) : Nat :=
  let used := (s.fab.trans.filter fun t => t.die == die).map (·.tag)
  ((List.range (used.length + 1)).find? fun k => !used.contains k).getD 0

/-- A message to be injected. -/
structure OutMsg where
  dst : Nat
  src : Nat
  mtype : MsgType
  vl : Nat
  fjk : Word32 := 0
  epoch : BitVec 16 := 0
  arg : Nat := 0
  data : List Byte := []
  marks : List Nat := []
  source : Option SendSource := none
  sid : Option Sid := none
  die : Nat := 0
  deriving DecidableEq, Repr

def hdrOf (s : State) (m : OutMsg) (die tag : Nat) : MsgHdr :=
  { dst := m.dst, rdst := rdstOf s m.dst, src := m.src, hops := 0, tag := tag, sdie := die, mtype := m.mtype, fjk := m.fjk, epoch := m.epoch
    len := m.data.length, arg := BitVec.ofNat 96 m.arg }

/-- A message of type 0x8 asks for an acknowledgement in bit 95 of its `ARG`, which is Ohmub's own; those that Ohmub sends of aliases and halts do
(DESIGN CHOICE: log entry 12). -/
def askBit : Nat := 2 ^ 95
def asksAck (t : MsgType) (arg : Nat) : Bool := t == .control && bit arg 95

/-- Inject a message (11 R332, R336); the answer's second part is false when its route mask has no port. -/
def inject (s : State) (m : OutMsg) : State × Bool :=
  if tracked m.mtype || asksAck m.mtype m.arg then
    let tag := freeTag s m.die
    let h := hdrOf s m m.die tag
    let t : Trans := { die := m.die, tag := tag, hdr := h, data := m.data, marks := m.marks, source := m.source, sid := m.sid, vl := m.vl, injectedAt := s.clk.now }
    if 4096 ≤ entriesUsed s m.die then ({ s with fab := { s.fab with waiting := s.fab.waiting ++ [(m.vl, t)] } }, true) else
    let r := sendOn s h m.vl m.data none m.marks m.source
    match r.2 with
    | none => (r.1, false)
    | some p => ({ r.1 with fab := { r.1.fab with trans := r.1.fab.trans ++ [{ t with firstPort := p }] } }, true)
  else
    let r := sendOn s (hdrOf s m m.die 0) m.vl m.data none m.marks m.source
    (r.1, r.2.isSome)

/-- Inject messages in order; answers the destinations that no route reaches. -/
def injectAll (s : State) (ms : List OutMsg) : State × List Nat :=
  ms.foldl (fun r m => let q := inject r.1 m; (q.1, if q.2 then r.2 else r.2 ++ [m.dst])) (s, [])

/-- Ohmub sends a message of its own on lane 1 (11 R334 `CONTROL`; its content has no encoding in the spec: log entry 12). -/
def ctrlTo (s : State) (src dst : Nat) (fjk : Word32) (name : String) (arg : Nat := 0) (epoch : BitVec 16 := 0) : State :=
  let s := { s with out := { s.out with lane1 := s.out.lane1 ++ [(dst, name)] } }
  (inject s { dst := dst, src := src, mtype := .control, vl := 1, fjk := fjk, epoch := epoch, arg := arg }).1

/-- Ohmub sends a message on lane 1 to every other station of a job. -/
def toStations (s : State) (j : Job) (name : String) (arg : Nat := 0) : State :=
  (j.stations.filter fun x => !answersTo s x).foldl (fun s x => ctrlTo s (srcOf s j) x j.fjk name arg (epochOf j)) s

/-- `ARG` of a halt notice: bit 0 for consumed poison (12 R379), else the unreachable station from bit 4 on (11 R338); Ohmub's own form, log entry 12. -/
def noticePoison : Nat := 1
def noticeLost (station : Nat) : Nat := 16 * station

/-- Answer a message with an acknowledgement on its lane; the answer's `SDIE` is the request's (DEDUCED, log entry 14). -/
def ackTo (s : State) (h : MsgHdr) (vl : Nat) : State :=
  (inject s { dst := h.src, src := h.dst, mtype := .ack, vl := vl, fjk := h.fjk, epoch := h.epoch, arg := h.tag * 2 ^ 84, die := h.sdie }).1

/-- Acknowledge a message of type 0x8 that asks for it. -/
def ackAsked (s : State) (h : MsgHdr) : State := if asksAck h.mtype h.arg.toNat then ackTo s h 1 else s

/-- Refuse a message with an admission status. -/
def nackTo (s : State) (h : MsgHdr) (vl status : Nat) : State :=
  (inject s { dst := h.src, src := h.dst, mtype := .nack, vl := vl, fjk := h.fjk, epoch := h.epoch
              arg := h.tag * 2 ^ 84 + status * 2 ^ 76, die := h.sdie }).1

/-- A station ID is the partner's: the one that the binding names, or one that an alias message says the same part answers to (12 R357, 11 R332). -/
def isPartner (s : State) (src : Nat) : Bool :=
  s.pair.partner.any fun p => p == src || s.fab.aliases.any fun a => (a.1 == p && a.2 == src) || (a.2 == p && a.1 == src)

/-- Registered tensors of open jobs on this part. -/
def tensorCount (s : State) : Nat := s.jobs.foldl (fun n j => n + j.2.prot.length) 0
/-- The station that this part is bound to hears how many registered tensors open jobs have here (12 R356; log entry 12). -/
def tellTensors (s : State) : State := s.pair.partner.elim s fun st => ctrlTo s s.fab.station st 0 "TENSORS" (tensorCount s)

/-- What this part contributes to a job's sums of pairs (12 R373). A pair both of whose parts stand in the station list is counted by the lower
station alone (DEDUCED: log entry 24). -/
def ownPairs (s : State) (j : Job) : Checkpoint :=
  let mine := s.pair.partner.all fun p => !(j.stations.contains p && p < srcOf s j)
  { j.check with correlated := if s.pair.state = 2 && mine then 1 else 0, otherPairs := if s.pair.state = 1 && mine then 1 else 0
                 unpaired := if s.pair.state = 0 then 1 else 0 }
/-- The part sends its contribution to the job's other parts (12 R373). -/
def tellPairs (s : State) (job : Nat) : State :=
  let s := updJob s job fun j => { j with check := ownPairs s j }
  (jobOf s job).elim s fun j => toStations s j "PAIR_COUNTS" (j.check.correlated + 2 * j.check.otherPairs + 4 * j.check.unpaired)

/-- Tell a source that its message found no port (11 R329). -/
def unreachTo (s : State) (h : MsgHdr) : State :=
  (inject s { dst := h.src, src := s.fab.station, mtype := .unreach, vl := 1, arg := h.tag * 2 ^ 84 + h.rdst * 2 ^ 64, die := h.sdie }).1

/-- The message of a row's header and data in the inbox; a row that none stands for brings a message of its own. -/
def inMsg (s : State) (h : MsgHdr) (data : List Byte) (marks : List Nat) (source : Option SendSource) : InMsg :=
  (s.fab.inbox.find? fun m => m.hdr == h && m.data == data).getD { hdr := h, data := data, marks := marks, source := source, die := h.sdie }
/-- A message leaves the inbox when its row takes it. -/
def takeInbox (s : State) (h : MsgHdr) (data : List Byte) : State :=
  { s with fab := { s.fab with inbox := s.fab.inbox.eraseP fun m => m.hdr == h && m.data == data } }
/-- Marks of a message all of whose data is poisoned, or none of it. -/
def markAll (bad : Bool) (data : List Byte) : List Nat := if bad then List.range data.length else []
/-- Hold a message (11 R335, R344). -/
def holdMsg (s : State) (m : InMsg) : State :=
  { s with fab := { s.fab with
    held := s.fab.held ++ [{ hdr := m.hdr, data := m.data, marks := m.marks, source := m.source, die := m.die, since := s.clk.now }] } }

/-! ### Delivery of job messages (11 R335) -/

/-- What the delivery rule says of a message. -/
inductive Verdict where
  | foreign
  | stale
  | newer
  | take (j : Job)
  deriving DecidableEq, Repr

def jobByFjk (s : State) (k : Word32) : Option Job := (s.jobs.find? fun j => j.2.fjk == k).map (·.2)

/-- Compare a message with the open job that its key names; epochs are ordered modulo 2^16. In Park every such message is foreign (16 R481). -/
def verdict (s : State) (h : MsgHdr) : Verdict :=
  if s.hub.pstate = 2 then .foreign else
  match jobByFjk s h.fjk with
  | none => .foreign
  | some j =>
    if !j.stations.contains h.src then .foreign
    else if h.epoch = epochOf j then .take j
    else if (h.epoch - epochOf j).toNat < 32768 then .newer else .stale

/-- Discard, acknowledge or hold a message that is not to be processed now. -/
def notNow (s : State) (m : InMsg) : Verdict → State
  | .foreign => { s with fab := { s.fab with foreign := satInc s.fab.foreign } }
  | .stale => ackTo { s with fab := { s.fab with stale := satInc s.fab.stale } } m.hdr (laneOf m.hdr.mtype)
  | .newer => holdMsg s m
  | .take _ => s

/-! ### Records lost with a station, and unreachable stations (05 R154, 11 R338) -/

/-- Moved records of a job at a lost place become lost, each with a record. -/
def loseRecords (s : State) (job : Nat) (p : Job → BlotRec → Bool) : State :=
  match jobOf s job with
  | none => s
  | some j =>
    let hit := j.blot.recs.filter (p j)
    let recs := j.blot.recs.map fun r => if p j r then { r with loc := .lost, moving := none, recalling := false, moved := [] } else r
    let occ := keptBytes j / 2 ^ 20
    hit.foldl (fun s r => jobEvent s job { area := areaStash (j.committed + 1) r.handle occ 5 (j.blot.inForce.getD 0) r.tag r.mb })
      (putJob s { j with blot := { j.blot with recs := recs } })

/-- A peer station of a Blotter is lost: the records that lie there are lost, and the moves on their way there end. -/
def losePeer (s : State) (station : Nat) : State :=
  let stop (j : Job) (r : BlotRec) : BlotRec := if j.blot.cfg.peerStation == station && r.moving == some .atPeer then { r with moving := none } else r
  s.jobs.foldl (fun s j =>
    updJob (loseRecords s j.1 fun jb r => r.loc == .atPeer && jb.blot.cfg.peerStation == station) j.1
      fun jb => { jb with blot := { jb.blot with recs := jb.blot.recs.map (stop jb) } }) s

/-- The partner is lost (12 R374, R389; 15 R431): the pair is no longer formed, every registered tensor is unprotected until it is mirrored again,
and each job that has some gets a `PROTECT` record. -/
def losePartner (s : State) (station : Nat) : State :=
  if s.pair.partner != some station || s.pair.state == 0 then s else
  let s := { s with pair := { s.pair with state := 0, drains := [], unacked := [] } }
  let s := s.jobs.foldl (fun s j =>
    if j.2.prot.isEmpty then s else
    let k := { j.2 with prot := j.2.prot.map (fun p => { p with protected_ := false, remirror := true }), check := { j.2.check with lostNs := some s.clk.now } }
    jobEvent (putJob s k) j.1 { area := areaResil j.2.committed 0 station 0x18 4 0 }) s
  health s { code := 0x0502, severity := 2, value := station }

/-- Halt of a job because a station cannot be reached (11 R338): the stitch concerned aborts, the job halts, and a record is sent for each
station that it loses. A `COMMIT` that has started runs on until a vote result or a reset (DESIGN CHOICE: log entry 39). -/
def haltFabric (s : State) (job station : Nat) (sid : Option Sid) (coll : Nat) : State :=
  match jobOf s job with
  | none => s
  | some j =>
    let act := sid.bind (actOf s)
    let s := losePeer (losePartner s station) station
    let s := (sid.bind (actOf s)).elim s fun a => completeWith s { a with marks := { a.marks with aborted := true } } stAborted
    if j.lost.contains station then s else
    let s := updJob (haltJob s job) job fun j => { j with lost := j.lost ++ [station] }
    jobEvent s job { area := areaFabric (sid.getD 0) station coll 1 0, sid := sid.getD 0, opcode := act.elim 0 (·.st.opcode), unit := act.elim {} stitchUnit }

/-- A station of a job becomes unreachable: the halt, and halt notices to every station of the list. -/
def stationLost (s : State) (job station : Nat) (sid : Option Sid) (coll : Nat) : State :=
  let new := (jobOf s job).any fun j => !j.lost.contains station
  let s := haltFabric s job station sid coll
  if new then (jobOf s job).elim s fun j => toStations s j "HALT_NOTICE" (askBit + noticeLost station) else s

/-! ### Entries that become free (11 R336, R337) -/

/-- Inject the oldest waiting message of a die; one whose route mask has no port makes its destination unreachable. -/
def wakeOne (s : State) (die : Nat) : State :=
  match s.fab.waiting.find? fun w => w.2.die == die with
  | none => s
  | some (vl, t) =>
    if 4096 ≤ entriesUsed s die then s else
    let s := { s with fab := { s.fab with waiting := s.fab.waiting.erase (vl, t) } }
    let tag := freeTag s die
    let h := { t.hdr with tag := tag, rdst := rdstOf s t.hdr.dst }
    let r := sendOn s h vl t.data none t.marks t.source
    match r.2 with
    | none => (jobByFjk r.1 h.fjk).elim r.1 fun j => stationLost r.1 j.id h.dst t.sid (if h.mtype == .redUp || h.mtype == .redDown then argBits h 95 64 else 0)
    | some p => { r.1 with fab := { r.1.fab with trans := r.1.fab.trans ++ [{ t with tag := tag, hdr := h, vl := vl, firstPort := p, injectedAt := r.1.clk.now }] } }

/-- Waiting messages of a die take the entries that are free. -/
def wakeWaiting (s : State) (die : Nat) : State := (List.range s.fab.waiting.length).foldl (fun s _ => wakeOne s die) s

/-- Held messages that a job has reached are delivered again. -/
def releaseHeld (s : State) (p : HeldMsg → Bool) : State :=
  let out := s.fab.held.filter p
  let s := { s with fab := { s.fab with held := s.fab.held.filter fun m => !p m } }
  let s := out.foldl (fun s m => deliverHere s { hdr := m.hdr, data := m.data, marks := m.marks, source := m.source, die := m.die }) s
  if out.isEmpty then s else (List.range 4).foldl wakeWaiting s

/-- The job's epoch has changed: messages held for it are delivered, and what was kept to answer repeats of the old epoch goes. -/
def epochReached (s : State) (job : Nat) : State :=
  match jobOf s job with
  | none => s
  | some j =>
    let e := epochOf j
    let s := releaseHeld s fun m => m.hdr.fjk == j.fjk && m.hdr.epoch == e
    let live (sid : Sid) : Bool := s.acts.any fun a => a.sid == sid
    { s with fab := { s.fab with rx := s.fab.rx.filter (fun r => r.job != job || r.epoch == e)
                                 reds := s.fab.reds.filter fun r => r.job != job || r.epoch == e || live r.sid } }

end Sys2Proof.Machine
end

