-- ==== Sys2Proof/Machine/Protect.lean ====
section
/-! DEFINITION. Registered tensors: their buffers, Journal records, drains and classes (05 R162, 12 R357 to R366). -/

namespace Sys2Proof.Machine

/-- The entry of a master, or of its state. -/
def protOf (j : Job) (h : Nat) : Option Protect := j.prot.find? fun p => p.handle == h
def updProt (j : Job) (h : Nat) (f : Protect → Protect) : Job := { j with prot := j.prot.map fun p => if p.handle == h then f p else p }

/-- Descriptor of a registered tensor with the base of the buffer that holds a step (05 R162). -/
def bufAt (d : Desc) (alt step : Nat) : Desc := if step % 2 = 1 then { d with base := alt } else d

/-- M: bytes of one mirror (12 R358). -/
def mirrorBytes (s : State) (j : Job) (p : Protect) : Nat :=
  ((readDesc s j p.handle).elim 0 fun d => (footprint d).2) +
    if p.state = 0 then 0 else (readDesc s j p.state).elim 0 fun d => (footprint d).2

/-- A pair is formed. -/
def pairFormed (s : State) : Bool := s.pair.state != 0

def protectRecord (s : State) (j : Job) (handle action : Nat) : State :=
  jobEvent s j.id { area := areaResil j.committed handle (s.pair.partner.getD 0) 0x18 action 0 }

/-- A protected tensor becomes unprotected, with a record (12 R359, R389). -/
def unprotect (s : State) (job handle : Nat) : State :=
  match jobOf s job with
  | none => s
  | some j =>
    if (protOf j handle).any fun p => p.protected_ then
      let j := updProt j handle fun p => { p with protected_ := false }
      protectRecord (putJob s j) j handle 2
    else s

/-- The buffers of a registered tensor that hold a step: its master's, and its state's. -/
def buffersAt (s : State) (j : Job) (p : Protect) (step : Nat) : List Desc :=
  [(readDesc s j p.handle).map fun d => bufAt d p.altBase step,
    if p.state = 0 then none else (readDesc s j p.state).map fun d => bufAt d p.stateAlt step].filterMap id
/-- Bytes of a tensor's footprint as they stand. -/
def footBytes (s : State) (d : Desc) : List Byte := rdBytes s (footprint d).1.toNat (footprint d).2
/-- Data of a tensor in an image: master and state, each padded to 64. -/
def snapData (s : State) (j : Job) (p : Protect) (step : Nat) : List Byte := ((buffersAt s j p step).map fun d => padTo64 (footBytes s d)).flatten

/-- The newest step up to which the acknowledged Journal records of a tensor follow one another. -/
def journalReach (s : State) (j : Job) (p : Protect) : Nat → Nat → Nat
  | 0, m => m
  | f + 1, m =>
    let held := p.retained.any fun r => r.1 == m + 1
    let open_ := s.pair.unacked.any fun r => r.fjk == j.fjk && r.handle == p.handle && r.step == m + 1
    if held && !open_ then journalReach s j p f (m + 1) else m
/-- The partner holds a complete slot and every record from its step to C (12 R359). -/
def covered (s : State) (j : Job) (p : Protect) : Bool := p.slotStep.any fun m => j.committed ≤ journalReach s j p (p.retained.length + 1) m

/-! ### Journal records (12 R360 to R362) -/

/-- Maximal stretches of zeros of at least 16 elements, and what lies between them. -/
def journalRuns (t : List Int) : List (Bool × Nat) :=
  let g := t.foldr (fun (x : Int) acc => match acc with
    | (z, n) :: r => if z == (x == 0) then (z, n + 1) :: r else (x == 0, 1) :: (z, n) :: r
    | [] => [(x == 0, 1)]) ([] : List (Bool × Nat))
  (g.map fun p => (p.1 && decide (16 ≤ p.2), p.2)).foldr (fun p acc => match acc with
    | (false, n) :: r => if p.1 then p :: (false, n) :: r else (false, p.2 + n) :: r
    | l => p :: l) []

/-- The 2-bit code of a ternary value. -/
def triCode (x : Int) : Nat := if x = 0 then 0 else if x < 0 then 3 else 1

/-- Code words of literal elements, eight to a word. -/
def triWords (l : List Int) : List Nat :=
  (List.range (ceilDiv l.length 8)).map fun i => ((l.drop (8 * i)).take 8).foldr (fun x acc => triCode x + 4 * acc) 0

/-- Words of a run, split at 32,767 elements. -/
def runBody (zero : Bool) (l : List Int) : List Nat :=
  ((List.range (ceilDiv l.length 32767)).map fun i =>
    let c := (l.drop (32767 * i)).take 32767
    if zero then [c.length] else (32768 + c.length) :: triWords c).flatten

/-- Body of a record: its words in the master's linear index order. -/
def journalBody (t : List Int) : List Nat :=
  ((journalRuns t).foldl (fun (acc : List Nat × List Int) r => (acc.1 ++ runBody r.1 (acc.2.take r.2), acc.2.drop r.2)) ([], t)).1

/-- Bytes of a record, padded to 64. -/
def journalBytes (r : JRec) : List Byte :=
  let body := (journalBody r.ternary).map (leBytes 2) |>.flatten
  let nz := (r.ternary.filter (· ≠ 0)).length
  let hdr := r.tally.toNat * 2 ^ 232 + r.tag * 2 ^ 248 + body.length * 2 ^ 256 + nz * 2 ^ 288 + r.ternary.length * 2 ^ 320 + r.handle * 2 ^ 352 +
    r.rms.toNat * 2 ^ 384 + r.step % 2 ^ 64 * 2 ^ 448 + r.params.toNat * 2 ^ 512
  let h := leBytes 128 hdr
  padTo64 (leBytes 4 (crc32c (h.drop 4 ++ body)) ++ h.drop 4 ++ body)

/-- Read the elements of a body; none when a code word is malformed. -/
def parseBody : Nat → List Nat → Option (List Int)
  | 0, _ => some []
  | _ + 1, [] => some []
  | f + 1, w :: r =>
    let n := w % 32768
    if w < 32768 then (parseBody f r).map fun t => List.replicate n 0 ++ t else
    let k := ceilDiv n 8
    let codes := (List.range n).map fun i => (r.getD (i / 8) 0) / 4 ^ (i % 8) % 4
    if codes.contains 2 then none
    else (parseBody f (r.drop k)).map fun t => codes.map (fun c => if c = 1 then 1 else if c = 3 then -1 else 0) ++ t

/-- A record as the partner reads it from its bytes, with the check value that its stream has given. -/
def parseJournal (fjk : Word32) (l : List Byte) (crc : Nat) : Option JRec :=
  let x := leNat (l.take 128)
  let n := bits x 287 256
  let body := (l.drop 128).take n
  let words := (List.range (n / 2)).map fun i => fieldLe body (2 * i) 2
  if crc ≠ bits x 31 0 then none else
  some { fjk := fjk, handle := bits x 383 352, tag := bits x 255 248, step := bits x 511 448, rms := BitVec.ofNat 64 (bits x 447 384)
         params := BitVec.ofNat 512 (x / 2 ^ 512), tally := BitVec.ofNat 16 (bits x 247 232), ternary := (parseBody (words.length + 1) words).getD []
         crcOk := (parseBody (words.length + 1) words).isSome }

/-- The messages of a record: fragments of up to 16 KiB (12 R362). -/
def journalMsgs (s : State) (j : Job) (r : JRec) (st : Nat) : List OutMsg :=
  let b := journalBytes r
  (List.range (ceilDiv b.length 16384)).map fun i =>
    { dst := st, src := srcOf s j, mtype := .journal, vl := 5, fjk := j.fjk, epoch := epochOf j, data := (b.drop (16384 * i)).take 16384
      arg := r.handle * 2 ^ 64 + r.tally.toNat * 2 ^ 48 + i * 2 ^ 32 + r.step % 2 ^ 32 }

/-- Send a record to the partner (12 R362). -/
def sendJournal (s : State) (j : Job) (r : JRec) : State := s.pair.partner.elim s fun st => (injectAll s (journalMsgs s j r st)).1

/-- The Journal record of an `UPDATE` (12 R360): numbered, kept until acknowledged, and sent. -/
def journalWrite (s : State) (job : Nat) (r : JRec) : State :=
  match jobOf s job with
  | none => s
  | some j =>
    if !pairFormed s then s else
    let r := { r with tally := s.pair.outTally, fjk := j.fjk }
    let s := { s with pair := { s.pair with outTally := s.pair.outTally + 1, unacked := s.pair.unacked ++ [r] } }
    let nz := (r.ternary.filter (· ≠ 0)).length
    let j := updProt j r.handle fun p => { p with rho := ((nz, r.ternary.length) :: p.rho).take 16
                                                  retained := p.retained ++ [(r.step, (journalBytes r).length)] }
    sendJournal (putJob s j) j r

/-! ### Drains (12 R364, R365, R381) -/

/-- `MIRROR` messages of one tensor. -/
def mirrorMsgs (s : State) (j : Job) (st handle slot step : Nat) (part : Nat) (l : List Byte) : List OutMsg :=
  (List.range (ceilDiv l.length 16384)).map fun i =>
    { dst := st, src := srcOf s j, mtype := .mirror, vl := 4, fjk := j.fjk, epoch := epochOf j, data := (l.drop (16384 * i)).take 16384
      arg := handle * 2 ^ 64 + slot * 2 ^ 63 + part * 2 ^ 62 + i * 256 * 2 ^ 32 + step % 2 ^ 32 }

/-- Start the drain of a tensor's fronts of the committed step into its older slot. One that an earlier drain still uses is drained again once that one
ends. -/
def startDrain (s : State) (job handle : Nat) (restore : Bool) : State :=
  match jobOf s job, s.pair.partner with
  | some j, some st =>
    match protOf j handle, readDesc s j handle with
    | some p, some d =>
      if s.pair.drains.any fun x => x.job == job && x.handle == handle then updJob s job fun j => updProt j handle fun p => { p with again := true } else
      let s := updJob s job fun j => updProt j handle fun p => { p with again := false, remirror := false }
      let slot := 1 - p.slotIdx
      let m := bufAt d p.altBase j.committed
      let sd := if p.state = 0 then none else (readDesc s j p.state).map fun e => bufAt e p.stateAlt j.committed
      let bad := rangePoison s (footprint m).1.toNat (footprint m).2 || sd.any fun e => rangePoison s (footprint e).1.toNat (footprint e).2
      let s := (m :: sd.toList).foldl reachDesc s
      let s1 := (injectAll s (mirrorMsgs s j st handle slot j.committed 0 (footBytes s m) ++
        sd.elim [] fun e => mirrorMsgs s j st handle slot j.committed 1 (footBytes s e))).1
      let s2 := { s1 with pair := { s1.pair with drains := s1.pair.drains ++ [{ job := job, handle := handle, slot := slot, step := j.committed
                                                                                bytes := mirrorBytes s j p, stroke := strokeNow s, incomplete := bad, restore := restore }] } }
      if bad then protectRecord s2 j handle 2 else s2
    | _, _ => s
  | _, _ => s

/-! ### Classes (12 R366) -/

/-- Mean time between the last 16 commits, in ns. -/
def meanCommitNs (j : Job) : Rat :=
  match j.commitTimes with
  | [] => 0
  | a :: r => if r.isEmpty then 0 else (((a - r.getLastD a : Nat) : Rat)) / (r.length : Rat)

/-- B: bytes of mirror traffic between two commits. -/
def budgetBytes (j : Job) : Rat := (j.protCfg.mirrorPct : Rat) * 64 * meanCommitNs j

/-- ρ of a tensor: its last 16 records, or else the ρ of its layer tag's norm record. -/
def rhoOf (p : Protect) (tagRho : Nat × Nat) : Rat :=
  let q (x : Nat × Nat) : Rat := if x.2 = 0 then 0 else (x.1 : Rat) / (x.2 : Rat)
  if p.rho.isEmpty then q tagRho else (p.rho.map q).foldl (· + ·) 0 / (p.rho.length : Rat)

/-- Class before the budget: 1 Mirror, 2 Journal. -/
def classOf (s : State) (j : Job) (p : Protect) (tagRho : Nat × Nat) : Nat :=
  if p.method ≠ 0 then p.method
  else if mirrorBytes s j p ≤ j.protCfg.smallMib * 2 ^ 20 || (j.protCfg.rhoHi : Rat) / 256 ≤ rhoOf p tagRho then 1 else 2

/-- Bytes of the Journal in the last step. -/
def stepJournal (j : Job) : Nat := j.prot.foldl (fun n p => n + (p.retained.getLast?).elim 0 (·.2)) 0

/-- Move the largest unforced Mirror-class tensor to Journal-class while the budget is exceeded. -/
def shedMirrors (s : State) (b : Rat) (extra : Nat) : Nat → Job → Job
  | 0, j => j
  | f + 1, j =>
    let ms := j.prot.filter fun p => p.cls == 1
    let sum := ms.foldl (fun n p => n + mirrorBytes s j p) 0
    if ((sum + extra : Nat) : Rat) ≤ b then j else
    match ms.filter fun p => p.method == 0 with
    | [] => j
    | p :: r =>
      let big := r.foldl (fun (q : Protect) x => if mirrorBytes s j q < mirrorBytes s j x then x else q) p
      shedMirrors s b extra f (updProt j big.handle fun p => { p with cls := 2 })

/-- A tensor's class is to be decided: at the first commit after its registration, every 64 commits after that, and after a restore or a lifted
drain (12 R365, R366). -/
def classDue (j : Job) (p : Protect) : Bool := p.cls == 0 || j.redecide || 64 ≤ j.commits - p.clsAt

/-- Decide the classes of a job's tensors at a commit. -/
def decideClasses (s : State) (j : Job) (tagRho : Nat → Nat × Nat) : Job :=
  let decided (p : Protect) : Protect :=
    if classDue j p then { p with cls := classOf s j p (tagRho ((readDesc s j p.handle).elim 0 (·.tag))), clsAt := j.commits } else p
  let j := { j with prot := j.prot.map decided, redecide := false }
  shedMirrors s (budgetBytes j) (stepJournal j) j.prot.length j

/-- Retained Journal bytes of a tensor. -/
def retainedBytes (p : Protect) : Nat := p.retained.foldl (fun n r => n + r.2) 0

/-- A Journal-class tensor's drain is due: no complete slot yet, retention at M, or the step limit. -/
def drainDue (s : State) (j : Job) (p : Protect) : Bool :=
  p.remirror || p.slotStep.isNone || mirrorBytes s j p ≤ retainedBytes p || p.slotStep.any fun m => j.protCfg.jMaxSteps ≤ j.committed - m

/-- Start the drains of a commit: Mirror-class tensors in registration order, then Journal-class ones that are due, held back while the
commit has no room for them unless retention would exceed 2 × M. A tensor that is to be mirrored at the next commit is not held back (R362, R381). -/
def startDrains (s : State) (job : Nat) : State :=
  match jobOf s job with
  | none => s
  | some j =>
    if !pairFormed s then s else
    let b := budgetBytes j
    let one (acc : State × Nat) (p : Protect) : State × Nat := (startDrain acc.1 job p.handle (p.remirror && j.check.lostNs.isSome), acc.2 + mirrorBytes s j p)
    let r := (j.prot.filter fun p => p.cls == 1).foldl one (s, 0)
    let last (p : Protect) : Nat := (p.retained.getLast?).elim 0 (·.2)
    ((j.prot.filter fun p => p.cls != 1 && drainDue s j p).foldl (fun acc p =>
      let m := mirrorBytes s j p
      if (b < ((acc.2 + m : Nat) : Rat)) && retainedBytes p + last p ≤ 2 * m && p.slotStep.isSome && !p.remirror then acc else one acc p) r).1

end Sys2Proof.Machine
end

