-- ==== Sys2Proof/Machine/Steps.lean ====
section
/-! DEFINITION. What ends or repeats a step: occurrences, levels, scales, the release of a stitch, step replays and commits (04 R108 to R130,
05 R131, R137 to R141, R148, R155, R166, R171 to R176). -/

namespace Sys2Proof.Machine

/-! ### Layer tags and their records (04 R110, R128) -/

/-- Level that a tag will have once its decided change takes effect. -/
def nextLevel (t : TagState) : Nat := max t.floor (min t.ceil (t.pendingLevel.getD t.level))

/-- Fields of a watch or ladder record. -/
structure WatchInfo where
  event : Nat
  tag : Nat := 0
  cond : Nat := 0
  action : Nat := 0
  value : Nat := 0
  occur : Nat := 0
  old : Nat := 0
  new : Nat := 0
  sid : Sid := 0
  opcode : Nat := 0
  unit : UnitRef := {}
  deriving DecidableEq, Repr

def watchEvent (s : State) (job : Nat) (w : WatchInfo) : State :=
  match jobOf s job with
  | none => s
  | some j =>
    jobEvent s job { area := areaWatch (j.committed + 1) w.value w.event w.cond w.action w.tag w.old w.new w.occur j.step.replays
                     sid := w.sid, opcode := w.opcode, unit := w.unit }

/-- Strength of an `ACTION` in a coalesced record. -/
def actionRank (a : Nat) : Nat := if a = 4 then 4 else if a = 2 then 3 else if a = 1 then 2 else if a = 3 then 1 else 0

/-- Coalesce an occurrence into the tag's record of the condition. -/
def coalesce (l : List WatchRec) (w : WatchRec) : List WatchRec :=
  match l with
  | [] => [w]
  | x :: r =>
    if x.tag = w.tag && x.cond = w.cond && x.onStep = w.onStep && (w.onStep || x.sid = w.sid) then
      { x with n := x.n + 1, value := max x.value w.value, action := if actionRank x.action < actionRank w.action then w.action else x.action } :: r
    else x :: coalesce r w

/-- Send the coalesced records that satisfy a test; `level` gives the level in force from the next step or replay. -/
def flushWatch (s : State) (job : Nat) (p : WatchRec → Bool) (level : Job → Nat → Nat := fun j t => nextLevel (tagState j t)) : State :=
  match jobOf s job with
  | none => s
  | some j =>
    (j.watchRecs.filter p).foldl (fun s w =>
      watchEvent s job { event := 0x10, tag := w.tag, cond := w.cond, action := w.action, value := w.value, occur := w.n, old := w.oldLevel
                         new := level j w.tag, sid := w.sid, opcode := w.opcode, unit := w.unit })
      (putJob s { j with watchRecs := j.watchRecs.filter fun w => !p w })

/-- One occurrence of a condition on a tag (04 R121, R122): a repeat within the window climbs or is blocked at the ceiling, which the second
part of the answer says. -/
def occurOn (j : Job) (tag cond action value : Nat) (a : Active) (onStep : Bool) : Job × Bool :=
  let t := tagState j tag
  let step := j.committed + 1
  let again := t.history.any fun h => h.1 == cond && step - h.2 < j.watch.window
  let cur := t.pendingLevel.getD t.level
  let j := { j with watchRecs := coalesce j.watchRecs { tag := tag, cond := cond, n := 1, value := value, action := action, oldLevel := t.level, sid := a.sid, onStep := onStep
                                                        opcode := a.st.opcode, unit := stitchUnit a } }
  let t := { t with clean := 0, occur := t.occur ||| BitVec.ofNat 6 (2 ^ (cond - 1)), jumped := t.jumped || cond == 6
                    history := (cond, step) :: t.history.filter fun h => h.1 != cond }
  if again && cur < t.ceil then
    ({ j with tags := tset j.tags tag { t with pendingLevel := some (cur + 1), pendingCond := cond, pendingQuiet := false, history := [] } }, false)
  else ({ j with tags := tset j.tags tag t }, again)

/-- The tag has entries in the ladder map. -/
def hasEntries (j : Job) (tag : Nat) : Bool := j.ladder.any fun e => e.tag == tag

/-- A tag takes a level (04 R123): the clean count goes to zero with any change, and a change under R121 or R122 sends a `LADDER` record. -/
def setLevel (s : State) (job tag new cond : Nat) (quiet : Bool) : State :=
  match jobOf s job with
  | none => s
  | some j =>
    let t := tagState j tag
    let s := putJob s (updTag j tag fun t => { t with level := new, pendingLevel := none, pendingCond := 0, pendingQuiet := false
                                                      clean := if t.level = new then t.clean else 0 })
    if t.level = new || quiet then s else
    watchEvent s job { event := 0x11, tag := tag, cond := cond, action := if hasEntries j tag then 0 else 5, old := t.level, new := new }

/-- Decided level changes take effect where no commit decides them: at the start of a step replay, or at once without a step in progress. -/
def applyLevels (s : State) (job : Nat) : State :=
  match jobOf s job with
  | none => s
  | some j => (j.tags.filter fun t => t.2.pendingLevel.isSome).foldl (fun s t =>
      setLevel s job t.1 (nextLevel t.2) t.2.pendingCond t.2.pendingQuiet) s

/-- Occurrences of one stitch; answers whether a climb was blocked, with the condition. -/
def occurAll (s : State) (a : Active) (conds : List (Nat × Nat)) (action : Nat → Nat) : State × Option Nat :=
  match jobOf s a.job with
  | none => (s, none)
  | some j =>
    let r := conds.foldl (fun (acc : Job × Option Nat) c =>
      let o := occurOn acc.1 (tagOf a) c.1 (action c.1) c.2 a (onStepQueue s a)
      (o.1, if o.2 then some c.1 else acc.2)) (j, none)
    let s := putJob s r.1
    (if j.step.inProgress then s else applyLevels s a.job, r.2)

/-! ### Scale recompute (04 R115) -/

/-- Write the level-1 scales 2^⌈log2 amax⌉ of an output; answers whether a byte changed. An amax above 2^127 has a scale that FP32 cannot hold: it is
rounded and written as infinity (DESIGN CHOICE: log entry 39). -/
def recomputeScale (s : State) (o : Operand) (amax : List Rat) : State × Bool :=
  match o.l1 with
  | none => (s, false)
  | some d =>
    (amax.zipIdx).foldl (fun (acc : State × Bool) p =>
      if p.1 = 0 then acc else
      let e : Int := if pow2 (floorLog2 p.1) = p.1 then floorLog2 p.1 else floorLog2 p.1 + 1
      let b := leBytes 4 (toFp32 (.fin false (pow2 e))).toNat
      let a := codeBit d (if d.rank = 0 then 0 else p.2) 0 / 8
      (wrBytes acc.1 a b, acc.2 || rdBytes acc.1 a 4 != b)) (s, false)

/-- Recompute the scales of a held stitch's output. -/
def recomputeOf (s : State) (a : Active) : State × Bool := a.out.elim (s, false) fun o => recomputeScale s o a.amax

/-- Recompute the scales of a tag's gradients of the step; the stitches that wrote them run with fresh scales in the replay. -/
def recomputeGrads (s : State) (job tag : Nat) : State × Bool :=
  match jobOf s job with
  | none => (s, false)
  | some j =>
    let gs := j.step.grads.filter fun g => g.1 == tag
    let r := gs.foldl (fun (acc : State × Bool) g => let q := recomputeScale acc.1 g.2.2.1 g.2.2.2; (q.1, acc.2 || q.2)) (s, false)
    (updJob r.1 job fun j => { j with step := { j.step with fresh := j.step.fresh ++ gs.map fun g => g.2.1 } }, r.2)

/-- Conditions whose response recomputes scales. -/
def recomputes (c : Nat) : Bool := c == 1 || c == 3 || c == 5 || c == 6

/-! ### Release (04 R118, R120, R124) -/

/-- The coalesced records of a stitch of no step go when it leaves the hold (04 R119). -/
def flushOwn (s : State) (a : Active) : State := flushWatch s a.job fun w => !w.onStep && w.sid == a.sid

/-- A stitch leaves with a status outside Ohmub's responses: it completes, and its records go. -/
def leaveWith (s : State) (a : Active) (status : Nat) : State :=
  let onStep := onStepQueue s a
  let s := completeWith s a status
  if onStep then s else flushOwn s a

/-- A stitch of a halted or reset job leaves without a signal. -/
def leaveMuted (s : State) (a : Active) : State := leaveWith s { a with marks := { a.marks with mute := true } } (statusOf a (strokeNow s))

/-- A stitch leaves: it completes with the status that its marks give, an `ESCALATE` record is sent when that is `ESCALATED`, and the job
halts when its end halts it. The `WATCH` records of a stitch of no step go with it. -/
def releaseAct (s : State) (a : Active) : State :=
  let st := statusOf a (strokeNow s)
  let onStep := onStepQueue s a
  let s := if a.marks.halts then haltJob s a.job else s
  let s := completeWith s a st
  let s := if st = stEscalated then
      watchEvent s a.job { event := 0x13, tag := tagOf a, cond := a.marks.escCond, value := a.marks.escValue, action := if a.marks.halts then 4 else 3
                           old := (jobOf s a.job).elim 0 fun j => (tagState j (tagOf a)).level
                           new := (jobOf s a.job).elim 0 fun j => nextLevel (tagState j (tagOf a)), sid := a.sid, opcode := a.st.opcode, unit := stitchUnit a } else s
  let s := if onStep && !a.firstConds.isEmpty && !a.marks.replayed then
      updJob s a.job fun j => { j with step := { j.step with raised := j.step.raised ++ [a.sid] } } else s
  if onStep then s else flushOwn s a

/-- Held stitches of a halted job leave without a signal. -/
def releaseHeldActs (s : State) (job : Nat) : State :=
  let held := s.acts.filter fun a => a.job == job && (a.stage == .held || a.stage == .stepReplay || a.stage == .replayed)
  held.foldl leaveMuted s

/-- A stitch consumed poison (12 R378, R379): it completes `POISONED`, its job halts here, and its stations are told. -/
def consumePoison (s : State) (a : Active) : State :=
  let open_ := (jobOf s a.job).any fun j => !j.halted
  let s := haltPoison s a.job 1 a.sid a.st.opcode (stitchUnit a) 0
  let s := leaveWith s a stPoisoned
  let s := releaseHeldActs s a.job
  if open_ then (jobOf s a.job).elim s fun j => toStations s j "HALT_NOTICE" (askBit + noticePoison) else s

/-! ### Step replay (04 R118, 05 R138 to R141, R155) -/

/-- A step replay may still be run. -/
def mayReplay (j : Job) : Bool := j.step.replays < j.watch.stepReplayMax

/-- Ohmub requests a step replay, here and on every other part of the job (04 R127). -/
def requestReplay (s : State) (job tag cond : Nat) : State :=
  match jobOf s job with
  | none => s
  | some j =>
    if j.step.replayRequested then s else
    let j := { j with step := { j.step with replayRequested := true, replayTag := tag, replayCond := cond } }
    toStations (putJob s j) j "STEP_REPLAY_REQUEST"

/-- Blotter records of the step are released, wherever they lie (05 R148, R155); what an admitted stitch has still to write keeps its reservation. -/
def releaseRecords (j : Job) : Job :=
  relaxPolicy { j with blot := { j.blot with recs := j.blot.recs.filter fun r => !r.written || r.step != j.committed + 1 } }

/-- Accumulators at the start of an execution of a step: zero, their exponents kept in a replay (05 R137, R138, R140, R141). -/
def clearAcc (g : GradAcc) : GradAcc := { g with acc := g.acc.map fun _ => 0, contribs := 0, bound := none }

/-- Recompute the scales of every held stitch of the step, whose replay runs with `SCALE_SRC` = 0 (04 R115, R118); one that chose no fresh scale
before will choose one now, which is a scale changed. -/
def rescaleHeld (s : State) (job : Nat) (held : List Active) : State :=
  held.foldl (fun s a =>
    let r := recomputeOf s a
    let g := if a.conds.any fun c => c.1 == 6 then recomputeGrads r.1 job (tagOf a) else (r.1, false)
    updJob g.1 job fun j =>
      { j with step := { j.step with fresh := j.step.fresh ++ [a.sid], rescaled := j.step.rescaled || r.2 || g.2 || a.st.scaleSrc } }) s

/-- Stitches that raised a condition, those released in this execution included, when the replay is to run under the scales and levels that the execution
ran under (04 R120). -/
def markSuspects (j : Job) (held : List Active) : Job :=
  let hit (a : Active) : Bool := !a.conds.isEmpty || !a.firstConds.isEmpty
  { j with step := { j.step with suspects := if j.step.rescaled then [] else j.step.suspects ++ j.step.raised ++ (held.filter hit).map (·.sid), rescaled := false
                                 raised := [] } }

/-- Steps 3 to 6 of a step replay, once every started stitch of the step has ended. The stitches that run with fresh scales do so in every later
replay of the step too, until it commits (DESIGN CHOICE: log entry 39). -/
def finishRewind (s : State) (job : Nat) : State :=
  match jobOf s job with
  | none => s
  | some j =>
    let pins := j.step.stepPins.foldl (fun t p => tset t p (tgetD j.step.pinsAtStart p 0)) j.pins
    let s := putJob s { j with pins := pins }
    let held := s.acts.filter fun a => a.job == job && onStepQueue s a
    let s := updJob (rescaleHeld s job held) job fun j => markSuspects j held
    let s := held.foldl (fun s a => completeWith s { a with marks := { a.marks with discarded := true } } stAborted) s
    let s := updJob s job fun j =>
      let j := releaseRecords j
      { j with grads := j.grads.map (fun g => (g.1, clearAcc g.2)), blot := { j.blot with inForce := none }
               tags := j.tags.map fun t => (t.1, { t.2 with norms := [], warm := 0, ran := false, jumped := false, occur := t.2.occur })
               step := { j.step with pinsAtStart := [], stepPins := [], rewinding := false, replayRequested := false, voteSent := false, voted := []
                                     commitSid := none, grads := [] } }
    let s := { s with pair := { s.pair with unacked := s.pair.unacked.filter fun r => !(r.fjk == j.fjk && r.step == j.committed + 1) } }
    let s := (queuesOf s job).foldl (fun s q =>
      if q.2.step && q.2.state == .rewinding then
        let n := { q.2 with head := q.2.stepBase, passed := none, passedMate := none }
        saveQueue s q.1 { n with state := settled n }
      else s) s
    epochReached s job

/-- A started stitch of the step has still to end. -/
def rewindBusy (s : State) (job : Nat) : Bool :=
  s.acts.any fun a => a.job == job && onStepQueue s a && (a.stage == .running || a.stage == .finished || a.stage == .replaying) && !noWork a

/-- Start of a step replay: steps 1 and 2, the records, the levels; then the rest when nothing runs any more. -/
def startStepReplay (s : State) (job : Nat) : State :=
  match jobOf s job with
  | none => s
  | some j =>
    let j := { j with inDoubt := false, step := { j.step with replays := j.step.replays + 1, rewinding := true } }
    let s := putJob s j
    let s := watchEvent s job { event := 0x12, tag := j.step.replayTag, cond := j.step.replayCond, action := 2
                                old := (tagState j j.step.replayTag).level, new := nextLevel (tagState j j.step.replayTag) }
    let s := applyLevels (flushWatch s job (·.onStep)) job
    let levels (s : State) : List (Nat × Nat) := (jobOf s job).elim [] fun k => k.tags.map fun t => (t.1, t.2.level)
    let s := updJob s job fun k => { k with step := { k.step with rescaled := levels s != j.tags.map fun t => (t.1, t.2.level) } }
    let s := (queuesOf s job).foldl (fun s q => if q.2.step then saveQueue s q.1 { q.2 with state := .rewinding, passed := none, passedMate := none } else s) s
    let mine (a : Active) : Bool := a.job == job && onStepQueue s a
    let hit (a : Active) : Bool := mine a && !noWork a && (a.stage == .running || a.stage == .finished || a.stage == .replaying)
    let s := { s with acts := s.acts.map fun a => if hit a then { a with marks := { a.marks with discarded := true } } else a }
    let s := (s.acts.filter fun a => mine a && noWork a).foldl (fun s a => completeWith s a stAborted) s
    if rewindBusy s job then s else finishRewind s job

/-- A discarded stitch ends; the last one lets the replay go on. -/
def endDiscarded (s : State) (a : Active) : State :=
  let s := completeWith s a stAborted
  if (jobOf s a.job).any (fun j => j.step.rewinding) && !rewindBusy s a.job then finishRewind s a.job else s

/-! ### Norms (04 R129, 05 R166) -/

/-- Sums of a tag over the `UPDATE`s of the step, in the order of their first execution: each one's sums start at 0, and the partial sums are added, where
the spec names one accumulation as the data streams past (DESIGN CHOICE: log entry 39). -/
def normSum (t : TagState) : Norms :=
  t.norms.foldl (fun a p =>
    let n := p.2
    { gSq := fp64Add a.gSq n.gSq, wSq := fp64Add a.wSq n.wSq, uSq := fp64Add a.uSq n.uSq, elems := a.elems + n.elems, nzSteps := a.nzSteps + n.nzSteps
      eta := if n.ownerRan then n.eta else a.eta, ownerRan := a.ownerRan || n.ownerRan, repSq := fp64Add a.repSq n.repSq
      repElems := a.repElems + n.repElems, replicaRan := a.replicaRan || n.replicaRan }) {}

/-- A number mapped by a function of its finite value; infinities and NaN stand. -/
def mapNum (f : Rat → Rat) (x : Num) : Num := if x.isFinite then Num.ofRat (f x.ratD) else x

/-- √x of an FP64 pattern, exact up to the roundings that follow it. -/
def sqrtOf64 (w : Word64) : Num := mapNum sqrtRat (ofFp64 w)

/-- √`U_SQ` / η, a finite η that is not zero. -/
def ratioOf (n : Norms) : Num := mapNum (· / (ofFp32 n.eta).ratD) (sqrtOf64 n.uSq)
/-- √`U_SQ` / η in FP64. -/
def stepRatio (n : Norms) : Word64 := toFp64 (ratioOf n)

/-- `U_MEAN`: the mean of the ratios; with none it is a value that the spec does not state (log entry 2). -/
def meanRatio (s : State) (t : TagState) : Num :=
  if t.ratios.isEmpty then ofFp64 (Config.freeValue s.free)
  else mapNum (· / (t.ratios.length : Rat)) (t.ratios.foldl (fun (x : Num) r => x.add (ofFp64 r)) (.fin false 0))

/-- Root mean square, rounded once to FP64. -/
def rmsOf (sq : Word64) (n : Nat) : Word64 := toFp64 (sqrtOf64 (toFp64 (mapNum (· / (n : Rat)) (ofFp64 sq))))

/-- A 64-byte norm record. -/
def normBytes (step : Nat) (n : Norms) (mean : Word64) (clean occur level : Nat) (replayed : Bool) : List Byte :=
  if !n.ownerRan then leBytes 64 0 else
  leBytes 64 (1 + (if replayed then 2 else 0) + level % 4 * 4 + occur % 64 * 2 ^ 8 + clean % 2 ^ 32 * 2 ^ 32 + mean.toNat * 2 ^ 64 + n.nzSteps % 2 ^ 64 * 2 ^ 128 +
    n.elems % 2 ^ 64 * 2 ^ 192 + n.uSq.toNat * 2 ^ 256 + n.gSq.toNat * 2 ^ 320 + n.wSq.toNat * 2 ^ 384 + step % 2 ^ 64 * 2 ^ 448)

/-- A clean step of a tag is counted: the count it has then (04 R122). -/
def cleanAfter (t : TagState) : Nat := if t.occur ≠ 0 then 0 else if t.ran then t.clean + 1 else t.clean

/-- The level that this part demands of a tag at a vote (04 R122, R127): one lower once its count stands at `CLEAN_STEPS`, also in a step in which it ran no
stitch, which leaves the count unchanged. -/
def demand (j : Job) (t : TagState) : Nat :=
  if t.pendingLevel.isSome then nextLevel t
  else if t.occur = 0 && j.watch.cleanSteps ≠ 0 && j.watch.cleanSteps ≤ cleanAfter t && t.floor < t.level then t.level - 1
  else nextLevel t

/-- A tag's ratios and gradient rms after a commit (04 R109, 05 R166). -/
def tagCommitted (t : TagState) : TagState :=
  let n := normSum t
  let counted := n.ownerRan && !t.jumped && (ofFp32 n.eta).isNonzero
  { t with ratios := if counted then (stepRatio n :: t.ratios).take 32 else t.ratios
           warm := if n.ownerRan then t.warm + 1 else t.warm
           rOwner := if n.ownerRan && n.elems ≠ 0 then rmsOf n.gSq n.elems else t.rOwner
           rReplica := if n.replicaRan && n.repElems ≠ 0 then rmsOf n.repSq n.repElems else t.rReplica
           clean := cleanAfter t, norms := [], ran := false, occur := 0, jumped := false }

/-! ### The commit (05 R173) -/

/-- Accumulators after a commit: zero, the largest magnitude of each group's sum kept as its history (05 R138). -/
def accCommitted (g : GradAcc) : GradAcc :=
  let hist := (g.exps.zipIdx).map fun p =>
    match p.1 with
    | none => none
    | some e =>
      let m := ((g.acc.drop (32 * p.2)).take 32).foldl (fun (m : Rat) (x : Int) => max m (rabs (x : Rat))) 0
      if m = 0 then none else some (m * pow2 e)
  { clearAcc g with exps := g.exps.map fun _ => none, history := hist }

/-- Write the norm records of a commit, one for each of the 256 tags. -/
def writeNorms (s : State) (j : Job) (level : Nat → Nat) : State :=
  if j.watch.nrDepth = 0 then s else
  let step := j.committed + 1
  (List.range 256).foldl (fun s t =>
    let x := tagState j t
    let lv := level t
    let b := normBytes step (normSum x) (toFp64 (meanRatio s x)) (if lv = x.level then cleanAfter x else 0) x.occur.toNat lv (j.step.replays != 0)
    let s := wrBytes s (j.watch.nrBase + (step % j.watch.nrDepth * 256 + t) * 64) b
    if x.ratios.isEmpty then draw s else s) s

/-- The slots of the job's step queues are released (05 R173, 08 R245). -/
def releaseSteps (s : State) (job : Nat) : State :=
  (queuesOf s job).foldl (fun s q => if q.2.step then saveQueue s q.1 { q.2 with free := q.2.head, stepBase := q.2.head } else s) s

/-- What a commit holds back of a tag: a level that was decided here after the vote. -/
def lateLevel (j : Job) (tag : Nat) : Bool := let t := tagState j tag; t.pendingLevel.isSome && nextLevel t != tgetD j.step.voted tag 0
/-- Level of a tag from the next step on: the result's, or the one that the host has forced or bounded since the vote (04 R123, R124). -/
def commitLevel (j : Job) (tag level : Nat) : Nat := let t := tagState j tag; if lateLevel j tag && t.pendingQuiet then nextLevel t else level

/-- A tag at a commit: the result's level takes effect. What was decided here after the vote waits for the next vote, but for a level that the host
forced or bounded, which takes effect with the commit (04 R123, R124; DESIGN CHOICE: log entry 39). -/
def commitTag (s : State) (job tag level : Nat) : State :=
  match jobOf s job with
  | none => s
  | some j =>
    let t := tagState j tag
    let late := lateLevel j tag
    let s := setLevel s job tag (commitLevel j tag level) t.pendingCond (t.pendingLevel.isSome && t.pendingQuiet)
    if !late || t.pendingQuiet then s
    else updJob s job fun j => updTag j tag fun u => { u with pendingLevel := t.pendingLevel, pendingCond := t.pendingCond }

/-- Mean sums of the pairs of a commit: every 1,024 commits the parts exchange them (12 R373). -/
def exchangeCounts (s : State) (j : Job) : State :=
  if j.commits % 1024 = 0 then tellPairs s j.id else s

/-- The copy of a snapshot is paused across a commit: the running value of its check is kept for the bytes of its tensor that have been copied, whose
number is a free value (13 R397; log entry 2). -/
def pauseSnapshot (s : State) (j : Job) (step : Nat) : State :=
  let datas := j.prot.map fun p => snapData s j p step
  let at_ := drawn s % (datas.foldl (fun n d => n + d.length) 0 + 1)
  let run := datas.foldl (fun (acc : Nat × Nat) d =>
    (acc.1 + d.length, if acc.1 ≤ at_ && at_ < acc.1 + d.length then presetRun 2 (presetInit 2) (d.take (at_ - acc.1)) else acc.2)) (0, presetInit 2)
  suspendStream (draw s) hubUnits { use := .snapshot j.id, preset := 2, value := BitVec.ofNat 64 run.2, bytes := at_ }

/-- A snapshot that is asked for starts with the fronts of the step now committed; the one that is being copied is paused across the commit and goes on
(12 R372, 13 R397). -/
def startSnapshot (s : State) (job : Nat) : State :=
  match jobOf s job with
  | none => s
  | some j =>
    let s := (j.check.copying.head?).elim s fun c => pauseSnapshot s j c.1
    j.check.pending.elim s fun w => updJob s job fun j => { j with check := { j.check with copying := j.check.copying ++ [(j.committed, w)], pending := none } }

/-- The part commits (05 R173): norm records, the step number and with it the buffers, accumulators, Blotter records and ring slots; levels
are those of the vote's result; then the `COMMIT` stitch signals. Drains, classes and a snapshot follow. -/
def commitStep (s : State) (job : Nat) (levels : List (Nat × Nat)) : State :=
  match jobOf s job with
  | none => s
  | some j =>
    let level (t : Nat) : Nat := tgetD levels t 0
    let s := writeNorms s j fun t => commitLevel j t (level t)
    let s := flushWatch s job (·.onStep) fun _ t => commitLevel j t (level t)
    let s := updJob s job fun j => { j with tags := j.tags.map fun t => (t.1, tagCommitted t.2) }
    let tags := (levels.map (·.1)).foldl ninsert (j.tags.map (·.1))
    let s := tags.foldl (fun s t => commitTag s job t (level t)) s
    let s := updJob s job fun j =>
      { releaseRecords j with
        committed := j.committed + 1, grads := j.grads.map (fun g => (g.1, accCommitted g.2)), commits := j.commits + 1
        commitTimes := (s.clk.now :: j.commitTimes).take 17, watch := j.step.nextWatch.getD j.watch
        prot := j.prot.map fun p => { p with ternary := [] } }
    let s := releaseSteps s job
    let s := (j.step.commitSid.bind (actOf s)).elim s fun a => completeWith s a (statusOf a (strokeNow s))
    let s := updJob s job fun j => { j with step := {}, inDoubt := false }
    let s := updJob s job fun k =>
      if pairFormed s then decideClasses s k fun t => let n := normSum (tagState j t); (n.nzSteps, n.elems) else k
    let s := startDrains s job
    let s := startSnapshot s job
    let s := (jobOf s job).elim s fun k => exchangeCounts s k
    epochReached s job

/-- Ring slots of a rejected or aborted step stay; the commit's vote of this part (05 R172). -/
def voteOf (j : Job) : Vote :=
  { step := BitVec.ofNat 64 (j.committed + 1), replay := j.step.replayRequested, halt := j.halted
    levels := (j.tags.map fun t => (t.1, demand j t.2)).filter fun p => p.2 != 0 }

end Sys2Proof.Machine
end

