-- ==== Sys2Proof/Machine/Blotter.lean ====
section
/-! DEFINITION. The Blotter: reservations, policies, moves, recalls and STASH_FREE (05 R143 to R156). -/

namespace Sys2Proof.Machine

/-! ### Space -/

/-- Ranges in use by the records at a place. -/
def usedAt (j : Job) (l : Loc) : List (Nat × Nat) := (j.blot.recs.filter fun r => r.loc == l).map fun r => (r.addr, recSpace r)

/-- The lowest gap of `n` bytes in a region (the spec gives a record no address: log entry 17). -/
def gapIn (base size : Nat) (used : List (Nat × Nat)) (n : Nat) : Option Nat :=
  let ok (a : Nat) : Bool := a + n ≤ base + size && used.all fun u => a + n ≤ u.1 || u.1 + u.2 ≤ a
  ((base :: used.map fun u => u.1 + u.2).filter ok).foldl (fun (b : Option Nat) a => some (b.elim a (min a))) none

/-- The kept area, or the transit ring after it. -/
def areaOf (c : BlotCfg) (l : Loc) : Nat × Nat := if l == .kept then (c.base, keptArea c) else (c.base + keptArea c, c.transit)

/-- Copy `n` bytes with their poison. -/
def wsCopy (s : State) (ws : WriteSet) (src dst n : Nat) : WriteSet :=
  let ws := (List.range n).foldl (fun ws i => { ws with bytes := tset ws.bytes (dst + i) (rdByte s (src + i)) }) ws
  (List.range (ceilDiv n 64)).foldl (fun ws i => if rangePoison s (src + 64 * i) 64 then wsPoison ws (dst + 64 * i) 64 else ws) ws

/-- Close up the records of an area from its base on. -/
def compactAt (s : State) (job : Nat) (l : Loc) : State :=
  match jobOf s job with
  | none => s
  | some j =>
    let r := j.blot.recs.foldl (fun (acc : List BlotRec × Nat × WriteSet) r =>
      if r.loc != l then (acc.1 ++ [r], acc.2)
      else (acc.1 ++ [{ r with addr := acc.2.1 }], acc.2.1 + recSpace r, if r.written then wsCopy s acc.2.2 r.addr acc.2.1 r.bytes else acc.2.2))
      ([], (areaOf j.blot.cfg l).1, {})
    putMem (putJob s { j with blot := { j.blot with recs := r.1 } }) none r.2.2

/-- A place for `n` bytes in an area whose counted space has room for them (05 R145, R151): a gap, or the end of the records closed up. -/
def placeAt (s : State) (job : Nat) (l : Loc) (n : Nat) : Option (State × Nat) :=
  match jobOf s job with
  | none => none
  | some j =>
    let a := areaOf j.blot.cfg l
    let gap (j : Job) : Option Nat := gapIn a.1 a.2 (usedAt j l) (pad64 n)
    if a.2 < (usedAt j l).foldl (fun n u => n + u.2) (pad64 n) then none else
    match gap j with
    | some x => some (s, x)
    | none => let t := compactAt s job l; (jobOf t job).bind fun k => (gap k).map fun x => (t, x)

/-- `LOC` of a record (05 R146). -/
def locCode : Loc → Nat
  | .kept => 0
  | .atPeer => 1
  | .atHost => 2
  | .transit => 3
  | .notKept => 4
  | .lost => 5
/-- The bytes of a record with a `LOC` in its header. -/
def withLoc (l : List Byte) (c : Loc) : List Byte := l.set 56 (BitVec.ofNat 8 (16 * locCode c))

/-- Its stitch has written the record and completed; before that it keeps its place and its reservation (05 R145, R151). -/
def recordStands (r : BlotRec) : Bool := r.written && r.reserved == 0

/-- An admitted stitch is reading a handle's record. -/
def beingRead (s : State) (job h : Nat) : Bool :=
  s.acts.any fun a => a.job == job && !readsDone a && (recordReads a).any fun x => x.desc.stash && x.desc.handle == h

/-! ### Policies (05 R149, R151) -/

/-- Victims in ascending `TAG`, then descending `MB`. -/
def insVictim (l : List BlotRec) (r : BlotRec) : List BlotRec :=
  match l with
  | [] => [r]
  | x :: q => if r.tag < x.tag || (r.tag = x.tag && x.mb < r.mb) then r :: x :: q else x :: insVictim q r

def victims (s : State) (j : Job) : List BlotRec :=
  (j.blot.recs.filter fun r => r.loc == .kept && recordStands r && r.moving.isNone && !beingRead s j.id r.handle).foldl insVictim []

/-- Bytes at the peer, records on their way to it included. -/
def peerBytes (j : Job) : Nat := (j.blot.recs.filter fun r => r.loc == .atPeer || r.moving == some .atPeer).foldl (fun n r => n + r.bytes) 0
/-- A place for a record in the host window. -/
def hostGap (j : Job) (n : Nat) : Option Nat :=
  (j.windows.find? fun w => w.id == j.blot.cfg.hostWin && w.kind == 3 && !w.unmapping).bind fun w =>
    gapIn w.hostAddr w.size ((j.blot.recs.filter fun r => r.loc == .atHost || r.moving == some .atHost).map fun r => (r.hostAddr, r.bytes)) n

/-- Start the move of a record under a policy; none when its region is full. -/
def moveTo (j : Job) (p : Nat) (v : BlotRec) : Option BlotRec :=
  if p = 1 then (if peerBytes j + v.bytes ≤ j.blot.cfg.peerSize then some { v with moving := some .atPeer } else none)
  else (hostGap j v.bytes).map fun a => { v with moving := some .atHost, hostAddr := a }

/-- A policy is exhausted: its region has no room for the next record that could move. -/
def exhausted (s : State) (j : Job) (p : Nat) : Bool :=
  p != 3 && (moveTo j p (((victims s j).head?).getD { bytes := 1 })).isNone

/-- Position of the first policy that is not exhausted. -/
def policyOf (s : State) (j : Job) : Option Nat :=
  let l := j.blot.cfg.policy.takeWhile (· ≠ 0)
  (List.range l.length).find? fun i => !exhausted s j (l.getD i 0)

/-- Start moves in the victims' order until occupancy without them is at or below `LWM`, or the region is full. -/
def startMoves (p : Nat) : List BlotRec → Job → Job
  | [], j => j
  | v :: vs, j =>
    let left := (j.blot.recs.filter fun r => r.loc == .kept && r.moving.isNone).foldl (fun n r => n + recSpace r) 0
    if left ≤ lowMark j.blot.cfg then j else
    match moveTo j p v with
    | none => j
    | some m => startMoves p vs { j with blot := { j.blot with recs := j.blot.recs.map fun r => if r == v then m else r } }

/-- A policy in force that moves records starts the moves that it still can (05 R149). -/
def continueMoves (s : State) (job : Nat) : State :=
  updJob s job fun j =>
    match j.blot.inForce with
    | none => j
    | some i => let p := j.blot.cfg.policy.getD i 0; if p = 3 then j else startMoves p (victims s j) j

def stashEvent (s : State) (j : Job) (action handle tag mb : Nat) : State :=
  jobEvent s j.id { area := areaStash (j.committed + 1) handle (keptBytes j / 2 ^ 20) action (j.blot.inForce.getD 0) tag mb }

/-- `RECOMPUTE` is the policy in force. -/
def recomputing (j : Job) : Bool := j.blot.inForce.any fun i => j.blot.cfg.policy.getD i 0 == 3

/-- A reservation that would take occupancy above `HWM` brings the first policy that is not exhausted into force; `RECOMPUTE` stays in force until
occupancy falls below `LWM` (05 R149, R151). -/
def applyPolicy (s : State) (j : Job) (need : Nat) : State :=
  if keptBytes j + need ≤ highMark j.blot.cfg || recomputing j then s else
  match policyOf s j with
  | none => s
  | some i =>
    let p := j.blot.cfg.policy.getD i 0
    let j' := { j with blot := { j.blot with inForce := some i } }
    let s := if j.blot.inForce = some i then s else stashEvent (putJob s j') j' p 0 0 0
    updJob s j.id fun j => if p = 3 then j else startMoves p (victims s j) j

/-! ### Reservations (05 R145, R151, R153) -/

/-- What becomes of a reservation. -/
inductive Room where
  | at_ (addr : Nat) (loc : Loc)
  | wait
  | noRoom
  | tooLarge
  deriving DecidableEq, Repr

/-- Overwrite the oldest records of the transit ring until `n` bytes fit; none when the oldest must stay. -/
def ringRoom (s : State) (job n : Nat) : Nat → Option (State × Nat)
  | 0 => placeAt s job .transit n
  | f + 1 =>
    match placeAt s job .transit n, jobOf s job with
    | some r, _ => some r
    | none, none => none
    | none, some j =>
      match j.blot.recs.find? fun r => r.loc == .transit with
      | none => none
      | some o =>
        if !recordStands o || beingRead s job o.handle then none
        else
          let s := wrBytes s (o.addr + 56) [BitVec.ofNat 8 (16 * locCode .notKept)]
          ringRoom (putJob s { j with blot := { j.blot with recs := j.blot.recs.map fun r => if r == o then { r with loc := .notKept } else r } }) job n f

/-- Reserve space for a record of at most `need` bytes. -/
def reserve (s : State) (job need : Nat) : State × Room :=
  match jobOf s job with
  | none => (s, .wait)
  | some j =>
    let c := j.blot.cfg
    if c.size = 0 then (s, .tooLarge) else
    let s := applyPolicy s j need
    match jobOf s job with
    | none => (s, .wait)
    | some j =>
      if recomputing j && decide (highMark c < keptBytes j + need) then
        if c.transit < 2 * need then (s, .tooLarge) else
        match ringRoom s job need j.blot.recs.length with
        | some (t, a) => (t, .at_ a .transit)
        | none => (s, .wait)
      else
        match placeAt s job .kept need with
        | some (t, a) => (t, .at_ a .kept)
        | none =>
          if need ≤ keptArea c && ((j.blot.recs.any fun r => r.moving.isSome) || (policyOf s j).isSome) then (s, .wait) else (s, .noRoom)

/-- The record that an admitted stitch is to write. -/
def addRecord (s : State) (a : Active) (o : Operand) (addr : Nat) (l : Loc) : State :=
  updJob s a.job fun j => { j with blot := { j.blot with recs := j.blot.recs ++
    [{ handle := o.desc.handle, tag := o.desc.tag, mb := a.st.mb, loc := l, step := j.committed + 1, addr := addr, bytes := recordMax o
       reserved := recordMax o, writer := a.sid }] } }

/-- A reservation that does not fit and that no policy can serve halts the job (05 R153). -/
def haltStash (s : State) (job : Nat) : State :=
  match jobOf s job with
  | none => s
  | some j => stashEvent (haltJob s job) j 6 0 0 0

/-! ### Recalls and moves -/

/-- A moved record that an admitted stitch needs is recalled: those of its micro-batch within `RECALL_AHEAD` tags for a backward stitch, and any
that it reads (05 R150; the second DEDUCED, log entry 17). -/
def startRecalls (s : State) (a : Active) : State :=
  let reads (h : Nat) : Bool := (recordReads a).any fun x => x.desc.stash && x.desc.handle == h
  updJob s a.job fun j => { j with blot := { j.blot with recs := j.blot.recs.map fun r =>
    if (r.loc == .atPeer || r.loc == .atHost) && (reads r.handle || (a.st.pass == 2 && r.mb == a.st.mb && tagOf a ≤ r.tag + j.blot.cfg.recallAhead))
    then { r with recalling := true } else r } }

/-- STASH_MOVE_COMPLETE (05 R149): the copy is complete, at the peer or in the host window, and the record's space is free; an admitted reader has it
recalled. The message that carries it to the peer has no type of its own (log entry 17). -/
def execStashMoveComplete (job handle : Nat) (s : State) : Host.Outcome State Fault Refusal :=
  match jobOf s job with
  | none => .next s
  | some j =>
    match j.blot.recs.find? fun r => r.handle == handle && r.loc == .kept && r.moving.isSome with
    | none => .next s
    | some r =>
      let l := r.moving.getD .atPeer
      let copy := withLoc (rdBytes s r.addr r.bytes) l
      let new : BlotRec := { r with loc := l, moving := none, moved := if l == .atPeer then copy else [], movedBad := rangePoison s r.addr r.bytes
                                    recalling := beingRead s job handle }
      let s := putJob s (relaxPolicy { j with blot := { j.blot with recs := j.blot.recs.map fun q => if q == r then new else q } })
      let s := reachRange s r.addr r.bytes
      .next (continueMoves (if l == .atHost then wrHost s r.hostAddr copy else s) job)

/-- STASH_RECALL_COMPLETE (05 R150): the record stands in the kept area again, or in the transit ring when the kept area has no room. -/
def execStashRecallComplete (job handle : Nat) (s : State) : Host.Outcome State Fault Refusal :=
  match jobOf s job with
  | none => .next s
  | some j =>
    match j.blot.recs.find? fun r => r.handle == handle && r.recalling && (r.loc == .atPeer || r.loc == .atHost) with
    | none => .next s
    | some r =>
      let place : Option (State × Nat × Loc) := match placeAt s job .kept r.bytes with
        | some (t, a) => some (t, a, Loc.kept)
        | none => (ringRoom s job r.bytes j.blot.recs.length).map fun q => (q.1, q.2, Loc.transit)
      match place with
      | none => .next s
      | some (t, a, l) =>
        let copy := withLoc (if r.loc == .atHost then rdHost s r.hostAddr r.bytes else r.moved) l
        let new : BlotRec := { r with loc := l, addr := a, moved := [], movedBad := false, recalling := false }
        let t := updJob t job fun k => { k with blot := { k.blot with recs := (k.blot.recs.filter fun q => q != r) ++ [new] } }
        let ws := bytesAt a copy
        .next (putMem t none (if r.movedBad then wsPoison ws a r.bytes else ws))

/-- STASH_FREE (05 R148): once every earlier read of the handle has finished, its record is released. -/
def execStashFree (sid : Sid) (s : State) : Host.Outcome State Fault Refusal :=
  match actOf s sid with
  | none => .next s
  | some a =>
    let h := (opnd a 0).elim 0 fun o => o.desc.handle
    let clear := ((earlier s sid).filter fun b => b.job == a.job).all fun b => readsDone b || !(readHandles b).contains h
    if a.st.opcode == opStashFree && mayExecute a && clear then
      let s := finishExec s a {}
      .next (updJob s a.job fun j => relaxPolicy { j with blot := { j.blot with recs := j.blot.recs.filter fun r => !(r.handle == h && r.written) } })
    else .next s

end Sys2Proof.Machine
end

