-- ==== Sys2Proof/Machine/Product.lean ====
section
/-! DEFINITION. The matrix engine and the Well: MATMUL, GATHER_MM, ROUTE and the tile queue's filling (03; 05 R136 to R139; 06 R192). -/

namespace Sys2Proof.Machine

/-! ### One operand of a product -/

/-- An operand with its roles: reduction dimension, row or column dimension, batch dimensions, and its residual digits. -/
structure Feed where
  v : View
  red : Nat
  main : Nat
  batch : List Nat
  resid : Option View

/-- Multi-index of an element of an operand. -/
def feedIdx (f : Feed) (b : List Nat) (m k : Nat) : List Nat :=
  (List.range f.v.desc.rank).map fun i =>
    if i = f.red then k else if i = f.main then m else (List.zip f.batch b).findSome? (fun p => if p.1 = i then some p.2 else none) |>.getD 0

/-- Magnitude exponent of a format (table Magnitude exponents). -/
def magExp (v : View) : Int :=
  match v.desc.type with
  | 1 => if v.gimp then 9 else 3
  | 2 => 3
  | 3 => 4
  | 4 => 9
  | 5 => 16
  | _ => 0

/-- How a segment of eight reduction positions stands: in a zero block, poisoned, or live with its exponent (none when it holds no
non-zero element that defines one). -/
inductive Seg where
  | zero
  | poison
  | live (q : Option Int)
  deriving DecidableEq, Repr

/-- Reduction positions of a segment. -/
def segPos (len sg : Nat) : List Nat := (List.range 8).filterMap fun i => if 8 * sg + i < len then some (8 * sg + i) else none

/-- A reduction position at which an operand holds an element: false where a valid 2-of-4 group drops it (03 R102). A malformed group reads as
four zeros (01 R39). -/
def feedKeeps (f : Feed) (b : List Nat) (m k : Nat) : Bool :=
  let idx := feedIdx f b m k
  let c := cellOf f.v.desc idx
  !isSparse f.v.desc || (keptIndex f.v c.1 c.2).isSome || (let e := f.v.group (groupOf f.v.desc idx); decide (e / 4 % 4 ≤ e % 4))

/-- The residual code of digit `p` (from 2) of an element lies in poison. -/
def residBad (f : Feed) (passes : Nat) (idx : List Nat) : Bool :=
  let c := cellOf f.v.desc idx
  f.resid.any fun r => (keptIndex f.v c.1 c.2).any fun j =>
    (List.range (passes - 1)).any fun q => r.codeBad (cellOf r.desc (q :: idx)).1 j

/-- Pre-pass over one segment (03 R91, R92, R96): poison of the S8 code first, then a zero block, then poison of what a live block reads.
Positions that the partner drops take no part in the window, and the output does not depend on their poison (03 R96, R102). -/
def segOf (f : Feed) (len passes : Nat) (b : List Nat) (m sg : Nat) (keep : Nat → Bool) : Seg :=
  let d := f.v.desc
  let idx := feedIdx f b m (8 * sg)
  let cell := (cellOf d idx).1
  let vals := ((segPos len sg).filter keep).map fun k => feedIdx f b m k
  if blocked d && f.v.s8Bad cell then .poison
  else if zeroCell f.v cell then .zero
  else if vals.any fun i => elemBad f.v i || residBad f passes i then .poison
  else if blocked d then .live (some ((f.v.s8 cell : Int) - 127 + magExp f.v))
  else if d.type = 7 then
    let es := ((segPos len sg).filter keep).filterMap fun k =>
      let i := feedIdx f b m k
      match scaledVal f.v (cellOf d i).1 (cellOf d i).2 with
      | .fin _ x => if x = 0 then none else some (max (-126) (floorLog2 x) + 1)
      | _ => none
    .live (es.foldl (fun (acc : Option Int) e => some (acc.elim e fun a => max a e)) none)
  else .live (some (magExp f.v))

/-- Digit `p` of an element (p from 1): its value in scaled units (03 R89). -/
def digitVal (f : Feed) (b : List Nat) (m k p : Nat) : Num :=
  let d := f.v.desc
  let idx := feedIdx f b m k
  let c := cellOf d idx
  if p = 1 then scaledVal f.v c.1 c.2 else
  match f.resid with
  | none => .fin false 0
  | some r =>
    match keptIndex f.v c.1 c.2 with
    | none => .fin false 0
    | some j =>
      if f.v.code c.1 j = 8 then .fin false 0 else
      let rc := cellOf r.desc ((p - 2) :: idx)
      (codeVal 1 0 (r.code rc.1 j)).scale (pow2 ((f.v.s8 c.1 : Int) - 127 - 3 * ((p : Int) - 1)))

/-- The value of an element: the sum of its digits (03 R89, R97). -/
def digitSum (f : Feed) (passes : Nat) (b : List Nat) (m k : Nat) : Num :=
  (List.range passes).foldl (fun acc p => acc.add (digitVal f b m k (p + 1))) (Num.fin false 0)

/-- What the Well gives for one output element. -/
structure WellOut where
  val : Num
  spill : Bool := false
  cancel : Bool := false
  poisoned : Bool := false
  /-- The product has read poison here, also at a position that the partner drops (03 R96, R102). -/
  readBad : Bool := false
  deriving DecidableEq, Repr

/-- Truncation toward zero to a multiple of a unit (03 R93). -/
def truncTo (unit v : Rat) : Rat :=
  let n : Rat := ((roundNat 1 false (rabs v / unit) : Nat) : Rat) * unit
  if v < 0 then -n else n

/-- Pre-pass, main pass and cancellation of one output element (03 R91 to R94, R96, R97, R103). -/
def well (fa fb : Feed) (len passes : Nat) (bMulti : Bool) (b : List Nat) (i j : Nat) : WellOut :=
  let keepA (k : Nat) : Bool := feedKeeps fa b i k
  let keepB (k : Nat) : Bool := feedKeeps fb b j k
  let both (sg : Nat) : List Nat := (segPos len sg).filter fun k => keepA k && keepB k
  let segs := (List.range (ceilDiv len 8)).map fun sg => (sg, segOf fa len passes b i sg keepB, segOf fb len passes b j sg keepA)
  let live := segs.filter fun t => t.2.1 != .zero && t.2.2 != .zero
  let whole (f : Feed) (m sg : Nat) : Bool := segOf f len passes b m sg (fun _ => true) == .poison
  let readBad := live.any fun t => whole fa i t.1 || whole fb j t.1
  if live.any fun t => t.2.1 == .poison || t.2.2 == .poison then { val := .fin false 0, poisoned := true, readBad := true } else
  let value (k p : Nat) : Num :=
    (digitVal fa b i k (if bMulti then 1 else p)).mul (digitVal fb b j k (if bMulti then p else 1))
  let special := live.foldl (fun acc t => (both t.1).foldl (fun (acc : Num) k =>
    let x := (digitSum fa (if bMulti then 1 else passes) b i k).mul (digitSum fb (if bMulti then passes else 1) b j k)
    if x.isFinite then acc else acc.add x) acc) (Num.fin false 0)
  if !special.isFinite then { val := special, readBad := readBad } else
  let qs := live.filterMap fun t => match t.2.1, t.2.2 with
    | .live (some a), .live (some c) => some (a + c)
    | _, _ => none
  match qs with
  | [] => { val := .fin false 0, readBad := readBad }
  | q :: r =>
    let lsb := r.foldl max q + 24 - 160
    let unit := pow2 lsb
    let acc := live.foldl (fun (acc : Rat × Bool) t => (List.range passes).foldl (fun acc p =>
      let v := (both t.1).foldl (fun (x : Rat) k => x + (value k (p + 1)).ratD) 0
      let tr := truncTo unit v
      (acc.1 + tr, acc.2 || decide (tr ≠ v))) acc) ((0 : Rat), false)
    { val := Num.ofRat acc.1, spill := acc.2, readBad := readBad
      cancel := (decide (acc.1 ≠ 0) && decide (rabs acc.1 < unit * pow2 24)) || (decide (acc.1 = 0) && acc.2) }

/-! ### Readout and output -/

/-- The parts of a product stitch. -/
structure Plan where
  fa : Feed
  fb : Feed
  len : Nat
  passes : Nat
  bMulti : Bool
  /-- Rows of A that stand for the output's rows; none for a row written as zero, poison marked. -/
  rows : List (Option Nat × Bool)
  cols : Nat
  bsizes : List Nat
  malformed : Nat

def otherDims (rank a b : Nat) : List Nat := (List.range rank).filter fun i => i != a && i != b

/-- Rows of a `GATHER_MM`: row `EXPERT` of the list tensor (03 R105). -/
def gatherRows (s : State) (j : Job) (a : Active) (nrows : Nat) : List (Option Nat × Bool) × Nat :=
  match opnd a 3 with
  | none => ([], 0)
  | some o =>
    let v := viewOf s j o
    let cap := sizeAt o.desc 1
    let x := a.st.aux / 2 ^ 96
    let l := min a.count cap
    let rows := (List.range l).map fun i =>
      let bad := elemBad v [x, i]
      match (elemVal v [x, i]).rat? with
      | some r => if bad then (none, true) else if 0 ≤ r && r < (nrows : Rat) then (some r.num.toNat, false) else (none, false)
      | none => (none, bad)
    (rows, (rows.filter fun r => r.1.isNone && !r.2).length + if cap < a.count then 1 else 0)

/-- Malformed items of a multi-digit operand's residual (01 R37, 03 R89): escape codes among the codes stored beside the kept positions of the
live blocks that the stitch reads. -/
def residMalformed (f : Feed) (rd : Nat → Bool) : Nat :=
  f.resid.elim 0 fun r =>
    let live := (List.range (cells f.v.desc)).filter fun c => rd c && f.v.s8 c != 0 && f.v.s8 c != 255
    live.foldl (fun n c =>
      let js := (List.range (blockLen f.v.desc)).filterMap fun p => if (elemAt f.v.desc c p).isNone then none else keptIndex f.v c p
      (List.range (sizeAt r.desc 0)).foldl (fun n q =>
        let rc := linear (gridDims r.desc) (q :: unlinear (gridDims f.v.desc) c)
        n + (js.filter fun j => r.code rc j == 8).length) n) 0

/-- Lay out a product stitch from its operands. The malformed items of A in a `GATHER_MM` are those of the rows that its list names. -/
def planOf (s : State) (j : Job) (a : Active) : Option Plan :=
  match opnd a 0, opnd a 1 with
  | some oa, some ob =>
    let st := a.st
    let passes := st.passes + 1
    let bMulti := st.passOpnd == 1
    let res := if st.passes == 0 then none else (opnd a 2).map fun o => viewOf s j o
    let fa : Feed := { v := viewOf s j oa, red := aRed st, main := aRow st, batch := otherDims oa.desc.rank (aRed st) (aRow st)
                       resid := if bMulti then none else res }
    let fb : Feed := { v := viewOf s j ob, red := bRed st, main := bCol st, batch := otherDims ob.desc.rank (bRed st) (bCol st)
                       resid := if bMulti then res else none }
    let nrows := sizeAt oa.desc (aRow st)
    let inA := st.opcode == opGatherMm
    let gr := if st.opcode == opGatherMm then gatherRows s j a nrows else ((List.range nrows).map fun i => (some i, false), 0)
    let readA (cell : Nat) : Bool := !inA || gr.1.any fun r => r.1 == some ((unlinear (gridDims oa.desc) cell).getD (aRow st) 0)
    some { fa := fa, fb := fb, len := sizeAt oa.desc (aRed st), passes := passes, bMulti := bMulti, rows := gr.1, cols := sizeAt ob.desc (bCol st)
           bsizes := fa.batch.map fun i => sizeAt oa.desc i
           malformed := gr.2 + malformedIn fa.v readA + malformedOf fb.v +
             (if bMulti then residMalformed fb fun _ => true else residMalformed fa readA) }
  | _, _ => none

/-- Multi-index in the output (or addend) of a row, a column and a batch. -/
def outIdx (st : Stitch) (rank : Nat) (b : List Nat) (i j : Nat) : List Nat :=
  let od := otherDims rank (oRow st) (oCol st)
  (List.range rank).map fun x =>
    if x = oRow st then i else if x = oCol st then j else (List.zip od b).findSome? (fun p => if p.1 = x then some p.2 else none) |>.getD 0

/-- One readout: the Well value, level-1 scales and addend (03 R95, R97, 01 R30). -/
structure Readout where
  row : Nat
  col : Nat
  b : List Nat
  val : Num
  poisoned : Bool
  spill : Bool
  cancel : Bool
  l1Bad : Bool
  readBad : Bool
  deriving DecidableEq, Repr

/-- The readout of an element. The addend's stored value is added as it stands, whatever Twist state its own descriptor carries (DESIGN CHOICE: log
entry 37). An addend that is infinite or NaN makes the element non-finite, and its Well, with what that counted, is not used (03 R97). -/
def readoutAt (p : Plan) (c : Option (View × Stitch)) (b : List Nat) (i j : Nat) (row : Option Nat × Bool) : Readout :=
  match row with
  | (none, bad) => { row := i, col := j, b := b, val := .fin false 0, poisoned := bad, spill := false, cancel := false, l1Bad := false, readBad := bad }
  | (some m, _) =>
    let w := well p.fa p.fb p.len p.passes p.bMulti b m j
    let la := p.fa.v.l1 ((feedIdx p.fa b m 0).getD 0 0)
    let lb := p.fb.v.l1 ((feedIdx p.fb b j 0).getD 0 0)
    let cv := c.map fun q => (let idx := outIdx q.2 q.1.desc.rank b i j; let k := cellOf q.1.desc idx
      (elemVal q.1 idx, elemBad q.1 idx, elemL1Bad q.1 idx, !(scaledVal q.1 k.1 k.2).isFinite))
    let l1Bad := !la.isFinite || !lb.isFinite || cv.any (·.2.2.1)
    let unused := cv.any (·.2.2.2)
    let l1Poison := p.fa.v.l1Bad ((feedIdx p.fa b m 0).getD 0 0) || p.fb.v.l1Bad ((feedIdx p.fb b j 0).getD 0 0)
    let val := if l1Bad then Num.nan else ((w.val.mul la).mul lb).add (cv.elim (.fin false 0) (·.1))
    let val := match val with
      | .fin n m => if m = 0 then .fin false 0 else .fin n m
      | v => v
    let bad := l1Poison || cv.any (·.2.1)
    { row := i, col := j, b := b, val := val, poisoned := w.poisoned || bad, spill := w.spill && !unused, cancel := w.cancel && !unused, l1Bad := l1Bad
      readBad := w.readBad || bad }

/-- Every readout of a product, batch by batch, row by row. -/
def readouts (p : Plan) (c : Option (View × Stitch)) : List Readout :=
  let nb := p.bsizes.foldl (· * ·) 1
  ((List.range nb).map fun n =>
    let b := unlinear p.bsizes n
    ((p.rows.zipIdx).map fun r => (List.range p.cols).map fun j => readoutAt p c b r.2 j r.1).flatten).flatten

/-- Chunks of a list. -/
def chunks (n : Nat) (l : List α) : List (List α) := (List.range (ceilDiv l.length n)).map fun i => (l.drop (i * n)).take n

/-- Block-steps skipped over the patches of a product (03 R103), 64 positions deep for a 2-of-4 operand read along its sparsity dimension
with a partner that is not BF16 (03 R102). -/
def skipSteps (p : Plan) (sparse : Nat) : Nat :=
  let nseg := ceilDiv p.len 8
  let along (f : Feed) := sparseDim f.v.desc == f.red
  let wide := p.fa.v.desc.type == 7 || p.fb.v.desc.type == 7
  let deep := if !wide && ((sparse == 1 && along p.fa) || (sparse == 2 && along p.fb)) then 8 else 4
  let nb := p.bsizes.foldl (· * ·) 1
  let segsAt (k : Nat) := (List.range deep).filterMap fun g => if deep * k + g < nseg then some (deep * k + g) else none
  (List.range nb).foldl (fun n bi =>
    let b := unlinear p.bsizes bi
    (List.range (ceilDiv nseg deep)).foldl (fun n k =>
      let za := (chunks 16 p.rows).map fun rs => rs.all fun r => r.1.elim (!r.2) fun m => (segsAt k).all fun g => segOf p.fa p.len p.passes b m g (fun _ => true) == .zero
      let zb := (chunks 32 (List.range p.cols)).map fun js => js.all fun j => (segsAt k).all fun g => segOf p.fb p.len p.passes b j g (fun _ => true) == .zero
      n + p.passes * (za.foldl (fun t x => t + (zb.filter fun y => x || y).length) 0)) n) 0

/-- Dimension of an output of a rank along which the readouts are rotated, with the operand's Twist state (02 R72, 03 R101). -/
def readoutTwist (st : Stitch) (rank : Nat) (a b : Desc) : Option (Nat × Desc) :=
  let od := otherDims rank (oRow st) (oCol st)
  let dimFor (d : Desc) (red main mainDim : Nat) : Option (Nat × Desc) :=
    if d.twSize = 0 || d.twDim = red then none
    else if d.twDim = main then some (mainDim, d)
    else (List.zip (otherDims d.rank red main) od).findSome? fun q => if q.1 = d.twDim then some (q.2, d) else none
  (dimFor a (aRed st) (aRow st) (oRow st)).orElse fun _ => dimFor b (bRed st) (bCol st) (oCol st)

/-- The output carries the state of the readouts' rotation. -/
def carries (o : Desc) (q : Nat × Desc) : Bool := o.twSize == q.2.twSize && o.twSeed == q.2.twSeed && o.twDim == q.1

/-- What the Twist unit at the ME output does: the inverse of the readouts' rotation, unless the output carries that state (03 R101), and the
Twist of an output whose state the readouts lack (02 R51, R76). Where both differ it does the one after the other (DESIGN CHOICE: log entry
37). -/
def outTwists (st : Stitch) (o a b : Desc) : List (Nat × Desc × Bool) :=
  let rot := readoutTwist st o.rank a b
  if rot.any (carries o) then []
  else (rot.toList.map fun q => (q.1, q.2, true)) ++ if o.twSize = 0 then [] else [(o.twDim, o, false)]

/-- The product has read poison: it completes `POISONED`, whichever outputs depend on it (03 R96, 10 R302). -/
def readsPoison (rs : List Readout) : Bool := rs.any fun r => r.poisoned || r.readBad

/-- The product controls' counts of a set of readouts (03 R107). -/
def readoutCounts (rs : List Readout) : Counts :=
  { spill := (rs.filter (·.spill)).length, cancel := (rs.filter (·.cancel)).length }

/-- Round a wide product result: nearest even, subnormals kept (01 R47, 06 R198); the code and whether it is not finite. -/
def wideCode (t : Nat) (x : Num) : Nat × Bool :=
  let f := if t = 7 then bf16 else fp32
  let r := (roundFloat f 0 x).num
  (encodeFloat f r, !r.isFinite)

/-- The values that a product's output takes, exact, by linear index: the readouts, or where the Twist unit works on them the readouts rounded
to FP32 and rotated (02 R51, 03 R101), with the non-finite ones that reached that unit. The groups of a `GATHER_MM` run over its output rows,
with the rows it does not compute as zero (DESIGN CHOICE: log entry 37). -/
def productNums (j : Job) (a : Active) (d : Desc) (p : Plan) (rs : List Readout) : List (Nat × Num × Bool) × Nat :=
  let raw := rs.map fun r => (linear (dims d) (outIdx a.st d.rank r.b r.row r.col), r.val, r.poisoned)
  let tw := outTwists a.st d p.fa.v.desc p.fb.v.desc
  if tw.isEmpty then (raw, 0) else
  let fp := raw.map fun q => (q.1, (roundFloat fp32 0 q.2.1).num, q.2.2)
  (tw.foldl (fun vals t => rotateVals j.seed t.2.1 t.1 t.2.2 (dims d) vals) fp, twistNf fp)

/-- The values in the form that the output takes them, with the non-finite wide ones counted. -/
def productVals (j : Job) (a : Active) (o : Operand) (p : Plan) (rs : List Readout) : List (Nat × OutVal × Bool) × Nat :=
  let v := productNums j a o.desc p rs
  let out := v.1.map fun q =>
    if quType o.desc.type then (q.1, OutVal.num q.2.1, q.2.2, false) else let c := wideCode o.desc.type q.2.1; (q.1, OutVal.code c.1, q.2.2, c.2)
  (out.map fun q => (q.1, q.2.1, q.2.2.1), v.2 + (out.filter fun q => q.2.2.2 && !q.2.2.1).length)

/-! ### Gradient accumulation (05 R136 to R139) -/

/-- ⌈log2 x⌉ of a positive number. -/
def ceilLog2 (x : Rat) : Int := if pow2 (floorLog2 x) = x then floorLog2 x else floorLog2 x + 1

/-- Exponents of the groups of an accumulator once contributions of given values have reached it (05 R138). -/
def accExps (g : GradAcc) (headroom : Nat) (vals : List (Option Rat)) : List (Option Int) :=
  (List.range (ceilDiv vals.length 32)).map fun k =>
    match g.exps.getD k none with
    | some e => some e
    | none =>
      match g.history.getD k none with
      | some h => some (ceilLog2 h + headroom - 31)
      | none =>
        let v := (((vals.drop (32 * k)).take 32).filterMap id).foldl (fun m x => max m (rabs x)) 0
        if v = 0 then none else some (ceilLog2 v + headroom + 8 - 31)

/-- Integer contributions on the groups' grids. -/
def accSteps (exps : List (Option Int)) (vals : List (Option Rat)) : List Int :=
  (vals.zipIdx).map fun p => match p.1, exps.getD (p.2 / 32) none with
    | some x, some e => rneInt (x / pow2 e)
    | _, _ => 0

def accLimit : Int := 2147483647
def accAdd (a b : List Int) : List Int := (b.zipIdx).map fun p => a.getD p.2 0 + p.1
def accOver (a : List Int) : Bool := a.any fun x => x < -accLimit || accLimit < x
def accHold (a : List Int) : List Int := a.map fun x => max (-accLimit) (min accLimit x)

/-- Raise the exponent of each group whose sum overflows so that it fits with the headroom to spare (05 R139). -/
def raiseExps (exps : List (Option Int)) (sum : List Int) (headroom : Nat) : List (Option Int) :=
  (exps.zipIdx).map fun p =>
    let grp := (sum.drop (32 * p.2)).take 32
    match p.1 with
    | some e => if accOver grp then some (ceilLog2 ((grp.foldl (fun (m : Rat) (x : Int) => max m (rabs (x : Rat))) 0) * pow2 e) + headroom - 31) else some e
    | none => none

/-- Add one contribution to a gradient handle; answers the accumulator, the integers added, and whether it overflowed and was left out. -/
def accContribute (g : GradAcc) (headroom : Nat) (canReplay : Bool) (vals : List (Option Rat)) : GradAcc × List Int × Bool :=
  let exps := accExps g headroom vals
  let steps := accSteps exps vals
  let sum := accAdd g.acc steps
  if accOver sum then ({ g with exps := if canReplay then raiseExps exps sum headroom else exps }, steps, true)
  else ({ g with exps := exps, acc := sum }, steps, false)

/-- A step replay of the job can still follow for a stitch (04 R118, R119). -/
def replayLeft (s : State) (j : Job) (a : Active) : Bool := onStepQueue s a && j.step.replays < j.watch.stepReplayMax

/-- The accumulator without what a stitch that is replayed has put into it. -/
def withdraw (a : Active) (g : GradAcc) : GradAcc :=
  if a.stage == .replaying && !a.contribOut then { g with acc := accAdd g.acc (a.contrib.map fun x => -x) } else g

/-- Execution of a `GRAD_ACC` product. -/
def gradExec (s : State) (j : Job) (a : Active) (p : Plan) (rs : List Readout) : State :=
  match a.out with
  | none => s
  | some o =>
    let nums := productNums j a o.desc p rs
    let vals := (List.range (elems o.desc)).map fun l => (nums.1.find? fun q => q.1 == l).bind fun q => if q.2.2 then none else q.2.1.rat?
    let g := tgetD j.grads o.desc.handle {}
    let g := withdraw a g
    let c := accContribute g j.watch.accHeadroom (replayLeft s j a) vals
    let s := putJob s { j with grads := tset j.grads o.desc.handle c.1 }
    let nf := nums.2 + twistNf nums.1
    let a := { a with contrib := c.2.1, contribOut := c.2.2 }
    let s := putAct s a
    let s := finishExec s a { counts := addCounts (readoutCounts rs) { nonfinite := nf, malformed := p.malformed, skipSteps := skipSteps p a.st.sparse }
                              poisoned := readsPoison rs || nums.1.any (·.2.2), wideNf := rs.any (·.l1Bad) }
    if c.2.2 then (actOf s a.sid).elim s fun b => putAct s { b with conds := (condAcc, 0) :: b.conds } else s

/-! ### Tiles (06 R192) -/

/-- The tiles of a product in patch order: batch, row patch, column patch. -/
def tilesOf (p : Plan) (rs : List Readout) : List Tile :=
  let nb := p.bsizes.foldl (· * ·) 1
  let at_ (b : List Nat) (ri ci k : Nat) : Option Readout := rs.find? fun r => r.b == b && r.row == 16 * ri + k / 32 && r.col == 32 * ci + k % 32
  ((List.range nb).map fun n =>
    let b := unlinear p.bsizes n
    ((List.range (ceilDiv p.rows.length 16)).map fun ri => (List.range (ceilDiv p.cols 32)).map fun ci =>
      ({ batch := n, row := 16 * ri, col := 32 * ci, rows := min 16 (p.rows.length - 16 * ri), cols := min 32 (p.cols - 32 * ci)
         data := (List.range 512).map fun k => (at_ b ri ci k).elim 0 fun r => toFp32 r.val
         bad := (List.range 512).filter fun k => (at_ b ri ci k).any (·.poisoned) } : Tile)).flatten).flatten

/-- Share the tiles among the nibs in ascending blocks. -/
def shareTiles (n : Nat) (ts : List Tile) : Tbl NibTiles :=
  let per := ceilDiv ts.length (max 1 n)
  (List.range n).map fun i => (i, { stream := (ts.drop (i * per)).take per })

/-- Execution of a product stitch. -/
def productExec (s : State) (j : Job) (a : Active) : State :=
  match planOf s j a with
  | none => s
  | some p =>
    let c := if a.st.opcode == opGatherMm then none else (opnd a 3).map fun o => (viewOf s j o, a.st)
    let rs := readouts p c
    if a.st.gradAcc then gradExec s j a p rs else
    let base := addCounts (readoutCounts rs) { malformed := p.malformed + c.elim 0 fun q => malformedOf q.1, skipSteps := skipSteps p a.st.sparse }
    if a.st.tileq then
      let nf := (rs.filter fun r => !(roundFloat fp32 0 r.val).num.isFinite).length
      let q := startAct s a
      putAct q.1 { q.2 with stage := .running, counts := addCounts base { nonfinite := nf }, tiles := shareTiles a.nibs.length (tilesOf p rs)
                            marks := { a.marks with poisoned := readsPoison rs, replayRound := a.stage == .replaying }
                            conds := if rs.any (·.l1Bad) then [(5, nf)] else [] }
    else
      match a.out with
      | none => s
      | some o =>
        let v := productVals j a o p rs
        let pr := produce s j.seed a.sid a.st o v.1
        finishOutput s a o pr { counts := addCounts base { nonfinite := v.2 }, poisoned := readsPoison rs, wideNf := rs.any (·.l1Bad) }

/-- MATMUL (03 R78). -/
def execMatmul (sid : Sid) (s : State) : Host.Outcome State Fault Refusal := runAct s sid opMatmul productExec

/-- GATHER_MM (03 R105). -/
def execGatherMm (sid : Sid) (s : State) : Host.Outcome State Fault Refusal := runAct s sid opGatherMm productExec

/-! ### ROUTE (03 R104) -/

/-- Lists, malformed items and drops while the choices are taken token by token. -/
structure RouteAcc where
  lists : List (List Nat)
  malformed : Nat := 0
  drops : Nat := 0
  deriving DecidableEq, Repr

/-- One choice of one token. -/
def routeChoice (e cap t : Nat) (seen : List Int) (acc : RouteAcc) (x : Int) : RouteAcc :=
  if x = -1 then acc
  else if x < -1 || (e : Int) ≤ x then { acc with malformed := acc.malformed + 1 }
  else if seen.contains x then { acc with malformed := acc.malformed + 1 }
  else
    let l := acc.lists.getD x.toNat []
    if cap ≤ l.length then { acc with drops := acc.drops + 1 } else { acc with lists := acc.lists.set x.toNat (l ++ [t]) }

/-- The choices of every token in ascending order. -/
def routeTokens (e cap : Nat) (choices : List (List Int)) : RouteAcc :=
  (choices.zipIdx).foldl (fun acc row =>
    ((row.1.zipIdx).foldl (fun (acc : RouteAcc) c => routeChoice e cap row.2 (row.1.take c.2) acc c.1) acc)) { lists := List.replicate e [] }

def routeExec (s : State) (j : Job) (a : Active) : State :=
  match opnd a 0, opnd a 1, a.out with
  | some ch, some cnt, some out =>
    let v := viewOf s j ch
    let tokens := sizeAt ch.desc 0
    let k := sizeAt ch.desc 1
    let e := sizeAt cnt.desc 0
    let cap := sizeAt out.desc 1
    let bad := (List.range tokens).any fun t => (List.range k).any fun c => elemBad v [t, c]
    let r := routeTokens e cap ((List.range tokens).map fun t => (List.range k).map fun c => (elemVal v [t, c]).ratD.num)
    let put (ws : WriteSet) (d : Desc) (cell : Nat) (x : Int) : WriteSet := wsBits s ws (codeBit d cell 0) 32 (unsigned 32 x)
    let ws := (List.range e).foldl (fun ws x => put ws cnt.desc x ((r.lists.getD x []).length : Nat)) {}
    let ws := (List.range (e * cap)).foldl (fun ws n => put ws out.desc n (match (r.lists.getD (n / cap) [])[n % cap]? with
      | some t => (t : Int)
      | none => -1)) ws
    let fill (ws : WriteSet) (d : Desc) : WriteSet := (List.range (cells d)).foldl (fun ws c => wsPoison ws (codeBit d c 0 / 8) 4) ws
    let ws := if bad then fill (fill ws cnt.desc) out.desc else ws
    finishExec s a { ws := ws, counts := { malformed := r.malformed, routeDrop := r.drops }, poisoned := bad }
  | _, _, _ => s

/-- ROUTE (03 R104). -/
def execRoute (sid : Sid) (s : State) : Host.Outcome State Fault Refusal := runAct s sid opRoute routeExec

/-- TILE_QUEUE_PUSH (06 R192): the next finished tile of one nib enters its queue of eight; the ME waits while it is full. -/
def execTileQueuePush (sid : Sid) (position : Nat) (s : State) : Host.Outcome State Fault Refusal :=
  match actOf s sid with
  | none => .next s
  | some a =>
    let q := tgetD a.tiles position {}
    match q.stream with
    | [] => .next s
    | t :: rest =>
      if q.queue.length < 8 then
        let tiles := tset a.tiles position { stream := rest, queue := q.queue ++ [t] }
        let left := tiles.any fun x => !x.2.stream.isEmpty
        .next (putAct s { a with tiles := tiles, stage := if left then a.stage else if a.marks.replayRound then .replayed else .finished })
      else .next s

end Sys2Proof.Machine
end

