-- ==== Sys2Proof/Machine/Convert.lean ====
section
/-! DEFINITION. CONVERT, DERIV and CHECK (02 R73, R74, R90; 05 R157, R158; 13 R391 to R394). -/

namespace Sys2Proof.Machine

/-- The source element that a destination element receives under `PERM` (07 R217). -/
def permIdx (st : Stitch) (rank : Nat) (dst : List Nat) : List Nat :=
  (List.range rank).map fun sd => ((List.range rank).findSome? fun d => if permOf st d = sd then dst[d]? else none).getD 0

/-- Destination dimension that receives a source dimension. -/
def permTo (st : Stitch) (rank sd : Nat) : Nat := ((List.range rank).find? fun d => permOf st d = sd).getD 0

/-- A Twist state compared on the destination's dimensions (02 R73). -/
def sameTwist (st : Stitch) (rank : Nat) (src dst : Desc) : Bool :=
  src.twSize == dst.twSize && (src.twSize == 0 || (src.twSeed == dst.twSeed && permTo st rank src.twDim == dst.twDim))

/-- Value and poison of each destination element of a conversion, and the non-finite elements that reached the Twist unit. -/
def convertVals (j : Job) (st : Stitch) (v : View) (dst : Desc) : List (Num × Bool) × Nat :=
  let r := dst.rank
  let src (idx : List Nat) : Num := elemVal v (permIdx st r idx)
  let bad (idx : List Nat) : Bool := elemBad v (permIdx st r idx)
  let n := elems dst
  let ix (l : Nat) := unlinear (dims dst) l
  let nf (on : Bool) : Nat := if on then ((List.range n).filter fun l => !bad (ix l) && !(src (ix l)).isFinite).length else 0
  if v.desc.twSize == dst.twSize then ((List.range n).map fun l => (src (ix l), bad (ix l)), 0)
  else if v.desc.twSize == 0 then
    ((List.range n).map fun l => (twistAt j.seed dst.twSeed (twistLog dst) dst.twDim false src (ix l), twistBad (twistLog dst) dst.twDim bad (ix l)), nf true)
  else
    let d := permTo st r v.desc.twDim
    ((List.range n).map fun l => (twistAt j.seed v.desc.twSeed (twistLog v.desc) d true src (ix l), twistBad (twistLog v.desc) d bad (ix l)), nf true)

/-- Residual digits of one element (03 R90): d2 then d3. Under `ROUND` = 1 the residue can come near 1, so that 8 × res can round to 8, which no K4
digit holds: it is held at 7 and counts no clip (DESIGN CHOICE: log entry 37). -/
def residDigits (rnd : Nat → Option Nat) (u : Num) (code : Nat) : Int × Int :=
  match u with
  | .fin n m =>
    if code = 8 || (roundMag 1 n none m).2 then (0, 0) else
    let x : Rat := if n then -m else m
    let rd (p : Nat) (y : Rat) : Int :=
      let r := (roundMag 1 (decide (y < 0)) (rnd p) (rabs y)).1.num
      if y < 0 then -r else r
    let res := x - ((signed 4 code : Int) : Rat)
    let d2 := rd 2 (8 * res)
    (d2, rd 3 (64 * res - 8 * (d2 : Rat)))
  | _ => (0, 0)

/-- Write set of a conversion's residual tensor: the digits of every stored code, zero at a pad position; the stochastic bits take the element's
index in the first operand (03 R90). -/
def residWrites (s : State) (j : Job) (a : Active) (src : Desc) (o : Operand) (res : Desc) (vals : List (Num × Bool)) (p : Produced) (ws : WriteSet) : WriteSet :=
  let d := o.desc
  let view := memView s o
  p.cells.foldl (fun ws c =>
    (List.range (storedLen d)).foldl (fun ws k =>
        let dg : Int × Int := match ((List.range (blockLen d)).find? fun pos => keptIndex view c.cell pos == some k).bind (elemAt d c.cell) with
          | none => (0, 0)
          | some idx =>
            let lin := linear (dims d) idx
            let l1 := (view.l1 (l1Index o (idx.getD 0 0))).ratD
            if c.s8 = 0 || c.s8 = 255 || l1 = 0 then (0, 0) else
            let at_ := linear (dims src) (permIdx a.st d.rank idx)
            residDigits (fun p => if a.st.round then some (stochBits j.seed a.sid (at_ + 2 ^ 40 * p)) else none)
              ((vals.getD lin (.fin false 0, false)).1.scale (pow2 (-c.exp) / l1)) ((c.codes.getD k (some 0)).getD 0)
        (List.range a.st.passes).foldl (fun ws q =>
          let g := unlinear (gridDims d) c.cell
          let cell := linear (gridDims res) (q :: g)
          let bitAt := ((res.base : Int) * 8 + (cellOffset res cell + (k : Int)) * 4).toNat
          wsBits s ws bitAt 4 (unsigned 4 (if q = 0 then dg.1 else dg.2))) ws) ws) ws

/-- CONVERT (02 R56, R77; 03 R90). The elements written that 04 R108 compares the counts with are those of the output handle alone; the K4 elements of
a residual tensor written beside it are not counted (DESIGN CHOICE, log entry 37: the spec does not say whether they are a narrow output of the stitch). -/
def convertExec (s : State) (j : Job) (a : Active) : State :=
  match opnd a 0, a.out with
  | some src, some o =>
    let v := viewOf s j src
    let m : Mode := { strict := a.st.strict, rm := a.st.rm }
    let cv := convertVals j a.st v o.desc
    let sn := a.out.any fun _ => (v.desc.type == 7 || v.desc.type == 8) &&
      (List.range (elems v.desc)).any fun l => isSignalling (if v.desc.type = 7 then bf16 else fp32) (v.code l 0)
    let narrow := quType o.desc.type
    let outs := (cv.1.zipIdx).map fun q =>
      if narrow then (q.2, OutVal.num q.1.1, q.1.2, if q.1.2 then (0 : BitVec 8) else flagIf (!q.1.1.isFinite) fNfSt)
      else let w := wideOut o.desc.type m q.1.1; (q.2, OutVal.code w.1, q.1.2, if q.1.2 then 0 else w.2)
    let fl := outs.foldl (fun f q => f ||| q.2.2.2) (flagIf sn fNV)
    let pr := produce s j.seed a.sid a.st o (outs.map fun q => (q.1, q.2.1, q.2.2.1))
    let ws := if a.st.passes = 0 then {} else (opnd a 2).elim {} fun r => residWrites s j a v.desc o r.desc cv.1 pr {}
    let mal := malformedOf v + if isSparse o.desc then groupMalformed { memView s o with s8 := fun _ => 1 } fun _ => true else 0
    let l1Bad := (List.range (elems v.desc)).any fun l => elemL1Bad v (unlinear (dims v.desc) l)
    finishOutput s a o pr { ws := ws, counts := { vflags := fl, malformed := mal, nonfinite := cv.2 }, poisoned := cv.1.any (·.2), wideNf := l1Bad }
  | _, _ => s

/-- CONVERT (02 R74). -/
def execConvert (sid : Sid) (s : State) : Host.Outcome State Fault Refusal := runAct s sid opConvert convertExec

/-! ### DERIV (05 R157, R158) -/

/-- Value of the 1,026-element table at x (05 R158). -/
def derivTable (e : Nat → Num) (x : Num) : Num :=
  match e 1024, e 1025 with
  | .fin nl ml, .fin nh mh =>
    let lo : Rat := if nl then -ml else ml
    let hi : Rat := if nh then -mh else mh
    if hi ≤ lo then .nan else
    match x with
    | .nan => .nan
    | .inf n => if n then e 0 else e 1023
    | .fin n m =>
      let x : Rat := if n then -m else m
      if x < lo then e 0 else if hi < x then e 1023 else
      let t := (x - lo) / (hi - lo) * 1023
      let i := min (t.num.toNat / t.den) 1022
      (roundFloat fp32 0 ((e i).add (((e (i + 1)).add (e i).negate).mul (Num.ofRat (t - (i : Rat)))))).num
  | _, _ => .nan

/-- A DERIV: dY with its Twist undone, times the table at x, with the Twist of its output. An x of the 1,026-element form has its Twist undone
too; the 256-element form looks up the stored code (DESIGN CHOICE: log entry 37). -/
def derivExec (s : State) (j : Job) (a : Active) : State :=
  match opnd a 0, opnd a 1, opnd a 2, a.out with
  | some dy, some x, some tab, some o =>
    let vd := viewOf s j dy
    let vx := viewOf s j x
    let vt := viewOf s j tab
    let e (i : Nat) : Num := plainVal j.seed vt [i]
    let eBad (i : Nat) : Bool := plainBad vt [i]
    let small := decide (elems tab.desc = 256)
    let n := elems o.desc
    let tabBad := !small && (List.range 1026).any eBad
    let val (l : Nat) : Num × Bool :=
      let idx := unlinear (dims o.desc) l
      let c := cellOf vx.desc idx
      let code := vx.code c.1 c.2
      let f := if small then e (code % 256) else derivTable e (plainVal j.seed vx idx)
      ((plainVal j.seed vd idx).mul f, plainBad vd idx || (if small then elemBad vx idx else plainBad vx idx) || tabBad || (small && eBad (code % 256)))
    let computed := (List.range n).map fun l => (l, val l)
    let reads (v : View) : List (Nat × Num × Bool) := (List.range n).map fun l => (let i := unlinear (dims o.desc) l; (l, elemVal v i, elemBad v i))
    let twNf := (if vd.desc.twSize = 0 then 0 else twistNf (reads vd)) + if small || vx.desc.twSize = 0 then 0 else twistNf (reads vx)
    let rot := towardOutput j.seed o.desc computed
    let vals := rot.1
    let twNf := twNf + rot.2
    let l1Bad := (List.range n).any fun l => elemL1Bad vd (unlinear (dims o.desc) l)
    let narrow := quType o.desc.type
    let outs := vals.map fun q =>
      if narrow then (q.1, OutVal.num q.2.1, q.2.2, false)
      else let w := wideCode o.desc.type q.2.1; (q.1, OutVal.code w.1, q.2.2, w.2 && !q.2.2)
    let pr := produce s j.seed a.sid a.st o (outs.map fun q => (q.1, q.2.1, q.2.2.1))
    finishOutput s a o pr { counts := { nonfinite := twNf + (outs.filter fun q => q.2.2.2).length, malformed := malformedOf vd }
                            poisoned := vals.any (·.2.2), wideNf := l1Bad }
  | _, _, _, _ => s

/-- DERIV (05 R157). -/
def execDeriv (sid : Sid) (s : State) : Host.Outcome State Fault Refusal := runAct s sid opDeriv derivExec

/-! ### CHECK (13 R393, R394) -/

/-- Fields of `AUX` of a `CHECK`. -/
def ckPoly (st : Stitch) : Nat := bits st.aux 127 96
def ckInit (st : Stitch) : Nat := bits st.aux 95 64
def ckWidth (st : Stitch) : Nat := bits st.aux 31 26
def ckRefin (st : Stitch) : Bool := bit st.aux 25
def ckRefout (st : Stitch) : Bool := bit st.aux 24
def ckFinv (st : Stitch) : Bool := bit st.aux 23
def ckResume (st : Stitch) : Bool := bit st.aux 22

/-- The byte stream of a tensor: each element's bytes, low byte first, in linear index order. -/
def elemStream (v : View) : List Byte :=
  ((List.range (elems v.desc)).map fun l => leBytes (typeBits v.desc.type / 8) (v.code l 0)).flatten

def checkExec (s : State) (j : Job) (a : Active) : State :=
  match opnd a 0, a.out with
  | some data, some o =>
    let v := viewOf s j data
    let w := ckWidth a.st
    let st0 := (opnd a 1).map fun r => viewOf s j r
    let bad := ((List.range (elems data.desc)).any fun l => v.codeBad l 0) || st0.any fun r => (List.range (elems r.desc)).any fun l => r.codeBad l 0
    let start := if ckResume a.st then st0.elim 0 fun r => r.code 0 0 else ckInit a.st
    if bad then finishExec s a { poisoned := true }
    else if ckResume a.st && 2 ^ w ≤ start then finishExec s a { counts := { malformed := 1 } }
    else
      let r := crcBytes w (ckPoly a.st) (ckRefin a.st) start (elemStream v)
      let ws := wsBits s {} (codeBit o.desc 0 0) 32 r
      let ws := wsBits s ws (codeBit o.desc 1 0) 32 (crcFinal w (ckRefout a.st) (ckFinv a.st) r)
      finishExec s a { ws := ws }
  | _, _ => s

/-- CHECK (13 R393). -/
def execCheck (sid : Sid) (s : State) : Host.Outcome State Fault Refusal := runAct s sid opCheck checkExec

end Sys2Proof.Machine
end

