-- ==== Sys2Proof/Machine/Script.lean ====
section
/-! DEFINITION. VSCRIPT: the instruction word and its check, a run's registers, the approximate functions, and how one instruction of a run
executes (06 R177 to R194). -/

namespace Sys2Proof.Machine

/-! ### The instruction word (06 R182, R183) -/

/-- Fields of the table VE instruction word. -/
structure VeWord where
  op : Nat
  dst : Nat
  sa : Nat
  sb : Nat
  sc : Nat
  masked : Bool
  msel : Nat
  minv : Bool
  ty : Nat
  imm : Bool
  rsv : Bool
  immv : Nat
  deriving DecidableEq, Repr

def parseVe (w : Word64) : VeWord :=
  let x := w.toNat
  { op := bits x 63 56, dst := bits x 55 52, sa := bits x 51 48, sb := bits x 47 44, sc := bits x 43 40, masked := bit x 39, msel := bits x 38 37
    minv := bit x 36, ty := bits x 35 34, imm := bit x 33, rsv := bit x 32, immv := bits x 31 0 }

/-- What a field of an instruction names. -/
inductive VeField where
  | unused | vec | vecOrImm | mask | slot | slotOrOut | length | predicate | wideType | segment
  deriving DecidableEq, Repr

/-- A row of the table VE opcodes: the `TY` values it lists and what `DST`, `SA`, `SB` and `SC` name. -/
structure VeRow where
  tys : List Nat
  dst : VeField := .unused
  sa : VeField := .unused
  sb : VeField := .unused
  sc : VeField := .unused
  deriving DecidableEq, Repr

def tyAny : List Nat := [0, 1, 2]
def tyFp : List Nat := [0, 1]

/-- The table VE opcodes; none for a reserved code. -/
def veTable (op : Nat) : Option VeRow :=
  if op = 0x01 then some { tys := tyAny, sa := .length }
  else if op = 0x05 then some { tys := tyAny, sa := .slotOrOut }
  else if op ∈ [0x02, 0x03, 0x04, 0x06, 0x07] then some { tys := tyAny }
  else if op = 0x10 || op = 0x15 then some { tys := tyAny, dst := .vec, sa := .slot }
  else if op = 0x11 || op = 0x16 then some { tys := tyAny, sa := .vec }
  else if op = 0x12 then some { tys := tyAny, dst := .vec, sa := .vec, sb := .slot }
  else if op = 0x13 then some { tys := tyAny, sa := .vec, sb := .vec }
  else if op = 0x14 then some { tys := [0], dst := .vec }
  else if op = 0x17 then some { tys := tyAny, dst := .vec }
  else if op ∈ [0x20, 0x21, 0x22, 0x27, 0x28, 0x44] then some { tys := tyAny, dst := .vec, sa := .vec, sb := .vecOrImm }
  else if op = 0x23 || op = 0x24 then some { tys := tyFp, dst := .vec, sa := .vec, sb := .vecOrImm, sc := .vec }
  else if op = 0x25 then some { tys := tyFp, dst := .vec, sa := .vec, sb := .vecOrImm }
  else if op ∈ [0x26, 0x2C, 0x38, 0x39, 0x3A, 0x3B, 0x3C] then some { tys := tyFp, dst := .vec, sa := .vec }
  else if op = 0x29 || op = 0x2A then some { tys := tyAny, dst := .vec, sa := .vec }
  else if op = 0x2B then some { tys := tyAny, dst := .vec, sa := .vec, sc := .wideType }
  else if op ∈ [0x30, 0x31, 0x32, 0x33, 0x34] then some { tys := [2], dst := .vec, sa := .vec, sb := .vecOrImm }
  else if op = 0x40 then some { tys := tyAny, dst := .mask, sa := .vec, sb := .vecOrImm, sc := .predicate }
  else if op = 0x41 || op = 0x42 then some { tys := tyAny, dst := .mask, sa := .mask, sb := .mask }
  else if op = 0x43 then some { tys := tyAny, dst := .mask, sa := .mask }
  else if op ∈ [0x50, 0x51, 0x52, 0x53, 0x54] then some { tys := tyFp, sa := .vec, sc := .segment }
  else if op = 0x55 || op = 0x56 then some { tys := tyFp, dst := .vec }
  else if op = 0x57 then some { tys := tyFp, sa := .vec }
  else none

/-- A field is in range; `full` says which of slots 0 to 2 and the output (3) name a tensor. The list of 06 R183 does not name a `VCVT` whose
`SC` is none of the three wide types: such a word is refused (DESIGN CHOICE: log entry 15). -/
def veFieldOk (full : Nat → Bool) (imm : Bool) (k : VeField) (v : Nat) : Bool :=
  match k with
  | .unused => true
  | .vec => v ≤ 7
  | .vecOrImm => imm || v ≤ 7
  | .mask => v ≤ 3
  | .slot => v ≤ 2 && full v
  | .slotOrOut => v ≤ 3 && full v
  | .length => v == 15 || (v ≤ 3 && full v)
  | .predicate => v ≤ 4
  | .wideType => 7 ≤ v && v ≤ 9
  | .segment => v ≤ 12

/-- One word passes the check of 06 R183; stores need an output (DEDUCED, log entry 15). -/
def veWordOk (strict : Bool) (full : Nat → Bool) (len : Nat) (w : VeWord) : Bool :=
  match veTable w.op with
  | none => false
  | some r =>
    !w.rsv && r.tys.contains w.ty && veFieldOk full w.imm r.dst w.dst && veFieldOk full w.imm r.sa w.sa && veFieldOk full w.imm r.sb w.sb &&
      veFieldOk full w.imm r.sc w.sc && (!(2 ≤ w.op && w.op ≤ 4) || w.immv < len) && (w.op != 1 || w.immv ≤ 4096) &&
      (w.op != 7 || (strict && w.immv ≤ 4)) && (!(0x38 ≤ w.op && w.op ≤ 0x3C) || !strict) &&
      (!(w.op == 0x11 || w.op == 0x13 || w.op == 0x16) || full 3)

/-- The instructions of a script tensor (06 R177). -/
def scriptWords (v : View) : List Word64 :=
  (List.range (elems v.desc / 2)).map fun n => BitVec.ofNat 64 (v.code (2 * n) 0 + 2 ^ 32 * v.code (2 * n + 1) 0)

/-- Every word of a script passes. -/
def scriptOk (strict : Bool) (full : Nat → Bool) (ws : List Word64) : Bool := ws.all fun w => veWordOk strict full ws.length (parseVe w)

/-! ### Registers of a run (06 R180, R184) -/

/-- Format of a `TY`. -/
def tyFmt (ty : Nat) : FloatFmt := if ty = 1 then bf16 else fp32
/-- Type code of a `TY`. -/
def tyCode (ty : Nat) : Nat := if ty = 1 then tBF16 else if ty = 2 then tINT32 else tFP32

def regWord (r : Run) (reg i : Nat) : Nat := (tgetD r.vec (reg * 4096 + i) 0).toNat
/-- Element `i` of a register under a `TY`. -/
def getEl (r : Run) (ty reg i : Nat) : Nat := if ty = 1 then bits (regWord r reg (i / 2)) (i % 2 * 16 + 15) (i % 2 * 16) else regWord r reg i

/-- Half words of an element. -/
def halves (ty reg i : Nat) : List Nat := if ty = 1 then [reg * 8192 + i] else [reg * 8192 + 2 * i, reg * 8192 + 2 * i + 1]
/-- An element depends on poison. -/
def elBad (r : Run) (ty reg i : Nat) : Bool := (halves ty reg i).any fun h => r.badVec.contains h

/-- Mark or unmark keys of a rising list. -/
def markIf (l : List Nat) (b : Bool) (ks : List Nat) : List Nat := if b then ks.foldl ninsert l else l.filter fun k => !ks.contains k

/-- Write an element. -/
def putEl (r : Run) (ty reg i v : Nat) (bad : Bool) : Run :=
  let k := reg * 4096 + if ty = 1 then i / 2 else i
  let w := if ty = 1 then (let o := (tgetD r.vec k 0).toNat; if i % 2 = 0 then o / 65536 * 65536 + v % 65536 else v % 65536 * 65536 + o % 65536) else v
  { r with vec := if w % 2 ^ 32 = 0 then tdel r.vec k else tset r.vec k (BitVec.ofNat 32 w), badVec := markIf r.badVec bad (halves ty reg i) }

def maskAt (r : Run) (m i : Nat) : Bool := r.masks.contains (m * 4096 + i)
def putMask (r : Run) (m i : Nat) (v bad : Bool) : Run :=
  { r with masks := markIf r.masks v [m * 4096 + i], badMask := markIf r.badMask bad [m * 4096 + i] }

def accAt (r : Run) (k : Nat) : Word64 := tgetD r.acc (k % 256) 0
def putAcc (r : Run) (k : Nat) (v : Word64) (bad : Bool) : Run :=
  { r with acc := if v = 0 then tdel r.acc (k % 256) else tset r.acc (k % 256) v, badAcc := markIf r.badAcc bad [k % 256] }

/-- The selected mask chooses an element. -/
def chosen (r : Run) (w : VeWord) (i : Nat) : Bool := maskAt r w.msel i != w.minv
/-- Active elements (06 R184). -/
def activeEls (r : Run) (w : VeWord) : List Nat := (List.range r.vl).filter fun i => !w.masked || chosen r w i
/-- Whether an element is active depends on poison. -/
def chooseBad (r : Run) (w : VeWord) (i : Nat) : Bool := w.masked && r.badMask.contains (w.msel * 4096 + i)

/-- The immediate as element `i` takes it (06 R182). -/
def immEl (w : VeWord) (i : Nat) : Nat := if w.ty = 1 then bits w.immv (i % 2 * 16 + 15) (i % 2 * 16) else w.immv
/-- Source b: the register, or the immediate broadcast. -/
def srcB (r : Run) (w : VeWord) (i : Nat) : Nat := if w.imm then immEl w i else getEl r w.ty w.sb i
def srcBBad (r : Run) (w : VeWord) (i : Nat) : Bool := !w.imm && elBad r w.ty w.sb i

/-- Write computed elements; every source has been read. -/
def putEls (r : Run) (ty reg : Nat) (l : List (Nat × Nat × BitVec 8 × Bool)) : Run :=
  let r := l.foldl (fun r e => putEl r ty reg e.1 e.2.1 e.2.2.2) r
  { r with flags := l.foldl (fun f e => f ||| e.2.2.1) r.flags }

/-! ### Values -/

/-- Mode of a run: strict with its rounding attribute, or fast (06 R198 to R200). -/
def modeOf (a : Active) (r : Run) : Mode := { strict := a.st.strict, rm := r.rm }

/-- Value of an element; a subnormal reads as zero in fast mode. -/
def elNum (m : Mode) (ty c : Nat) : Num := if ty = 2 then Num.ofRat ((signed 32 c : Int) : Rat) else inMode m (tyFmt ty) (decodeFloat (tyFmt ty) c)
/-- An element is a signalling NaN. -/
def elSig (ty c : Nat) : Bool := ty != 2 && isSignalling (tyFmt ty) c

/-- The flags of a moved element: a signalling NaN operand is invalid (06 R188). -/
def moveFl (ty c : Nat) : BitVec 8 := flagIf (elSig ty c) fNV
/-- A moved element: canonical NaN, fast subnormals zero (06 R190, R198). -/
def moveEl (m : Mode) (ty c : Nat) : Nat := if ty = 2 then c else encodeFloat (tyFmt ty) (outMode { m with rm := 0 } (tyFmt ty) (elNum m ty c)).1

/-- A value converted to a `TY` (06 R187, R190). -/
def convTo (m : Mode) (ty : Nat) (x : Num) : Nat × BitVec 8 :=
  if ty = 2 then (let r := toInt32 m x; (unsigned 32 r.1, r.2)) else (let r := outMode m (tyFmt ty) x; (encodeFloat (tyFmt ty) r.1, r.2))

/-- An element of a tensor loaded as a `TY`: its code has type `t` (06 R187). -/
def loadAs (m : Mode) (t ty c : Nat) : Nat × BitVec 8 :=
  let f := if t = 7 then bf16 else fp32
  let wide := t == 7 || t == 8
  let x := if wide then inMode m f (decodeFloat f c) else codeVal t 0 c
  let r := convTo m ty x
  (r.1, r.2 ||| flagIf (wide && isSignalling f c) fNV)

/-- An element of a `TY` as the output takes it: a wide code converted here, or a value for the QU (06 R187, 01 R23). A signalling NaN stored is
an invalid operand, whatever the output's type (06 R188). -/
def storeAs (m : Mode) (t ty c : Nat) : OutVal × BitVec 8 :=
  let x := elNum m ty c
  let sig := flagIf (elSig ty c) fNV
  if quType t then (.num x, flagIf (!x.isFinite) fNfSt ||| sig)
  else if t = 11 then (.code (if x.neg? && x.isNonzero then 1 else 0), flagIf (!x.isFinite) fNfSt ||| sig)
  else
    let r := wideOut t m x
    (.code r.1, r.2 ||| sig)

/-! ### Approximate functions (06 R201) -/

/-- Keep 96 fraction bits of a non-negative number. -/
def trim (x : Rat) : Rat := ((roundNat 1 false (x * pow2 96) : Nat) : Rat) * pow2 (-96)

/-- 2^f for a fraction, from its first `n` bits: the product of 2^(2^−i) over the bits that are set. -/
def exp2Frac : Nat → Rat → Rat → Rat → Rat
  | 0, _, _, acc => acc
  | n + 1, f, root, acc =>
    let r := trim (sqrtRat root)
    if 1 ≤ 2 * f then exp2Frac n (2 * f - 1) r (trim (acc * r)) else exp2Frac n (2 * f) r acc

/-- 2^x near enough for the bound: beyond ±300 it is out of every format's range. -/
def exp2Near (x : Rat) : Rat :=
  if 300 < x then pow2 300 else if x < -300 then 0 else
  let k : Int := x.floor
  exp2Frac 64 (x - (k : Rat)) 2 1 * pow2 k

/-- Fraction of log2 of a number in [1, 2), by repeated squaring. -/
def log2Frac : Nat → Rat → Rat → Rat → Rat
  | 0, _, _, acc => acc
  | n + 1, m, w, acc =>
    let q := trim (m * m)
    if 2 ≤ q then log2Frac n (q / 2) (w / 2) (acc + w) else log2Frac n q (w / 2) acc

def log2Near (x : Rat) : Rat := (floorLog2 x : Rat) + log2Frac 64 (x / pow2 (floorLog2 x)) (mkRat 1 2) 0

/-- log2 e to 64 bits. -/
def log2e : Rat := mkRat 26613026195688644983 (2 ^ 64)

/-- tanh of a non-negative number: its series where it is small, otherwise from 2^(2x log2 e). -/
def tanhNear (x : Rat) : Rat :=
  if x < mkRat 1 64 then x - x ^ 3 / 3 + 2 * x ^ 5 / 15 - 17 * x ^ 7 / 315
  else if 40 < x then 1
  else let e := exp2Near (2 * x * log2e); (e - 1) / (e + 1)

/-- A result within the bound of a magnitude: a multiple of its unit in the last place, at most `ulps` away (log entry 4). -/
def within (f : FloatFmt) (ulps pick : Nat) (x : Rat) : Rat :=
  let u := pow2 ((if x = 0 then fmtEmin f else max (fmtEmin f) (floorLog2 x)) - f.mb)
  let q := x / u
  let hi := roundNat 1 false (q + (ulps : Rat))
  let lo := roundNat 3 false (max 0 (q - (ulps : Rat)))
  ((lo + pick % (hi - lo + 1) : Nat) : Rat) * u

/-- An approximate function of a value: its result before flushing, with its flags. -/
def approx (op : Nat) (ty c : Nat) (x : Num) : Num × BitVec 8 :=
  let f := tyFmt ty
  let pick := Config.approxPick op (ty == 1) (BitVec.ofNat 32 c)
  let at_ (n : Bool) (y : Rat) : Num := .fin n (within f (if ty = 1 then 1 else 2) pick y)
  match op, x with
  | _, .nan => (.nan, 0)
  | 0x38, .inf n => (if n then .fin false 0 else .inf false, 0)
  | 0x38, .fin n m => (at_ false (exp2Near (if n then -m else m)), 0)
  | 0x39, .inf n => if n then (.nan, fNV) else (.inf false, 0)
  | 0x39, .fin n m =>
    if m = 0 then (.inf true, fDZ) else if n then (.nan, fNV) else
    let y := log2Near m
    (at_ (decide (y < 0)) (rabs y), 0)
  | 0x3A, .inf n => (.fin n 0, 0)
  | 0x3A, .fin n m => if m = 0 then (.inf n, fDZ) else (at_ n (1 / m), 0)
  | 0x3B, .inf n => if n then (.nan, fNV) else (.fin false 0, 0)
  | 0x3B, .fin n m => if m = 0 then (.inf n, fDZ) else if n then (.nan, fNV) else (at_ false (1 / sqrtRat m), 0)
  | _, .inf n => (at_ n 1, 0)
  | _, .fin n m => if m = 0 then (.fin n 0, 0) else (at_ n (tanhNear m), 0)

/-! ### Execution of one instruction -/

/-- What an instruction sees besides its run. -/
structure VeEnv where
  s : State
  j : Job
  a : Active
  w : VeWord
  /-- The product stitch chained to it, for the tile queue (06 R193). -/
  prod : Option Active

/-- What an instruction does. -/
structure VeRes where
  run : Run
  jump : Option Nat := none
  stop : Bool := false
  fault : Option Nat := none
  /-- It has drawn free values. -/
  draws : Bool := false
  /-- It has taken the tile at the head of its nib's queue. -/
  popped : Bool := false

/-- Input tensor of a slot. -/
def slotView (e : VeEnv) (i : Nat) : Option View := (opnd e.a i).map fun o => viewOf e.s e.j o
/-- Element of a slot tensor by linear index, as a `TY`: its code, or where the tensor carries Twist its value with the Twist undone (02 R52; DESIGN
CHOICE: log entry 37). -/
def loadEl (e : VeEnv) (m : Mode) (v : View) (lin : Nat) : Nat × BitVec 8 :=
  if v.desc.twSize = 0 then loadAs m v.desc.type e.w.ty (v.code lin 0)
  else convTo m e.w.ty (plainVal e.j.seed v (unlinear (dims v.desc) lin))
/-- Non-finite elements that the Twist unit takes for a load of these elements: those of the groups they lie in, each once (02 R77). -/
def loadNf (v : View) (lins : List Nat) : Nat :=
  if v.desc.twSize = 0 then 0 else
  let d := v.desc
  let n := twistLen d
  let group (lin : Nat) : List Nat :=
    let i := unlinear (dims d) lin
    let p := i.getD d.twDim 0
    (List.range n).map fun j => linear (dims d) (i.set d.twDim (p / n * n + j))
  let all := ((lins.map group).flatten).foldl ninsert []
  twistNf (all.map fun l => (let i := unlinear (dims d) l; (l, elemVal v i, elemBad v i)))
/-- A slot's element by linear index depends on poison. -/
def loadBad (v : View) (lin : Nat) : Bool := plainBad v (unlinear (dims v.desc) lin)
/-- Elements of a slot, 3 for the output. -/
def slotElems (e : VeEnv) (i : Nat) : Nat := (if i = 3 then e.a.out else opnd e.a i).elim 0 fun o => elems o.desc

/-- A granule of an output element is poisoned. -/
def outBad (e : VeEnv) (lin : Nat) : Bool :=
  e.a.out.any fun o => !o.desc.stash && (let c := cellOf o.desc (unlinear (dims o.desc) lin); (memView e.s o).codeBad c.1 c.2)

/-- Elements of a tile at a tensor (06 R185; rows and columns are its last two dimensions, DEDUCED, log entry 15): position in the tile and
linear index, none when part of the range lies outside. -/
def tileRange (d : Desc) (t : Tile) : Option (List (Nat × Nat)) :=
  let n := d.rank
  let rs := if 2 ≤ n then sizeAt d (n - 2) else 1
  let cs := if 1 ≤ n then sizeAt d (n - 1) else 1
  let nb := ((dims d).take (n - 2)).foldl (· * ·) 1
  if t.batch < nb && t.row + t.rows ≤ rs && t.col + t.cols ≤ cs then
    some (((List.range t.rows).map fun i => (List.range t.cols).map fun k => (32 * i + k, (t.batch * rs + t.row + i) * cs + t.col + k)).flatten)
  else none

/-- The tile queue of a run's nib, and whether its stream has ended (06 R192). -/
def nibTiles (e : VeEnv) (r : Run) : Option NibTiles := e.prod.bind fun p => tget p.tiles r.index
def streamEnded (e : VeEnv) (r : Run) : Bool :=
  match e.prod with
  | none => true
  | some _ => (nibTiles e r).any fun t => t.stream.isEmpty && t.queue.isEmpty

def runOf (s : State) (sid : Sid) (n : Nat) : Option Run := s.runs.find? fun r => r.sid == sid && r.index == n
def putRun (s : State) (r : Run) : State := { s with runs := s.runs.map fun q => if q.sid == r.sid && q.index == r.index then r else q }

/-- The stitch before a chained `VSCRIPT` in its queue. -/
def chainedProduct (s : State) (a : Active) : Option Active :=
  if a.st.tileq then s.acts.find? fun b => b.queue == a.queue && b.st.tileq && (b.seq + 1) % 2 ^ 32 == a.seq else none

/-- Every stored block is whole; the QU holds a partly stored block, so that one never completed is not written (06 R178). -/
def wholeWrites (o : Operand) (ws : List (Nat × OutVal × Bool)) : List (Nat × OutVal × Bool) :=
  if !blocked o.desc then ws else
  let cell (lin : Nat) : Nat := (cellOf o.desc (unlinear (dims o.desc) lin)).1
  let whole (c : Nat) : Bool := (List.range (blockLen o.desc)).all fun p => (elemAt o.desc c p).all fun i => ws.any fun w => w.1 == linear (dims o.desc) i
  ws.filter fun w => whole (cell w.1)

/-- Stored elements of an output that carries Twist, rotated and, where it is wide, rounded once (02 R52, R70; DESIGN CHOICE: log entry 37), with
the non-finite ones that reached the Twist unit. -/
def scriptTwist (seed : Word64) (d : Desc) (ws : List (Nat × OutVal × Bool)) : List (Nat × OutVal × Bool) × Nat :=
  if d.twSize = 0 then (ws, 0) else
  let num (x : OutVal) : Num := match x with
    | .num y => y
    | .code k => codeVal d.type 0 k
  let r := towardOutput seed d (ws.map fun w => (w.1, num w.2.1, w.2.2))
  (r.1.map fun q => (q.1, if quType d.type then OutVal.num q.2.1 else OutVal.code (wideCode d.type q.2.1).1, q.2.2), r.2)

/-- Every run has ended: the writes are applied in run order, the last one to an element winning (06 R179, R188, R191). Applied at the end, they
are not seen by the loads of the same stitch (DESIGN CHOICE: log entry 15). -/
def finishScript (s : State) (a : Active) : State :=
  let rs := s.runs.filter fun r => r.sid == a.sid
  let flt := rs.findSome? fun r => match r.state with
    | .faulted c pc => some (c, pc)
    | _ => none
  let fl := rs.foldl (fun f r => f ||| r.flags) (flagIf flt.isSome fFault)
  let sum (f : Run → Nat) : Nat := rs.foldl (fun n r => n + f r) 0
  let c : Counts := { vflags := fl, vfault := flt.elim 0 (·.1), vfaultPc := flt.elim 0 (·.2), malformed := sum (·.malformed), nonfinite := sum (·.nonfinite) }
  let a := { a with stage := if a.marks.replayRound then .replaying else .waiting }
  let d : Done := { counts := c, poisoned := rs.any (·.poisoned) }
  let ws := ((rs.map (·.writes)).flatten).reverse
  let s := { s with runs := s.runs.filter fun r => r.sid != a.sid }
  match a.out, jobOf s a.job with
  | some o, some j =>
    let t := scriptTwist j.seed o.desc (wholeWrites o ws)
    finishOutput s a o (produce s j.seed a.sid a.st o t.1) { d with counts := { c with nonfinite := c.nonfinite + t.2 } }
  | _, _ => finishExec s a d

/-- A run has changed; when it was the last to end, the stitch finishes. -/
def afterRun (s : State) (a : Active) (r : Run) : State :=
  let s := putRun s r
  let ended := match r.state with
    | .ended => true
    | .faulted _ _ => true
    | _ => false
  if !ended then s else
  let a := { a with runsLeft := a.runsLeft - 1 }
  let s := putAct s a
  if a.runsLeft = 0 then finishScript s a else s

/-- The state after an instruction: the next one, or the run's end; a fault writes nothing (06 R181, R191). -/
def veApply (e : VeEnv) (r : Run) (x : VeRes) : State :=
  let s := if x.draws then { e.s with free := e.s.free + 4096 } else e.s
  let s := if x.popped then e.prod.elim s fun p => putAct s { p with tiles := tadj p.tiles r.index {} fun t => { t with queue := t.queue.drop 1 } } else s
  match x.fault with
  | some c => afterRun s e.a { r with executed := r.executed + 1, state := .faulted c r.pc }
  | none =>
    let pc := x.jump.getD (r.pc + 1)
    afterRun s e.a { x.run with executed := r.executed + 1, pc := pc, state := if x.stop || e.a.script.length ≤ pc then .ended else .running }

/-- A load reaches the tensor of its slot (10 R296). -/
def reachLoads (s : State) (j : Job) (a : Active) (w : VeWord) : State :=
  let slot := if w.op = 0x12 then w.sb else w.sa
  if w.op = 0x10 || w.op = 0x12 || w.op = 0x15 then (opnd a slot).elim s fun o => reachOperand s j o else s

/-- A load waits for a request slot of its nib (09 R283). -/
def loadWaits (s : State) (j : Job) (a : Active) (r : Run) (w : VeWord) : Bool :=
  let slot := if w.op = 0x12 then w.sb else w.sa
  !s.mem.reqs.isEmpty && (w.op == 0x10 || w.op == 0x12 || w.op == 0x15) &&
    (opnd a slot).any fun o => (operandRanges j o).any fun x => rangeWaits s (r.panel, r.nib) x.1 x.2

/-- Execute the next instruction of a run when it has the row's opcode and need not wait; otherwise the command is no event. -/
def veRow (sid : Sid) (n op : Nat) (s : State) (f : VeEnv → Run → Option VeRes) : Host.Outcome State Fault Refusal :=
  match actOf s sid, runOf s sid n with
  | some a, some r =>
    match jobOf s a.job with
    | none => .next s
    | some j =>
      let w := parseVe (a.script.getD r.pc 0)
      if r.state == .running && r.pc < a.script.length && r.executed < 2 ^ 24 && w.op == op && !loadWaits s j a r w then
        let t := reachLoads s j a w
        let e : VeEnv := { s := t, j := j, a := a, w := w, prod := chainedProduct s a }
        match f e r with
        | none => .next s
        | some x => .next (veApply e r x)
      else .next s
  | _, _ => .next s

/-- A free value for element `i` of an instruction (log entry 2). -/
def freshEl (e : VeEnv) (i : Nat) : Nat := (Config.freeValue (e.s.free + i)).toNat

end Sys2Proof.Machine
end

