-- ==== Sys2Proof/Machine/Checks.lean ====
section
/-! DEFINITION. The checks that a stitch passes before it is admitted: fields, engines, pins, handles, formats, windows, writes, copies and
scripts, with their statuses and places (08 R230 to R250; 07 R203 to R226; and the format rules of the other chapters). -/

namespace Sys2Proof.Machine

/-- Why a stitch is rejected: status, handle, and `WHERE` (08 R250). -/
structure Reject where
  status : Nat
  handle : Nat := 0
  place : Nat := 15
  deriving DecidableEq, Repr

/-- A check that names the stitch itself. -/
def failIf (c : Bool) (status : Nat) : Option Reject := if c then some { status := status } else none
/-- A check that names a tensor. -/
def failAt (c : Bool) (status place handle : Nat) : Option Reject := if c then some { status := status, handle := handle, place := place } else none
/-- The first check that fails. -/
def firstFail (l : List (Option Reject)) : Option Reject := l.findSome? id
/-- The failure that one row of 08 R248 reports: it goes over the descriptors in the order slots, output, `REP_HANDLE`, side descriptors. -/
def rowFail (l : List (Option Reject)) : Option Reject :=
  (l.filterMap id).foldl (fun (b : Option Reject) r => if b.any fun q => q.place ≤ r.place then b else some r) none

/-! ### Check 3: fields (08 R229, R231, R233, R241; 03 R105; 06 R200; 11, 13 tables AUX) -/

/-- `AUX` of a Ground collective, and of `SEND`. -/
def coll (st : Stitch) : Nat := bits st.aux 127 96
def collInst (st : Stitch) : Nat := bits st.aux 95 80
def collOp (st : Stitch) : Nat := bits st.aux 79 76
def collDeliver (st : Stitch) : Nat := bits st.aux 75 72
def collForm (st : Stitch) : Nat := bits st.aux 71 68
def graceOf (st : Stitch) : Nat := bits st.aux 67 64
def dstStation (st : Stitch) : Nat := bits st.aux 127 108
def dstPin (st : Stitch) : Nat := bits st.aux 107 88
def dstInc (st : Stitch) : Nat := bits st.aux 87 72
def dstSig (st : Stitch) : Bool := bit st.aux 71
def dstHandle (st : Stitch) : Nat := bits st.aux 63 32
/-- `EXPERT` of a `GATHER_MM`. -/
def expertOf (st : Stitch) : Nat := bits st.aux 127 96

def auxOk (st : Stitch) : Bool :=
  let op := st.opcode
  if op = opGatherMm then bits st.aux 95 0 == 0
  else if op = opSend then bits st.aux 70 68 == 0 && bits st.aux 31 0 == 0 && dstInc st != 0
  else if op = opReduce then
    bits st.aux 63 0 == 0 && 1 ≤ collOp st && collOp st ≤ 3 && 1 ≤ collDeliver st && collDeliver st ≤ 2 &&
      (if collOp st = 1 && collDeliver st = 2 then 1 ≤ collForm st && collForm st ≤ 2 else collForm st == 0)
  else if op = opMulticast then bits st.aux 63 0 == 0 && collOp st == 0 && collDeliver st == 0 && collForm st == 0
  else if op = opCheck then bits st.aux 63 32 == 0 && bits st.aux 21 0 == 0
  else st.aux == 0

def permuted (op : Nat) : Bool := op == opCopy || op == opFetch || op == opConvert

def shapeOk (st : Stitch) : Bool :=
  if isProduct st.opcode then bits st.shapeCtl 31 18 == 0
  else if permuted st.opcode then bits st.shapeCtl 31 15 == 0 else st.shapeCtl == 0

/-- Every flag that the table Opcodes does not allow for the opcode is zero. -/
def flagsOk (st : Stitch) : Bool :=
  let op := st.opcode
  (quOpcode op || (!st.round && !st.scaleSrc && !st.twist)) && (isProduct op || (st.passOpnd == 0 && st.sparse == 0)) &&
    (isProduct op || op == opConvert || st.passes == 0) && (op == opMatmul || !st.gradAcc) && (op == opMatmul || op == opVscript || !st.tileq) &&
    (op == opConvert || op == opVscript || (!st.strict && st.rm == 0))

/-- `NSET` is well formed. -/
def nsetOk (st : Stitch) : Bool :=
  let x := st.nset
  if !onNibs st.opcode then x == 0
  else x % 256 == 0 && !(nsPanels x).isEmpty && 1 ≤ nsCount x && nsCount x ≤ 160 &&
    (st.opcode != opCheck || ((nsPanels x).length == 1 && nsCount x == 1))

/-- Reserved bits of the waits and the signal are zero. -/
def pinFieldsOk (st : Stitch) : Bool := (st.waits.all fun w => bits w 30 20 == 0) && bits st.signal 63 48 == 0 && bits st.signal 30 20 == 0

/-- A count of a stitch is one that its opcode allows (08 R231). -/
def countOk (op n : Nat) : Bool := if op = opCommit then n == 1 else countsRows op || n ≤ 1

/-- Opcodes of the table Opcodes. -/
def opcodeDefined (op : Nat) : Bool := op == opNop || op == opCommit || op == opStashFree || onNibs op || isGround op

/-- Check 3; `pair` says that the stitch stands in a chained pair. -/
def fieldsOk (step pair : Bool) (st : Stitch) : Bool :=
  opcodeDefined st.opcode && !st.rsv && flagsOk st && auxOk st && shapeOk st && nsetOk st && pinFieldsOk st &&
    (st.repSrc || (st.repHandle == 0 && countOk st.opcode st.rep)) && (st.pass == 0 || step) && st.tileq == pair && st.crecAddr % 64 == 0

/-! ### Checks 4 and 5 (08 R233, R238; 03 R88) -/

def enginesOk (s : State) (st : Stitch) : Bool :=
  (!st.strict || featStrict s) && (st.passes != 2 || 3 ≤ featPasses s) && (!onNibs st.opcode || (nibSet s st.nset).isSome)

def pinsOk (j : Job) (st : Stitch) : Bool :=
  (st.waits.all fun w => !wEn w || wPin w < j.pinCount) && (!bit st.signal 31 || (wPin st.signal < j.pinCount && sInc st.signal != 0))

/-! ### Ladder substitution (04 R110, R125) -/

/-- Layer tag of a stitch as written: its output's, else slot 0's. -/
def writtenTag (s : State) (j : Job) (st : Stitch) : Nat := (readDesc s j (if st.out != 0 then st.out else slotOf st 0)).elim 0 (·.tag)

def altOf (e : MapEntry) (level : Nat) : Nat := if level = 1 then e.l1 else if level = 2 then e.l2 else if level = 3 then e.l3 else 0

/-- The handle in force for a handle: the alternate of its entry, or the handle as it stands. -/
def altHandle (j : Job) (tag level h : Nat) : Nat :=
  match j.ladder.find? fun e => e.tag == tag && e.baseH == h with
  | some e => if altOf e level = 0 then h else altOf e level
  | none => h

/-- The residual that a weight's L1 form places in slot 2. -/
def residualFor (j : Job) (tag level h : Nat) : Option Nat :=
  if level != 1 then none else
  ((j.ladder.find? fun e => e.tag == tag && e.baseH == h && e.role == 0 && e.l1 != 0 && e.res != 0).map (·.res))

/-- The stitch as it is admitted at a level. -/
def substitute (j : Job) (tag level : Nat) (st : Stitch) : Stitch :=
  if level = 0 then st else
  let alt (h : Nat) : Nat := if h = 0 then 0 else altHandle j tag level h
  if st.gradAcc then { st with opnd := [alt (slotOf st 0), alt (slotOf st 1), slotOf st 2, slotOf st 3] } else
  let t := { st with opnd := st.opnd.map alt, out := alt st.out }
  if !isProduct st.opcode then t else
  match residualFor j tag level (slotOf st 0), residualFor j tag level (slotOf st 1) with
  | some r, _ => { t with opnd := [slotOf t 0, slotOf t 1, r, slotOf t 3], passes := 1, passOpnd := 0 }
  | none, some r => { t with opnd := [slotOf t 0, slotOf t 1, r, slotOf t 3], passes := 1, passOpnd := 1 }
  | none, none => t

/-! ### Check 6: handles (07 R203, R207; 05 R136, R160, R163; 11 R342, R348) -/

/-- Handles that a stitch names, with their places, in the order of 08 R248. -/
def namedHandles (st : Stitch) : List (Nat × Nat) :=
  [(0, slotOf st 0), (1, slotOf st 1), (2, slotOf st 2), (3, slotOf st 3), (4, st.out)] ++ if st.repSrc then [(5, st.repHandle)] else []

/-- A tree node: parent (none at the root) and children (11 R342). -/
structure TreeNode where
  parent : Option Nat
  children : List Nat
  deriving DecidableEq, Repr

/-- Element `i` of an INT32 tensor. -/
def intElem (s : State) (d : Desc) (i : Nat) : Int :=
  let idx := unlinear (dims d) i
  let c := cellOf d idx
  signed 32 (rdBits s (codeBit d c.1 0) 32)

/-- The tree node in a tensor, none where it breaks its form. -/
def treeNode (s : State) (d : Desc) : Option TreeNode :=
  if d.type != tINT32 || d.rank != 1 || elems d < 2 then none else
  let p := intElem s d 0
  let n := intElem s d 1
  if n < 0 || 64 < n || elems d != 2 + n.toNat || p < -1 then none else
  let kids := (List.range n.toNat).map fun i => intElem s d (2 + i)
  if kids.any fun k => k < 0 then none else
  some { parent := if p = -1 then none else some p.toNat, children := kids.map (·.toNat) }

def nodeOf (s : State) (j : Job) (st : Stitch) : Option TreeNode := (readDesc s j (slotOf st 3)).bind (treeNode s)

/-- The opcode requires a tensor at a place. -/
def requiredAt (s : State) (j : Job) (st : Stitch) (place : Nat) : Bool :=
  let op := st.opcode
  let root := (nodeOf s j st).any fun t => t.parent.isNone
  if place = 5 then true
  else if place = 4 then
    (isProduct op && !st.tileq) || op == opRoute || op == opConvert || op == opDeriv || permuted op || op == opGather || op == opScatter ||
      op == opMulticast || op == opCheck || (op == opReduce && (collDeliver st == 2 || root))
  else if place = 0 then !(op == opNop || op == opCommit || op == opVscript || op == opReduce || op == opMulticast) || (op == opMulticast && root)
  else if place = 1 then
    isProduct op || op == opRoute || op == opDeriv || op == opGather || op == opScatter || (op == opCheck && ckResume st)
  else if place = 2 then st.gradAcc || op == opDeriv || (op == opReduce && collOp st == 1)
  else op == opGatherMm || op == opUpdate || op == opVscript || op == opReduce || op == opMulticast

/-- Side handles reached from a descriptor, each resolving its own. -/
def sideTree (s : State) (j : Job) : Nat → Desc → List Nat
  | 0, _ => []
  | f + 1, d => (([scHandle d, zpHandle d, gpHandle d].filter (· != 0)).map fun h => h :: (readDesc s j h).elim [] (sideTree s j f)).flatten

/-- Side handles of every tensor that a stitch names. -/
def namedSides (s : State) (j : Job) (st : Stitch) : List Nat :=
  ((namedHandles st).map fun p => if p.2 = 0 then [] else (readDesc s j p.2).elim [] (sideTree s j 6)).flatten

def handleChecks (s : State) (j : Job) (st : Stitch) : Option Reject :=
  let frozen (h : Nat) : Bool := (readDesc s j h).any (·.frozen)
  let entry := j.prot.find? fun p => p.handle == slotOf st 1
  rowFail
    (((namedHandles st).map fun p =>
      if p.2 = 0 then failAt (requiredAt s j st p.1) adBadHandle p.1 0 else failAt (readDesc s j p.2).isNone adBadHandle p.1 p.2) ++
    (namedSides s j st).map (fun h => failAt (readDesc s j h).isNone adBadHandle 6 h) ++
    [failAt (st.gradAcc && frozen (slotOf st 2)) adBadHandle 2 (slotOf st 2),
     failAt (st.opcode == opUpdate && slotOf st 1 != 0 && (frozen (slotOf st 1) || entry.isNone)) adBadHandle 1 (slotOf st 1),
     failAt (st.opcode == opUpdate && slotOf st 2 != 0 && !(entry.any fun p => p.state == slotOf st 2)) adBadHandle 2 (slotOf st 2)])

/-- A descriptor or table entry that the stitch needs lies in a poisoned granule (12 R378). -/
def namesPoison (s : State) (j : Job) (st : Stitch) : Bool :=
  ((namedHandles st).map (·.2) ++ namedSides s j st).any fun h => h != 0 && descPoisoned s j h

/-! ### The tensors of a stitch -/

/-- Its tensors as read now. -/
structure Tensors where
  slot : List (Option Operand)
  out : Option Operand
  rep : Option Operand
  /-- Descriptors that side tensors name as sides of their own, past those that an operand holds. -/
  deep : List Desc := []
  deriving DecidableEq, Repr

/-- Side descriptors of an operand past its five side tensors (07 R216). -/
def deepSides (s : State) (j : Job) (o : Operand) : List Desc :=
  let below (d : Desc) : List Desc := (sideTree s j 6 d).filterMap (readDesc s j)
  let offScale := (o.scale.bind fun z => if gpHandle z = 0 then none else readDesc s j (gpHandle z)).toList
  ((([o.zero, o.gimp, o.l1, o.amax].filterMap id).map below).flatten) ++ (offScale.map fun d => d :: below d).flatten

def tensorsOf (s : State) (j : Job) (st : Stitch) : Tensors :=
  let rd (h : Nat) := if h = 0 then none else readOperand s j h
  let slot := st.opnd.map rd
  let rep := if st.repSrc then rd st.repHandle else none
  { slot := slot, out := rd st.out, rep := rep, deep := (((slot ++ [rd st.out, rep]).filterMap id).map (deepSides s j)).flatten }

def Tensors.at_ (t : Tensors) (i : Nat) : Option Operand := t.slot.getD i none

/-- Every named tensor with its place. -/
def Tensors.named (t : Tensors) : List (Nat × Operand) :=
  (([(0, t.at_ 0), (1, t.at_ 1), (2, t.at_ 2), (3, t.at_ 3), (4, t.out), (5, t.rep)] : List (Nat × Option Operand)).filterMap fun p => p.2.map fun o => (p.1, o))

def allSides (o : Operand) : List Desc := [o.scale, o.zero, o.gimp, o.l1, o.amax].filterMap id

/-- Every descriptor that a stitch names, with its place: named tensors first, then side tensors. -/
def Tensors.descs (t : Tensors) : List (Nat × Desc) :=
  (t.named.map fun p => (p.1, p.2.desc)) ++ ((t.named.map fun p => allSides p.2).flatten ++ t.deep).map fun d => (6, d)

/-- Slot 2 holds residual digits (03 R88, R89). -/
def hasResid (st : Stitch) : Bool := st.passes != 0 && (isProduct st.opcode || st.opcode == opConvert)
/-- The multi-digit tensor. -/
def multiDigit (st : Stitch) (t : Tensors) : Option Operand := if st.opcode = opConvert then t.out else t.at_ st.passOpnd
/-- Codes stored for a block of a named tensor: half for the residual of a 2-of-4 operand (07 R211). -/
def unitOf (st : Stitch) (t : Tensors) (place : Nat) (d : Desc) : Nat :=
  if place = 2 && hasResid st && (multiDigit st t).any fun o => isSparse o.desc then blockLen d / 2 else storedLen d

/-! ### Check 7 (07 R206, 03 R81) -/

def rankChecks (st : Stitch) (t : Tensors) : Option Reject :=
  rowFail ((t.descs.map fun p => failAt (5 < p.2.rank) adRankLimit p.1 p.2.handle) ++
    [t.at_ 0 |>.bind fun a => failAt (isProduct st.opcode && aRed st < a.desc.rank && st.passes != 3 &&
      2 ^ 20 < ceilDiv (sizeAt a.desc (aRed st)) 8 * (st.passes + 1)) adRankLimit 0 a.desc.handle])

/-! ### Check 8: descriptors (01 R12 to R39; 02 R67, R71; 07 R206, R209, R210, R211, R483; 05 R144; 06 R196) -/

/-- Alignment of `BASE`. -/
def baseAlign (d : Desc) (u : Nat) : Nat :=
  if blocked d && u != blockLen d then (if d.shape = 1 then 8 else 16)
  else if d.shape = 1 then (if d.type ≤ 3 then 16 else if d.type = 6 then 64 else 32)
  else if d.shape = 2 then (if d.type ≤ 3 then 32 else 64)
  else if d.type = 7 || d.type = 12 then 2 else if d.type = 8 || d.type = 9 then 4 else 1

def blockDimsOk (d : Desc) : Bool :=
  if d.shape = 1 then d.bdim0 < d.rank && d.bdim1 == 0
  else if d.shape = 2 then d.bdim0 < d.bdim1 && d.bdim1 < d.rank else d.bdim0 == 0 && d.bdim1 == 0

/-- One descriptor's own fields. -/
def descOk (d : Desc) (u : Nat) : Bool :=
  !d.rsv && (dims d).all (· != 0) && (d.sizes.drop d.rank).all (· == 0) && (d.strides.drop d.rank).all (· == 0) && pairing d.type d.shape &&
    blockDimsOk d && (!blocked d || (strd d).all fun x => x % (u : Int) == 0) && d.base % baseAlign d u == 0 &&
    (d.twSize == 0 || (d.twDim < d.rank && sizeAt d d.twDim % 4 ^ (d.twSize + 1) == 0))

/-- A packed side tensor of a number of words. -/
def packedOk (p : Desc) (words : Nat) : Bool :=
  p.type == tINT32 && p.rank == 1 && p.shape == 0 && strideAt p 0 == 1 && p.scOff == 0 && p.zpOff == 0 && p.gpOff == 0 && p.twSize == 0 &&
    sizeAt p 0 == words

/-- The level-1 tensor of a blocked tensor. -/
def level1Ok (d l : Desc) : Bool :=
  l.type == tFP32 && l.rank ≤ 1 && (l.rank == 0 || sizeAt l 0 == sizeAt d 0) && l.scOff == 0 && l.gpOff == 0
/-- The amax tensor of an output. -/
def amaxOk (l1 : Option Desc) (m : Desc) : Bool := m.type == tFP32 && dims m == l1.elim [] dims && m.scOff == 0 && m.gpOff == 0

/-- The S8 tensor of a blocked tensor, with what hangs from it. -/
def scaleOk (d : Desc) (o : Operand) : Bool :=
  o.scale.any fun z =>
    z.type == tS8 && dims z == gridDims d && z.gpOff == 0 && z.twSize == 0 && (d.type != tW16 || z.scOff == 0) &&
      (z.scOff == 0 || o.l1.any (level1Ok d)) && (z.zpOff == 0 || o.amax.any (amaxOk o.l1))

/-- Type and shape that a `STASH` descriptor may have. -/
def stashType (d : Desc) : Bool :=
  if d.shape = 2 then d.type == tK4 || d.type == tU4Z || d.type == tG8 || d.type == tA8
  else d.shape == 0 && (d.type == tA8 || d.type == tG8 || d.type == tBF16 || d.type == tFP32)

/-- The conditions of 05 R144 on a descriptor with the `STASH` flag. -/
def stashOk (d : Desc) : Bool := !d.stash || (d.base == 0 && d.twSize == 0 && stashType d)

/-- One named tensor with its side tensors; a residual tensor has none and needs none (03 R89). -/
def familyOk (o : Operand) (resid : Bool) : Bool :=
  let d := o.desc
  (d.gpOff == 0 || (d.type == tK4 && o.gimp.any fun p => packedOk p (packedWords d true false))) &&
    (d.twSize == 0 || !(d.type == tW16 || (tINT32 ≤ d.type && d.type ≤ tM8))) &&
    (d.type != tU4Z || (d.zpOff != 0 && o.zero.any fun p => packedOk p (packedWords d false false))) &&
    (!isSparse d || o.zero.any fun p => packedOk p (packedWords d false true)) &&
    (if blocked d then resid || (d.scOff != 0 && scaleOk d o) else d.scOff == 0) &&
    (!d.stash || o.l1.all fun l => l.rank == 0)

/-! ### Check 8: products (03 R78 to R89, R105; 02 R72; 05 R136; 06 R193; 08 R230) -/

def operandType (t : Nat) : Bool := t == tK4 || t == tF4 || t == tU4Z || t == tA8 || t == tG8 || t == tBF16
def batchSizes (d : Desc) (x y : Nat) : List Nat :=
  ((List.range d.rank).filter fun i => i != x && i != y).map fun i => sizeAt d i
def rolesOk (d : Desc) (x y : Nat) : Bool := x < d.rank && y < d.rank && x != y
/-- The reduction dimension is a block dimension of a blocked operand. -/
def reduceOk (d : Desc) (red : Nat) : Bool := !blocked d || red == d.bdim0 || (d.shape == 2 && red == d.bdim1)
/-- An operand is twisted along a dimension that becomes an output dimension. -/
def twistOut (d : Desc) (red : Nat) : Bool := d.twSize != 0 && d.twDim != red
def twistRed (d : Desc) (red : Nat) : Bool := d.twSize != 0 && d.twDim == red

/-- Layout of a residual tensor (03 R89). -/
def residOk (passes : Nat) (d r : Desc) : Bool :=
  r.type == tK4 && r.rank == d.rank + 1 && dims r == (passes : Nat) :: dims d && r.shape == d.shape && r.bdim0 == d.bdim0 + 1 &&
    r.bdim1 == (if d.shape = 2 then d.bdim1 + 1 else 0) && r.scOff == 0 && r.zpOff == 0 && r.gpOff == 0 && r.twSize == d.twSize

/-- Checks of a product. An addend C under `TILEQ`, where no O is named, is not held against any rank or size (DESIGN CHOICE: log entry 37). -/
def productChecks (st : Stitch) (t : Tensors) : Option Reject :=
  match t.at_ 0, t.at_ 1 with
  | some oa, some ob =>
    let a := oa.desc
    let b := ob.desc
    let o := t.out.map (·.desc)
    let gm := st.opcode == opGatherMm
    let c := if gm then none else t.at_ 3
    let bf (x : Bool) (place h : Nat) := failAt x adBadFormat place h
    let me (x : Bool) := failIf x adBadFormat
    let onOut (f : Desc → Bool) : Option Reject := o.bind fun d => bf (!f d) 4 d.handle
    let tw := twistOut a (aRed st) || twistOut b (bRed st)
    let marked (i : Nat) : Bool := st.sparse == i + 1
    rowFail [me (st.passes == 3 || st.sparse == 3),
      bf (!rolesOk a (aRed st) (aRow st)) 0 a.handle, bf (!rolesOk b (bRed st) (bCol st)) 1 b.handle, onOut fun d => rolesOk d (oRow st) (oCol st),
      me (batchSizes a (aRed st) (aRow st) != batchSizes b (bRed st) (bCol st)),
      onOut fun d => batchSizes d (oRow st) (oCol st) == batchSizes a (aRed st) (aRow st),
      bf (!operandType a.type) 0 a.handle, bf (!operandType b.type) 1 b.handle, bf (a.type == tU4Z && b.type == tU4Z) 1 b.handle,
      onOut fun d => !(d.type == tM8 || d.type == tINT32 || d.type == tS8 || d.type == tV1 || d.type == tV16),
      me (sizeAt a (aRed st) != sizeAt b (bRed st)), onOut fun d => sizeAt d (oCol st) == sizeAt b (bCol st),
      onOut fun d => gm || sizeAt d (oRow st) == sizeAt a (aRow st),
      c.bind fun x => bf (!(x.desc.type == tFP32 || x.desc.type == tBF16) || !(o.all fun d => dims x.desc == dims d)) 3 x.desc.handle,
      bf (!reduceOk a (aRed st)) 0 a.handle, bf (!reduceOk b (bRed st)) 1 b.handle,
      bf (aRed st == 0 && oa.l1.any fun d => d.rank == 1) 0 a.handle, bf (bRed st == 0 && ob.l1.any fun d => d.rank == 1) 1 b.handle,
      bf (isSparse a && !marked 0) 0 a.handle, bf (isSparse b && !marked 1) 1 b.handle,
      bf (marked 0 && (!isSparse a || a.twSize != 0)) 0 a.handle, bf (marked 1 && (!isSparse b || b.twSize != 0)) 1 b.handle,
      me ((twistRed a (aRed st) || twistRed b (bRed st)) &&
        !(twistRed a (aRed st) && twistRed b (bRed st) && a.twSize == b.twSize && a.twSeed == b.twSeed)),
      me (twistOut a (aRed st) && twistOut b (bRed st)), c.bind fun x => bf tw 3 x.desc.handle,
      me (st.tileq && (st.out != 0 || st.gradAcc || tw)),
      (if st.gradAcc then
        rowFail [me (st.passes != 0), bf (slotOf st 3 != 0) 3 (slotOf st 3),
          onOut fun d => d.type == tFP32 && (t.at_ 2).any fun w => dims w.desc == dims d]
      else if st.passes = 0 then bf (slotOf st 2 != 0) 2 (slotOf st 2)
      else
        let m := if st.passOpnd = 0 then a else b
        rowFail [bf (m.type != tK4) st.passOpnd m.handle, bf (!((t.at_ 2).any fun r => residOk st.passes m r.desc)) 2 (slotOf st 2)]),
      (if !gm then none else
        match t.at_ 3 with
        | none => none
        | some l => rowFail [bf (a.shape == 2) 0 a.handle, bf (l.desc.type != tINT32 || l.desc.rank != 2) 3 l.desc.handle,
            me (sizeAt l.desc 0 ≤ expertOf st), onOut fun d => sizeAt l.desc 1 ≤ sizeAt d (oRow st)])]
  | _, _ => none

/-! ### Check 8: the other opcodes -/

/-- `PERM` is a permutation of the rank's dimensions with zero entries beyond, and each destination size is the source's. -/
def permOk (st : Stitch) (src dst : Desc) : Bool :=
  src.rank == dst.rank && (List.range src.rank).all (fun d => (List.range src.rank).any fun e => permOf st e == d) &&
    ((List.range 5).drop src.rank).all (fun d => permOf st d == 0) && (List.range dst.rank).all fun d => sizeAt dst d == sizeAt src (permOf st d)

/-- Two tensors carry the same side tensors. -/
def sameSides (a b : Desc) : Bool := (a.scOff != 0) == (b.scOff != 0) && (a.zpOff != 0) == (b.zpOff != 0) && (a.gpOff != 0) == (b.gpOff != 0)
def l1Handle (o : Operand) : Nat := o.scale.elim 0 scHandle

/-- The pairing rules of a permuting copy (07 R217, R218). -/
def copyPairing (st : Stitch) (src dst : Operand) : Bool :=
  let a := src.desc
  let b := dst.desc
  permOk st a b && a.type == b.type && a.shape == b.shape && sameSides a b && sameTwist st b.rank a b && l1Handle src == l1Handle dst &&
    (!(src.l1.any fun d => d.rank == 1) || permOf st 0 == 0) && (a.shape != 1 || permOf st b.bdim0 == a.bdim0) &&
    (a.shape != 2 || ((permOf st b.bdim0 == a.bdim0 && permOf st b.bdim1 == a.bdim1) ||
      (permOf st b.bdim0 == a.bdim1 && permOf st b.bdim1 == a.bdim0 && !(a.type == tK4 && a.zpOff != 0))))

/-- `PERM` that exchanges nothing. -/
def identityPerm (rank : Nat) : Nat := (List.range rank).foldl (fun n d => n + d * 8 ^ d) 0

/-- The pairing rules of row moves (07 R224, R226). -/
def rowPairing (src dst : Operand) : Bool :=
  let a := src.desc
  let b := dst.desc
  let r1 (o : Operand) : Bool := o.l1.any fun d => d.rank == 1
  a.rank == 2 && b.rank == 2 && a.type == b.type && a.shape == b.shape && sizeAt a 1 == sizeAt b 1 && sameSides a b && a.shape != 2 &&
    (a.shape != 1 || (a.bdim0 != 0 && b.bdim0 != 0)) && r1 src == r1 dst && (r1 src || l1Handle src == l1Handle dst) && a.twSize == b.twSize &&
    (a.twSize == 0 || (a.twSeed == b.twSeed && a.twDim == b.twDim && a.twDim != 0))

/-- Types of a conversion's source and destination (02 R74). -/
def convertType (t : Nat) : Bool := (1 ≤ t && t ≤ 9) || t == tM8

def convertChecks (st : Stitch) (t : Tensors) : Option Reject :=
  match t.at_ 0, t.out with
  | some a, some o =>
    let bf (x : Bool) (place h : Nat) := failAt x adBadFormat place h
    rowFail [failIf ((st.strict && 4 < st.rm) || st.passes == 3) adBadFormat, bf (slotOf st 1 != 0) 1 (slotOf st 1), bf (slotOf st 3 != 0) 3 (slotOf st 3),
      bf (!convertType a.desc.type) 0 a.desc.handle, bf (!convertType o.desc.type) 4 o.desc.handle, failIf (!permOk st a.desc o.desc) adBadFormat,
      failIf (a.desc.twSize != 0 && o.desc.twSize != 0 && !sameTwist st o.desc.rank a.desc o.desc) adBadFormat,
      (if st.passes = 0 then bf (slotOf st 2 != 0) 2 (slotOf st 2)
      else rowFail [bf (o.desc.type != tK4) 4 o.desc.handle, bf (!((t.at_ 2).any fun r => residOk st.passes o.desc r.desc)) 2 (slotOf st 2)])]
  | _, _ => none

def derivChecks (st : Stitch) (t : Tensors) : Option Reject :=
  match t.at_ 0, t.at_ 1, t.at_ 2, t.out with
  | some dy, some x, some tb, some o =>
    let bf (c : Bool) (place : Nat) (d : Desc) := failAt c adBadFormat place d.handle
    let y := dy.desc.type
    rowFail [failAt (slotOf st 3 != 0) adBadFormat 3 (slotOf st 3), bf (!((1 ≤ y && y ≤ 8))) 0 dy.desc,
      failIf (!(dims dy.desc == dims x.desc && dims x.desc == dims o.desc)) adBadFormat,
      bf (tb.desc.type != tFP32 || tb.desc.rank != 1 || !(sizeAt tb.desc 0 == 256 || sizeAt tb.desc 0 == 1026)) 2 tb.desc,
      bf (sizeAt tb.desc 0 == 256 && !((x.desc.type == tA8 || x.desc.type == tG8) && x.desc.shape == 0)) 1 x.desc,
      bf (sizeAt tb.desc 0 == 1026 && x.desc.type != tBF16) 1 x.desc,
      bf (!(quType o.desc.type || o.desc.type == tBF16 || o.desc.type == tFP32)) 4 o.desc]
  | _, _, _, _ => none

def updateChecks (t : Tensors) : Option Reject :=
  match t.at_ 0, t.at_ 3 with
  | some g, some p =>
    let bf (c : Bool) (place : Nat) (d : Desc) := failAt c adBadFormat place d.handle
    let like (d : Desc) : Bool := dims d == dims g.desc
    rowFail [bf (!(g.desc.type == tFP32 || g.desc.type == tV16)) 0 g.desc,
      (t.at_ 1).bind fun w => bf (w.desc.type != tFP32 || !like w.desc) 1 w.desc,
      (t.at_ 2).bind fun m => bf (m.desc.type != tM8 || !like m.desc) 2 m.desc,
      bf (p.desc.type != tINT32 || p.desc.rank != 1 || sizeAt p.desc 0 != 16) 3 p.desc,
      t.out.bind fun o => bf (!(o.desc.type == tBF16 || o.desc.type == tFP32 || o.desc.type == tV1) || !like o.desc) 4 o.desc]
  | _, _ => none

def scriptIn (d : Desc) : Bool :=
  d.type == tBF16 || d.type == tFP32 || d.type == tINT32 || d.type == tM8 || d.type == tV1 || d.type == tV16 ||
    ((d.type == tA8 || d.type == tG8) && d.shape == 0)
def scriptOut (d : Desc) : Bool := scriptIn d || (1 ≤ d.type && d.type ≤ 6 && d.shape == 1 && d.bdim0 + 1 == d.rank)

def vscriptChecks (st : Stitch) (t : Tensors) : Option Reject :=
  let bf (c : Bool) (place : Nat) (d : Desc) := failAt c adBadFormat place d.handle
  rowFail [failIf (st.strict && 4 < st.rm) adBadFormat,
    (t.at_ 0).bind fun o => bf (!scriptIn o.desc) 0 o.desc, (t.at_ 1).bind fun o => bf (!scriptIn o.desc) 1 o.desc,
    (t.at_ 2).bind fun o => bf (!scriptIn o.desc) 2 o.desc,
    (t.at_ 3).bind fun o => bf (o.desc.type != tINT32 || o.desc.rank != 1 || !(2 ≤ sizeAt o.desc 0 && sizeAt o.desc 0 ≤ 2048 && sizeAt o.desc 0 % 2 == 0)) 3 o.desc,
    t.out.bind fun o => bf (!scriptOut o.desc) 4 o.desc]

def routeChecks (st : Stitch) (t : Tensors) : Option Reject :=
  match t.at_ 0, t.at_ 1, t.out with
  | some c, some n, some l =>
    let bf (x : Bool) (place : Nat) (d : Desc) := failAt x adBadFormat place d.handle
    rowFail [failAt (slotOf st 2 != 0) adBadFormat 2 (slotOf st 2), failAt (slotOf st 3 != 0) adBadFormat 3 (slotOf st 3),
      bf (c.desc.type != tINT32 || c.desc.rank != 2) 0 c.desc, bf (l.desc.type != tINT32 || l.desc.rank != 2) 4 l.desc,
      bf (n.desc.type != tINT32 || n.desc.rank != 1 || sizeAt n.desc 0 != sizeAt l.desc 0) 1 n.desc]
  | _, _, _ => none

def checkChecks (st : Stitch) (t : Tensors) : Option Reject :=
  let w := ckWidth st
  let bf (x : Bool) (place : Nat) (d : Desc) := failAt x adBadFormat place d.handle
  rowFail [failAt (slotOf st 2 != 0) adBadFormat 2 (slotOf st 2), failAt (slotOf st 3 != 0) adBadFormat 3 (slotOf st 3),
    failAt (!ckResume st && slotOf st 1 != 0) adBadFormat 1 (slotOf st 1),
    (t.at_ 0).bind fun o => bf (o.desc.shape != 0 || !(typeBits o.desc.type == 8 || typeBits o.desc.type == 16 || typeBits o.desc.type == 32)) 0 o.desc,
    (t.at_ 1).bind fun o => bf (o.desc.type != tINT32) 1 o.desc,
    t.out.bind fun o => bf (o.desc.type != tINT32 || o.desc.rank != 1 || sizeAt o.desc 0 != 2) 4 o.desc,
    failIf (!(8 ≤ w && w ≤ 32) || 2 ^ w ≤ ckPoly st || 2 ^ w ≤ ckInit st) adBadFormat]

/-- Blocks of 32 elements of a reduced tensor (11 R342). -/
def redBlocks (d : Desc) : Nat := if blocked d then cells d else ceilDiv (elems d) 32
def leafType (op : Nat) (d : Desc) : Bool :=
  if op = 1 then ((d.type == tG8 || d.type == tW16) && d.shape == 1) || d.type == tFP32
  else if op = 2 then d.type == tV1 else d.type == tFP32 || d.type == tINT32
def redOutType (op : Nat) (d : Desc) : Bool := if op = 2 then d.type == tV16 else leafType op d

/-- The tree node's stations are the job's. -/
def treeOk (s : State) (j : Job) (d : Desc) : Bool :=
  (treeNode s d).any fun n => n.parent.all (j.stations.contains ·) && n.children.all (j.stations.contains ·)

def reduceChecks (s : State) (j : Job) (st : Stitch) (t : Tensors) : Option Reject :=
  let bf (x : Bool) (place : Nat) (d : Desc) := failAt x adBadFormat place d.handle
  let op := collOp st
  let root := (nodeOf s j st).any fun n => n.parent.isNone
  let len (d : Desc) : Bool := op != 1 || (t.at_ 2).all fun g => elems g.desc == redBlocks d
  rowFail [failAt (slotOf st 1 != 0) adBadFormat 1 (slotOf st 1), (t.at_ 0).bind fun o => bf (!leafType op o.desc || !len o.desc) 0 o.desc,
    (t.at_ 2).bind fun o => bf (op != 1 || o.desc.type != tS8) 2 o.desc, (t.at_ 3).bind fun o => bf (!treeOk s j o.desc) 3 o.desc,
    t.out.bind fun o => bf (!redOutType op o.desc || !len o.desc || !(root || collDeliver st == 2) ||
      !((t.at_ 0).all fun l => elems l.desc == elems o.desc && (op != 3 || l.desc.type == o.desc.type))) 4 o.desc]

def multicastChecks (s : State) (j : Job) (st : Stitch) (t : Tensors) : Option Reject :=
  let root := (nodeOf s j st).any fun n => n.parent.isNone
  rowFail [failAt (slotOf st 1 != 0) adBadFormat 1 (slotOf st 1), failAt (slotOf st 2 != 0) adBadFormat 2 (slotOf st 2),
    failAt (!root && slotOf st 0 != 0) adBadFormat 0 (slotOf st 0), (t.at_ 3).bind fun o => failAt (!treeOk s j o.desc) adBadFormat 3 o.desc.handle,
    (t.at_ 0).bind fun a => t.out.bind fun o => failAt (!copyPairing { st with shapeCtl := identityPerm a.desc.rank } a o) adBadFormat 4 o.desc.handle]

/-- The rules of an opcode. No rule names a reject for a `COMMIT` whose operand slots or `OUT` are not zero, although it has no operands (05 R171): its
named handles are resolved and checked like any other's and it is admitted (DESIGN CHOICE, log entry 39). -/
def opcodeChecks (s : State) (j : Job) (st : Stitch) (t : Tensors) : Option Reject :=
  let op := st.opcode
  let pair (f : Operand → Operand → Bool) : Option Reject :=
    (t.at_ 0).bind fun a => t.out.bind fun o => failAt (!f a o) adBadFormat 4 o.desc.handle
  if isProduct op then productChecks st t
  else if op = opRoute then routeChecks st t
  else if op = opConvert then convertChecks st t
  else if op = opDeriv then derivChecks st t
  else if op = opUpdate then updateChecks t
  else if op = opVscript then vscriptChecks st t
  else if op = opCopy || op = opFetch then pair (copyPairing st)
  else if op = opGather || op = opScatter then
    rowFail [(t.at_ 1).bind fun x => failAt (x.desc.type != tINT32 || x.desc.rank != 1) adBadFormat 1 x.desc.handle, pair rowPairing]
  else if op = opReduce then reduceChecks s j st t
  else if op = opMulticast then multicastChecks s j st t
  else if op = opSend then
    rowFail [failAt (slotOf st 1 != 0) adBadFormat 1 (slotOf st 1), failAt (slotOf st 2 != 0) adBadFormat 2 (slotOf st 2),
      failAt (slotOf st 3 != 0) adBadFormat 3 (slotOf st 3), failAt (st.out != 0) adBadFormat 4 st.out]
  else if op = opCheck then checkChecks st t
  else none

def formatChecks (s : State) (j : Job) (st : Stitch) (t : Tensors) : Option Reject :=
  let twistAllowed := isMove st.opcode || (quOpcode st.opcode && st.twist)
  rowFail ((t.descs.map fun p => failAt (!descOk p.2 (unitOf st t p.1 p.2)) adBadFormat p.1 p.2.handle) ++
    (t.named.map fun p => failAt (!familyOk p.2 (p.1 == 2 && hasResid st)) adBadFormat p.1 p.2.desc.handle) ++
    (t.descs.map fun p => failAt (!stashOk p.2) adBadFormat p.1 p.2.handle) ++
    (t.descs.map fun p => failAt (p.2.twSize != 0 && !twistAllowed) adBadFormat p.1 p.2.handle) ++
    [t.rep.bind fun o => failAt (o.desc.type != tINT32 || elems o.desc ≤ st.rep) adBadFormat 5 o.desc.handle,
     opcodeChecks s j st t])

/-! ### Checks 9 to 12: windows, writes and copies (07 R212 to R222; 10 R293; 05 R162; 02 R75) -/

/-- Side tensors of a named tensor that lie in memory: the Blotter holds the scales and gimp words of a `STASH` tensor. -/
def memorySides (o : Operand) : List Desc := if o.desc.stash then [o.zero, o.l1, o.amax].filterMap id else allSides o

/-- Footprints that a stitch touches. -/
def footprints (st : Stitch) (t : Tensors) : List (Nat × Desc × Int × Nat) :=
  ((t.named.filter fun p => !p.2.desc.stash).map fun p => (p.1, p.2.desc, footprintOf (unitOf st t p.1 p.2.desc) p.2.desc)) ++
    ((t.named.map fun p => memorySides p.2).flatten ++ t.deep).map fun d => (6, d, footprint d)

/-- A footprint lies in one window of the job, and in a Pillow of the stitch's own nibs when it lies in one. -/
def footOk (s : State) (j : Job) (nibs : List (Nat × Nat)) (f : Int × Nat) : Bool :=
  0 ≤ f.1 && f.1.toNat + f.2 ≤ 2 ^ 48 && inWindow j f.1.toNat f.2 && (!inPillow s.nibs.grade f.1.toNat || nibs.contains (pillowNib f.1.toNat))

/-- Descriptors that a stitch writes, with their places. -/
def written (st : Stitch) (t : Tensors) : List (Nat × Desc) :=
  (t.named.filterMap fun p => if p.1 = 4 || (p.1 < 4 && slotWritten st p.1) then some (p.1, p.2.desc) else none) ++
    t.out.elim [] fun o => ((outWrites st o).filterMap id).map fun d => (6, d)

def registered (j : Job) (h : Nat) : Bool := j.prot.any fun p => p.handle == h || (p.state != 0 && p.state == h)

def windowChecks (s : State) (j : Job) (nibs : List (Nat × Nat)) (st : Stitch) (t : Tensors) : Option Reject :=
  rowFail (((footprints st t).map fun f => failAt (!footOk s j nibs f.2.2) adWindowFault f.1 f.2.1.handle) ++
    [failIf (st.crEn && !inWindow j st.crecAddr 64) adWindowFault] ++
    (written st t).map fun w => failAt (registered j w.2.handle && !(st.opcode == opUpdate && w.1 < 4)) adWindowFault w.1 w.2.handle)

/-- A write at an address falls into a read-only window. -/
def writesReadOnly (j : Job) (a : Int) : Bool := (windowAt j a.toNat).any (·.readOnly)

/-- No descriptor written is `READ_ONLY`, and no write of the stitch falls into a read-only window: outputs, the back buffers of an `UPDATE`, the
completion record (07 R213, 10 R293). -/
def readOnlyChecks (j : Job) (st : Stitch) (t : Tensors) : Option Reject :=
  let place (w : Nat × Desc) : Desc := if st.opcode = opUpdate && w.1 < 4 then frontDesc j w.2 true else w.2
  rowFail (((written st t).map fun w =>
    failAt (w.2.readOnly || (!w.2.stash && writesReadOnly j (footprint (place w)).1)) adWindowFault w.1 w.2.handle) ++
    [failIf (st.crEn && writesReadOnly j st.crecAddr) adWindowFault])

/-- Dimensions by rising stride. -/
def insStride (l : List (Nat × Nat)) (x : Nat × Nat) : List (Nat × Nat) :=
  match l with
  | [] => [x]
  | y :: r => if x.1 < y.1 then x :: y :: r else y :: insStride r x

/-- The write self-overlap check (07 R214). -/
def writeAliasOk (d : Desc) (u : Nat) : Bool :=
  let live := ((List.zip (strd d) (gridDims d)).filter fun p => 1 < p.2).map fun p => (p.1.natAbs, p.2)
  ((live.foldl insStride []).foldl (fun (acc : Option Nat) p => acc.bind fun reach => if p.1 < reach then none else some (reach + p.1 * (p.2 - 1))) (some u)).isSome

def aliasChecks (st : Stitch) (t : Tensors) : Option Reject :=
  rowFail ((written st t).map fun w => failAt (!writeAliasOk w.2 (unitOf st t w.1 w.2)) adWriteAlias w.1 w.2.handle)

/-- Two footprints share a byte. -/
def crosses (a b : Int × Nat) : Bool := a.2 != 0 && b.2 != 0 && a.1 < b.1 + (b.2 : Int) && b.1 < a.1 + (a.2 : Int)

def overlapChecks (st : Stitch) (t : Tensors) : Option Reject :=
  if !permuted st.opcode then none else
  match t.at_ 0 with
  | none => none
  | some a =>
    let rd := if a.desc.stash then a.zero.toList else a.desc :: sideDescs a
    let ws := (written st t).filter fun w => !w.2.stash
    rowFail (rd.map fun r => failAt (ws.any fun w => crosses (footprint r) (footprintOf (unitOf st t w.1 w.2) w.2)) adCopyOverlap
      (if r.handle == a.desc.handle then 0 else 6) r.handle)

/-! ### Check 13 (06 R183) -/

/-- The script's tensor holds poison where admission reads it. -/
def scriptPoison (s : State) (j : Job) (st : Stitch) (t : Tensors) : Bool :=
  st.opcode == opVscript && (t.at_ 3).any fun o => let v := viewOf s j o; (List.range (elems o.desc)).any fun i => v.codeBad i 0

def scriptChecks (s : State) (j : Job) (st : Stitch) (t : Tensors) : Option Reject :=
  if st.opcode != opVscript then none else
  (t.at_ 3).bind fun o =>
    let full (i : Nat) : Bool := if i = 3 then st.out != 0 else slotOf st i != 0
    failAt (!scriptOk st.strict full (scriptWords (viewOf s j o))) adBadOpcode 7 o.desc.handle

end Sys2Proof.Machine
end

