-- ==== Sys2Proof/Machine/Admission.lean ====
section
/-! DEFINITION. Admission: cost floors, planning into strokes and exchange slots, STITCH_ADMIT, NOP and STASH_RECOMPUTE (08 R232, R241 to R250; 09
R267, R268; 11 R349 to R351; 12 R383; 05 R152). -/

namespace Sys2Proof.Machine

/-! ### Cost (08 R249; 02 R76; 03 R84, R104; 05 R159; 06 R202; 07 R221, R228; 13 R395) -/

/-- Multiply-accumulates per nib per clock of a format (table Steps per 32-deep block-step). -/
def widthRate (t : Nat) : Nat := if t ≤ 3 then 16384 else if t = tA8 || t = tG8 then 8192 else 2048
/-- Rate of a pairing in one pass; 2-of-4 read along its sparsity dimension doubles it unless the partner is BF16 (01 R40, 03 R84). -/
def pairRate (a b : Desc) (sparse along : Bool) : Nat :=
  min (widthRate a.type) (widthRate b.type) * if sparse && along && a.type != tBF16 && b.type != tBF16 then 2 else 1
/-- The 2-of-4 operand is read along its sparsity dimension. -/
def readAlong (st : Stitch) (a b : Desc) : Bool := if st.sparse = 1 then sparseDim a == aRed st else st.sparse == 2 && sparseDim b == bRed st

/-- Rows of a product: those of A, or a gather's in whole row-patches (03 R105). -/
def productRows (st : Stitch) (t : Tensors) (a : Desc) (count : Nat) : Nat :=
  if st.opcode = opGatherMm then ceilDiv (min count ((t.at_ 3).elim 0 fun l => sizeAt l.desc 1)) 16 * 16 else sizeAt a (aRow st)

/-- Multiply-accumulates of a product in one pass: its exact number, without rounding ragged sizes up to whole patches and block-steps, but for the rows
of a gather (03 R105; DESIGN CHOICE: log entry 37). -/
def productMacs (st : Stitch) (t : Tensors) (a b : Desc) (count : Nat) : Nat :=
  (batchSizes a (aRed st) (aRow st)).foldl (· * ·) (productRows st t a count * sizeAt b (bCol st)) * sizeAt a (aRed st)

/-- Patches of 16 × 32 outputs of a product (02 R76). -/
def productPatches (st : Stitch) (t : Tensors) (a b : Desc) (count : Nat) : Nat :=
  (batchSizes a (aRed st) (aRow st)).foldl (· * ·) (ceilDiv (productRows st t a count) 16 * ceilDiv (sizeAt b (bCol st)) 32)

/-- Twist size 256 is applied at a product's output, forward or inverse (02 R76). -/
def twist256Out (st : Stitch) (t : Tensors) (a b : Desc) : Bool :=
  t.out.any fun o => (outTwists st o.desc a b).any fun q => q.2.1.twSize == 3

/-- Bytes of a tensor's codes and side data. -/
def dataBytes (o : Operand) : Nat :=
  let d := o.desc
  ceilDiv (cells d * storedLen d * typeBits d.type) 8 + (if blocked d then cells d else 0) + (if o.gimp.isSome then 4 * cells d else 0) +
    (if d.type = tU4Z then ceilDiv (cells d) 2 else if isSparse d then ceilDiv (groups d) 2 else 0)
/-- Granules of the narrow path that one row of a tensor takes. -/
def rowGranules (o : Operand) : Nat :=
  let d := o.desc
  let n := if blocked d then (gridDims d).getD 1 1 else sizeAt d 1
  let g (x : Nat) := ceilDiv x 32
  g (ceilDiv (n * storedLen d * typeBits d.type) 8) + (if blocked d then g n else 0) + (if o.gimp.isSome then g (4 * n) else 0) +
    (if d.type = tU4Z then g (ceilDiv n 2) else if isSparse d then g (ceilDiv ((groupDims d).getD 1 1) 2) else 0) +
    if o.l1.any fun l => l.rank == 1 then 1 else 0

/-- Elements per nib per clock of a vector instruction, 0 for one that takes one clock (table VE and RU rates per nib per clock). -/
def veRate (strict : Bool) (w : VeWord) : Nat :=
  let half := w.ty == 1
  let work (fast : Nat) : Nat := (if half then 2 * fast else fast) / if strict then 8 else 1
  let move (fast : Nat) : Nat := if half then 2 * fast else fast
  if w.op ≤ 0x07 || (0x41 ≤ w.op && w.op ≤ 0x43) then 0
  else if w.op = 0x12 || w.op = 0x13 then 8
  else if w.op = 0x14 || 0x50 ≤ w.op then 128
  else if 0x10 ≤ w.op && w.op ≤ 0x17 then move 128
  else if w.op = 0x25 || w.op = 0x26 then work 32
  else if 0x38 ≤ w.op && w.op ≤ 0x3C then move 64
  else work 128

/-- Clocks of a vector instruction over `vl` elements (06 R202). -/
def veClocks (strict : Bool) (w : VeWord) (vl : Nat) : Nat := if veRate strict w = 0 then 1 else max 1 (ceilDiv vl (veRate strict w))

/-- Floor of a script in nib clocks: the counted executions at their rates, shared by its nibs (06 R202). -/
def scriptFloor (strict : Bool) (ws : List Word64) (sizes : List Nat) (runs n : Nat) : Nat :=
  ceilDiv ((Config.scriptCounted ws sizes runs).foldl (fun c x => c + veClocks strict (parseVe (ws.getD x.1 0)) x.2) 0) n

/-- The cost floor in nib clocks of a stitch on `n` nibs. -/
def costFloor (s : State) (j : Job) (st : Stitch) (t : Tensors) (n count : Nat) : Nat :=
  let op := st.opcode
  let el (o : Option Operand) : Nat := o.elim 0 fun x => elems x.desc
  if isProduct op then
    match t.at_ 0, t.at_ 1 with
    | some a, some b =>
      max (ceilDiv (productMacs st t a.desc b.desc count * (st.passes + 1)) (pairRate a.desc b.desc (st.sparse != 0) (readAlong st a.desc b.desc) * n))
        (ceilDiv (productPatches st t a.desc b.desc count * (if twist256Out st t a.desc b.desc then 8 else 4)) n)
    | _, _ => 0
  else if op = opRoute then ceilDiv (el (t.at_ 0)) (8 * n)
  else if op = opConvert then
    match t.at_ 0, t.out with
    | some a, some o =>
      let w := o.desc.type
      let wide := w == tBF16 || w == tFP32 || w == tINT32
      let turn := !sameTwist st o.desc.rank a.desc o.desc && (a.desc.twSize == 3 || o.desc.twSize == 3)
      ceilDiv (elems o.desc) ((if st.strict && wide then 16 else if turn then 64 else 128) * n)
    | _, _ => 0
  else if op = opDeriv then ceilDiv (el t.out) ((if (t.at_ 2).any fun x => sizeAt x.desc 0 == 256 then 128 else 64) * n)
  else if op = opUpdate then
    let rule := (t.at_ 3).elim 0 fun p => rdBits s (codeBit p.desc 0 0) 8
    ceilDiv (el (t.at_ 0)) ((if rule = 2 || rule = 4 then 64 else 128) * n)
  else if op = opVscript then
    scriptFloor st.strict ((t.at_ 3).elim [] fun o => scriptWords (viewOf s j o)) [el (t.at_ 0), el (t.at_ 1), el (t.at_ 2), el t.out] count n
  else if op = opCopy || op = opFetch then ceilDiv (t.out.elim 0 dataBytes) (128 * n)
  else if op = opGather || op = opScatter then ceilDiv (min count (el (t.at_ 1)) * t.out.elim 0 rowGranules) (8 * n)
  else if op = opCheck then ceilDiv ((t.at_ 0).elim 0 fun o => elems o.desc * typeBits o.desc.type / 8) (16 * n)
  else 0

/-- `COST` scaled by the ratio of the rates when the ladder has substituted a product's operands (04 R125). -/
def scaledCost (s : State) (j : Job) (st0 st : Stitch) (t : Tensors) : Nat :=
  if !isProduct st.opcode || st == st0 then st0.cost else
  match readDesc s j (slotOf st0 0), readDesc s j (slotOf st0 1), t.at_ 0, t.at_ 1 with
  | some a0, some b0, some a, some b =>
    ceilDiv (st0.cost * pairRate a0 b0 (st0.sparse != 0) (readAlong st0 a0 b0) * (st.passes + 1))
      (max 1 (pairRate a.desc b.desc (st.sparse != 0) (readAlong st a.desc b.desc) * (st0.passes + 1)))
  | _, _, _, _ => st0.cost

/-! ### Strokes ahead (09 R261, R262, R265, R267) -/

def strokeUs (s : State) (k : Nat) : Nat := if s.clk.changeAt.any fun c => c.toNat ≤ k then s.clk.nextPeriodUs else s.clk.periodUs
def strokeXch (s : State) (k : Nat) : Nat := if s.clk.changeAt.any fun c => c.toNat ≤ k then s.clk.nextXchPct else s.clk.xchPct
/-- Edge of the current stroke or of a later one. -/
def edgeOf (s : State) (k : Nat) : Nat :=
  (List.range (k - s.clk.stroke.toNat)).foldl (fun t i => t + strokeUs s (s.clk.stroke.toNat + i) * 1000) s.clk.edge
def strokeFrom (s : State) (t : Nat) : Nat → Nat → Nat → Nat
  | 0, k, _ => k
  | f + 1, k, e => if t < e + strokeUs s k * 1000 then k else strokeFrom s t f (k + 1) (e + strokeUs s k * 1000)
/-- Stroke that contains an instant not before the current stroke. -/
def strokeOf (s : State) (t : Nat) : Nat := strokeFrom s t ((t - s.clk.edge) / 4000 + 1) s.clk.stroke.toNat s.clk.edge
/-- Length of a stroke's compute window (09 R262). -/
def windowNs (s : State) (k : Nat) : Nat := (strokeUs s k * 1000 * (100 - strokeXch s k) + 50) / 100
/-- Length of an exchange slot and its capacity in bytes at 6.4 TB/s (11 R349). -/
def slotNs (s : State) (k : Nat) : Nat := (strokeUs s k * 1000 - windowNs s k) / 16
def slotBytes (s : State) (k : Nat) : Nat := slotNs s k * 6400
def strokeBytes (s : State) (k : Nat) : Nat := 16 * slotBytes s k

/-- Nib clocks in nanoseconds at the clock in force. -/
def clocksNs (s : State) (c : Nat) : Nat := ceilDiv (c * 5 * s.pwr.divisor) 9
/-- The stroke period in nib clocks at 1.8 GHz (08 R249). -/
def strokeClocks (s : State) : Nat := periodNs s * 9 / 5

/-- Where a stitch is planned on nibs: start, end and planned stroke; none beyond the horizon. -/
def planNibs (s : State) (nibs : List (Nat × Nat)) (ns : Nat) : Option (Nat × Nat × Nat) :=
  let t0 := nibs.foldl (fun t n => max t (tgetD s.nibs.marks (n.1 * 160 + n.2) 0)) s.clk.now
  let e := t0 + ns
  if edgeOf s (strokeNow s + 2) < e then none else some (t0, e, strokeOf s e)

/-- Where a Ground stitch is placed: stroke and byte of its first byte, and of the byte after its last. -/
structure SlotPlan where
  stroke : Nat
  byte : Nat
  endStroke : Nat
  endByte : Nat
  deriving DecidableEq, Repr

/-- The first slot not yet begun. -/
def nextSlot (s : State) : Nat × Nat :=
  let k := strokeNow s
  let o := s.clk.now - edgeOf s k
  let i := if o ≤ windowNs s k then 0 else ceilDiv (o - windowNs s k) (max 1 (slotNs s k))
  if i < 16 then (k, i * slotBytes s k) else (k + 1, 0)

/-- Take bytes from a position, over at most the strokes up to the one after the current; none when they do not fit there. -/
def takeBytes (s : State) (b : Nat) : Nat → Nat → Nat → Option (Nat × Nat)
  | 0, _, _ => none
  | f + 1, k, o => if o + b ≤ strokeBytes s k then some (k, o + b) else takeBytes s (b - (strokeBytes s k - o)) f (k + 1) 0

def planSlots (s : State) (b : Nat) : Option SlotPlan :=
  let n := nextSlot s
  let x := (s.fab.xStroke, s.fab.xByte)
  let p := if n.1 < x.1 || (n.1 = x.1 && n.2 < x.2) then x else n
  let p := if strokeBytes s p.1 ≤ p.2 then (p.1 + 1, 0) else p
  (takeBytes s b (strokeNow s + 2 - p.1) p.1 p.2).map fun e => { stroke := p.1, byte := p.2, endStroke := e.1, endByte := e.2 }

/-- Outgoing bytes of a Ground stitch (11 R350). -/
def groundBytes (s : State) (j : Job) (st : Stitch) (t : Tensors) : Nat :=
  let node := nodeOf s j st
  let kids := node.elim 0 fun n => n.children.length
  let shape := (t.at_ 0).orElse fun _ => t.out.orElse fun _ => none
  let blocks := if collOp st = 1 then (t.at_ 2).elim 0 fun g => elems g.desc else shape.elim 0 fun o => redBlocks o.desc
  let down := if collOp st = 1 then (if collForm st = 2 then 33 else 65) else if collOp st = 2 then 64 else 128
  if st.opcode = opSend then (t.at_ 0).elim 0 dataBytes
  else if st.opcode = opMulticast then kids * t.out.elim 0 dataBytes
  else (if node.any fun n => n.parent.isSome then 66 * blocks else 0) + if collDeliver st = 2 then kids * blocks * down else 0

/-! ### The checks of one stitch (08 R248) -/

/-- What the checks answer. -/
inductive Checked where
  | reject (r : Reject)
  | poison
  | pass (a : Active)

/-- The latched repeat count (08 R241, R242): whether it is poisoned, whether it was negative, and the count. -/
def latch (s : State) (st : Stitch) (t : Tensors) : Bool × Bool × Nat :=
  if !st.repSrc then (false, false, st.rep) else
  match t.rep with
  | none => (false, false, 0)
  | some o =>
    let c := cellOf o.desc (unlinear (dims o.desc) st.rep)
    let x := intElem s o.desc st.rep
    (rangePoison s (codeBit o.desc c.1 0 / 8) 4, x < 0, x.toNat)

/-- The tree node is read at admission and lies in poison. -/
def treePoison (s : State) (st : Stitch) (t : Tensors) : Bool :=
  (st.opcode == opReduce || st.opcode == opMulticast) && (t.at_ 3).any fun o => rangePoison s (footprint o.desc).1.toNat (footprint o.desc).2

/-- Checks 14 to 16 and the stitch as admitted. -/
def checkCounts (s : State) (j : Job) (qn seq level : Nat) (st0 st : Stitch) (t : Tensors) (nibs : List (Nat × Nat)) : Checked :=
  let l := latch s st t
  if l.1 then .poison else
  let count := l.2.2
  let g := tgetD j.grads st.out {}
  let tag0 := (t.at_ 0).elim 0 fun o => o.desc.tag
  let runs := if st.tileq && st.opcode == opVscript && count != 0 then nibs.length else count
  let bytes := groundBytes s j st t
  let ground := isGround st.opcode
  -- a count of zero plans nothing, and its stated `COST` is held against the period all the same (08 R242, R249)
  let stated := if ground then 0 else scaledCost s j st0 st t
  let cost := if count = 0 then 0 else if ground then bytes else max (costFloor s j st t (max 1 nibs.length) runs) stated
  let sid := stitchId j.id qn seq
  let fresh := onQueueStep && j.step.fresh.contains sid
  match firstFail [failAt (st.repSrc && !countOk st.opcode count) adBadOpcode 5 st.repHandle,
      failAt (st.gradAcc && g.bound.any fun b => b != tag0) adGradTied 4 st.out,
      failIf (!ground && strokeClocks s < max cost stated) adOverBudget, failIf (ground && strokeBytes s (strokeNow s) < cost) adOverBudget,
      failAt (st.gradAcc && 65536 ≤ g.contribs) adOverBudget 4 st.out] with
  | some r => .reject r
  | none =>
    .pass { sid := sid, job := j.id, queue := qn, seq := seq, st := if fresh then { st with scaleSrc := false } else st, opnds := t.slot
            out := t.out, rep := t.rep, count := runs, level := level, cost := cost, plannedNs := if ground then 0 else clocksNs s cost
            nibs := nibs, tables := j.tables, counts := { malformed := if l.2.1 then 1 else 0 } }
where onQueueStep : Bool := (queueOf s qn).any (·.step)

/-- The checks of the stitch in a ring slot; `pair` marks a stitch of a chained pair, which runs on the nibs given. -/
def checkStitch (s : State) (j : Job) (qn : Nat) (q : Queue) (seq : Nat) (pair : Bool) (onto : Option (List (Nat × Nat))) : Checked :=
  if rangePoison s (slotAddr q seq) 128 then .poison else
  let st0 := slotStitch s q seq
  match firstFail [failIf j.halted adHalted, failIf (!(1 ≤ st0.compat && st0.compat ≤ stitchCompat)) adCompat, failIf (!fieldsOk q.step pair st0) adBadOpcode,
      failIf (!enginesOk s st0) adEngineAbsent, failIf (!pinsOk j st0) adPinRange] with
  | some r => .reject r
  | none =>
    let tag := writtenTag s j st0
    let level := (tagState j tag).level
    let st := substitute j tag level st0
    if namesPoison s j st then .poison else
    match handleChecks s j st with
    | some r => .reject r
    | none =>
      let t := tensorsOf s j st
      let nibs := onto.getD ((nibSet s st.nset).getD [])
      if treePoison s st t then .poison else
      match firstFail [rankChecks st t, formatChecks s j st t, windowChecks s j nibs st t, readOnlyChecks j st t, aliasChecks st t, overlapChecks st t] with
      | some r => .reject r
      | none =>
        if scriptPoison s j st t then .poison else
        match scriptChecks s j st t with
        | some r => .reject r
        | none => checkCounts s j qn seq level st0 st t nibs

/-! ### Rejection and consumption at the head -/

/-- A rejected stitch (08 R250): its record, the queue stops, a `REJECT` record is sent. -/
def rejectHead (s : State) (qn : Nat) (q : Queue) (r : Reject) : State :=
  let st := slotStitch s q q.head.toNat
  let sid := stitchId q.job qn q.head.toNat
  let s := rejectRecord s sid st r.status
  let s := saveQueue s qn { q with state := .rejected, lastAdmit := BitVec.ofNat 8 r.status, passed := none, passedMate := none }
  jobEvent s q.job { area := areaReject sid qn r.handle r.status r.place, sid := sid, opcode := st.opcode }

/-- The head stitch needed poison (12 R378, 08 R242): it is consumed, completes `POISONED` without execution, and its job halts. -/
def poisonHead (s : State) (qn : Nat) (q : Queue) : State :=
  let a : Active := { sid := stitchId q.job qn q.head.toNat, job := q.job, queue := qn, seq := q.head.toNat, st := slotStitch s q q.head.toNat }
  let n := { q with head := q.head + 1, passed := none, passedMate := none }
  consumePoison (saveQueue { s with acts := s.acts ++ [a] } qn { n with state := settled n }) a

/-- The head waits (08 R237, 09 R267, 05 R145). -/
def waitHead (s : State) (qn : Nat) (q : Queue) : State :=
  if q.state == .headWaiting then putQueue s qn q else saveQueue s qn { q with state := .headWaiting }

/-! ### The Blotter reservation (check 17) -/

/-- A stitch is to write a `STASH` output and holds no reservation. -/
def needsRoom (s : State) (a : Active) : Bool :=
  a.count != 0 && a.out.any fun o => o.desc.stash && (jobOf s a.job).all fun j => !(j.blot.recs.any fun r => r.writer == a.sid && !r.written)

/-- Reserve for a stitch; `some` when it holds what it needs, with the status of a refusal otherwise (0 for a wait). -/
def reserveFor (s : State) (a : Active) : State × Option Nat :=
  match a.out with
  | none => (s, none)
  | some o =>
    -- a job without a Blotter rejects every stitch with a `STASH` output (05 R143)
    if o.desc.stash && (jobOf s a.job).any fun j => j.blot.cfg.size == 0 then (s, some 2) else
    if !needsRoom s a then (s, none) else
    match reserve s a.job (recordMax o) with
    | (s, .at_ addr l) => (addRecord s a o addr l, none)
    | (s, .wait) => (s, some 0)
    | (s, .noRoom) => (s, some 1)
    | (s, .tooLarge) => (s, some 2)

/-! ### Shadow selection (12 R383, 15 R445) -/

/-- Every stitch admitted with a flagged nib in its set is shadowed, also one that is never drawn (15 R445; DEDUCED: log entry 33). -/
def suspectNib (s : State) (a : Active) : Bool := onNibs a.st.opcode && a.count != 0 && s.test.failing.any fun f => a.nibs.contains (f.1, f.2.1)

/-- The draw of 12 R383; a return has stopped shadowing (15 R450). -/
def selectShadow (s : State) (a : Active) : Bool :=
  let names := (a.opnds.filterMap id).map fun o => o.desc.handle
  let inOut := !a.st.gradAcc && a.out.any fun o => names.contains o.desc.handle
  let barred := !onNibs a.st.opcode || a.st.tileq || a.count == 0 || inOut || s.lag.lagging || s.fw.returnStep != 0
  let rate := s.mgmt.cfg.shadowRate
  let drawnSel := rate != 0 && (counterGen Config.shadowSeed (a.sid.toNat % 2 ^ 32) 3 (a.sid.toNat / 2 ^ 32)).toNat / 2 ^ 32 < 2 ^ 32 / rate
  suspectNib s a || (!barred && drawnSel)

/-! ### Admission (08 R244 to R252; 09 R267, R268) -/

/-- A stitch enters the queue of admitted stitches. -/
def enterAct (s : State) (a : Active) : State :=
  let onStep := onStepQueue s a
  let s := { s with acts := s.acts ++ [{ a with admitStroke := strokeNow s }] }
  let s := updJob s a.job fun j =>
    let g := tgetD j.grads a.st.out {}
    let tag0 := (opnd a 0).elim 0 fun o => o.desc.tag
    { j with ring := { j.ring with admitted := j.ring.admitted + 1 }
             step := if onStep then { j.step with inProgress := true } else j.step
             grads := if a.st.gradAcc then tset j.grads a.st.out { g with contribs := g.contribs + 1, bound := some (g.bound.getD tag0) } else j.grads }
  let s := startRecalls s a
  if a.count = 0 then complete s { a with stage := .finished } else s

/-- Overlap of two spans of time. -/
def overlapNs (a b c d : Nat) : Nat := min b d - max a c

/-- Account planned work in the current and the next stroke (09 R287). -/
def accountPlan (s : State) (job t0 e nibs : Nat) : State :=
  let k := strokeNow s
  let e0 := edgeOf s k
  let e1 := edgeOf s (k + 1)
  updJob s job fun j =>
    { j with ring := { j.ring with planned := j.ring.planned + nibs * overlapNs t0 e e0 e1
                                   plannedNext := j.ring.plannedNext + nibs * overlapNs t0 e e1 (edgeOf s (k + 2)) } }

/-- Plan and admit the stitches of the head (one, or a chained pair); the head waits when the plan lies beyond the horizon. -/
def admitPlanned (s : State) (qn : Nat) (q : Queue) (a : Active) (b : Option Active) : State :=
  let n := { q with head := q.head + (if b.isSome then 2 else 1), passed := none, passedMate := none }
  let enter (s : State) (a : Active) : State := enterAct (saveQueue s qn { n with state := settled n }) a
  -- the cost is converted at the nib clock in force, each time it is planned (09 R267)
  let timed (c : Active) : Active := { c with plannedNs := if isGround c.st.opcode then 0 else clocksNs s c.cost }
  let a := timed a
  let b := b.map timed
  let ns := a.plannedNs + b.elim 0 (·.plannedNs)
  if isGround a.st.opcode && a.count != 0 then
    match planSlots s a.cost with
    | none => waitHead s qn { q with passed := some a }
    | some p =>
      let s := { s with fab := { s.fab with xStroke := p.endStroke, xByte := p.endByte } }
      enter s { a with plannedStroke := some (p.endStroke + graceOf a.st)
                       firstSlotNs := edgeOf s p.stroke + windowNs s p.stroke + p.byte / max 1 (slotBytes s p.stroke) * slotNs s p.stroke }
  else if a.nibs.isEmpty || (a.count = 0 && b.all fun b => b.count == 0) then (b.elim (enter s a) fun b => enterAct (enter s a) b)
  else
    match planNibs s a.nibs ns with
    | none => waitHead s qn { q with passed := some a, passedMate := b }
    | some (t0, e, k) =>
      let s := { s with nibs := { s.nibs with marks := raiseMarks s.nibs.marks a.nibs e } }
      let s := accountPlan s a.job t0 e a.nibs.length
      let shadow := if b.isSome then suspectNib s a else selectShadow s a
      let sn := shadowNibs s a.nibs
      let t1 := sn.foldl (fun t n => max t (tgetD s.nibs.marks (n.1 * 160 + n.2) 0)) s.clk.now
      let k := if shadow then max k (strokeOf s (t1 + ns)) else k
      let s := if shadow then { s with nibs := { s.nibs with marks := raiseMarks s.nibs.marks sn (t1 + ns) } } else s
      let plan (s : State) (c : Active) : State := if c.count = 0 then s else { s with lag := { s.lag with strokes := lagPlan s.lag.strokes k a.job } }
      let planned (c : Active) : Active := if c.count = 0 then c else { c with plannedStroke := some k }
      let s := enter (plan s a) { planned a with shadow := shadow }
      b.elim s fun b => enterAct (plan s b) { planned b with shadow := suspectNib s b }

/-- Reserve, then plan and admit. -/
def admitChecked (s : State) (qn : Nat) (a : Active) (b : Option Active) : State :=
  let w := b.getD a
  match reserveFor s w with
  | (s, none) => (queueOf s qn).elim s fun q => admitPlanned s qn q a b
  | (s, some 0) => (queueOf s qn).elim s fun q => waitHead s qn { q with passed := some a, passedMate := b }
  | (s, some code) =>
    let place := 4
    let s := (queueOf s qn).elim s fun q => rejectHead s qn q { status := adStashFull, handle := w.out.elim 0 (·.desc.handle), place := place }
    if code = 1 then haltStash s a.job else s

/-- Waits whose pin exists are satisfied; the others are for check 5 (DEDUCED, log entry 19). -/
def readyWaits (j : Job) (st : Stitch) : Bool := waitsMet j { st with waits := st.waits.filter fun w => wPin w < j.pinCount }

/-- The two stitches at the head form a chained pair (06 R193). -/
def chainedHead (s : State) (q : Queue) : Bool :=
  let a := slotStitch s q q.head.toNat
  let b := slotStitch s q (q.head + 1).toNat
  a.tileq && isProduct a.opcode && q.head + 1 != q.tail && b.tileq && b.opcode == opVscript

/-- Check and admit the head of a queue whose waits are satisfied. -/
def admitHead (s : State) (j : Job) (qn : Nat) (q : Queue) : State :=
  let pair := chainedHead s q
  match checkStitch s j qn q q.head.toNat pair none with
  | .poison => poisonHead s qn q
  | .reject r => rejectHead s qn q r
  | .pass a =>
    if !pair then admitChecked s qn a none else
    match checkStitch s j qn q (q.head + 1).toNat true (some a.nibs) with
    | .poison => poisonHead s qn q
    | .reject r => rejectHead s qn q r
    | .pass b => admitChecked s qn a (some b)

/-- The level with which a waiting head was checked is no longer in force (04 R123). -/
def levelStale (s : State) (j : Job) (q : Queue) (a : Active) : Bool := (tagState j (writtenTag s j (slotStitch s q a.seq))).level != a.level

/-- What a waiting head was checked with is out of date: a level in force, the handle table or the ladder map has changed, or its nib set names other
nibs (04 R123, R125, 08 R234, 14 R423). -/
def passedStale (s : State) (j : Job) (q : Queue) (a : Active) : Bool :=
  a.tables != j.tables || levelStale s j q a || q.passedMate.any (levelStale s j q) || (a.st.nset != 0 && nibSet s a.st.nset != some a.nibs)

/-- Reservations that a head holds which is to be checked again are returned. -/
def dropReservation (s : State) (a : Active) : State :=
  updJob s a.job fun j => { j with blot := { j.blot with recs := j.blot.recs.filter fun r => r.written || r.writer != a.sid } }

/-- The admission of a stitch reads its ring slot, its table entries, its descriptors and the tensors that a check needs (10 R296). -/
def reachSlot (s : State) (j : Job) (q : Queue) (seq : Nat) : State :=
  let s := reachRange s (slotAddr q seq) 128
  let st := slotStitch s q seq
  let names := ((namedHandles st).map (·.2) ++ namedSides s j st).filter (· != 0)
  let s := names.foldl (fun s h => j.handles.elim s fun t => (handleEntry s j h).elim (reachRange s (t.1 + 8 * h) 8) fun a =>
    reachRange (reachRange s (t.1 + 8 * h) 8) a 64) s
  -- a repeat count, a tree node, a script and the record of an update are read at admission too
  let t := tensorsOf s j (substitute j (writtenTag s j st) (tagState j (writtenTag s j st)).level st)
  let read (s : State) (o : Option Operand) : State := o.elim s fun x => reachDesc s x.desc
  let s := if st.repSrc then read s t.rep else s
  if st.opcode == opReduce || st.opcode == opMulticast || st.opcode == opVscript || st.opcode == opUpdate then read s (t.at_ 3) else s

/-- The head, and the stitch chained to it. -/
def reachHead (s : State) (j : Job) (q : Queue) : State :=
  let s := reachSlot s j q q.head.toNat
  if chainedHead s q then reachSlot s j q (q.head + 1).toNat else s

/-- A waiting head is planned again with the checks it has passed (09 R267, 11 R351). -/
def admitPassed (s : State) (j : Job) (qn : Nat) (q : Queue) (a : Active) : State :=
  if !passedStale s j q a then admitChecked s qn a q.passedMate else
  let s := q.passedMate.elim (dropReservation s a) fun b => dropReservation (dropReservation s a) b
  match jobOf s q.job with
  | none => s
  | some j => admitHead s j qn { q with passed := none, passedMate := none }

/-- STITCH_ADMIT (08 R248): the head stitch of a queue is considered; it waits in Drowse and while the part enters it (16 R479, R480). -/
def execStitchAdmit (queue : Nat) (s : State) : Host.Outcome State Fault Refusal :=
  match queueOf s queue with
  | none => .next s
  | some q =>
    match jobOf s q.job with
    | none => .next s
    | some j =>
      if q.head = q.tail || q.state == .rejected || q.state == .halted || q.state == .rewinding then .next s
      else if s.hub.pstate != 0 || s.hub.drowsePage.isSome then .next (waitHead s queue q) else
      match q.passed with
      | some a => .next (admitPassed s j queue q a)
      | none =>
        let ready := readyWaits j (slotStitch s q q.head.toNat) && (!chainedHead s q || readyWaits j (slotStitch s q (q.head + 1).toNat))
        .next (if ready then admitHead (reachHead s j q) j queue q else waitHead s queue q)

/-- Heads that wait for the horizon are planned again, as at each edge and at each change of a plan mark (09 R267, 11 R351). -/
def replanHeads (s : State) : State :=
  if s.hub.pstate != 0 || s.hub.drowsePage.isSome then s else
  s.queues.foldl (fun s p =>
    match queueOf s p.1 with
    | none => s
    | some q =>
      match q.passed, jobOf s q.job with
      | some a, some j => if q.state == .headWaiting && !needsRoom s (q.passedMate.getD a) then admitPassed s j p.1 q a else s
      | _, _ => s) s

/-- What the end of a stitch brings after it: heads are planned again when a plan mark has changed, and a Blotter policy in force goes on to move records
until occupancy is at or below `LWM` (09 R267, 05 R149). -/
def afterEnds (t s : State) : State :=
  let t := (t.jobs.filter fun j => j.2.blot.inForce.isSome).foldl (fun t j => continueMoves t j.1) t
  if t.nibs.marks == s.nibs.marks then t else replanHeads t

/-- NOP (08 R232): it executes nothing and completes `DONE`; no time has passed since its admission, so that `ELAPSED` is 0. -/
def execNop (sid : Sid) (s : State) : Host.Outcome State Fault Refusal :=
  match actOf s sid with
  | none => .next s
  | some a => onlyIf (a.st.opcode == opNop && a.stage == .waiting) s (complete s a)

/-! ### Recomputation (05 R152) -/

/-- Forward stitches of the step that recompute a record: those of its micro-batch in the step queues whose layer tags lie above the highest
kept tag below it. -/
def recomputeSet (s : State) (j : Job) (r : BlotRec) : List Active :=
  let kept := (j.blot.recs.filter fun x => x.mb == r.mb && x.tag < r.tag && x.loc == .kept && x.written).map (·.tag)
  let low (t : Nat) : Bool := kept.all fun k => k < t
  let one (qn : Nat) (q : Queue) (seq : Nat) : Option Active :=
    match checkStitch s { j with halted := false } qn q seq (slotStitch s q seq).tileq none with
    | .pass a =>
      if a.st.pass == 1 && a.st.mb == r.mb && low (tagOf a) && tagOf a ≤ r.tag && a.count != 0 && (actOf s a.sid).isNone then
        some { a with recompute := true, shadow := suspectNib s a, admitStroke := strokeNow s
                      st := { a.st with crEn := false, signal := 0, notify := false } }
      else none
    | _ => none
  ((queuesOf s j.id).map fun q =>
    if !q.2.step then [] else
    (List.range (q.2.head - q.2.stepBase).toNat).filterMap fun i => one q.1 q.2 (q.2.stepBase + BitVec.ofNat 32 i).toNat).flatten

/-- Reserve for several stitches; the first that cannot have what it needs ends it. -/
def reserveAll (s : State) : List Active → State × Option Nat
  | [] => (s, none)
  | a :: l =>
    match reserveFor s a with
    | (t, none) => reserveAll t l
    | r => r

/-- STASH_RECOMPUTE (05 R152): a reader waits on a record that is not kept, and Ohmub admits the stitches that write it again, in queue order and
each after the one before it, once their records have room; while they wait, what the policies do to make it and the reservations that fit stand (05
R145, R151). -/
def execStashRecompute (sid : Sid) (s : State) : Host.Outcome State Fault Refusal :=
  match actOf s sid with
  | none => .next s
  | some a =>
    match jobOf s a.job with
    | none => .next s
    | some j =>
      let need := (recordReads a).findSome? fun o => if o.desc.stash then (recordFor j o.desc.handle).filter (needsRecompute j) else none
      match need with
      | none => .next s
      | some r =>
        if a.stage != .waiting || s.acts.any fun b => b.job == a.job && b.recompute then .next s else
        let again := recomputeSet s j r
        match reserveAll s again with
        | (t, some 0) => .next t
        | (t, some _) => .next (haltStash t j.id)
        | (t, none) =>
          let t := stashEvent t j 4 r.handle r.tag r.mb
          let before := t.acts.takeWhile fun b => b.sid != sid
          .next { t with acts := before ++ again ++ t.acts.drop before.length }

end Sys2Proof.Machine
end

