-- ==== Sys2Proof/Machine/Links.lean ====
section
/-! DEFINITION. The link layer of the Ground ports: flits, retry, lanes, training and link states (11 R317 to R326, R330). -/

namespace Sys2Proof.Machine

/-! ### States of a port (11 R322 to R326) -/

def portEnabled (s : State) (p : Nat) : Bool := s.fab.stationSet && bit s.fab.portEn.toNat p
def secondNs : Nat := 1000000000

/-- Entries into RETRAIN of the last second. -/
def recentRetrains (s : State) (x : Port) : List Nat := x.retrainTimes.filter fun t => s.clk.now < t + secondNs

/-- A port with its queues and buffers emptied. -/
def emptied (x : Port) : Port := { x with retry := [], resend := [], lanes := [], rx := [], ctrlOut := [], creditsOwed := [], discarding := false, sent := [] }

/-- A port enters DOWN (11 R325): it sends the flit that says so if it can, drops what it held, and a health record is sent. -/
def goDown (s : State) (p : Nat) : State :=
  let x := portOf s p
  let down : Flit := sealFlit { (default : Flit) with kind := .ctrl, fack := (x.expectFseq + 4095) % 4096, ctrl := .down }
  let s := if x.lstate == .up then { s with out := { s.out with flits := s.out.flits ++ [(p, down)] } } else s
  let wait := if x.lstate == .training && x.backoffS != 0 then min 64 (2 * x.backoffS) else 1
  let s := putPort s p { emptied x with lstate := .down, downSince := s.clk.now, backoffS := wait, missedRun := 0 }
  health s { code := 0x0101, severity := 1, port := p, value := (recentRetrains s x).length }

/-- Clearing its bit in `PORT_EN` takes a port to DISABLED at once, with the consequences of DOWN (11 R322). -/
def disablePort (s : State) (p : Nat) : State :=
  if (portOf s p).lstate == .disabled then s else
  let s := goDown s p
  putPort s p { portOf s p with lstate := .disabled, backoffS := 0 }

/-- A port becomes UP at the end of training (11 R320, R323, R326). -/
def goUp (s : State) (p peerStation peerPort delay : Nat) : State :=
  let x := portOf s p
  let s := putPort s p { emptied x with
    lstate := .up, peerStation := BitVec.ofNat 20 peerStation, peerPort := BitVec.ofNat 6 peerPort, delayNs := BitVec.ofNat 12 delay
    nextFseq := 0, expectFseq := 0, credits := (List.range 8).map fun l => (l, laneCredits l), wrr := 0, wrrUsed := 0, sinceCtrl := 0
    backoffS := 0, missedRun := 0, markTally := none, markTallyOut := 0 }
  if x.backoffS = 0 then s else health s { code := 0x0102, severity := 0, port := p, value := (s.clk.now - x.downSince) / secondNs }

/-- PORT_TRAIN_START (11 R322, R323): an enabled port leaves DISABLED. -/
def execPortTrainStart (port : Nat) (s : State) : Host.Outcome State Fault Refusal :=
  onlyIf (port < 64 && portEnabled s port && (portOf s port).lstate == .disabled) s (putPort s port { portOf s port with lstate := .training })

/-- PORT_TRAIN_COMPLETE (11 R323): the hello's station must differ from this part's and the delay be at most 1,000 ns. -/
def execPortTrainComplete (port peerStation peerPort delayNs : Nat) (s : State) : Host.Outcome State Fault Refusal :=
  onlyIf ((portOf s port).lstate == .training) s
    (if peerStation != s.fab.station && delayNs ≤ 1000 then goUp s port peerStation peerPort delayNs else goDown s port)

/-- PORT_TRAIN_TIMEOUT (11 R323): a step exceeds its limit or fails its check. -/
def execPortTrainTimeout (port : Nat) (s : State) : Host.Outcome State Fault Refusal :=
  onlyIf ((portOf s port).lstate == .training) s (goDown s port)

/-- An UP port leaves every route mask to retrain; the eighth entry within one second takes it DOWN (11 R324, R325). -/
def enterRetrain (s : State) (port : Nat) : State :=
  let x := portOf s port
  let times := recentRetrains s x ++ [s.clk.now]
  let y := { x with lstate := .retrain, retrains := satInc x.retrains, retrainTimes := times }
  if 8 ≤ times.length then goDown (putPort s port { y with lstate := .up }) port else putPort s port y

/-- RETRAIN (11 R324). -/
def execRetrain (port : Nat) (s : State) : Host.Outcome State Fault Refusal := onlyIf ((portOf s port).lstate == .up) s (enterRetrain s port)

/-- RETRAIN_COMPLETE (11 R324): steps 2 to 5 of the training again. The port is UP again, with what the new hello says of its peer, and sends
its retry buffer again, or it enters DOWN. Both ends start from the credits of the table (R320; DEDUCED: log entry 20). -/
def execRetrainComplete (port : Nat) (hello : Hello) (ok : Bool) (s : State) : Host.Outcome State Fault Refusal :=
  let x := portOf s port
  onlyIf (x.lstate == .retrain) s
    (if ok && hello.station != s.fab.station && hello.delayNs ≤ 1000 then
      putPort s port { x with lstate := .up, delayNs := BitVec.ofNat 12 hello.delayNs, resend := x.retry, discarding := false, sent := [], uncorrAt := [], creditsOwed := []
                              markTally := none, markTallyOut := 0
                              peerStation := BitVec.ofNat 20 hello.station, peerPort := BitVec.ofNat 6 hello.port
                              credits := (List.range 8).map fun l => (l, laneCredits l) }
    else goDown s port)

/-- LINK_DOWN_FLIT (11 R325): the peer declares the link down. -/
def execLinkDownFlit (port : Nat) (s : State) : Host.Outcome State Fault Refusal :=
  let x := portOf s port
  onlyIf (x.lstate == .up || x.lstate == .retrain || x.lstate == .training) s (goDown s port)

/-- PORT_RETRY_TIMER (11 R326): Ohmub trains a DOWN port again after its wait. -/
def execPortRetryTimer (port : Nat) (s : State) : Host.Outcome State Fault Refusal :=
  let x := portOf s port
  onlyIf (x.lstate == .down && portEnabled s port) s
    (putPort (advance s (x.downSince + x.backoffS * secondNs)) port { x with lstate := .training })

/-! ### Sending (11 R319 to R321) -/

def laneOut (x : Port) (vl : Nat) : List Flit := tgetD x.lanes vl []

/-- Rate of the token bucket of lanes 4 and 5 in bytes per ns: the largest percentage that an open job's settings, or a full drain after a restore,
give of 6.4 TB/s (12 R365, R376). -/
def bucketRate (s : State) : Nat :=
  let restores (j : Nat) : Bool := s.pair.drains.any fun d => d.job == j && d.restore
  64 * if s.jobs.isEmpty then 5 else s.jobs.foldl (fun n j => max n (if restores j.1 then max j.2.protCfg.mirrorPct j.2.protCfg.restorePct else j.2.protCfg.mirrorPct)) 0
/-- Bytes in the bucket, whose depth is one stroke at its rate. -/
def bucketNow (s : State) : Nat := min (bucketRate s * periodNs s) (s.pair.tokens + (s.clk.now - s.pair.tokensAt) * bucketRate s)
/-- The flit belongs to a drain whose limit is lifted. -/
def liftedFlit (s : State) (f : Flit) : Bool :=
  f.hdr.mtype == .mirror && s.pair.drains.any fun d => d.lifted && d.handle == argBits f.hdr 95 64 && (jobOf s d.job).any fun j => j.fjk == f.hdr.fjk
/-- Place in the drains of this part of the one that a mirror flit belongs to. -/
def drainIdx (s : State) (f : Flit) : Option Nat :=
  s.pair.drains.findIdx? fun d => d.handle == argBits f.hdr 95 64 && (jobOf s d.job).any fun j => j.fjk == f.hdr.fjk
/-- The flit belongs to the full drain after a `PARTNER` restore (12 R376). -/
def restoreFlit (s : State) (f : Flit) : Bool := f.hdr.mtype == .mirror && (drainIdx s f).any fun i => (s.pair.drains[i]?).any (·.restore)
/-- Place of a mirror flit in the order of the bucket: a drain whose limit is lifted, the full drain after a restore, drains of Mirror-class
tensors, drains of Journal-class tensors, each kind in registration order, and then what only passes through. -/
def drainRank (s : State) (f : Flit) : Nat :=
  let regs := (s.jobs.map fun j => j.2.prot.map fun p => (j.1, p)).flatten
  if liftedFlit s f then 0 else
  match (drainIdx s f).bind fun i => s.pair.drains[i]? with
  | none => 1 + 3 * regs.length
  | some d =>
    let i := regs.findIdx fun q => q.1 == d.job && q.2.handle == d.handle
    1 + i + regs.length * (if restoreFlit s f then 0 else if (regs[i]?).any fun q => q.2.cls == 1 then 1 else 2)
/-- The messages of a lane, each with its flits. -/
def laneMsgs (l : List Flit) : List (List Flit) :=
  l.foldr (fun f ms => match f.eom, ms with
    | false, m :: r => (f :: m) :: r
    | _, _ => [f] :: ms) []
/-- A lane with the message of lowest rank in front, the first of equal ones; a message that is partly sent keeps its place there. -/
def drainFirst (s : State) (l : List Flit) : List Flit :=
  if l.head?.all fun f => !f.som then l else
  let ms := laneMsgs l
  let rank (m : List Flit) : Nat := m.head?.elim 0 (drainRank s)
  let best := ms.foldl (fun n m => min n (rank m)) (rank (ms.headD []))
  ((ms.find? fun m => rank m == best).getD []) ++ (ms.eraseP fun m => rank m == best).flatten
/-- Flits of a lane in the order in which they leave: lane 4's in the bucket's order (12 R365). -/
def laneNow (s : State) (x : Port) (vl : Nat) : List Flit := if vl = 4 then drainFirst s (laneOut x 4) else laneOut x vl
/-- Flits at the head of a lane of some port that holds a credit for them. -/
def headsOn (s : State) (vl : Nat) : List Flit :=
  s.fab.ports.filterMap fun p => if p.2.lstate == .up && tgetD p.2.credits vl 0 != 0 then (laneNow s p.2 vl).head? else none
/-- The bucket lets a flit go: Journal records first, then drains in their order (12 R365). The full drain after a restore goes before the
Journal records of its job (12 R376). -/
def bucketLets (s : State) (x : Port) (vl : Nat) : Bool :=
  let tokens := decide (256 ≤ bucketNow s)
  if vl = 5 then tokens && (laneOut x 5).head?.all fun f => (headsOn s 4).all fun g => !(restoreFlit s g && g.hdr.fjk == f.hdr.fjk)
  else if vl = 4 then
    (laneNow s x 4).head?.any fun f => liftedFlit s f ||
      (tokens && (restoreFlit s f || (headsOn s 5).isEmpty) && (headsOn s 4).all fun g => liftedFlit s g || drainRank s f ≤ drainRank s g)
  else true
/-- A flit takes its bytes out of the bucket. -/
def bucketTake (s : State) (vl : Nat) (f : Flit) : State :=
  if vl = 5 || (vl = 4 && !liftedFlit s f) then { s with pair := { s.pair with tokens := bucketNow s - 256, tokensAt := s.clk.now } } else s

/-- A lane holds a flit and a credit, and the token bucket lets it go. -/
def laneReady (s : State) (x : Port) (vl : Nat) : Bool := !(laneOut x vl).isEmpty && tgetD x.credits vl 0 != 0 && bucketLets s x vl
/-- Weights of lanes 2 to 6. -/
def laneWeight (i : Nat) : Nat := [8, 4, 2, 1, 1].getD i 1

/-- The exchange reserve of this part's stroke has begun. -/
def inReserve (s : State) : Bool :=
  decide (s.clk.edge + (s.clk.periodUs * 1000 * (100 - s.clk.xchPct) + 50) / 100 ≤ s.clk.now) && s.clk.xchPct != 0

/-- Weighted round robin over lanes 2 to 6 with a quantum of one flit: the lane served, and the turn after it. -/
def roundRobin (s : State) (x : Port) : Option (Nat × Nat × Nat) :=
  let first := if x.wrrUsed < laneWeight x.wrr && laneReady s x (x.wrr + 2) then some (x.wrr + 2, x.wrr, x.wrrUsed + 1) else none
  first.orElse fun _ =>
    (((List.range 5).map fun i => (x.wrr + 1 + i) % 5).find? fun i => laneReady s x (i + 2)).map fun i => (i + 2, i, 1)

/-- The lane that sends next, with the round robin's turn after it. -/
def nextLane (s : State) (x : Port) : Option (Nat × Nat × Nat) :=
  if laneReady s x 0 then some (0, x.wrr, x.wrrUsed)
  else if laneReady s x 1 then some (1, x.wrr, x.wrrUsed)
  else if inReserve s && laneReady s x 2 then some (2, x.wrr, x.wrrUsed)
  else roundRobin s x

/-- A flit leaves: it returns `FACK` and the credits owed on the lowest lane that owes any. -/
def emitFlit (s : State) (p : Nat) (x : Port) (f : Flit) : State :=
  let owed := x.creditsOwed.find? fun c => c.2 != 0
  let n := owed.elim 0 fun c => min c.2 4095
  let f := { f with fack := (x.expectFseq + 4095) % 4096, crVl := owed.elim 0 (·.1), crN := n }
  let x := { x with creditsOwed := owed.elim x.creditsOwed fun c => tset x.creditsOwed c.1 (c.2 - n)
                    sinceCtrl := if f.kind == .ctrl then 0 else x.sinceCtrl + 1 }
  let s := putPort s p x
  { s with out := { s.out with flits := s.out.flits ++ [(p, sealFlit f)] } }

def bareFlit (k : FlitKind) (c : LinkCtrl) : Flit := { (default : Flit) with kind := k, ctrl := c }

/-- A data flit has been sent once more; the sixteenth time without a `FACK` that covers it, the port enters RETRAIN (11 R324). -/
def sentAgain (s : State) (p fseq : Nat) : State :=
  let x := portOf s p
  let n := tgetD x.sent fseq 0 + 1
  let s := putPort s p { x with sent := tset x.sent fseq n }
  if n = 16 then enterRetrain s p else s

/-- FLIT_SEND (11 R319, R321): a control flit that waits or is due, a flit to be sent again, a data flit by the order of R321, or an idle one. -/
def execFlitSend (port : Nat) (s : State) : Host.Outcome State Fault Refusal :=
  let x := portOf s port
  if x.lstate != .up then .next s else
  .next (match x.ctrlOut with
    | c :: rest => emitFlit s port { x with ctrlOut := rest } (bareFlit .ctrl c)
    | [] =>
      if 127 ≤ x.sinceCtrl then emitFlit s port x (bareFlit .ctrl .none) else
      match x.resend with
      | f :: rest => sentAgain (emitFlit s port { x with resend := rest } f) port f.fseq
      | [] =>
        match (if x.retry.length < 2048 then nextLane s x else none) with
        | none => emitFlit s port x (bareFlit .idle .none)
        | some (vl, turn, used) =>
          match laneNow s x vl with
          | [] => s
          | f :: rest =>
            let f := { f with vl := vl, fseq := x.nextFseq }
            sentAgain (emitFlit (bucketTake s vl f) port
              { x with
                lanes := tset x.lanes vl rest, nextFseq := (x.nextFseq + 1) % 4096, retry := x.retry ++ [f], wrr := turn, wrrUsed := used
                credits := tadj x.credits vl 0 (· - 1) } f) port f.fseq)

/-- What a `FACK` covers leaves the retry buffer. -/
def takeFack (x : Port) (fack : Nat) : Port :=
  let open_ (f : Flit) : Bool := decide (2048 ≤ (fack + 4096 - f.fseq) % 4096)
  let kept := x.retry.filter open_
  { x with retry := kept, resend := x.resend.filter open_, sent := x.sent.filter fun n => kept.any fun f => f.fseq == n.1 }

/-- The retry buffer is sent again from a sequence number on. -/
def resendFrom (x : Port) (fseq : Nat) : Port := { x with resend := x.retry.filter fun f => (f.fseq + 4096 - fseq) % 4096 < 2048 }

/-- NAK (11 R319): the sender sends again from the named `FSEQ`, in order. -/
def execNak (port fseq : Nat) (s : State) : Host.Outcome State Fault Refusal :=
  let x := portOf s port
  onlyIf (x.lstate == .up) s (putPort s port (resendFrom x fseq))

/-! ### Receiving (11 R318, R320) -/

/-- The first failure: later flits are discarded until the expected one, and one NAK names it. -/
def failFlit (x : Port) : Port := if x.discarding then x else { x with discarding := true, ctrlOut := x.ctrlOut ++ [.nakFor x.expectFseq] }

/-- A data flit joins its message; the last one completes it. -/
def joinFlit (s : State) (p : Nat) (x : Port) (f : Flit) : State :=
  let part := (if f.som then [] else tgetD x.rx f.vl []) ++ [f]
  if f.vl = 0 then putPort s p { x with creditsOwed := tadj x.creditsOwed 0 0 (· + 1) }
  else if f.eom then
    let s := putPort s p { x with rx := tdel x.rx f.vl }
    let h := (part.head?).elim f.hdr (·.hdr)
    { s with fab := { s.fab with arrived := s.fab.arrived ++
      [{ port := p, vl := f.vl, flits := part.length, hdr := h, data := (part.map (·.payload)).flatten.take h.len
         marks := (part.map (·.marks)).flatten, source := (part.head?).bind (·.source) }] } }
  else putPort s p { x with rx := tset x.rx f.vl part }

/-- A data flit whose `CRC` is good. -/
def dataFlit (s : State) (p : Nat) (x : Port) (f : Flit) : State :=
  if f.fseq = x.expectFseq then
    let x := { x with expectFseq := (x.expectFseq + 1) % 4096, discarding := false }
    if f.vl = 7 then putPort { s with fab := { s.fab with vl7Drop := satInc s.fab.vl7Drop } } p x else joinFlit s p x f
  else if (x.expectFseq + 4096 - f.fseq) % 4096 ≤ 2048 then putPort s p x
  else putPort s p (failFlit x)

/-- Uncorrectable codewords arrive: each is counted, and the sixty-fifth within one millisecond takes the port to RETRAIN (11 R324, R327). -/
def uncorrectable (s : State) (p n : Nat) : State :=
  let x := portOf s p
  let at_ := (x.uncorrAt.filter fun t => s.clk.now < t + 1000000) ++ List.replicate n s.clk.now
  let s := putPort s p { x with fecUncorr := BitVec.ofNat 16 (min 65535 (x.fecUncorr.toNat + n)), uncorrAt := at_ }
  if 64 < at_.length then enterRetrain s p else s

/-- What a flit that passes its checks brings: its `FACK` and credits, and a data flit is taken when it is the next one expected. -/
def goodFlit (s : State) (port : Nat) (flit : Flit) : State :=
  let x := portOf s port
  let x := takeFack { x with credits := if flit.crN = 0 then x.credits else tadj x.credits flit.crVl 0 (· + flit.crN) } flit.fack
  match flit.kind, flit.ctrl with
  | .data, _ => dataFlit s port x flit
  | .ctrl, .nakFor q => putPort s port (resendFrom x q)
  | .ctrl, .down => goDown (putPort s port x) port
  | _, _ => putPort s port x

/-- FLIT_RECEIVE (11 R318): a flit whose `CRC` is bad, or that overlaps an uncorrectable codeword, is discarded; any other does what it brings. The
uncorrectable codewords that have arrived are counted as codewords, whatever the number of flits that each overlaps (11 R327). -/
def execFlitReceive (port : Nat) (flit : Flit) (fec : Fec) (s : State) : Host.Outcome State Fault Refusal :=
  let x := portOf s port
  if x.lstate != .up then .next s else
  let t := if fec.overlaps || flit.crc != flitCrc flit
    then putPort s port (failFlit { x with crcErr := if flit.kind == .data then satInc x.crcErr else x.crcErr })
    else goodFlit s port flit
  .next (if fec.uncorr != 0 && (portOf t port).lstate == .up then uncorrectable t port fec.uncorr else t)

/-- FLIT_STALL_TIMEOUT (11 R330): the flit at the head of a lane has waited 1 ms for a credit; it and the rest of its message are discarded. -/
def execFlitStallTimeout (port lane : Nat) (s : State) : Host.Outcome State Fault Refusal :=
  let x := portOf s port
  let l := laneNow s x lane
  let n := (l.takeWhile fun f => !f.eom).length + 1
  onlyIf (x.lstate == .up && !l.isEmpty && tgetD x.credits lane 0 == 0) s
    (putPort s port { x with lanes := tset x.lanes lane (l.drop n), stallDrop := BitVec.ofNat 16 (min 65535 (x.stallDrop.toNat + min n l.length)) })

end Sys2Proof.Machine
end

