-- ==== Sys2Proof/Machine/Moves.lean ====
section
/-! DEFINITION. Stitches that move data bit for bit: COPY, FETCH, GATHER and SCATTER (07 R217 to R228; 08 R255). -/

namespace Sys2Proof.Machine

/-! ### One cell -/

/-- Where a cell of the destination takes its data: a cell of the source with its positions exchanged or not, nothing (a zero row), or poison
(an index element that depends on poison). -/
inductive From where
  | cell (c : Nat) (transposed : Bool)
  | zero
  | poison
  deriving DecidableEq, Repr

/-- Position of a B8x8 block after its two dimensions are exchanged (07 R218). -/
def swapPos (p : Nat) : Nat := p % 8 * 8 + p / 8

/-- A gimp word whose positions are exchanged, its slots ordered again under 01 R34. -/
def swapGimp (w : Nat) : Nat :=
  let sl := (slots w).map fun g => g / 256 * 256 + swapPos (slotPos g) * 4
  let sl := match sl with
    | [a, b] => if slotPos b < slotPos a then [b, a] else [a, b]
    | l => l
  sl.foldr (fun g acc => g + 65536 * acc) 0

/-- Stored code `j` of a cell stands at a pad position of the destination (01 R33): in a 2-of-4 block by the group that keeps it. -/
def padCode (v : View) (d : Desc) (src dst j : Nat) : Bool :=
  if !isSparse d then (elemAt d dst j).isNone else
  let p := j / 2 * 4
  match elemAt v.desc src p with
  | none => true
  | some idx =>
    let e := v.group (groupOf v.desc idx)
    (elemAt d dst (p + if j % 2 = 0 then e % 4 else e / 4 % 4)).isNone

/-- A cell as the destination holds it, and whether it is poisoned. Poison of the S8 code comes before a zero block (10 R301). -/
def movedCell (v : View) (d : Desc) (dst : Nat) (f : From) : CellOut × Bool :=
  let n := storedLen d
  let zero : CellOut := { cell := dst, codes := List.replicate n (some 0) }
  match f with
  | .zero => (zero, false)
  | .poison => ({ zero with s8 := if blocked d then 255 else 0, poisoned := true }, true)
  | .cell c tr =>
    if !blocked d then ({ cell := dst, codes := [some (v.code c 0)], poisoned := v.codeBad c 0 }, v.codeBad c 0)
    else if v.s8 c = 255 then ({ zero with s8 := 255, poisoned := true }, true)
    else if zeroCell v c && !v.s8Bad c then (zero, false)
    else
      let bad := v.s8Bad c || v.sideBad c || (List.range n).any fun i => v.codeBad c i
      let codes := (List.range n).map fun p =>
        some (if padCode v d c dst p then (if d.type = 3 then v.zp c else 0) else v.code c (if tr then swapPos p else p))
      ({ cell := dst, codes := codes, s8 := v.s8 c, zp := v.zp c, gword := if tr then swapGimp (v.gword c) else v.gword c }, bad)

/-- Poison passes to the destination granules that hold the data of a poisoned source block (07 R219). -/
def passPoison (v : View) (dst : Operand) (ws : WriteSet) (c : CellOut) (from_ : Nat) : WriteSet :=
  let d := dst.desc
  let at_ (hit : Bool) (t : Option Desc) (ws : WriteSet) (f : Desc → Nat × Nat) : WriteSet :=
    if hit then t.elim ws fun z => wsPoison ws (f z).1 (f z).2 else ws
  let ws := at_ ((List.range (storedLen d)).any (v.codeBad from_)) (some d) ws fun z => (codeBit z c.cell 0 / 8, (storedLen z * typeBits z.type + 7) / 8)
  let ws := at_ (v.s8Bad from_) dst.scale ws fun z => (s8Addr z c.cell, 1)
  let ws := at_ (v.sideBad from_) dst.gimp ws fun z => (z.base + 4 * c.cell, 4)
  at_ (v.sideBad from_ && d.type == 3) dst.zero ws fun z => (z.base + c.cell / 2, 1)

/-- Move a list of (destination cell, origin). With `whole` a blocked cell that depends on poison is written with S8 0xFF and zero codes (01 R27, 07
R227), as is every poisoned block of a Blotter record, which has no granule of its own; else poison passes granule by granule (07 R219). -/
def moveCells (v : View) (dst : Operand) (whole : Bool) (l : List (Nat × From)) : Produced × WriteSet :=
  l.foldl (fun acc m =>
    let r := movedCell v dst.desc m.1 m.2
    let marked := r.2 && blocked dst.desc && (dst.desc.stash || whole)
    let c := if marked then (movedCell v dst.desc m.1 .poison).1 else r.1
    let ws := match m.2 with
      | .cell k _ => if r.2 && blocked dst.desc && c.s8 != 255 then passPoison v dst acc.2 c k else acc.2
      | _ => acc.2
    ({ acc.1 with cells := acc.1.cells ++ [c], poisoned := acc.1.poisoned || r.2 }, ws)) ({}, {})

/-- Move the 2-of-4 metadata of groups: (destination group, source group), with its poison. -/
def moveGroups (s : State) (v : View) (dst : Operand) (l : List (Nat × Nat)) (m : Produced × WriteSet) : Produced × WriteSet :=
  dst.zero.elim m fun z => l.foldl (fun m g =>
    let ws := wsBits s m.2 (z.base * 8 + 4 * g.1) 4 (v.group g.2)
    if v.groupBad g.2 then ({ m.1 with poisoned := true }, wsPoison ws (z.base + g.1 / 2) 1) else (m.1, ws)) m

/-- The end of a move: no amax tensor is written (07 R219). -/
def finishMove (s : State) (a : Active) (o : Operand) (p : Produced) (ws : WriteSet) (malformed : Nat) : State :=
  finishOutput s a { o with amax := none } p { ws := ws, counts := { malformed := malformed } }

/-! ### COPY and FETCH -/

/-- The block dimensions of a B8x8 copy are exchanged. -/
def exchanged (st : Stitch) (src dst : Desc) : Bool := dst.shape == 2 && permOf st dst.bdim0 == src.bdim1

/-- Destination cells with their source cells. -/
def copyPairs (st : Stitch) (src dst : Desc) : List (Nat × From) :=
  (List.range (cells dst)).map fun c =>
    (c, .cell (linear (gridDims src) (permIdx st dst.rank (unlinear (gridDims dst) c))) (exchanged st src dst))

/-- Destination groups with their source groups. -/
def copyGroups (st : Stitch) (src dst : Desc) : List (Nat × Nat) :=
  if !isSparse dst then [] else
  (List.range (groups dst)).map fun g => (g, linear (groupDims src) (permIdx st dst.rank (unlinear (groupDims dst) g)))

/-- Dimension of a tensor with the smallest stride (07 R220). -/
def fastest (d : Desc) : Nat :=
  ((List.range d.rank).foldl (fun (b : Option Nat) i => some (b.elim i fun k => if (strideAt d i).natAbs < (strideAt d k).natAbs then i else k)) none).getD 0

/-- The words along dimension `p` of the line of cells at a multi-index; blocks move as groups of whole words, and the shuffle stage has transposed
those whose two dimensions the copy exchanges (07 R218). -/
def lineWords (v : View) (flip : Bool) (p : Nat) (g : List Nat) : List Word32 :=
  let d := v.desc
  let codes (k : Nat) := (List.range (storedLen d)).map fun j => v.code (linear (gridDims d) (g.set p k)) (if flip then j % 8 * 8 + j / 8 else j)
  let bytes := packItems (typeBits d.type) ((List.range ((gridDims d).getD p 1)).map codes).flatten
  (List.range (ceilDiv bytes.length 4)).map fun i => BitVec.ofNat 32 (fieldLe bytes (4 * i) 4)

/-- A word behind the shuffle stage of elements narrower than 32 bits: of as many lines as a word has elements, each word collects the elements at one
position, so that it runs along `q` (07 R220; its place among those lines is a DESIGN CHOICE: log entry 16). -/
def narrowWord (v : View) (p q : Nat) (g : List Nat) (line word : Nat) : Word32 :=
  let gd := gridDims v.desc
  let k := 32 / typeBits v.desc.type
  let x := k * word + line % k
  let code (u : Nat) := let y := line / k * k + u
    if x < gd.getD p 1 && y < gd.getD q 1 then v.code (linear gd ((g.set p x).set q y)) 0 else 0
  BitVec.ofNat 32 (fieldLe (packItems (typeBits v.desc.type) ((List.range k).map code)) 0 4)

/-- The fills of the turning tiles of a copy that turns dimension `p` into `q`: 32 lines along `q` with 32 words of each, row by row. -/
def turnFills (v : View) (flip : Bool) (p q : Nat) : List (List Word32) :=
  let gd := gridDims v.desc
  let words := ((lineWords v flip p (List.replicate gd.length 0)).length + 31) / 32
  let narrow := !blocked v.desc && decide (typeBits v.desc.type < 32)
  let others := (gd.set p 1).set q 1
  (List.range (others.foldl (· * ·) 1)).flatMap fun o =>
    (List.range (ceilDiv (gd.getD q 1) 32)).flatMap fun tq => (List.range words).map fun tp =>
      (List.range 32).flatMap fun r =>
        let i := 32 * tq + r
        let line := if i < gd.getD q 1 && !narrow then lineWords v flip p ((unlinear others o).set q i) else []
        (List.range 32).map fun c => if narrow then narrowWord v p q (unlinear others o) i (32 * tp + c) else line.getD (32 * tp + c) 0

/-- One fill of a nib's turning tile, whose orientation changes. -/
def turnFill (n : Nibs) (k : Nat) (ws : List Word32) : Nibs :=
  { n with turn := tset n.turn k { columns := !(tgetD n.turn k {}).columns, words := ws } }

/-- A copy whose permutation changes which dimension is fastest goes through the turning tiles of its nibs, shared in ascending blocks; any other
bypasses them (07 R220). -/
def turned (s : State) (a : Active) (v : View) (dst : Desc) : State :=
  let p := fastest v.desc
  let q := permOf a.st (fastest dst)
  if p = q || a.nibs.isEmpty then s else
  let fills := turnFills v (exchanged a.st v.desc dst) p q
  let per := ceilDiv fills.length a.nibs.length
  { s with nibs := (fills.zipIdx).foldl (fun n f => let k := a.nibs.getD (f.2 / max 1 per) (0, 0); turnFill n (k.1 * 160 + k.2) f.1) s.nibs }

def copyExec (s : State) (j : Job) (a : Active) : State :=
  match opnd a 0, a.out with
  | some src, some o =>
    let v := viewOf s j src
    let m := moveGroups s v o (copyGroups a.st src.desc o.desc) (moveCells v o false (copyPairs a.st src.desc o.desc))
    turned (finishMove s a o m.1 m.2 0) a v o.desc
  | _, _ => s

/-- COPY (07 R217). -/
def execCopy (sid : Sid) (s : State) : Host.Outcome State Fault Refusal := runAct s sid opCopy copyExec

/-- FETCH (08 R255): a copy of the source as it stands now; a later write to the source is not seen in it. -/
def execFetch (sid : Sid) (s : State) : Host.Outcome State Fault Refusal := runAct s sid opFetch copyExec

/-! ### Rows (07 R224 to R227) -/

/-- Cells of a row of a rank-2 tensor. -/
def rowCells (d : Desc) : Nat := (gridDims d).getD 1 1
/-- Groups of a row. -/
def rowGroups (d : Desc) : Nat := (groupDims d).getD 1 1

/-- Where row `i` of a gather or scatter points. -/
inductive RowRef where
  | row (r : Nat)
  | none_
  | malformed
  | poison
  deriving DecidableEq, Repr

/-- Index element `i` against a number of rows. -/
def rowRef (ix : View) (rows i : Nat) : RowRef :=
  if elemBad ix [i] then .poison else
  let x := (elemVal ix [i]).ratD.num
  if x = -1 then .none_ else if x < 0 || (rows : Int) ≤ x then .malformed else .row x.toNat

/-- The rows that are processed, and the malformed item of a count beyond the index tensor. Rows beyond those of the indexed side's partner
do not exist and are left out (log entry 16). -/
def rowSpan (a : Active) (ix : Desc) (rows : Nat) : Nat × Nat :=
  (min (min a.count (sizeAt ix 0)) rows, if sizeAt ix 0 < a.count then 1 else 0)

/-- Level-1 entry of a row moved with it: 1.0 for a zero row. -/
def moveL1 (s : State) (src dst : Operand) (row : Nat) (from_ : Option Nat) (ws : WriteSet) : WriteSet :=
  match src.l1, dst.l1 with
  | some a, some b =>
    if a.rank ≠ 1 || b.rank ≠ 1 then ws else
    let at_ := codeBit b row 0
    let ws := wsBits s ws at_ 32 (from_.elim 0x3F800000 fun r => rdBits s (codeBit a r 0) 32)
    if from_.any fun r => rangePoison s (codeBit a r 0 / 8) 4 then wsPoison ws (at_ / 8) 4 else ws
  | _, _ => ws

/-- Cells of row `i` of the destination from a row of the source. -/
def rowPairs (d : Desc) (i : Nat) (f : Nat → From) : List (Nat × From) := (List.range (rowCells d)).map fun k => (i * rowCells d + k, f k)
/-- A level-1 entry of a row is poisoned. -/
def l1Bad (s : State) (src : Operand) (r : Nat) : Bool := src.l1.any fun a => a.rank == 1 && rangePoison s (codeBit a r 0 / 8) 4

/-- A granule that holds a byte of a row of a source, side data included, is poisoned: both stitches read all of them (07 R227). -/
def rowBad (s : State) (v : View) (src : Operand) (r : Nat) : Bool :=
  let n := rowCells v.desc
  let g := rowGroups v.desc
  ((List.range n).any fun k => let c := r * n + k
    v.s8Bad c || v.sideBad c || (List.range (storedLen v.desc)).any fun j => v.codeBad c j) ||
    (isSparse v.desc && (List.range g).any fun k => v.groupBad (r * g + k)) || l1Bad s src r

/-- Where the cells of a row come from: a row that depends on poison is written poisoned whole (07 R227). -/
def rowFrom (s : State) (v : View) (src : Operand) (r k : Nat) : From := if rowBad s v src r then .poison else .cell (r * rowCells v.desc + k) false

def gatherExec (s : State) (j : Job) (a : Active) : State :=
  match opnd a 0, opnd a 1, a.out with
  | some t, some ix, some o =>
    let v := viewOf s j t
    let iv := viewOf s j ix
    let span := rowSpan a ix.desc (sizeAt o.desc 0)
    let refs := (List.range span.1).map fun i => (i, rowRef iv (sizeAt t.desc 0) i)
    let from_ (r : RowRef) (k : Nat) : From := match r with
      | .row x => rowFrom s v t x k
      | .poison => .poison
      | _ => .zero
    let m := moveCells v o true (refs.map fun q => rowPairs o.desc q.1 (from_ q.2)).flatten
    let rowOf (r : RowRef) : Option Nat := match r with
      | .row x => some x
      | _ => none
    let ws := refs.foldl (fun ws q => moveL1 s t o q.1 (rowOf q.2) ws) m.2
    let gs := if !isSparse o.desc then [] else
      (refs.filterMap fun q => (rowOf q.2).map fun x => (List.range (rowGroups o.desc)).map fun k => (q.1 * rowGroups o.desc + k, x * rowGroups o.desc + k)).flatten
    let m := moveGroups s v o gs (m.1, ws)
    finishMove s a o m.1 m.2 ((refs.filter fun q => q.2 == .malformed).length + span.2)
  | _, _, _ => s

/-- GATHER (07 R224). -/
def execGather (sid : Sid) (s : State) : Host.Outcome State Fault Refusal := runAct s sid opGather gatherExec

/-- Pairs (destination row, source row) of a scatter, the highest source row for each destination. -/
def scatterRows (refs : List (Nat × RowRef)) : List (Nat × Nat) :=
  refs.foldl (fun l q => match q.2 with
    | .row x => (l.filter fun p => p.1 != x) ++ [(x, q.1)]
    | _ => l) []

def scatterExec (s : State) (j : Job) (a : Active) : State :=
  match opnd a 0, opnd a 1, a.out with
  | some src, some ix, some o =>
    let v := viewOf s j src
    let iv := viewOf s j ix
    let span := rowSpan a ix.desc (sizeAt src.desc 0)
    let refs := (List.range span.1).map fun i => (i, rowRef iv (sizeAt o.desc 0) i)
    let rows := scatterRows refs
    let m := moveCells v o true (rows.map fun q => rowPairs o.desc q.1 (rowFrom s v src q.2)).flatten
    let ws := rows.foldl (fun ws q => moveL1 s src o q.1 (some q.2) ws) m.2
    let gs := if !isSparse o.desc then [] else
      (rows.map fun q => (List.range (rowGroups o.desc)).map fun k => (q.1 * rowGroups o.desc + k, q.2 * rowGroups o.desc + k)).flatten
    let bad := refs.any fun q => q.2 == .poison
    let m := moveGroups s v o gs (m.1, ws)
    finishMove s a o { m.1 with poisoned := m.1.poisoned || bad } m.2 ((refs.filter fun q => q.2 == .malformed).length + span.2)
  | _, _, _ => s

/-- SCATTER (07 R226). -/
def execScatter (sid : Sid) (s : State) : Host.Outcome State Fault Refusal := runAct s sid opScatter scatterExec

end Sys2Proof.Machine
end

