-- ==== Sys2Proof/Machine/Watch.lean ====
section
/-! DEFINITION. The end of a stitch: its evaluation, the hold, Ohmub's responses, and the two kinds of replay (04 R108 to R121; 06 R194; 08 R256;
12 R384, R388). -/

namespace Sys2Proof.Machine

/-! ### Groups (04 R116, 06 R194) -/

/-- The other stitch of a chained pair. -/
def mateOf (s : State) (a : Active) : Option Active :=
  if !a.st.tileq then none else
  s.acts.find? fun b => b.queue == a.queue && b.st.tileq &&
    if a.st.opcode == opVscript then (b.seq + 1) % 2 ^ 32 == a.seq else (a.seq + 1) % 2 ^ 32 == b.seq

/-- Two stitches belong to one stitch group. -/
def sameGroup (a b : Active) : Bool :=
  a.sid == b.sid || (a.st.group != 0 && b.job == a.job && b.st.group == a.st.group && b.admitStroke == a.admitStroke && b.st.opcode != opCommit)

/-- A stitch, its group, and the other halves of chained pairs among them. -/
def groupMembers (s : State) (a : Active) : List Active :=
  let direct := s.acts.filter fun b => !b.recompute && sameGroup a b
  let mates := direct.filterMap fun b => mateOf s b
  s.acts.filter fun b => !b.recompute && (sameGroup a b || mates.any fun m => sameGroup m b)

/-- A stitch has completed and been evaluated. -/
def evaluated (a : Active) : Bool := a.stage == .held || a.stage == .stepReplay
/-- A held stitch whose response Ohmub has not decided. -/
def undecided (a : Active) : Bool := a.stage == .held && !a.conds.isEmpty

/-! ### Evaluation (04 R108, R111) -/

/-- The counts that conditions are drawn from, each held at its field's maximum (02 R77, 03 R107). -/
def heldCounts (c : Counts) : Counts :=
  { c with clips := satTo 32 c.clips, gimpOvf := satTo 16 c.gimpOvf, s8Exh := satTo 16 c.s8Exh, cancel := satTo 16 c.cancel, nonfinite := satTo 16 c.nonfinite }

/-- Conditions that the held counts of a stitch raise. -/
def raisedBy (w : Watch) (c : Counts) : List (Nat × Nat) :=
  (if w.clipRate != 0xFFFF && c.elems * w.clipRate < c.clips * 2 ^ 20 then [(1, c.clips)] else []) ++
    (if w.gimpRate != 0xFFFF && c.elems * w.gimpRate < c.gimpOvf * 2 ^ 20 then [(2, c.gimpOvf)] else []) ++
    (if w.s8Limit != 0xFFFFFFFF && w.s8Limit < c.s8Exh then [(3, c.s8Exh)] else []) ++
    (if w.cancelLimit != 0xFFFFFFFF && w.cancelLimit < c.cancel then [(4, c.cancel)] else []) ++
    if 0 < c.nonfinite || c.vflags.toNat &&& 0x25 != 0 then [(5, c.nonfinite)] else []

/-- Every condition of an execution, each once. -/
def condsOf (w : Watch) (a : Active) : List (Nat × Nat) :=
  let l := raisedBy w (heldCounts a.counts)
  a.conds.filter (fun c => !(l.any fun d => d.1 == c.1)) ++ l

/-- Once every member of a group is evaluated and no response is open, the members that nothing more holds leave. -/
def settleGroup (s : State) (a : Active) : State :=
  let ms := groupMembers s a
  if ms.all evaluated && !(ms.any undecided) && !(ms.any fun b => b.marks.toReplay) then
    (ms.filter fun b => b.stage == .held).foldl (fun s b => (actOf s b.sid).elim s fun c => releaseAct s c) s
  else s

/-- Evaluate a stitch that has completed: it is held, and it leaves at once unless it or its group raises a condition. A stitch that a step
replay has cleared without a scale changed waits for the comparison of its CRCs (12 R388). -/
def evaluateAct (s : State) (j : Job) (a : Active) : State :=
  let cs := condsOf j.watch a
  if cs.isEmpty && j.step.suspects.contains a.sid && a.stage != .comparing then putAct s { a with stage := .comparing }
  else
    let b := { a with stage := .held, conds := cs }
    settleGroup (putAct s b) b

/-- A recomputed stitch ends: only its record stays (05 R152). -/
def endRecompute (s : State) (a : Active) : State :=
  let s := { dropAct s a.sid with runs := s.runs.filter fun r => r.sid != a.sid }
  let s := updJob s a.job fun j => settleRecords j a.sid
  { s with nibs := { s.nibs with marks := raiseMarks s.nibs.marks a.nibs s.clk.now } }

/-- A poisoned product whose chained script still takes its tiles. -/
def mateRunning (s : State) (a : Active) : Bool :=
  isProduct a.st.opcode && (mateOf s a).any fun b => b.stage == .waiting || b.stage == .running || b.stage == .replaying

/-- A stitch whose result does not count is compared all the same where it must be shadowed: one that includes a nib under retirement, or a recomputation
on a flagged nib (12 R387, 15 R445). -/
def comparesFirst (s : State) (j : Job) (a : Active) : Bool :=
  a.shadow && !a.marks.poisoned && (a.recompute || ((a.marks.discarded || a.marks.mute || j.halted) && s.nibs.retiring.any fun r => a.nibs.any fun n => n.1 * 160 + n.2 == r.1))

/-- What becomes of a stitch whose work is done. -/
def endAct (s : State) (a : Active) : State :=
  match jobOf s a.job with
  | none => completeWith s { a with marks := { a.marks with mute := true } } (statusOf a (strokeNow s))
  | some j =>
    if comparesFirst s j a then putAct s { a with stage := .comparing }
    else if a.marks.discarded then endDiscarded s a
    else if a.recompute then endRecompute s a
    else if a.marks.poisoned then consumePoison s a
    else if a.marks.mute || j.halted then leaveMuted s a
    else if a.marks.escalated then releaseAct s a
    else if a.shadow then putAct s { a with stage := .comparing }
    else evaluateAct s j a

/-- STITCH_COMPLETE (08 R256): the stitch's work has ended `elapsed` ns after its first start. -/
def execStitchComplete (sid : Sid) (elapsed : Nat) (s : State) : Host.Outcome State Fault Refusal :=
  match actOf s sid with
  | none => .next s
  | some a =>
    if a.stage != .finished || (a.marks.poisoned && mateRunning s a) then .next s
    else .next (let u := advance s (a.started.getD s.clk.now + elapsed); afterEnds (endAct u a) u)

/-! ### Responses (04 R114 to R119, 05 R139) -/

/-- Nanoseconds left in the compute window of the stroke in progress. -/
def windowLeft (s : State) : Nat :=
  let w := (s.clk.periodUs * 1000 * (100 - s.clk.xchPct) + 50) / 100
  s.clk.edge + w - s.clk.now

/-- A group's replay fits in the stroke. -/
def replayFits (s : State) (ms : List Active) : Bool := ms.foldl (fun n b => n + b.plannedNs) 0 ≤ windowLeft s

/-- What a condition calls for: 0 accepted, 1 stitch-group replay, 2 step replay. -/
def needOf (c : Nat) : Nat := if c = 2 || c = 4 then 0 else if c = 6 || c = condAcc then 2 else 1
def hasCond (a : Active) (c : Nat) : Bool := a.conds.any fun x => x.1 == c

/-- Ohmub's decision for a held stitch. -/
inductive Response where
  | accept
  | group
  /-- Step replay, with the condition its record names. -/
  | step (cond : Nat)
  | escalate
  | halt
  deriving DecidableEq, Repr

/-- `ACTION` of a response. -/
def actionOf : Response → Nat
  | .group => 1
  | .step _ => 2
  | .accept => 3
  | .escalate => 3
  | .halt => 4

/-- A step replay is called for: what happens instead when none can follow. -/
def stepOr (s : State) (j : Job) (a : Active) (cond : Nat) : Response :=
  if !onStepQueue s a then (if hasCond a condAcc then .escalate else .group)
  else if mayReplay j then .step cond
  else if hasCond a 5 then .halt else .escalate

def respond (s : State) (j : Job) (a : Active) (ms : List Active) : Response :=
  let need := a.conds.foldl (fun n c => max n (needOf c.1)) 0
  if need = 0 then .accept
  else if need = 1 then (if replayFits s ms then .group else stepOr s j a 0)
  else stepOr s j a (if hasCond a 6 then 6 else 0)

/-- Contributions that overflowed are added, held at the limit (05 R139). -/
def holdAcc (s : State) (a : Active) : State × Active :=
  if hasCond a condAcc && a.contribOut then
    (updJob s a.job fun j =>
      let g := tgetD j.grads a.st.out {}
      { j with grads := tset j.grads a.st.out { g with acc := accHold (accAdd g.acc a.contrib) } }, { a with contribOut := false })
  else (s, a)

/-- Count the occurrences of a stitch's conditions, and mark it escalated when the ceiling blocks a climb. -/
def countOccurrences (s : State) (a : Active) (r : Response) : State × Active :=
  let q := occurAll s a (a.conds.filter fun c => c.1 != condAcc) fun _ => actionOf r
  (q.1, match q.2 with
    | some c => { a with marks := { a.marks with escalated := true, escCond := c, escValue := tgetD a.conds c 0 } }
    | none => a)

/-- A response that lets the contribution of an exhausted accumulator enter its total brings it in now. -/
def enterHeld (s : State) (a : Active) (r : Response) : State × Active :=
  match r with
  | .escalate | .halt => holdAcc s a
  | _ => (s, a)

/-- Put a response on a stitch; it then holds no open condition, unless it waits for a step replay. -/
def applyResponse (s : State) (a : Active) (r : Response) : State × Active :=
  let h := enterHeld s a r
  let s := h.1
  let a := h.2
  let first : Nat × Nat := (a.conds.head?).elim (0, 0) fun (c : Nat × Nat) => if c.1 = condAcc then (0, 0) else c
  let b := { a with firstConds := a.firstConds ++ a.conds.map Prod.fst, conds := [], stage := .held }
  match r with
  | .accept => (s, { b with marks := { b.marks with flagged := true } })
  | .group => (s, { b with marks := { b.marks with toReplay := true } })
  | .step c => (requestReplay s a.job (tagOf a) c, { a with stage := .stepReplay })
  | .escalate => (s, if b.marks.escCond = 0 then { b with marks := { b.marks with escalated := true, escCond := first.1, escValue := first.2 } } else b)
  | .halt => (s, { b with marks := { b.marks with escalated := true, halts := true, escCond := 5, escValue := tgetD a.conds 5 0 } })

/-- WATCH_RESPONSE (04 R114): once its group is evaluated, Ohmub decides the response to a held stitch. -/
def execWatchResponse (sid : Sid) (s : State) : Host.Outcome State Fault Refusal :=
  match actOf s sid with
  | none => .next s
  | some a =>
    match jobOf s a.job with
    | none => .next s
    | some j =>
      let ms := groupMembers s a
      if !undecided a || !ms.all evaluated then .next s
      else if j.halted then .next (afterEnds (leaveMuted s a) s)
      else
        let r := respond s j a ms
        let p := countOccurrences s a r
        let q := applyResponse p.1 p.2 r
        .next (afterEnds (settleGroup (putAct q.1 q.2) q.2) s)

/-- New scales of one member before its group's replay (04 R115). -/
def newScales (s : State) (a : Active) : State :=
  let s := if a.firstConds.any fun c => recomputes c && c != 6 then (recomputeOf s a).1 else s
  if a.firstConds.contains 6 then (recomputeGrads s a.job (tagOf a)).1 else s

/-- STITCH_GROUP_REPLAY (04 R117): Ohmub writes the new scales and admits each member of the group again, with `SCALE_SRC` = 0. -/
def execStitchGroupReplay (sid : Sid) (s : State) : Host.Outcome State Fault Refusal :=
  match actOf s sid with
  | none => .next s
  | some a =>
    let ms := groupMembers s a
    let go := ms.all evaluated && !(ms.any undecided) && (ms.any fun b => b.marks.toReplay) && (jobOf s a.job).any fun j => !j.halted && !j.step.rewinding
    if !go then .next s else
    let again := ms.filter fun b => b.stage == .held
    let s := again.foldl newScales s
    let again' (b : Active) : Bool := again.any fun c => c.sid == b.sid
    let renew (b : Active) : Active :=
      { b with stage := .replaying, st := { b.st with scaleSrc := false }, counts := {}, conds := [], tiles := [], amax := []
               marks := { b.marks with toReplay := false, flagged := false, replayed := false } }
    .next { s with acts := s.acts.map fun b => if again' b then renew b else b }

/-- The outcome of one replayed member. -/
def replayOutcome (s : State) (j : Job) (a : Active) : State :=
  let a := { a with conds := condsOf j.watch a }
  if a.conds.isEmpty then releaseAct s { a with marks := { a.marks with replayed := true } }
  else
    let again := hasCond a 5 || (onStepQueue s a && (hasCond a 6 || hasCond a condAcc))
    let r : Response :=
      if hasCond a 5 && !onStepQueue s a then .halt
      else if again then stepOr s j a (if hasCond a 5 then 5 else if hasCond a 6 then 6 else 0)
      else if hasCond a condAcc then .escalate else .accept
    let p := countOccurrences s a r
    let q := applyResponse p.1 p.2 r
    match r with
    | .step _ => putAct q.1 q.2
    | _ => releaseAct q.1 q.2

/-- STITCH_GROUP_REPLAY_DONE (04 R117): every member has replayed, and each is evaluated again, after the comparison of those
that a retirement has called for (12 R387). -/
def execStitchGroupReplayDone (sid : Sid) (s : State) : Host.Outcome State Fault Refusal :=
  match actOf s sid with
  | none => .next s
  | some a =>
    let ms := groupMembers s a
    let late := ms.filter fun b => b.stage == .replayed && b.shadow && !b.marks.poisoned
    if a.stage != .replayed || !(ms.all fun b => b.stage == .replayed || b.stage == .stepReplay) then .next s
    else if !late.isEmpty then .next (late.foldl (fun s b => putAct s { b with stage := .comparing, shadow := false, resume := some .replayed }) s)
    else .next (afterEnds ((ms.filter fun b => b.stage == .replayed).foldl (fun s b =>
      match actOf s b.sid, jobOf s b.job with
      | some c, some j =>
        if c.marks.poisoned then consumePoison s c
        else if c.marks.discarded then endDiscarded s c
        else if j.halted || c.marks.mute then leaveMuted s c
        else if c.marks.escalated && c.marks.halts then releaseAct s c
        else replayOutcome s j c
      | _, _ => s) s) s)

/-- STEP_REPLAY (04 R118): Ohmub carries out the step replay that a response, another part or a vote has requested. -/
def execStepReplay (job : Nat) (s : State) : Host.Outcome State Fault Refusal :=
  match jobOf s job with
  | none => .next s
  | some j => onlyIf (j.step.replayRequested && !j.step.rewinding && !j.halted) s (startStepReplay s job)

end Sys2Proof.Machine
end

