-- ==== Sys2Proof/Machine/Ground.lean ====
section
/-! DEFINITION. What the three Ground stitches share: the stream of a tensor, a receiver's checks, injection, and the end of a Ground stitch (11
R336 to R341, R347 to R352). -/

namespace Sys2Proof.Machine

/-! ### The stream of a tensor (11 R334 `WRITE`, R350; its order is the model's: log entry 20) -/

/-- Bytes of the codes, and where the S8 bytes, gimp words and packed zero points or metadata begin. -/
def codeBytes (d : Desc) : Nat := ceilDiv (cells d * storedLen d * typeBits d.type) 8
def gimpStart (d : Desc) : Nat := codeBytes d + if blocked d then cells d else 0
def zeroStart (o : Operand) : Nat := gimpStart o.desc + if o.gimp.isSome then 4 * cells o.desc else 0
/-- Packed four-bit items beside the codes. -/
def zeroItems (d : Desc) : Nat := if d.type = tU4Z then cells d else if isSparse d then groups d else 0

/-- The stream of a source: stored codes, S8 bytes, gimp words, zero points or metadata, each in linear order. -/
def streamOf (v : View) (o : Operand) : List Byte :=
  let d := o.desc
  let cs := (List.range (cells d)).map fun c => (movedCell v d c (.cell c false)).1
  packItems (typeBits d.type) (cs.map fun c => c.codes.map (·.getD 0)).flatten ++ (if blocked d then cs.map fun c => BitVec.ofNat 8 c.s8 else []) ++
    (if o.gimp.isSome then (cs.map fun c => leBytes 4 c.gword).flatten else []) ++
    if d.type = tU4Z then packItems 4 (cs.map (·.zp)) else if isSparse d then packItems 4 ((List.range (groups d)).map v.group) else []

/-- A source cell is poisoned, by its granules or as a block. -/
def cellPoison (v : View) (c : Nat) : Bool :=
  v.s8Bad c || (!zeroCell v c && (v.sideBad c || (List.range (storedLen v.desc)).any fun j => v.codeBad c j))
/-- A source holds poison that its stitch reads; the metadata of a 2-of-4 tensor is read whole. -/
def sourceBad (v : View) : Bool :=
  ((List.range (cells v.desc)).any fun c => cellPoison v c || (blocked v.desc && v.s8 c == 255)) ||
    (isSparse v.desc && (List.range (groups v.desc)).any v.groupBad)

/-- A byte of the stream comes from a poisoned granule. -/
def byteBad (v : View) (o : Operand) (k : Nat) : Bool :=
  let d := o.desc
  let w := typeBits d.type
  let read (c : Nat) : Bool := !zeroCell v c || v.s8Bad c
  let code (i : Nat) : Bool := let c := i / storedLen d; read c && v.codeBad c (i % storedLen d)
  let side (c : Nat) : Bool := read c && v.sideBad c
  if k < codeBytes d then (List.range (ceilDiv 8 w)).any fun t => code (8 * k / w + t)
  else if k < gimpStart d then v.s8Bad (k - codeBytes d)
  else if k < zeroStart o then side ((k - gimpStart d) / 4)
  else (List.range 2).any fun t => let i := 2 * (k - zeroStart o) + t; if d.type = tU4Z then side i else v.groupBad i

/-- Put one byte of a stream where the destination holds it. -/
def putStreamByte (s : State) (o : Operand) (ws : WriteSet) (k : Nat) (b : Byte) : WriteSet :=
  let d := o.desc
  let w := typeBits d.type
  let x := b.toNat
  let code (item i v : Nat) : Nat × Nat := (codeBit d (item / storedLen d) (item % storedLen d) + i, v)
  if k < codeBytes d then
    if 8 ≤ w then (let p := code (k / (w / 8)) (k % (w / 8) * 8) x; wsBits s ws p.1 8 p.2)
    else (List.range (8 / w)).foldl (fun ws t =>
      let item := k * (8 / w) + t
      if item < cells d * storedLen d then (let p := code item 0 (x / 2 ^ (w * t) % 2 ^ w); wsBits s ws p.1 w p.2) else ws) ws
  else if k < gimpStart d then o.scale.elim ws fun sc => wsBits s ws (8 * s8Addr sc (k - codeBytes d)) 8 x
  else if k < zeroStart o then o.gimp.elim ws fun g => wsBits s ws (8 * (g.base + (k - gimpStart d))) 8 x
  else o.zero.elim ws fun z => (List.range 2).foldl (fun ws t =>
    let item := 2 * (k - zeroStart o) + t
    if item < zeroItems d then wsBits s ws (8 * z.base + 4 * item) 4 (x / 16 ^ t % 16) else ws) ws

/-- Put a piece of a stream into a destination; the granules that hold a marked byte of it are left poisoned (10 R303). -/
def putStream (s : State) (tag : Option Sid) (o : Operand) (at_ : Nat) (data : List Byte) (marks : List Nat) : State :=
  let put (l : List (Byte × Nat)) : WriteSet := l.foldl (fun ws p => putStreamByte s o ws (at_ + p.2) p.1) {}
  let ws := put data.zipIdx
  let bad := touched (put (data.zipIdx.filter fun p => marks.contains p.2))
  applyWrites s tag { ws with poisoned := bad }

/-- Pieces of a source's stream of at most 16 KiB: first byte, bytes, and which of them come from poisoned granules (11 R341). -/
def pieces (v : View) (o : Operand) : List (Nat × List Byte × List Nat) :=
  let l := streamOf v o
  (List.range (ceilDiv l.length 16384)).map fun i =>
    let at_ := 16384 * i
    let data := (l.drop at_).take 16384
    (at_, data, (List.range data.length).filter fun k => byteBad v o (at_ + k))

/-! ### A receiver's checks (11 R339, R348; 07 R216) -/

/-- The Twist state of a descriptor in one number. -/
def twistWord (d : Desc) : Word64 := BitVec.ofNat 64 (d.twSize + 4 * d.twDim + 4096 * d.twSeed)

def sourceOf (o : Operand) (pin : Option Nat) : SendSource :=
  { sizes := dims o.desc, type := o.desc.type, shape := o.desc.shape, bdim0 := o.desc.bdim0, bdim1 := o.desc.bdim1, hasScale := o.desc.scOff != 0
    hasZero := o.desc.zpOff != 0, hasGimp := o.desc.gpOff != 0, twist := twistWord o.desc, l1 := l1Handle o, pin := pin }

/-- The destination pairs with what the first WRITE says of the source (07 R217, R218 with the identity permutation). -/
def sendPairing (x : SendSource) (o : Operand) : Bool :=
  let d := o.desc
  x.sizes == dims d && x.type == d.type && x.shape == d.shape && (d.shape == 0 || x.bdim0 == d.bdim0) && (d.shape != 2 || x.bdim1 == d.bdim1) &&
    x.hasScale == (d.scOff != 0) && x.hasZero == (d.zpOff != 0) && x.hasGimp == (d.gpOff != 0) && x.twist == twistWord d && x.l1 == l1Handle o &&
    !d.stash

/-- Status of a destination at a receiver, 0 when every check passes; the descriptors are read now, and the pin that is to be signalled is checked
with them (08 R238). -/
def destStatus (s : State) (j : Job) (h : Nat) (src : Option SendSource) : Nat :=
  let st : Stitch := { opcode := opCopy, opnd := [h, 0, 0, 0], out := h }
  let t := tensorsOf s j st
  let st := { st with shapeCtl := identityPerm (t.out.elim 0 (·.desc.rank)) }
  (firstFail [handleChecks s j st, rankChecks st t, formatChecks s j st t,
    failIf (src.any fun x => !(t.out.any (sendPairing x))) adBadFormat, windowChecks s j [] st t, readOnlyChecks j st t, aliasChecks st t,
    failIf (src.any fun x => x.pin.any (j.pinCount ≤ ·)) adPinRange]).elim 0 (·.status)

/-! ### Injection and the end of a Ground stitch -/

/-- Messages of a stitch that no answer has freed (11 R336). -/
def outstanding (s : State) (sid : Sid) : Bool := (s.fab.trans.any fun t => t.sid == some sid) || s.fab.waiting.any fun w => w.2.sid == some sid

/-- A Ground stitch starts to run. -/
def startGround (s : State) (a : Active) : State × Active :=
  let p := startAct s a
  let b := { p.2 with stage := .running, allSent := false, marks := { p.2.marks with replayRound := a.stage == .replaying } }
  (putAct p.1 b, b)

/-- Its work is done: it waits for its completion. -/
def groundEnd (s : State) (a : Active) : State := putAct s { a with stage := if a.marks.replayRound then .replayed else .finished }

/-- A Ground stitch that has sent its last message ends when nothing of it is outstanding. -/
def groundCheck (s : State) (sid : Sid) : State :=
  match actOf s sid with
  | none => s
  | some a => if isGround a.st.opcode && a.stage == .running && a.allSent && !outstanding s sid then groundEnd s a else s

/-- It has sent its last message. -/
def groundSent (s : State) (sid : Sid) : State :=
  match actOf s sid with
  | none => s
  | some a => groundCheck (putAct s { a with allSent := true }) sid

/-- Inject a stitch's messages; a station that no route reaches halts the job (11 R337, R338). -/
def injectFor (s : State) (job : Nat) (sid : Sid) (coll : Nat) (ms : List OutMsg) : State :=
  let r := injectAll s ms
  match r.2 with
  | [] => r.1
  | st :: _ => stationLost r.1 job st (some sid) coll

/-- A Ground stitch that a receiver has refused (11 R340, R348): it completes `ABORTED` with the receiver's status and a record is sent. -/
def abortGround (s : State) (a : Active) (station status coll : Nat) : State :=
  let a := { a with marks := { a.marks with aborted := true, admitStatus := status } }
  let s := if a.marks.discarded then endDiscarded s a else completeWith s a stAborted
  jobEvent s a.job { area := areaFabric a.sid station coll 2 status, sid := a.sid, opcode := a.st.opcode, unit := stitchUnit a }

/-- Source of a job's message. -/
def baseMsg (s : State) (j : Job) (a : Active) (dst : Nat) (t : MsgType) : OutMsg :=
  { dst := dst, src := srcOf s j, mtype := t, vl := laneOf t, fjk := j.fjk, epoch := epochOf j, sid := some a.sid }

/-- GROUND_INJECT (11 R352): a planned Ground stitch may inject from the start of its first slot on. -/
def execGroundInject (sid : Sid) (s : State) : Host.Outcome State Fault Refusal :=
  match actOf s sid with
  | none => .next s
  | some a =>
    onlyIf (isGround a.st.opcode && a.stage == .waiting && !a.injected) s (putAct (advance s a.firstSlotNs) { a with injected := true })

/-- Run the execution of a Ground stitch whose slot has begun. -/
def runGround (s : State) (sid : Sid) (opcode : Nat) (f : State → Job → Active → State) : Host.Outcome State Fault Refusal :=
  if (actOf s sid).any (·.injected) then runAct s sid opcode f else .next s

end Sys2Proof.Machine
end

