-- ==== Sys2Proof/Machine/Update.lean ====
section
/-! DEFINITION. UPDATE and the commit: the update rules, norm sums and Journal record, the COMMIT stitch, its vote and the vote's result (05 R162
to R176; 04 R109, R112, R127; 12 R363). -/

namespace Sys2Proof.Machine

/-! ### The parameter record (05 R164) -/

/-- Fields of the update parameter record. -/
structure UpdPar where
  rule : Nat
  side : Nat
  eta : Num
  lam : Num
  tau : Num
  b1 : Num
  b2 : Num
  voters : Nat
  rsv : Bool
  deriving DecidableEq, Repr

def parsePar (x : Nat) : UpdPar :=
  let f (lo : Nat) : Num := decodeFloat fp32 (bits x (lo + 31) lo)
  { rule := bits x 7 0, side := bits x 8 8, eta := f 32, lam := f 64, b1 := f 96, b2 := f 128, tau := f 160, voters := bits x 223 192
    rsv := bits x 31 9 != 0 || bits x 511 224 != 0 }

/-- The owner side of a vote, whose slot 0 holds counts. -/
def countSide (p : UpdPar) : Bool := (p.rule == 3 || p.rule == 4) && p.side == 0
/-- The rule and side use a momentum. -/
def usesMom (p : UpdPar) : Bool := p.rule == 2 || (p.rule == 4 && p.side == 1)
/-- The rule and side form ternary values. -/
def ternarySide (p : UpdPar) : Bool := !(p.rule == 3 && p.side == 1)

/-- A finite number of at least zero. -/
def finNonneg (x : Num) : Bool := x.isFinite && decide (0 ≤ x.ratD)

/-- Every field of a record is in range, and the slots agree with its rule and side (05 R163, R164). -/
def parOk (p : UpdPar) (slot0 : Nat) (master mom : Bool) (out : Option Nat) : Bool :=
  !p.rsv && 1 ≤ p.rule && p.rule ≤ 4 && (p.side == 0 || 3 ≤ p.rule) && finNonneg p.eta && finNonneg p.lam && finNonneg p.tau &&
    (p.rule != 2 || (finNonneg p.b1 && decide (p.b1.ratD ≤ 1))) &&
    (!(p.rule == 2 || p.rule == 4) || (p.b2.isFinite && decide ((1 : Rat) / 2 < p.b2.ratD) && decide (p.b2.ratD < 1))) &&
    (!(3 ≤ p.rule) || (1 ≤ p.voters && p.voters ≤ 32767)) && (master || (p.rule == 3 && p.side == 1)) && mom == usesMom p &&
    (slot0 == tV16) == countSide p && out.all fun t => (t == tV1) == (p.side == 1)

/-! ### One element (05 R165, R167) -/

/-- dz(y, θ). -/
def deadband (y θ : Rat) : Int := if rabs y < θ then 0 else if y = 0 then 0 else if y < 0 then -1 else 1

/-- Sign of a number, 0 for 0. -/
def signInt (y : Rat) : Int := if y = 0 then 0 else if y < 0 then -1 else 1

/-- M8(y): the nearest multiple of 1/128, ties to even. -/
def m8Code (y : Rat) : Nat := unsigned 8 (rneInt (y * 128))

/-- The deadband of a rule and side: τ·r, or τ·N for counts. -/
def threshold (p : UpdPar) (r : Rat) : Rat := p.tau.ratD * if countSide p then (p.voters : Rat) else r

/-- New momentum code. -/
def newMom (p : UpdPar) (m : Rat) (s : Int) : Nat := m8Code (p.b2.ratD * m + (1 - p.b2.ratD) * (s : Rat))

/-- The step of the weight: t for SIGNMOM, s for the other rules. -/
def stepOf (p : UpdPar) (m : Rat) (s : Int) : Int := if p.rule = 2 then signInt (p.b1.ratD * m + (1 - p.b1.ratD) * (s : Rat)) else s

/-- w′ = w − η·(step + λ·w), rounded once to FP32. -/
def newWeight (p : UpdPar) (w : Num) (step : Int) : Num :=
  let x := (Num.ofRat (step : Rat)).add (p.lam.mul w)
  (roundFloat fp32 0 (w.add (p.eta.mul x).negate)).num

/-! ### The stitch -/

/-- Value of a gradient handle's element: a × 2^E (05 R137). -/
def gradVal (g : GradAcc) (l : Nat) : Rat :=
  match g.exps.getD (l / 32) none with
  | some e => ((g.acc.getD l 0 : Int) : Rat) * pow2 e
  | none => 0

/-- What an `UPDATE` computes for one element. -/
structure UpdElem where
  g : Rat
  bad : Bool
  s : Int := 0
  w : Num := .fin false 0
  wNew : Num := .fin false 0
  m : Nat := 0
  vote : Nat := 0
  deriving DecidableEq, Repr

/-- Sums of one `UPDATE` in linear index order (04 R129, 05 R166). -/
def updSums (p : UpdPar) (eta : Word32) (es : List UpdElem) : Norms :=
  let sq (acc : Word64) (x : Num) : Word64 := toFp64 ((ofFp64 acc).add (x.mul x))
  es.foldl (fun n e =>
    if e.bad then n
    else if p.side = 1 then { n with repSq := sq n.repSq (Num.ofRat e.g), repElems := n.repElems + 1 }
    else { n with gSq := sq n.gSq (Num.ofRat e.g), wSq := sq n.wSq e.wNew, uSq := sq n.uSq (e.wNew.add e.w.negate), elems := n.elems + 1
                  nzSteps := n.nzSteps + if e.s = 0 then 0 else 1 })
    { eta := eta, ownerRan := p.side == 0, replicaRan := p.side == 1 }

/-- The element results of an `UPDATE`. -/
def updElems (s : State) (j : Job) (p : UpdPar) (o0 : Operand) (o1 o2 : Option Operand) (thr : Rat) : List UpdElem :=
  let v0 := viewOf s j o0
  let acc := tgetD j.grads o0.desc.handle {}
  let v1 := o1.map fun o => viewOf s j o
  let v2 := o2.map fun o => viewOf s j o
  (List.range (elems o0.desc)).map fun l =>
    let idx := unlinear (dims o0.desc) l
    let counts := o0.desc.type == tV16
    let g : Rat := if counts then (elemVal v0 idx).ratD else gradVal acc l
    let owner := p.side == 0
    let bad := (counts && elemBad v0 idx) || (owner && v1.any fun v => elemBad v idx) || v2.any fun v => elemBad v idx
    let w := v1.elim (.fin false 0) fun v => elemVal v idx
    let m := v2.elim 0 fun v => (elemVal v idx).ratD
    let t := deadband g thr
    let mc := newMom p m t
    { g := g, bad := bad, s := t, w := w, wNew := newWeight p w (stepOf p m t), m := mc
      vote := if p.rule = 3 then (if g < 0 then 1 else 0) else if signed 8 mc < 0 then 1 else 0 }

/-- Write set of the back buffers. -/
def updWrites (s : State) (j : Job) (p : UpdPar) (o1 o2 : Option Operand) (es : List UpdElem) : WriteSet :=
  let put (ws : WriteSet) (o : Operand) (w : Nat) (f : UpdElem → Nat) : WriteSet :=
    let d := frontDesc j o.desc true
    (es.zipIdx).foldl (fun ws e =>
      let a := codeBit d (linear (gridDims d) (unlinear (dims d) e.2)) 0
      let ws := wsBits s ws a w (if e.1.bad then 0 else f e.1)
      if e.1.bad then wsPoison ws (a / 8) (w / 8) else ws) ws
  let ws := if p.side = 0 then o1.elim {} fun o => put {} o 32 fun e => encodeFloat fp32 e.wNew else {}
  if usesMom p then o2.elim ws fun o => put ws o 8 fun e => e.m else ws

/-- Codes of the output: the gradient, or the votes of the replica side. -/
def updOut (p : UpdPar) (t : Nat) (es : List UpdElem) : List (Nat × OutVal × Bool) :=
  (es.zipIdx).map fun e => (e.2, OutVal.code (if p.side = 1 then e.1.vote else (wideCode t (Num.ofRat e.1.g)).1), e.1.bad)

/-- Update-norm jump (04 R108, R109, R112): the ratio when the tag's sum so far exceeds its threshold. -/
def normJump (s : State) (j : Job) (t : TagState) : Option Nat :=
  let n := normSum t
  let eta := (ofFp32 n.eta).ratD
  let nj := (ofFp32 j.watch.normJump).ratD
  if nj = 0 || eta = 0 || t.warm < j.watch.normWarmup then none else
  let mean := meanRatio s t
  match ratioOf n with
  | .nan => none
  | .inf _ => if mean.isFinite then some (toFp64 (.inf false)).toNat else none
  | u =>
    if mean.isFinite && nj * mean.ratD < u.ratD then
      some (if mean.ratD = 0 then (toFp64 (.inf false)).toNat else (toFp64 (Num.ofRat (u.ratD / mean.ratD))).toNat) else none

/-- Execution of an `UPDATE`. -/
def updateExec (s : State) (j : Job) (a : Active) : State :=
  match opnd a 0, opnd a 3 with
  | some o0, some op =>
    let vp := viewOf s j op
    let raw := (List.range 16).foldr (fun i acc => vp.code i 0 + 2 ^ 32 * acc) 0
    let p := parsePar raw
    let o1 := opnd a 1
    let o2 := opnd a 2
    if (List.range 16).any fun i => vp.codeBad i 0 then finishExec s a { poisoned := true }
    else if !parOk p o0.desc.type o1.isSome o2.isSome (a.out.map fun o => o.desc.type) then
      let q := startAct s a
      putAct q.1 { q.2 with stage := afterStage a, marks := { a.marks with escalated := true, halts := true } }
    else
      let tag := tagOf a
      let t := tagState j tag
      let r := if p.side = 1 then t.rReplica else t.rOwner
      let es := updElems s j p o0 o1 o2 (threshold p (ofFp64 r).ratD)
      let poisoned := es.any (·.bad)
      let ws := updWrites s j p o1 o2 es
      let nf := if p.side = 0 then (es.filter fun e => !e.bad && !e.wNew.isFinite).length else 0
      let d : Done := { ws := ws, counts := { nonfinite := nf }, poisoned := poisoned, wideNf := decide (0 < nf) }
      let s1 := match a.out with
        | none => finishExec s a d
        | some o => finishOutput s a o (produce s j.seed a.sid a.st o (updOut p o.desc.type es)) d
      let s2 := updJob s1 a.job fun j => updTag j tag fun t =>
        { t with norms := if t.norms.any fun n => n.1 == a.sid then t.norms.map (fun n => if n.1 == a.sid then (a.sid, updSums p (BitVec.ofNat 32 (bits raw 63 32)) es) else n)
                          else t.norms ++ [(a.sid, updSums p (BitVec.ofNat 32 (bits raw 63 32)) es)] }
      let s3 := match o1 with
        | none => s2
        | some m =>
          if !ternarySide p then s2 else
          let s2 := updJob s2 a.job fun j => updProt j m.desc.handle fun q => { q with ternary := es.map (·.s) }
          journalWrite s2 a.job { fjk := j.fjk, handle := m.desc.handle, tag := m.desc.tag, step := j.committed + 1, rms := r
                                  params := BitVec.ofNat 512 raw, ternary := es.map (·.s) }
      let jump := if p.side = 1 || poisoned then none else (jobOf s3 a.job).bind fun j => normJump s3 j (tagState j tag)
      let s4 := if t.ratios.isEmpty then draw s3 else s3
      match jump with
      | none => s4
      | some v => (actOf s4 a.sid).elim s4 fun b => putAct s4 { b with conds := b.conds ++ [(6, v)] }
  | _, _ => s

/-- An `UPDATE` that only a drain holds back lifts that drain's limit (12 R365, 05 R175). -/
def liftDrain (s : State) (a : Active) : State :=
  match opnd a 1, jobOf s a.job with
  | some o, some j =>
    let hit (d : Drain) : Bool := drainHolds j a d && !d.lifted
    if s.pair.drains.any hit then
      let s := { s with pair := { s.pair with drains := s.pair.drains.map fun d => if hit d then { d with lifted := true } else d } }
      let s := putJob s { j with redecide := true }
      protectRecord s j o.desc.handle 3
    else s
  | _, _ => s

/-- UPDATE (05 R165). -/
def execUpdate (sid : Sid) (s : State) : Host.Outcome State Fault Refusal :=
  match actOf s sid with
  | none => .next s
  | some a => if a.st.opcode == opUpdate && mayExecute a && !drainClear s a then .next (liftDrain s a) else runAct s sid opUpdate updateExec

/-! ### COMMIT and the vote (05 R171, R172; 12 R363) -/

/-- A stitch of the step is held, or is being replayed (05 R171). -/
def stepHeld (s : State) (job : Nat) : Bool :=
  s.acts.any fun a => a.job == job && onStepQueue s a &&
    (a.stage == .held || a.stage == .comparing || a.stage == .replaying || a.stage == .replayed || a.stage == .stepReplay)

/-- COMMIT (05 R171): it starts, unless a stitch of the step is held; then it is deferred. In a halted job it starts too, so that its vote carries the halt
bit (R172, 08 R252). -/
def execCommit (sid : Sid) (s : State) : Host.Outcome State Fault Refusal :=
  match actOf s sid with
  | none => .next s
  | some a =>
    if a.st.opcode == opCommit && a.stage == .waiting && !stepHeld s a.job && (jobOf s a.job).any fun j => j.step.commitSid.isNone then
      let s := noteStart (updJob s a.job fun j => { j with step := { j.step with commitSid := some sid } }) a s.clk.now
      .next (putAct s { a with stage := .running, started := some s.clk.now })
    else .next s

/-- The Journal records of the step in progress are acknowledged, or no partner can acknowledge them (12 R363). -/
def journalClear (s : State) (j : Job) : Bool :=
  !pairFormed s || s.pair.partnerParked || s.pair.unacked.all fun r => !(r.fjk == j.fjk && r.step == j.committed + 1)

/-- COMMIT_VOTE_SEND (12 R363, 05 R172): the part's vote leaves on the control lane; from then on the step's outcome is in doubt here. -/
def execCommitVoteSend (job : Nat) (s : State) : Host.Outcome State Fault Refusal :=
  match jobOf s job with
  | none => .next s
  | some j =>
    if j.step.commitSid.isSome && !j.step.voteSent && !stepHeld s job && journalClear s j then
      let s := putJob s { j with step := { j.step with voteSent := true, voted := (voteOf j).levels }, inDoubt := true }
      let s := { s with out := { s.out with votes := s.out.votes ++ [(job, voteOf j)] } }
      .next (toStations s j "COMMIT_VOTE")
    else .next s

/-- COMMIT_VOTE_RESULT (05 R172, R173): a halt or a disagreement on the step halts the job, and its `COMMIT`, which commits nothing, completes
`ABORTED` (DEDUCED: log entry 39); a replay bit replays the step; otherwise the part commits at the levels of the result, once no stitch of the step is
held (04 R112). -/
def execCommitVoteResult (job : Nat) (vote : Vote) (s : State) : Host.Outcome State Fault Refusal :=
  match jobOf s job with
  | none => .next s
  | some j =>
    if j.step.commitSid.isNone || !j.step.voteSent then .next s
    else if j.halted || vote.halt || vote.step ≠ BitVec.ofNat 64 (j.committed + 1) then
      .next (abortUnstarted (haltJob s job) fun a => a.job == job && a.st.opcode == opCommit && a.started.isSome)
    else if vote.replay then
      let own := j.step.replayRequested
      .next (startStepReplay (putJob s { j with step := { j.step with replayTag := if own then j.step.replayTag else 0
                                                                      replayCond := if own then j.step.replayCond else 0 } }) job)
    else if stepHeld s job then .next s
    else .next (commitStep s job vote.levels)

end Sys2Proof.Machine
end

