-- ==== Sys2Proof/Machine/Collect.lean ====
section
/-! DEFINITION. REDUCE and MULTICAST: leaves, nodes, the way up, the down form and delivery (11 R342 to R348). -/

namespace Sys2Proof.Machine

/-! ### Blocks of 32 elements -/

/-- Element `i` of block `b` of a reduced tensor. -/
def redElem (d : Desc) (b i : Nat) : Option (List Nat) :=
  if blocked d then elemAt d b i else if 32 * b + i < elems d then some (unlinear (dims d) (32 * b + i)) else none

/-- One contribution to a block. -/
structure Contrib where
  zero : Bool := false
  bad : Bool := false
  sb : Nat := 0
  vals : List Int := []
  deriving DecidableEq, Repr

/-- Grid code of a block at this node, and whether its granule is poisoned. -/
def gridCode (s : State) (j : Job) (a : Active) (b : Nat) : Nat × Bool :=
  match opnd a 2 with
  | none => (0, false)
  | some g => let v := viewOf s j g; (v.code b 0, v.codeBad b 0)

/-- Value of a leaf's element: an accumulator's where the handle has one (05 R137), else the stored one with its Twist undone (log entry 37). -/
def leafVal (j : Job) (v : View) (o : Operand) (idx : List Nat) : Num × Bool :=
  match tget j.grads o.desc.handle with
  | some g => (Num.ofRat (gradVal g (linear (dims o.desc) idx)), false)
  | none => (plainVal j.seed v idx, plainBad v idx)

/-- The leaf of a `SUM` on its grid (11 R343), with its clips and non-finite elements. -/
def sumLeaf (s : State) (j : Job) (a : Active) (o : Operand) (v : View) (b : Nat) : Contrib × Counts :=
  let g := gridCode s j a b
  if g.1 = 0 && !g.2 then ({ zero := true }, {}) else
  let es := (List.range 32).map fun i => (redElem o.desc b i).map fun idx => (idx, leafVal j v o idx)
  if g.1 = 255 || g.2 || es.any fun e => e.any fun x => x.2.2 then ({ bad := true }, {}) else
  let one (e : Option (List Nat × Num × Bool)) : Int × Bool × Bool := match e with
    | none => (0, false, false)
    | some x =>
      let rnd := if a.st.round then some (stochBits j.seed a.sid (linear (dims o.desc) x.1)) else none
      let r := roundCode tW16 false rnd (x.2.1.scale (pow2 (127 - (g.1 : Int))))
      (signed 16 r.1, r.2, !x.2.1.isFinite)
  let rs := es.map one
  ({ sb := g.1, vals := rs.map (·.1) }, { clips := (rs.filter fun r => r.2.1).length, nonfinite := (rs.filter fun r => r.2.2).length })

/-- The leaf of a `VOTE` or `MAX`. -/
def plainLeaf (vote : Bool) (o : Operand) (v : View) (b : Nat) : Contrib :=
  let es := (List.range 32).filterMap fun i => redElem o.desc b i
  if es.any fun idx => elemBad v idx then { bad := true } else
  { vals := es.map fun idx => let c := v.code (cellOf v.desc idx).1 0; if vote then (if c = 1 then -1 else 1) else (c : Int) }

/-- A leaf of a `SUM` uses a level-1 scale that is NaN or infinite (01 R30). -/
def leafL1Bad (j : Job) (a : Active) (v : View) (o : Operand) : Bool :=
  collOp a.st == 1 && (tget j.grads o.desc.handle).isNone && (List.range (elems v.desc)).any fun l => elemL1Bad v (unlinear (dims v.desc) l)

def leafOf (s : State) (j : Job) (a : Active) (o : Operand) (b : Nat) : Contrib × Counts :=
  let v := viewOf s j o
  if collOp a.st = 1 then sumLeaf s j a o v b else (plainLeaf (collOp a.st == 2) o v b, {})

/-- The larger of two elements of a `MAX`, as `VMAX` under 06 R190 gives it. -/
def maxCode (t : Nat) (x y : Int) : Int :=
  if t = tINT32 then (unsigned 32 (max (signed 32 x.toNat) (signed 32 y.toNat)) : Nat)
  else
    let m : Mode := { strict := false, rm := 0 }
    let f (c : Int) : Num := inMode m fp32 (decodeFloat fp32 c.toNat)
    (encodeFloat fp32 (outMode m fp32 (maxNum (f x) (f y))).1 : Nat)

/-- Type of the elements of a `MAX` at a node. -/
def maxType (a : Active) : Nat := ((opnd a 0).orElse fun _ => a.out).elim tFP32 fun o => o.desc.type

/-- Element by element, the sum or the maximum of what has come so far and a contribution. -/
def combine (op t : Nat) (acc vals : List Int) : List Int :=
  if acc.isEmpty then vals
  else (List.range (max acc.length vals.length)).map fun i =>
    if op = 3 then (if vals.length ≤ i then acc.getD i 0 else maxCode t (acc.getD i 0) (vals.getD i 0)) else acc.getD i 0 + vals.getD i 0

/-! ### A node (11 R343 to R345) -/

def nodeAt (s : State) (job coll inst : Nat) : Option RedNode := s.fab.reds.find? fun n => n.job == job && n.coll == coll && n.inst == inst
def putNode (s : State) (n : RedNode) : State :=
  { s with fab := { s.fab with reds := s.fab.reds.map fun m => if m.job == n.job && m.coll == n.coll && m.inst == n.inst then n else m } }
def blockAt (n : RedNode) (b : Nat) : RedBlock := (n.blocks.find? fun x => x.block == b).getD { block := b }
def putBlock (n : RedNode) (x : RedBlock) : RedNode :=
  { n with blocks := if n.blocks.any fun y => y.block == x.block then n.blocks.map (fun y => if y.block == x.block then x else y) else n.blocks ++ [x] }

/-- A contribution joins its block; the codes of live ones must agree, and the first sender of another code is kept. -/
def joinBlock (op t who station : Nat) (x : RedBlock) (c : Contrib) : RedBlock :=
  let x := { x with heard := ninsert x.heard who }
  if c.zero then x
  else if c.bad then { x with poisoned := true }
  else
    let differ := op == 1 && x.sb.any fun g => g != c.sb
    { x with sb := some (x.sb.getD c.sb), differ := x.differ.orElse fun _ => if differ then some station else none, acc := if differ then x.acc else combine op t x.acc c.vals }

/-- Every contribution of a block has come. -/
def blockReady (n : RedNode) (x : RedBlock) : Bool := !x.done && (List.range n.children.length).all x.heard.contains && (!n.leaf || x.heard.contains 64)

/-- Blocks whose grid code is 0x00 here, for which no child need send anything: they close when every other block has, with what has come (log entry
20). -/
def closeQuiet (quiet : List Nat) (n : RedNode) : RedNode :=
  if !(n.blocks.all fun x => x.done || quiet.contains x.block || blockReady n x) then n else
  { n with blocks := n.blocks.map fun x => if quiet.contains x.block then { x with heard := 64 :: List.range n.children.length } else x }

/-- Hold a sum at the limits of its width, counting what is held. -/
def holdSum (limit : Int) (l : List Int) : List Int × Nat :=
  (l.map fun x => max (-limit) (min limit x), (l.filter fun x => x < -limit || limit < x).length)
/-- INT32 limits of a node's sums. -/
def holdInt32 (l : List Int) : List Int × Nat :=
  (l.map fun x => max (-2147483648) (min 2147483647 x), (l.filter fun x => x < -2147483648 || 2147483647 < x).length)

/-- Close a block: its sum, and what it counts (11 R343). Poison comes before codes that differ. -/
def closeBlock (op : Nat) (x : RedBlock) : RedBlock × Counts :=
  if x.poisoned then ({ x with done := true, acc := [], sb := none }, {})
  else if x.differ.isSome then ({ x with done := true, poisoned := true, acc := [], sb := none }, { malformed := 1 })
  else if op = 3 then ({ x with done := true }, {})
  else let h := holdInt32 x.acc; ({ x with done := true, acc := h.1 }, { clips := h.2 })

/-- Leaf count of a node, held at its field's maximum. -/
def leafCount (n : RedNode) : Nat := min 131071 (n.childLeaves.foldl (fun c l => c + l.2) (if n.leaf then 1 else 0))

/-! ### What travels (11 R343, R346) -/

/-- The smallest shift with which every element rounds into a W16 mantissa. -/
def shiftFor (l : List Rat) : Nat → Nat → Nat
  | 0, k => k
  | f + 1, k => if l.all fun x => (rneInt (x / pow2 k)).natAbs ≤ 32767 then k else shiftFor l f (k + 1)

def le16 (x : Int) : List Byte := leBytes 2 (unsigned 16 x)

/-- A `SUM` block on its way up: mantissas, `SB`, `SK`, and the elements that its shift rounds. -/
def upSum (x : RedBlock) : List Byte × Nat :=
  if x.poisoned then (List.replicate 64 0 ++ [255, 0], 0)
  else if x.sb.isNone then (List.replicate 66 0, 0)
  else
    let v := (List.range 32).map fun i => ((x.acc.getD i 0 : Int) : Rat)
    let k := shiftFor v 32 0
    let m := v.map fun y => rneInt (y / pow2 k)
    ((m.map le16).flatten ++ [BitVec.ofNat 8 (x.sb.getD 0), BitVec.ofNat 8 k], (v.filter fun y => (rneInt (y / pow2 k) : Rat) * pow2 k != y).length)

/-- A block on its way up: bytes, counts. -/
def upBlock (op : Nat) (x : RedBlock) : List Byte × Counts :=
  if op = 1 then (let u := upSum x; (u.1, { spill := u.2 }))
  else if op = 2 then
    let h := holdSum 32767 ((List.range 32).map fun i => x.acc.getD i 0)
    ((h.1.map le16).flatten, { clips := h.2 })
  else (((List.range 32).map fun i => leBytes 4 (x.acc.getD i 0).toNat).flatten, {})

/-- Bytes of a block on its way up. -/
def upLen (op : Nat) : Nat := if op = 1 then 66 else if op = 2 then 64 else 128

/-- A W16 block of exact values whose unit is 2^`u`: S8, mantissas, clipped elements, elements beyond the top of the S8 range (11 R346). -/
def w16Block (u : Int) (l : List Rat) : Nat × List Int × Nat × Nat :=
  let k : Int := shiftFor (l.map fun x => x / pow2 u) 300 0
  let e := max (-126) (min 127 (u + k))
  let m := l.map fun x => rneInt (x / pow2 e)
  let h := holdSum 32767 m
  ((e + 127).toNat, h.1, h.2, if 127 < u + k then h.2 else 0)

/-- Exact values of a closed block. -/
def blockVals (x : RedBlock) : List Rat := (List.range 32).map fun i => ((x.acc.getD i 0 : Int) : Rat) * pow2 x.unit

/-- Form of what goes down: 1 W16, 2 G8, 3 V16, 4 the elements' own type. -/
def downForm (st : Stitch) : Nat := if collOp st = 1 then collForm st else if collOp st = 2 then 3 else 4
def downLen (form : Nat) : Nat := if form = 1 then 65 else if form = 2 then 33 else if form = 3 then 64 else 128

/-- The down form of a block at the root, with what forming it counts; blocks count no elements here. -/
def downBlock (j : Job) (a : Active) (o : Option Operand) (x : RedBlock) : List Byte × Counts :=
  let form := downForm a.st
  let zero := x.sb.isNone && x.acc.isEmpty
  if form = 1 then
    if x.poisoned then (List.replicate 64 0 ++ [255], {})
    else if zero then (List.replicate 65 0, {})
    else let w := w16Block x.unit (blockVals x); ((w.2.1.map le16).flatten ++ [BitVec.ofNat 8 w.1], { clips := w.2.2.1, s8Exh := w.2.2.2 })
  else if form = 2 then
    let lin (i : Nat) : Nat := (o.bind fun p => (redElem p.desc x.block i).map fun idx => linear (dims p.desc) idx).getD (32 * x.block + i)
    let rnd (i : Nat) : Option Nat := if a.st.round then some (stochBits j.seed a.sid (lin i)) else none
    let q := quantiseBlock { type := tG8, gimp := false, strict := a.st.strict, supplied := none, rnd := rnd } (fun _ => .fin false 1)
      ((if zero then List.replicate 32 0 else blockVals x).map fun y => some (Num.ofRat y)) x.poisoned
    (q.codes.map (BitVec.ofNat 8) ++ [BitVec.ofNat 8 q.s8], { q.counts with elems := 0, zeroBlk := 0, degenBlk := 0 })
  else if form = 3 then (let h := holdSum 32767 ((List.range 32).map fun i => x.acc.getD i 0); ((h.1.map le16).flatten, { clips := h.2 }))
  else (((List.range 32).map fun i => leBytes 4 (x.acc.getD i 0).toNat).flatten, {})

/-- The block that a down form spells, decoded exactly. -/
def readDown (form b : Nat) (l : List Byte) (bad : Bool) : RedBlock :=
  let w (i : Nat) : Int := signed 16 (fieldLe l (2 * i) 2)
  let base : RedBlock := { block := b, done := true, down := true, poisoned := bad }
  if form = 1 then
    let e := (l.getD 64 0).toNat
    if e = 255 then { base with poisoned := true } else if e = 0 then base
    else { base with sb := some e, unit := (e : Int) - 127, acc := (List.range 32).map w }
  else if form = 2 then
    let e := (l.getD 32 0).toNat
    let v := (l.take 32).map fun c => g8Val c.toNat
    if e = 255 then { base with poisoned := true } else if e = 0 then base
    else { base with sb := some e, unit := (e : Int) - 143, acc := v.map fun x => (x.ratD * pow2 16).num, vals := v.map fun x => x.scale (pow2 ((e : Int) - 127)) }
  else if form = 3 then { base with acc := (List.range 32).map w }
  else { base with acc := (List.range 32).map fun i => (fieldLe l (4 * i) 4 : Nat) }

/-! ### Delivery (11 R346, 05 R140, R142) -/

/-- Value of element `i` of a delivered block. -/
def blockNum (x : RedBlock) (i : Nat) : Num := if x.vals.isEmpty then Num.ofRat ((blockVals x).getD i 0) else x.vals.getD i (.fin false 0)

/-- A contribution to a gradient accumulator. -/
def deliverGrad (s : State) (j : Job) (a : Active) (o : Operand) (n : RedNode) : State :=
  let d := o.desc
  let val (b i : Nat) : Option (Nat × Option Rat) :=
    (redElem d b i).map fun idx => (linear (dims d) idx, let x := blockAt n b; if x.poisoned then none else (blockNum x i).rat?)
  let vs := ((List.range (redBlocks d)).map fun b => (List.range 32).filterMap (val b)).flatten
  let vals := (List.range (elems d)).map fun l => (vs.find? fun v => v.1 == l).bind (·.2)
  let g := tgetD j.grads d.handle {}
  let g := if a.stage == .replaying then withdraw a g else { g with contribs := g.contribs + leafCount n }
  let c := accContribute g j.watch.accHeadroom (replayLeft s j a) vals
  let s := putJob s { j with grads := tset j.grads d.handle c.1 }
  let nf := ((List.range (redBlocks d)).map fun b => (List.range 32).filter fun i => !(blockNum (blockAt n b) i).isFinite).flatten.length
  let a := { a with contrib := c.2.1, contribOut := c.2.2 }
  let s := finishExec (putAct s a) a { counts := { a.counts with malformed := 0, nonfinite := a.counts.nonfinite + nf }, poisoned := n.blocks.any (·.poisoned) }
  if c.2.2 then (actOf s a.sid).elim s fun b => putAct s { b with conds := (condAcc, 0) :: b.conds } else s

/-- One cell of a W16 output: pad positions stay out of its scale and are written zero (01 R33), and a block of equal non-zero sums is degenerate (02
R59). -/
def w16Cell (d : Desc) (x : RedBlock) (c : Nat) : CellOut × Counts :=
  let live := (List.range 32).filter fun i => (elemAt d c i).isSome
  let n := live.length
  if x.poisoned then ({ cell := c, codes := List.replicate 32 (some 0), s8 := 255, poisoned := true }, { elems := n })
  else if x.sb.isNone then ({ cell := c, codes := List.replicate 32 (some 0) }, { elems := n, zeroBlk := 1 })
  else
    let vals := (List.range 32).map fun i => if live.contains i then (blockVals x).getD i 0 else 0
    let w := w16Block x.unit vals
    let first := vals.getD (live.headD 0) 0
    ({ cell := c, codes := w.2.1.map fun m => some (unsigned 16 m), s8 := w.1 },
      { elems := n, clips := w.2.2.1, s8Exh := w.2.2.2, degenBlk := if first ≠ 0 && live.all fun i => vals.getD i 0 = first then 1 else 0 })

/-- A W16 output with fresh scales, by the shift rule, with its amax (06 R196). -/
def w16Produced (d : Desc) (n : RedNode) : Produced :=
  let r := (List.range (cells d)).map fun c => w16Cell d (blockAt n c) c
  let mags := ((List.range (cells d)).map fun c => let x := blockAt n c; if x.poisoned then [] else ((List.range 32).filter fun i => (elemAt d c i).isSome).map
    fun i => rabs ((blockVals x).getD i 0)).flatten
  { cells := r.map (·.1), counts := r.foldl (fun t x => addCounts t x.2) {}, poisoned := r.any fun x => x.1.poisoned, amax := [(0, mags.foldl max 0)] }

/-- Elements of a node's result by linear index, with their poison. -/
def redVals {α : Type} (d : Desc) (n : RedNode) (f : RedBlock → Nat → α) : List (Nat × α × Bool) :=
  ((List.range (redBlocks d)).map fun b => (List.range 32).filterMap fun i =>
    (redElem d b i).map fun idx => let x := blockAt n b; (linear (dims d) idx, f x i, x.poisoned)).flatten

/-- What an output of a kind other than an accumulator takes, and the non-finite elements that no quantiser counts. A supplied scale is used as it stands
(02 R54), and a sum goes to a twisted output rotated (log entry 37). -/
def redProduced (s : State) (j : Job) (a : Active) (o : Operand) (n : RedNode) : Produced × Nat :=
  let d := o.desc
  if d.type = tW16 && blocked d && !a.st.scaleSrc then (w16Produced d n, 0)
  else if d.type = tV16 then (produce s j.seed a.sid a.st o (redVals d n fun x i => .code (unsigned 16 (max (-32767) (min 32767 (x.acc.getD i 0))))), 0)
  else if collOp a.st = 3 then (produce s j.seed a.sid a.st o (redVals d n fun x i => .code (x.acc.getD i 0).toNat), 0)
  else
    let tw := towardOutput j.seed d (redVals d n blockNum)
    if quType d.type then (produce s j.seed a.sid a.st o (tw.1.map fun v => (v.1, .num v.2.1, v.2.2)), tw.2)
    else
      let vs := tw.1.map fun v => (v, wideCode d.type v.2.1)
      (produce s j.seed a.sid a.st o (vs.map fun v => (v.1.1, .code v.2.1, v.1.2.2)), tw.2 + (vs.filter fun v => v.2.2 && !v.1.2.2).length)

/-- Elements of a `VOTE` total beyond the V16 range. -/
def voteClips (o : Operand) (n : RedNode) : Nat :=
  if o.desc.type ≠ tV16 then 0 else
  n.blocks.foldl (fun c x => c + (x.acc.filter fun v => v < -32767 || 32767 < v).length) 0

/-- Write a node's output; it ends once its messages are answered. -/
def deliverRed (s : State) (a : Active) (n : RedNode) : State :=
  match jobOf s a.job, a.out with
  | some j, some o =>
    let b := { a with stage := if a.marks.replayRound then .replaying else .waiting }
    let s :=
      if (tget j.grads o.desc.handle).isSome then deliverGrad s j b o n
      else
        let p := redProduced s j b o n
        let c := { a.counts with malformed := 0, nonfinite := a.counts.nonfinite + p.2, clips := a.counts.clips + voteClips o n }
        finishOutput s b o p.1 { counts := c }
    (actOf s a.sid).elim s fun b => groundSent (putAct s { b with stage := .running }) a.sid
  | _, _ => groundSent s a.sid

/-! ### Progress of a node -/

/-- Split blocks into runs of consecutive numbers of at most `cap`, poisoned and other blocks apart where only the message can mark poison. -/
def runsOfBlocks (cap : Nat) (apart : Bool) (l : List RedBlock) : List (List RedBlock) :=
  l.foldl (fun acc x => match acc.reverse with
    | r :: rest =>
      let y := r.getLastD x
      if y.block + 1 = x.block && r.length < cap && (!apart || y.poisoned == x.poisoned) then (((r ++ [x]) :: rest).reverse) else acc ++ [[x]]
    | [] => [[x]]) []

def collArg (n : RedNode) (child leaves first : Nat) : Nat := n.coll * 2 ^ 64 + n.inst * 2 ^ 48 + child * 2 ^ 42 + leaves * 2 ^ 25 + first
/-- Selvedge die of an instance (11 R345). -/
def collDie (coll inst : Nat) : Nat := (coll ^^^ inst) % 4

/-- The child index of this part at its parent stands in the parent's tree node, which this part does not read: the field carries a free value, and
a parent knows the sender by its station (log entry 20). -/
def upMessages (s : State) (j : Job) (a : Active) (n : RedNode) (xs : List RedBlock) : List OutMsg × Counts :=
  let op := collOp a.st
  let sent := if op = 1 then xs.filter fun x => x.poisoned || x.sb.isSome || (gridCode s j a x.block).1 != 0 else xs
  let ups := (runsOfBlocks (16384 / upLen op) (op != 1) sent).map fun r =>
    (r, (r.map fun x => (upBlock op x).1).flatten, r.any (·.poisoned))
  (ups.map fun u => { baseMsg s j a (n.parent.getD 0) .redUp with
      arg := collArg n (Config.childIndex n.coll n.inst (n.parent.getD 0)).toNat (leafCount n) ((u.1.head?).elim 0 (·.block)), data := u.2.1
      marks := markAll (op != 1 && u.2.2) u.2.1, die := collDie n.coll n.inst },
    sent.foldl (fun c x => addCounts c (upBlock op x).2) {})

/-- The messages of a down form to every child. -/
def downMessages (s : State) (j : Job) (a : Active) (n : RedNode) (bs : List (RedBlock × List Byte)) : List OutMsg :=
  let form := downForm a.st
  let runs := runsOfBlocks (16384 / downLen form) (3 ≤ form) (bs.map (·.1))
  (n.children.map fun k => runs.map fun r =>
    let data := (r.map fun x => ((bs.find? fun q => q.1.block == x.block).elim [] (·.2))).flatten
    { baseMsg s j a k .redDown with
      arg := collArg n 0 0 ((r.head?).elim 0 (·.block)), die := collDie n.coll n.inst, data := data
      marks := markAll (decide (3 ≤ form) && r.any (·.poisoned)) data }).flatten

def addCountsTo (s : State) (sid : Sid) (c : Counts) : State := (actOf s sid).elim s fun a => putAct s { a with counts := addCounts a.counts c }

/-- Every block of the node is closed. -/
def allClosed (n : RedNode) : Bool :=
  match n.size with
  | some k => (List.range k).all fun b => (blockAt n b).done
  | none => !n.blocks.isEmpty && n.blocks.all (·.done)

/-- The root has its total: with `DELIVER` 0x2 it sends the down form first and delivers from it, else it delivers the sums. -/
def deliverRoot (s : State) (j : Job) (a : Active) (n : RedNode) : State :=
  let bs := (List.range (n.size.getD 0)).map fun b =>
    let x := blockAt n b
    { x with unit := x.sb.elim 0 fun g => (g : Int) - 127 }
  if collDeliver a.st ≠ 2 then deliverRed s a { n with blocks := bs } else
  let forms := bs.map fun x => (x, (downBlock j a a.out x))
  let s := addCountsTo s a.sid (forms.foldl (fun c f => addCounts c f.2.2) {})
  let down := forms.map fun f => readDown (downForm a.st) f.1.block f.2.1 f.1.poisoned
  let n := { n with blocks := down }
  let s := injectFor (putNode s n) j.id a.sid n.coll (downMessages s j a n (forms.map fun f => (f.1, f.2.1)))
  (actOf s a.sid).elim s fun a => deliverRed s a n

/-- A record for a block whose codes differ (11 R343, R353). -/
def differRecord (s : State) (a : Active) (station coll : Nat) : State :=
  jobEvent s a.job { area := areaFabric a.sid station coll 3 0, sid := a.sid, opcode := a.st.opcode, unit := stitchUnit a }

/-- What follows once blocks of a node may have become complete; a block whose codes differ sends its record. -/
def nodeStep (s : State) (j : Job) (a : Active) (n : RedNode) : State :=
  let op := collOp a.st
  let n := if op = 1 then closeQuiet ((List.range (n.size.getD 0)).filter fun b => (gridCode s j a b).1 == 0) n else n
  let ready := n.blocks.filter (blockReady n)
  let closed := ready.map fun x => closeBlock op x
  let s := (ready.filter fun x => !x.poisoned).foldl (fun s x => x.differ.elim s fun st => differRecord s a st n.coll) s
  let n := closed.foldl (fun n c => putBlock n c.1) n
  let s := addCountsTo (putNode s n) a.sid (closed.foldl (fun c x => addCounts c x.2) {})
  match n.parent with
  | none => if allClosed n then (actOf s a.sid).elim s fun a => deliverRoot s j a n else s
  | some _ =>
    let up := upMessages s j a n (closed.map (·.1))
    let s := injectFor (addCountsTo s a.sid up.2) j.id a.sid n.coll up.1
    if allClosed n && collDeliver a.st ≠ 2 then groundSent s a.sid else s

/-- Contributions of one sender join their blocks. -/
def contribute (a : Active) (n : RedNode) (who station : Nat) (cs : List (Nat × Contrib)) : RedNode :=
  cs.foldl (fun n c => putBlock n (joinBlock (collOp a.st) (maxType a) who station (blockAt n c.1) c.2)) n

/-! ### REDUCE (11 R342) -/

/-- The node of a stitch as it starts. -/
def newNode (s : State) (j : Job) (a : Active) (size : Option Nat) : RedNode :=
  let t := (opnd a 3).bind fun o => treeNode s o.desc
  { job := a.job, coll := coll a.st, inst := collInst a.st, epoch := epochOf j, sid := a.sid, parent := t.bind (·.parent)
    children := t.elim [] (·.children), leaf := (opnd a 0).isSome, size := size
    relay := if size.isNone && a.st.opcode == opReduce then some a else none }

/-- Blocks of a reduction at a node, where one of its tensors gives them. -/
def redSize (a : Active) : Option Nat :=
  match (opnd a 0).orElse (fun _ => a.out), opnd a 2 with
  | some o, _ => some (redBlocks o.desc)
  | none, some g => some (elems g.desc)
  | none, none => none

/-- Messages held for a node are delivered again once it stands (11 R344). -/
def releaseFor (s : State) (j : Job) (n : RedNode) : State :=
  releaseHeld s fun m => m.hdr.fjk == j.fjk && (m.hdr.mtype == .redUp || m.hdr.mtype == .redDown) && m.hdr.epoch == n.epoch &&
    argBits m.hdr 95 64 == n.coll && argBits m.hdr 63 48 == n.inst

def reduceExec (s : State) (j : Job) (a : Active) : State :=
  let replay := a.stage == .replaying
  let p := startGround s a
  let l1 := (opnd a 0).any fun o => leafL1Bad j a (viewOf s j o) o
  let a := if l1 then { p.2 with marks := { p.2.marks with flagged := true }, conds := [(5, 0)] } else p.2
  let p := (putAct p.1 a, a)
  match (if replay then nodeAt p.1 a.job (coll a.st) (collInst a.st) else none) with
  | some n =>
    if n.parent.isNone || collDeliver a.st == 2 then (if n.blocks.all (·.done) then deliverRed p.1 a n else p.1) else groundSent p.1 a.sid
  | none =>
    let n := newNode p.1 j a (redSize a)
    let s := { p.1 with fab := { p.1.fab with reds := p.1.fab.reds ++ [n] } }
    let bs := List.range (n.size.getD 0)
    let leaves := (opnd a 0).elim [] fun o => bs.map fun b => (b, leafOf s j a o b)
    let s := addCountsTo s a.sid (leaves.foldl (fun c l => addCounts c l.2.2) {})
    -- a leaf that reads poison completes `POISONED` at this node, whatever it delivers (01 R27)
    let s := if leaves.any fun l => l.2.1.bad then (actOf s a.sid).elim s fun b => putAct s { b with marks := { b.marks with poisoned := true } } else s
    let n := contribute a (bs.foldl (fun n b => putBlock n (blockAt n b)) n) 64 (srcOf s j) (leaves.map fun l => (l.1, l.2.1))
    let s := putNode s n
    let s := (actOf s a.sid).elim s fun a => nodeStep s j a n
    releaseFor s j n

/-- REDUCE (11 R342). -/
def execReduce (sid : Sid) (s : State) : Host.Outcome State Fault Refusal := runGround s sid opReduce reduceExec

/-! ### RED_UP (11 R344) -/

/-- Contributions of a message: block and contribution. -/
def upContribs (op first : Nat) (data : List Byte) (bad : Bool) : List (Nat × Contrib) :=
  let n := upLen op
  (List.range (data.length / n)).map fun i =>
    let l := (data.drop (n * i)).take n
    let w (k : Nat) : Int := signed 16 (fieldLe l (2 * k) 2)
    (first + i,
      if op = 1 then
        let sb := (l.getD 64 0).toNat
        let sk := (l.getD 65 0).toNat
        if sb = 255 || bad then { bad := true } else if sb = 0 then { zero := true } else { sb := sb, vals := (List.range 32).map fun k => w k * 2 ^ sk }
      else if bad then { bad := true }
      else if op = 2 then { vals := (List.range 32).map w } else { vals := (List.range 32).map fun k => (fieldLe l (4 * k) 4 : Nat) })

/-- Bytes of reduction memory in use on a die: INT32 sums of the blocks in flight (11 R345). -/
def reductionBytes (s : State) (die : Nat) : Nat :=
  (s.fab.reds.filter fun n => collDie n.coll n.inst == die).foldl (fun t n => t + 128 * (n.blocks.filter fun b => !b.done && !b.acc.isEmpty).length) 0

/-- The node that a message of a collective names. -/
def msgNode (s : State) (j : Job) (h : MsgHdr) : Option RedNode := nodeAt s j.id (argBits h 95 64) (argBits h 63 48)
/-- The stitch of a node: its own while it runs, or what a node without a size keeps of it. -/
def nodeAct (s : State) (n : RedNode) : Option Active := (actOf s n.sid).orElse fun _ => n.relay

/-- The contributions of a message that its node has not heard from the sender. -/
def freshContribs (a : Active) (n : RedNode) (h : MsgHdr) (data : List Byte) (bad : Bool) : List (Nat × Contrib) :=
  (upContribs (collOp a.st) (argBits h 24 0) data bad).filter fun c => !(blockAt n c.1).heard.contains (n.children.idxOf h.src)

/-- Contributions do not fit in the reduction memory of their die (11 R345). -/
def overMemory (s : State) (n : RedNode) (cs : List (Nat × Contrib)) : Bool :=
  16777216 < reductionBytes s (collDie n.coll n.inst) + 128 * (cs.filter fun c => (blockAt n c.1).acc.isEmpty).length

/-- Memory that the contributions of a RED_UP will take on a die, where its node stands. -/
def upNeeds (s : State) (die : Nat) (m : InMsg) : Nat :=
  if m.hdr.mtype != .redUp then 0 else
  ((jobByFjk s m.hdr.fjk).bind fun j => (msgNode s j m.hdr).bind fun n => (nodeAct s n).map fun a =>
    if collDie n.coll n.inst = die then 128 * ((freshContribs a n m.hdr m.data false).filter fun c => (blockAt n c.1).acc.isEmpty).length else 0).getD 0
/-- A RED_UP at its port finds no room beside the sums in flight and the messages that have already been let in. -/
def noRedRoom (s : State) (h : MsgHdr) (data : List Byte) : Bool :=
  let die := collDie (argBits h 95 64) (argBits h 63 48)
  let need := upNeeds s die { hdr := h, data := data }
  need != 0 && 16777216 < reductionBytes s die + s.fab.inbox.foldl (fun n m => n + upNeeds s die m) need

/-- RED_UP (11 R344). -/
def execRedUp (hdr : MsgHdr) (data : List Byte) (poisoned : Bool) (s : State) : Host.Outcome State Fault Refusal :=
  let s0 := s
  let m := inMsg s hdr data (markAll poisoned data) none
  let poisoned := !m.marks.isEmpty
  let s := takeInbox s hdr data
  match verdict s hdr with
  | .take j =>
    match msgNode s j hdr with
    | none => .next (holdMsg s m)
    | some n =>
      match nodeAct s n with
      | none => .next (ackTo s hdr 2)
      | some a =>
        let who := n.children.idxOf hdr.src
        let beyond := n.size.any fun k => (upContribs (collOp a.st) (argBits hdr 24 0) data poisoned).any fun c => k ≤ c.1
        let fresh := freshContribs a n hdr data poisoned
        if n.children.length ≤ who || beyond then .next (addCountsTo s a.sid { malformed := 1 })
        else if overMemory s n fresh then .next s0
        else
          let n := contribute a { n with childLeaves := tset n.childLeaves who (argBits hdr 41 25) } who hdr.src fresh
          let s := ackTo (putNode s n) hdr 2
          .next (nodeStep s j ((actOf s a.sid).getD a) n)
  | v => .next (notNow s m v)

/-! ### MULTICAST (11 R348) -/

/-- RED_DOWN messages of a stretch of a stream to every child; each brings what the root says of its source (log entry 20). -/
def castMessages (s : State) (j : Job) (a : Active) (n : RedNode) (source : Option SendSource) (at_ : Nat) (data : List Byte) (marks : List Nat) : List OutMsg :=
  n.children.map fun k => { baseMsg s j a k .redDown with
    arg := collArg n 0 0 (at_ / 64), data := data, marks := marks, source := source, die := collDie n.coll n.inst }

/-- Bytes that have arrived of a multicast. -/
def castBytes (n : RedNode) : Nat := n.blocks.foldl (fun t b => t + (b.acc.headD 0).toNat) 0

def multicastExec (s : State) (j : Job) (a : Active) : State :=
  let p := startGround s a
  let a := p.2
  let old := nodeAt p.1 a.job (coll a.st) (collInst a.st)
  let n := old.getD (newNode p.1 j a none)
  let s := if old.isSome then p.1 else { p.1 with fab := { p.1.fab with reds := p.1.fab.reds ++ [n] } }
  match opnd a 0, a.out with
  | some src, some o =>
    let v := viewOf s j src
    let ms := (pieces v src).map fun q => castMessages s j a n (some (sourceOf src none)) q.1 q.2.1 q.2.2
    let b := { a with stage := if a.marks.replayRound then .replaying else .waiting }
    let gs := if isSparse o.desc then (List.range (groups o.desc)).map fun g => (g, g) else []
    let m := moveGroups s v o gs (moveCells v o false ((List.range (cells o.desc)).map fun c => (c, .cell c false)))
    let s := finishMove (putAct s b) b o m.1 m.2 0
    let s := (actOf s a.sid).elim s fun b => putAct s { b with stage := .running, marks := { b.marks with poisoned := b.marks.poisoned || sourceBad v } }
    groundSent (injectFor s j.id a.sid n.coll ms.flatten) a.sid
  | _, some o => if a.marks.replayRound && dataBytes o ≤ castBytes n then groundSent s a.sid else releaseFor s j n
  | _, _ => s

/-- MULTICAST (11 R348). -/
def execMulticast (sid : Sid) (s : State) : Host.Outcome State Fault Refusal := runGround s sid opMulticast multicastExec

/-- A stretch of a multicast arrives at a node: the first one brings the checks of its output against the root's source, and a node that refuses names
itself in its record. -/
def castArrives (s : State) (j : Job) (a : Active) (n : RedNode) (m : InMsg) : State :=
  let hdr := m.hdr
  match a.out with
  | none => ackTo s hdr 2
  | some o =>
    let unit := argBits hdr 24 0
    let status := if n.blocks.isEmpty then destStatus s j o.desc.handle m.source else 0
    if status ≠ 0 then abortGround (nackTo s hdr 2 status) a (srcOf s j) status n.coll
    else if n.blocks.any fun b => b.block == unit then ackTo s hdr 2
    else
      let s := putStream s (some a.sid) o (64 * unit) m.data m.marks
      let n := putBlock n { block := unit, done := true, acc := [(m.data.length : Nat)] }
      let s := putAct (putNode s n) { a with marks := { a.marks with poisoned := a.marks.poisoned || !m.marks.isEmpty } }
      let s := ackTo (injectFor s j.id a.sid n.coll (castMessages s j a n m.source (64 * unit) m.data m.marks)) hdr 2
      if dataBytes o ≤ castBytes n then groundSent s a.sid else s

/-- The down form of blocks arrives at a node of a reduction. -/
def downArrives (s : State) (j : Job) (a : Active) (n : RedNode) (m : InMsg) : State :=
  let hdr := m.hdr
  let data := m.data
  let form := downForm a.st
  let k := downLen form
  let first := argBits hdr 24 0
  let bs := (List.range (data.length / k)).map fun i => readDown form (first + i) ((data.drop (k * i)).take k) !m.marks.isEmpty
  let fresh := bs.filter fun b => !(blockAt n b.block).down
  let n := fresh.foldl putBlock n
  let s := putNode s n
  let ms := if fresh.isEmpty then [] else n.children.map fun c => { baseMsg s j a c .redDown with
    arg := collArg n 0 0 first, data := data, marks := m.marks, die := collDie n.coll n.inst }
  let s := ackTo (injectFor s j.id a.sid n.coll ms) hdr 2
  if !fresh.isEmpty && n.size.all fun z => (List.range z).all fun b => (blockAt n b).down
  then (actOf s a.sid).elim s fun a => deliverRed s a n else s

/-- RED_DOWN (11 R346, R348). -/
def execRedDown (hdr : MsgHdr) (body : DownBody) (marks : List Nat) (s : State) : Host.Outcome State Fault Refusal :=
  let m := inMsg s hdr body.bytes marks body.source
  let s := takeInbox s hdr body.bytes
  match verdict s hdr with
  | .take j =>
    match msgNode s j hdr with
    | none => .next (holdMsg s m)
    | some n =>
      match actOf s n.sid with
      | none => .next (ackTo s hdr 2)
      | some a =>
        if n.parent != some hdr.src then .next (addCountsTo s a.sid { malformed := 1 })
        else .next (if a.st.opcode == opMulticast then castArrives s j a n m else downArrives s j a n m)
  | v => .next (notNow s m v)

end Sys2Proof.Machine
end

