-- ==== Sys2Proof/Machine/Controller.lean ====
section
/-! DEFINITION. The memory controllers: write-combining entries, granule reads, the patrol scrub, failing rows and retired frames (09 R284; 10
R295 to R313; 16 R465). -/

namespace Sys2Proof.Machine

/-- The HBM is powered and out of self-refresh (16 R460, R479, R481). -/
def hbmOn (s : State) : Bool := s.pwr.railsOn && s.hub.pstate != 2

/-! ### Write-combining entries (10 R295, R296) -/

/-- The read of a drain's read-modify-write found its granule uncorrectable: the merged granule has `POISON` set (10 R297). -/
def rmwFound (m : Mem) (e : WcbEntry) (outcome : ReadOutcome) : Mem :=
  if outcome == .uncorrectable && e.data.length != 64 then setPoison m (e.granule / 64) else m

/-- WCB_WRITE (10 R295): a write within one granule; `outcome` is what the read finds with which the oldest entry of a full buffer drains. A nib's
write needs a request slot, which it holds until the buffer accepts it (09 R282, R283): with none free it waits. -/
def execWcbWrite (piece : Piece) (sid : Sid) (outcome : ReadOutcome) (s : State) : Host.Outcome State Fault Refusal :=
  let g := s.nibs.grade
  let addr := piece.addr
  let data := piece.data
  let gr := addr / 64 * 64
  let m := acceptGranule g s.clk.now (some sid) s.mem gr (bytesAt addr data).bytes false
  let m := (fullOldest g s.mem gr).elim m fun e => rmwFound m e outcome
  let slot := piece.nib.all fun n => slotRoom s n addr
  if !inHbm g addr then .fault (.addressHole addr) else onlyIf (hbmOn s && slot && addr % 64 + data.length ≤ 64) s { s with mem := m }

/-- WCB_HOLD_TIMEOUT (10 R296): an entry held for 1 µs drains. -/
def execWcbHoldTimeout (held : HeldGranule) (s : State) : Host.Outcome State Fault Refusal :=
  match s.mem.wcb.find? fun e => e.granule == held.granule with
  | none => .next s
  | some e => .next { advance s (e.since + 1000) with mem := rmwFound (drainIf s.mem fun x => x.granule == held.granule) e held.outcome }

/-! ### Requests in flight (09 R282 to R284) -/

/-- Requests that stand in the queue of an address's bank. -/
def bankQueue (s : State) (a : Nat) : List MemReq := s.mem.reqs.filter fun r => r.queued && sameBank s.nibs.grade r.granule a

/-- A request is issued: it takes its slot, and a place in its bank's queue of 32 if there is one (09 R284). -/
def issueReq (s : State) (r : MemReq) : State :=
  { s with mem := { s.mem with reqs := s.mem.reqs ++ [{ r with queued := (bankQueue s r.granule).length < 32 }] } }

/-- The oldest of a list of requests. -/
def oldestReq (l : List MemReq) : Option MemReq :=
  l.foldl (fun b r => some (b.elim r fun x => if r.since < x.since then r else x)) none

/-- A request of a bank is served now: the oldest promoted one first, then the demand requests that hit the open row, then the other demand requests,
and a scrub read when no demand request stands in the queue (09 R284, 10 R305). -/
def servedNow (s : State) (r : MemReq) : Bool :=
  let q := bankQueue s r.granule
  let demand := q.filter fun x => !x.scrub
  let l (x : MemReq) := place s.nibs.grade x.granule
  let hit (x : MemReq) : Bool := tget s.mem.openRow (bankKey (l x)) == some (l x).row
  r.queued && match oldestReq (q.filter (·.promoted)) with
    | some p => p == r
    | none => if r.scrub then demand.isEmpty else hit r || !demand.any hit

/-- A request is served: its slot and its place in the queue are free, its row is open, and the oldest request that waits for the bank's queue
enters it. -/
def endReq (s : State) (r : MemReq) : State :=
  let l := place s.nibs.grade r.granule
  let rest := s.mem.reqs.erase r
  let next := rest.find? fun x => !x.queued && sameBank s.nibs.grade x.granule r.granule
  { s with mem := { s.mem with reqs := rest.map fun x => if next == some x then { x with queued := true } else x
                               openRow := tset s.mem.openRow (bankKey l) l.row } }

/-- REQUEST_PROMOTE (09 R284): a request that has waited 2 µs stands ahead of its bank's other requests. -/
def execRequestPromote (granule since : Nat) (s : State) : Host.Outcome State Fault Refusal :=
  if !inHbm s.nibs.grade granule then .fault (.addressHole granule) else
  let t := advance s (since + 2000)
  let it (r : MemReq) : Bool := r.granule == granule && r.since == since
  let t := if t.mem.reqs.any it then t else issueReq t { granule := granule, since := since }
  .next { t with mem := { t.mem with reqs := t.mem.reqs.map fun r => if it r then { r with promoted := true } else r } }

/-! ### Frames and rows that fail (10 R309 to R314) -/

/-- The job one of whose windows holds an address. -/
def ownerOf (s : State) (a : Nat) : Option Nat := (s.jobs.find? fun j => (windowAt j.2 a).isSome).map (·.1)

/-- A `MEMORY` record to the job that owns an address. -/
def memoryEvent (s : State) (a at_ action : Nat) : State :=
  let l := place s.nibs.grade at_
  (ownerOf s a).elim s fun j =>
    jobEvent s j { area := areaMemory a (strokeNow s) action l.stack l.pc, unit := { engine := 9, panel := l.stack / 2, stack := l.stack } }

/-- A stack with more than 256 retired frames is degraded. -/
def checkDegraded (s : State) (stack : Nat) : State :=
  let n := (s.mem.retired.filter fun r => r.2 == stack).length
  if n ≤ 256 || s.mem.degraded.contains stack then s else
  health { s with mem := { s.mem with degraded := ninsert s.mem.degraded stack } } { code := 0x0302, severity := 2, stack := stack, value := n }

/-- Retire the frame of an address because of the row that holds it: zero data and poison, the list, a health record, a `MEMORY` record. -/
def retireFrame (s : State) (a : Nat) : State :=
  if frameRetired s.mem a then s else
  let f := frameOf a
  let stack := (place s.nibs.grade a).stack
  let m := zeroRange s.mem f 65536
  let m := { m with retired := m.retired ++ [(f, stack)], unsaved := if nvReady s then m.unsaved else m.unsaved ++ [(f, stack)] }
  let s := { s with mem := m }
  let s := health (if nvReady s then nvWrite s (.frame f stack) else s) { code := 0x0301, severity := 1, stack := stack, value := f }
  checkDegraded (memoryEvent s f a 1) stack

/-- Spare rows left in a bank group. -/
def sparesLeft (m : Mem) (group : Nat) : Nat := Config.spareRows - tgetD m.sparesUsed group 0

/-- Put a row on a spare row of its bank group and log the repair (10 R308, R309). -/
def repairRow (s : State) (row : Nat) (hard : Bool) : State :=
  let m := s.mem
  let log := m.repairLog.filter fun r => r.1 != row
  let m := { m with sparesUsed := tadj m.sparesUsed (row / 65536) 0 (· + 1), repairLog := log ++ [(row, hard)], rowErrs := tdel m.rowErrs row
                    unlogged := if nvReady s then m.unlogged else m.unlogged ++ [(row, hard)] }
  let s := { s with mem := m }
  if nvReady s then nvWrite s (.repair row hard) else s

/-- Rewrite a granule with zero data and `POISON` 1. -/
def poisonGranule (m : Mem) (a : Nat) : Mem := setPoison (zeroRange m (a / 64 * 64) 64) (a / 64)

/-- Those of the 16 granules of an address's row that a remap reads as uncorrectable are poisoned (10 R309 step 2). -/
def poisonRow (m : Mem) (a : Nat) (bad : List Nat) : Mem :=
  (bad.filter (· < 16)).foldl (fun m i => poisonGranule m (a / 1024 * 1024 + 64 * i)) m

/-- A row is failing: its bank's pending entries drain, its granules are read, and it is remapped, or its frame is retired when no spare row is
left. -/
def failRow (s : State) (a : Nat) (bad : List Nat) : State :=
  let l := place s.nibs.grade a
  let s := { s with mem := poisonRow (drainIf s.mem fun e => sameBank s.nibs.grade e.granule a) a bad }
  if sparesLeft s.mem (groupKey l) = 0 then retireFrame s a else repairRow s (rowKey l) false

/-- One corrected error against a row. -/
def countCorrected (s : State) (a : Nat) (bad : List Nat) : State :=
  let k := rowKey (place s.nibs.grade a)
  let n := tgetD s.mem.rowErrs k 0 + 1
  let s := { s with mem := { s.mem with rowErrs := tset s.mem.rowErrs k n } }
  if s.mgmt.cfg.rowCeLimit ≤ n then failRow s a bad else s

/-! ### Reads (10 R301, R304, R306) -/

/-- What a read leaves in memory; a Pillow line has no row. The pending entry of the granule drains first, and an uncorrectable granule that its
read-modify-write meets is rewritten with the merged data and `POISON` 1 (10 R296, R297). -/
def granuleRead (s : State) (a : Nat) (outcome : ReadOutcome) (bad : List Nat) : State :=
  let pending := s.mem.wcb.find? fun e => e.granule == a
  let s := { s with mem := drainIf s.mem fun e => e.granule == a }
  match outcome, pending with
  | .clean, _ => s
  | .corrected, _ => if granulePoisoned s.mem a || inPillow s.nibs.grade a then s else countCorrected s a bad
  | .uncorrectable, some e => { s with mem := rmwFound s.mem e .uncorrectable }
  | .uncorrectable, none =>
    let s := { s with mem := poisonGranule s.mem a }
    if inPillow s.nibs.grade a then s else failRow s a bad

/-- A granule read whose request is served: the data goes to the reader, poisoned or not. -/
def readServed (s : State) (granule : Nat) (outcome : ReadOutcome) (bad : List Nat) : State :=
  let t := granuleRead s granule outcome bad
  { t with out := { t.out with granule := some (if outcome == .uncorrectable || rangePoison s granule 64 then none else some (rdBytes s granule 64)) } }

/-- Nib that reads, and the half of the granule that a read on its narrow path asks for. -/
def readerNib : Reader → Option (Nat × Nat)
  | .nib p n => some (p, n)
  | .narrow p n _ => some (p, n)
  | .host => none
  | .ohmub => none
  | .own _ => none
def readerHalf : Reader → Option Nat
  | .narrow _ _ h => some (h % 2)
  | _ => none

/-- A copy of Ohmub's own structures was read: a poisoned one is recorded, and a clean one rebuilds the other at the granule that was recorded
poisoned. With both poisoned there is nothing to rebuild from, and the warm restart of OHMUB_WARM_RESTART follows (12 R380). -/
def ownCopyRead (s : State) (copy granule : Nat) (poisoned : Bool) : State :=
  if poisoned then { s with hub := { s.hub with badCopies := tset s.hub.badCopies (copy % 2) granule } } else
  match tget s.hub.badCopies ((copy + 1) % 2), tget s.hub.badCopies (copy % 2) with
  | some g, none =>
    { s with mem := clearPoison (zeroRange s.mem (g / 64 * 64) 64) (g / 64), hub := { s.hub with badCopies := tdel s.hub.badCopies ((copy + 1) % 2) } }
  | _, _ => s

/-- COPY_POISONED to the partner whose copy it was (11 R331, 12 R381). -/
def tellPoisoned (s : State) (fjk : Word32) (handle : Nat) (slot : Option Nat) (step : Nat) : State :=
  ctrlTo s s.fab.station (s.pair.partner.getD 0) fjk "COPY_POISONED" (handle * 2 ^ 64 + slot.elim 0 (fun x => 2 ^ 63 + x * 2 ^ 62) + step % 2 ^ 32)

/-- One granule of the guard region has lost its data: which slot or Journal record of the partner stood in it, if any, is a free value. A slot is
no longer complete, a record is gone, and the owner is told (12 R381; log entries 2 and 12). -/
def copyHit (s : State) : State :=
  let n := s.pair.slots.length
  let pick := drawn s % (n + s.pair.journal.length + 1)
  let t := draw s
  match s.pair.slots[pick]?, s.pair.journal[pick - n]? with
  | some m, _ =>
    tellPoisoned { t with pair := { t.pair with slots := t.pair.slots.set pick { m with complete := false } } } m.fjk m.handle (some m.slot) m.step
  | none, some r => tellPoisoned { t with pair := { t.pair with journal := t.pair.journal.eraseIdx (pick - n) } } r.fjk r.handle none r.step
  | none, none => t

/-- Granules of the guard region that a read newly poisoned or retired, by the states after and before it. -/
def guardLosses (t s : State) : List Nat :=
  let fresh := (t.mem.poison.filter fun g => !s.mem.poison.contains g) ++
    ((t.mem.retired.drop s.mem.retired.length).map fun f => (List.range 1024).map fun i => f.1 / 64 + i).flatten
  fresh.filter fun g => s.pair.frames.any fun f => f.1 ≤ g * 64 && g * 64 < f.1 + f.2

/-- What a read's outcome means for the copies that this part holds for its partner. -/
def guardCheck (t s : State) : State := (guardLosses t s).foldl (fun t _ => copyHit t) t

/-- A read is served: what it finds reaches the reader, the partner's copies and Ohmub's own structures. -/
def granuleGiven (s : State) (granule : Nat) (found : Found) (reader : Reader) : State :=
  let t := guardCheck (readServed s granule found.outcome found.bad) s
  match reader with
  | .own c => ownCopyRead t c granule (found.outcome == .uncorrectable || rangePoison s granule 64)
  | _ => t

/-- HBM_GRANULE_READ (10 R301, 09 R282 to R284): a request that cannot have its slot waits without one; one that others of its bank precede
keeps its slot and waits. A Pillow has no controller. -/
def execHbmGranuleRead (granule : Nat) (found : Found) (reader : Reader) (s : State) : Host.Outcome State Fault Refusal :=
  if !(inHbm s.nibs.grade granule || inPillow s.nibs.grade granule) then .fault (.addressHole granule) else
  if !(hbmOn s && granule % 64 == 0) then .next s else
  if !inHbm s.nibs.grade granule then .next (granuleGiven s granule found reader) else
  let who := readerNib reader
  let half := readerHalf reader
  let mine (r : MemReq) : Bool := r.granule == granule && r.nib == who && r.half == half && !r.scrub
  let room := who.all fun n => slotFree s n granule half
  let t := if s.mem.reqs.any mine || !room then s else issueReq s { granule := granule, since := s.clk.now, nib := who, half := half }
  match t.mem.reqs.find? mine with
  | none => .next t
  | some r => .next (if servedNow t r then granuleGiven (endReq t r) granule found reader else t)

/-! ### The patrol scrub (10 R305, R306) -/

/-- Granules of a pass. -/
def scrubTotal (s : State) : Nat := localEnd s.nibs.grade / 64

/-- The first granule from a position on that lies in no retired frame. -/
def skipRetired (m : Mem) : Nat → Nat → Nat
  | 0, g => g
  | f + 1, g => if frameRetired m (g * 64) then skipRetired m f ((g / 1024 + 1) * 1024) else g

/-- The scrub goes on behind a granule; the end of a pass starts the next one, with its row counts at zero. -/
def scrubNext (s : State) (g : Nat) : State :=
  let n := skipRetired s.mem (s.mem.retired.length + 1) (g + 1)
  if n < scrubTotal s then { s with mem := { s.mem with scrub := n } }
  else { s with mem := { s.mem with scrub := skipRetired s.mem (s.mem.retired.length + 1) 0, scrubStart := s.clk.now, scrubStroke := strokeNow s, rowErrs := [] } }

/-- The scrub runs: after bring-up, out of self-refresh, and not while the part prepares its return. -/
def scrubRuns (s : State) : Bool := hbmOn s && s.hub.phase == 1 && s.fw.returnStep == 0

/-- What a scrub read of a granule finds and leaves (10 R306). -/
def scrubServed (s : State) (g : Nat) (found : Found) : State :=
  let a := g * 64
  let t :=
    if found.outcome == .uncorrectable then
      let t := { s with mem := poisonGranule (drainIf s.mem fun e => e.granule == a) a }
      if (ownerOf s a).isSome then failRow (memoryEvent t a a 2) a found.bad else retireFrame t a
    else granuleRead s a found.outcome found.bad
  scrubNext t g

/-- SCRUB_READ (10 R305, R306): the read of the pass's next granule stands in its bank's queue and yields to the demand requests there. -/
def execScrubRead (found : Found) (s : State) : Host.Outcome State Fault Refusal :=
  let g := skipRetired s.mem (s.mem.retired.length + 1) s.mem.scrub
  let it (r : MemReq) : Bool := r.scrub && r.granule == g * 64
  let s1 := { s with mem := { s.mem with reqs := s.mem.reqs.filter fun r => !r.scrub || it r } }
  let t := if s1.mem.reqs.any it then s1 else issueReq s1 { granule := g * 64, since := s.clk.now, scrub := true }
  match t.mem.reqs.find? it with
  | none => .next s
  | some r => onlyIf (scrubRuns s) s (if servedNow t r then guardCheck (scrubServed (endReq t r) g found) t else t)

/-- ATOMICOP_REQUEST (10 R299): the request completes with Unsupported Request, and nothing else happens. -/
def execAtomicopRequest (_offset : Nat) (s : State) : Host.Outcome State Fault Refusal := .next { s with out := { s.out with atomicUr := true } }

end Sys2Proof.Machine
end

