-- ==== Sys2Proof/Machine/Strokes.lean ====
section
/-! DEFINITION. Stroke edges, stroke marks, holdover and the stroke reference input; the slices of the self-test that an edge starts (09 R261 to
R279, R287; 11 R331; 15 R442 to R445; 16 R459). -/

namespace Sys2Proof.Machine

/-! ### Tally loss (13 R401) -/

/-- Raise a loss flag (bit 0 mailbox, 1 marks, 2 Journal): its gap is counted, and a health record is sent when the flag goes from 0 to 1. -/
def raiseLoss (s : State) (k : Nat) : State :=
  let m := s.mgmt
  let old := if k = 0 then m.mbLoss else if k = 1 then m.markLoss else m.jrnlLoss
  let m := if k = 0 then { m with mbLoss := true, mbGaps := satInc m.mbGaps } else if k = 1 then { m with markLoss := true, markGaps := satInc m.markGaps }
    else { m with jrnlLoss := true, jrnlGaps := satInc m.jrnlGaps }
  let s := { s with mgmt := m }
  if old then s else health s { code := 0x0105, severity := 1, value := k }

/-! ### Self-test slices (15 R443, R445; 09 R268) -/

/-- Slices of the loaded pack for each nib. -/
def packSlices (s : State) : Nat := s.fw.pack.elim 0 (·.slices.length)

/-- The further nib on which the third execution of a stitch on fewer than three nibs runs (12 R385): the next of its panel in service. -/
def furtherNib (s : State) (nibs : List (Nat × Nat)) : Option (Nat × Nat) :=
  if 3 ≤ nibs.length then none else
  (nibs.head?).bind fun n =>
    let taken := nibs ++ shadowNibs s nibs
    let live := (nibsLive s n.1).filter fun k => !taken.contains (n.1, k)
    ((live.find? fun k => n.2 < k).orElse fun _ => live.head?).map fun k => (n.1, k)

/-- A shadow or third execution occupies a nib. -/
def shadowOn (s : State) (n : Nat × Nat) : Bool :=
  let third (a : Active) : Bool := s.shadows.any fun h => h.sid == a.sid && (h.crcs.zipIdx).any fun c => c.1.1 != c.1.2 && !h.thirds.any fun t => t.1 == c.2
  s.acts.any fun a => ((a.shadow || a.stage == .comparing) && (shadowNibs s a.nibs).contains n) || (third a && furtherNib s a.nibs == some n)

/-- Slices of the sweep that a panel has run: the sweep takes the nibs in service in physical order, each from slice 0, and stands at a position that
counts the slices of every physical nib. -/
def sweepDone (s : State) (p : Nat) : Nat :=
  let k := packSlices s
  let pos := tgetD s.test.position p 0
  (nibsLive s p).foldl (fun n i => n + min k (pos - i * k)) 0

/-- The slice that a panel is to run next: the repeat of a failing one, or the next of the sweep when its time has come; the third part says
that it belongs to the sweep. -/
def nextSlice (s : State) (p : Nat) : Option (Nat × Nat × Bool) :=
  match s.test.failing.find? fun f => f.1 == p with
  | some f => some (f.2.1, f.2.2.1, false)
  | none =>
    let live := nibsLive s p
    let k := packSlices s
    let pos := tgetD s.test.position p 0
    let due := s.test.sweepStart + sweepDone s p * (s.mgmt.cfg.sweepMin * 60000000000) / max 1 (live.length * k)
    (live.find? fun i => pos < (i + 1) * k).bind fun i => if due ≤ s.clk.edge then some (i, pos - i * k, true) else none

/-- Start a panel's slice at the edge; its nib's plan mark moves on by one sixteenth of the period. -/
def startSlice (s : State) (p : Nat) : State :=
  match nextSlice s p with
  | none => s
  | some (n, k, sweep) =>
    if shadowOn s (p, n) || s.test.running.any fun r => r.1 == p then s else
    let t := { s.test with running := s.test.running ++ [(p, n, k)], position := if sweep then tset s.test.position p (n * packSlices s + k + 1) else s.test.position }
    { s with test := t, nibs := { s.nibs with marks := tadj s.nibs.marks (p * 160 + n) 0 (· + periodNs s / 16) } }

/-- A sweep ends once every panel has run its slices and its time is over; the next one starts. -/
def endSweep (s : State) : State :=
  let done := (List.range (featPanels s)).all fun p => (nibsLive s p).length * packSlices s ≤ sweepDone s p
  if done && packSlices s != 0 && s.test.sweepStart + s.mgmt.cfg.sweepMin * 60000000000 ≤ s.clk.edge then
    { s with test := { s.test with sweeps := satInc s.test.sweeps, position := [], sweepStart := s.clk.edge, sweepStroke := strokeNow s } }
  else s

def selfTest (s : State) : State :=
  if s.mgmt.cfg.selftestEn = 0 || s.hub.pstate != 0 || s.lag.lagging || s.fw.pack.isNone || s.fw.returnStep != 0 then s
  else (List.range (featPanels s)).foldl startSlice (endSweep s)

/-! ### The edge (09 R261 to R273, R287) -/

/-- Bytes of a job's stroke record for stroke `k`. -/
def strokeRecord (s : State) (r : StrokeRing) (k len : Nat) : List Byte :=
  leBytes 64 (1 + (if s.lag.lagging then 2 else 0) + min s.lag.lagRun 255 * 2 ^ 8 + satTo 32 len * 2 ^ 32 + satTo 32 r.overrun * 2 ^ 64 +
    satTo 32 r.completed * 2 ^ 96 + satTo 32 r.admitted * 2 ^ 128 + satTo 32 r.planned * 2 ^ 160 +
    (List.range 8).foldl (fun n p => n + satTo 32 (r.busy.getD p 0) * 2 ^ (192 + 32 * p)) 0 + k % 2 ^ 64 * 2 ^ 448)

/-- A job's counts of the stroke that ends: its record, and a fresh start. -/
def endStroke (s : State) (k len : Nat) (job : Nat) : State :=
  match jobOf s job with
  | none => s
  | some j =>
    let r := j.ring
    let s := if r.depth = 0 || k < r.since then s else wrBytes s (r.base + k % r.depth * 64) (strokeRecord s r k len)
    updJob s job fun j => { j with ring := { j.ring with busy := [0, 0, 0, 0, 0, 0, 0, 0], planned := j.ring.plannedNext, plannedNext := 0, admitted := 0
                                                         completed := 0, overrun := 0 } }

/-- A route image that is due takes effect as one (11 R331). -/
def applyRoute (s : State) : State :=
  match s.fab.pendingRoute with
  | none => s
  | some r =>
    if r.loaded && r.applyAt.toNat ≤ s.clk.stroke.toNat then
      { s with fab := { s.fab with groupTbl := r.group.getD s.fab.groupTbl, memberTbl := r.member.getD s.fab.memberTbl
                                   aliases := r.aliases.getD s.fab.aliases, pendingRoute := none } }
    else s

/-- An accepted Pricking pack replaces the loaded one, and a new sweep starts (15 R442); a flag stays until its decision (R445). -/
def applyPack (s : State) : State :=
  match s.fw.nextPack with
  | none => s
  | some p => { s with fw := { s.fw with pack := some p, nextPack := none }
                       test := { s.test with position := [], sweepStart := s.clk.edge, sweepStroke := strokeNow s, running := [] } }

/-- Settings that change at this edge (09 R264, R265). -/
def edgeSettings (c : Clock) : Clock :=
  let due := c.changeAt.any fun k => k == c.stroke
  let c := if due then { c with periodUs := c.nextPeriodUs, xchPct := c.nextXchPct, changeAt := none } else c
  let root := c.source == 1 && c.nextSource != 1
  let new := c.source != c.nextSource
  let c := { c with source := c.nextSource, upPort := c.nextUp, altPort := c.nextAlt }
  let c := if new then { c with holdover := false, followedHoldover := false, refMisses := 0 } else c
  if root then { c with periodUs := c.ownPeriodUs, xchPct := c.ownXchPct, changeAt := none } else c

/-- The mark that this part sends at its edge (09 R273 to R275). A change that is further ahead than `CHANGE_IN` can say is announced at the field's
maximum (DESIGN CHOICE: log entry 21). -/
def ownMark (s : State) (tally : BitVec 16) : Mark :=
  let c := s.clk
  { stroke := c.stroke, root := if c.source = 1 then c.root else s.fab.station, hops := if c.source = 1 then c.hops else 0, periodUs := c.periodUs
    nextUs := if c.changeAt.isSome then c.nextPeriodUs else c.periodUs, changeIn := c.changeAt.elim 0 fun k => min 65535 (k.toNat - c.stroke.toNat), xchPct := c.xchPct
    nextXch := if c.changeAt.isSome then c.nextXchPct else c.xchPct, holdover := c.holdover || (c.source == 1 && c.followedHoldover), tally := tally }

/-- Every trained port gets the edge's mark on its lane 0; `out.marks` shows them with their `CRC` as they are handed to the ports, and FLIT_SEND sends the flit (11
R320, R321). -/
def sendMarks (s : State) : State :=
  ((List.range 64).filter fun p => (portOf s p).lstate == .up).foldl (fun s p =>
    let x := portOf s p
    let m := ownMark s x.markTallyOut
    let s := putPort { s with out := { s.out with marks := s.out.marks ++ [(p, m, markCrc m)] } } p { x with markTallyOut := x.markTallyOut + 1 }
    enqueue s p 0 [markFlit m]) s

/-- A port delivers accepted marks. -/
def delivers (s : State) (p : Nat) : Bool := (portOf s p).lstate == .up && (portOf s p).missedRun == 0
def enterHoldover (s : State) : State := if s.clk.holdover then s else { s with clk := { s.clk with holdover := true, holdoverSince := s.clk.now } }
/-- A part that follows marks enters holdover while neither of its ports delivers any (09 R279). -/
def checkHoldover (s : State) : State :=
  if s.clk.source = 1 && !delivers s s.clk.upPort && !delivers s s.clk.altPort then enterHoldover s else s

/-- A stroke ends at an instant: it is accounted and judged, and what is due at the edge takes effect. -/
def closeStroke (s : State) (t : Nat) : State :=
  let k := s.clk.stroke.toNat
  let len := t - s.clk.edge
  let jobs := s.jobs.map (·.1)
  let s := jobs.foldl (fun s j => accrue s j t) s
  let c := edgeSettings { s.clk with stroke := s.clk.stroke + 1, edge := t, now := max s.clk.now t, steer := 0 }
  let s := { s with clk := c }
  let s := if s.lag.strokes.any (fun x => x.stroke == k) || k < s.lag.judged then s
    else { s with lag := { s.lag with strokes := (s.lag.strokes.filter fun x => x.stroke < k) ++ { stroke := k } :: s.lag.strokes.filter fun x => k < x.stroke } }
  let s := judgeAll s
  applyPack (applyRoute (jobs.foldl (fun s j => endStroke s k len j) s))

/-- A stroke begins: marks are sent, slices start, and heads that wait for the horizon are planned again. -/
def openStroke (s : State) : State := replanHeads (selfTest (sendMarks (checkHoldover s)))

/-- The edge at an instant (09 R261). -/
def takeEdge (s : State) (t : Nat) : State := openStroke (closeStroke s t)

/-- The next edge of the timebase, with the steering of 09 R275. -/
def nextEdge (s : State) : Nat := ((s.clk.edge : Int) + (periodNs s : Nat) + s.clk.steer).toNat

/-- STROKE_EDGE (09 R261): the timebase reaches its next edge; with `SOURCE` 2 and out of holdover the reference gives the edges. -/
def execStrokeEdge (s : State) : Host.Outcome State Fault Refusal :=
  onlyIf (s.clk.source != 2 || s.clk.holdover) s (takeEdge s (nextEdge s))

/-! ### Resync (09 R275, R276) -/

/-- The current stroke is cut: it is not judged (09 R276). -/
def cutStroke (s : State) : State := { s with lag := { s.lag with unjudged := ninsert s.lag.unjudged (strokeNow s) } }

/-- The stroke number moves to another one: planned strokes, what is accounted by stroke and the exchange mark move with it (09 R276). -/
def renumber (s : State) (stroke : Nat) : State :=
  let old := strokeNow s
  let move (k : Nat) : Nat := k + stroke - old
  let l := s.lag
  { s with clk := { s.clk with stroke := BitVec.ofNat 64 stroke }
           acts := s.acts.map fun a => { a with plannedStroke := a.plannedStroke.map move, admitStroke := move a.admitStroke }
           jobs := s.jobs.map fun j => (j.1, { j.2 with ring := { j.2.ring with since := move j.2.ring.since } })
           fab := { s.fab with xStroke := move s.fab.xStroke }
           lag := { l with strokes := l.strokes.map (fun x => { x with stroke := move x.stroke }), unjudged := l.unjudged.map move, judged := move l.judged
                           first := move l.first, overs := l.overs.map fun o => (move o.1, o.2) } }

/-- Adopt an edge and a stroke number, with what else the clock takes from a mark. An edge that this part has not reached is taken there: the
stroke that it ends is cut when the edge comes before its time, and marks leave at the edge adopted. An edge near the last one replaces it, and the
stroke in progress is cut if it becomes shorter or changes its number (09 R275, R276; DEDUCED: log entry 21). -/
def resync (s : State) (edge stroke : Nat) (upd : Clock → Clock) : State :=
  let adopt (s : State) : State := let r := renumber s stroke; { r with clk := upd r.clk }
  if s.clk.edge + periodNs s / 2 < edge then openStroke (adopt (closeStroke (if edge < nextEdge s then cutStroke s else s) edge))
  else
    let cut := edge < s.clk.edge || strokeNow s != stroke
    let s := if cut then cutStroke s else s
    adopt { s with clk := { s.clk with edge := edge, now := max s.clk.now edge, steer := 0 } }

/-! ### Marks (09 R275, R278, R279) -/

/-- A mark is missed on a port: the third in a row takes the port down (09 R278). -/
def missMark (s : State) (port : Nat) : State :=
  let x := portOf s port
  let s := putPort s port { x with marksMissed := satInc x.marksMissed, missedRun := x.missedRun + 1 }
  checkHoldover (if 3 ≤ x.missedRun + 1 then goDown s port else s)

/-- STROKE_MARK_MISSED (09 R278). -/
def execStrokeMarkMissed (port : Nat) (s : State) : Host.Outcome State Fault Refusal := onlyIf ((portOf s port).lstate == .up) s (missMark s port)

/-- This part's edge nearest to an instant, with its number. -/
def nearestEdge (s : State) (t : Nat) : Nat × Nat :=
  let e := s.clk.edge
  if e + periodNs s / 2 < t then (nextEdge s, s.clk.stroke.toNat + 1)
  else if t + periodNs s / 2 < e then (e - periodNs s, s.clk.stroke.toNat - 1) else (e, s.clk.stroke.toNat)

/-- This part follows the marks of a port. -/
def followsPort (s : State) (port : Nat) : Bool :=
  s.clk.source == 1 && (port == s.clk.upPort || (port == s.clk.altPort && (portOf s s.clk.upPort).lstate != .up))

/-- Follow an accepted mark: its edge, its number, and what it says of period and reserve. -/
def followMark (s : State) (port : Nat) (m : Mark) (arrival : Nat) : State :=
  let root := arrival - (portOf s port).delayNs.toNat - 64
  let own := nearestEdge s root
  let diff : Int := (root : Int) - (own.1 : Int)
  -- a part that has become a root at this edge keeps its own settings (09 R265)
  let upd (c : Clock) : Clock := if c.source ≠ 1 then c else { c with
    root := m.root, hops := m.hops + 1, periodUs := m.periodUs, xchPct := m.xchPct, nextPeriodUs := m.nextUs, nextXchPct := m.nextXch
    changeAt := if m.changeIn = 0 then none else some (m.stroke + BitVec.ofNat 64 m.changeIn), followedHoldover := m.holdover
    holdover := c.holdover && m.holdover }
  if diff.natAbs ≤ 50 && own.2 == m.stroke.toNat then { s with clk := { upd s.clk with steer := max (-1) (min 1 diff) } }
  else resync s root m.stroke.toNat upd

/-- STROKE_MARK_RECEIVE (09 R275, R278; 13 R400): a mark with a bad `CRC` or outside its window is missed; a repeat is discarded. A mark outside
the window is followed all the same, since a part that has no common edge yet could follow none otherwise (DEDUCED, log entry 21). -/
def execStrokeMarkReceive (port : Nat) (mark : Mark) (crc : Word32) (arrival : Nat) (s : State) : Host.Outcome State Fault Refusal :=
  let x := portOf s port
  if x.lstate != .up then .next s else
  let s := advance s arrival
  if crc != markCrc mark then .next (missMark s port)
  else if x.markTally == some mark.tally then .next s
  else
    let gap := x.markTally.any fun l => mark.tally != l + 1
    let root := arrival - x.delayNs.toNat - 64
    let own := nearestEdge s root
    let inWindow := decide (((root : Int) - (own.1 : Int)).natAbs ≤ 1000)
    let s := putPort s port { x with markTally := some mark.tally, missedRun := if inWindow then 0 else x.missedRun }
    let s := if gap then raiseLoss s 1 else s
    let s := if inWindow then s else missMark s port
    .next (if followsPort s port then followMark s port mark arrival else s)

/-- HOLDOVER_TIMEOUT (09 R279): 20 ms of holdover. -/
def execHoldoverTimeout (s : State) : Host.Outcome State Fault Refusal :=
  let t := advance s (s.clk.holdoverSince + 20000000)
  onlyIf s.clk.holdover s (health t { code := 0x0104, severity := 1, value := (t.clk.now - s.clk.holdoverSince) / 1000000 })

/-! ### The stroke reference (16 R459) -/

/-- A stroke had no reference edge in time: the third in a row is holdover. -/
def missRef (s : State) (n : Nat) : State :=
  let t := { s with clk := { s.clk with refMisses := n } }
  if 3 ≤ n then enterHoldover t else t

/-- STROKE_REF_EDGE: with `SOURCE` 2 the rising edge is a stroke edge; one more than 1 µs off its time resyncs, and its stroke is one without an edge
in time. -/
def execStrokeRefEdge (time : Nat) (s : State) : Host.Outcome State Fault Refusal :=
  if s.clk.source ≠ 2 then .next s else
  let near (e : Nat) : Bool := decide (((time : Int) - (e : Int)).natAbs ≤ 1000)
  let fresh (s : State) : State := { s with clk := { s.clk with refMisses := 0, holdover := false } }
  if near (nextEdge s) then .next (takeEdge (fresh s) time)
  else if s.clk.holdover && near s.clk.edge then .next (fresh { s with clk := { s.clk with edge := time } })
  else
    -- an edge that comes late, after the timebase has given its own, replaces that one
    if s.clk.refMisses != 0 && time ≤ s.clk.edge + periodNs s / 2 then .next (resync s time (strokeNow s) id) else
    let t := takeEdge (if time < nextEdge s then cutStroke s else s) time
    .next (missRef t (s.clk.refMisses + 1))

/-- STROKE_REF_MISSING: the stroke goes on from the internal timebase; the third missing edge in a row is holdover. -/
def execStrokeRefMissing (s : State) : Host.Outcome State Fault Refusal :=
  onlyIf (s.clk.source == 2 && !s.clk.holdover) s (missRef (takeEdge s (nextEdge s)) (s.clk.refMisses + 1))

end Sys2Proof.Machine
end

