-- ==== Sys2Proof/Machine/Mailbox.lean ====
section
/-! DEFINITION. The mailbox: pages, rings, the checks of a request, its answer, window references, and space in the address map (14 R404,
R408 to R414, R421; 10 R292). -/

namespace Sys2Proof.Machine

/-! ### Statuses (14 table Mailbox statuses) -/

def mbOk : Nat := 0x00
def mbInProgress : Nat := 0x01
def mbCrcFail : Nat := 0x10
def mbBadLength : Nat := 0x11
def mbUnknownCmd : Nat := 0x12
def mbNotReady : Nat := 0x13
def mbNotOwner : Nat := 0x14
def mbNoJob : Nat := 0x15
def mbJobBusy : Nat := 0x16
def mbBadField : Nat := 0x17
def mbBusy : Nat := 0x18
def mbNoResource : Nat := 0x19
def mbNotNow : Nat := 0x1A
def mbHalted : Nat := 0x1B
def mbAuthFail : Nat := 0x20
def mbRollback : Nat := 0x21
def mbSameFeed : Nat := 0x30
def mbPairBusy : Nat := 0x31
def mbNoPartner : Nat := 0x32
def mbGuardFull : Nat := 0x33
def mbRestoreGap : Nat := 0x34
def mbUnreachable : Nat := 0x35

/-! ### Requests (14 R408, R410, R420) -/

/-- The host link is up: the main rails are on and `PERST_N` is high (16 R461). -/
def linkUp (s : State) : Bool := s.pwr.hubOn && s.pwr.railsOn && s.pwr.perstN

def pageOf (s : State) (p : Nat) : Page := tgetD s.hub.pages p {}
def putPage (s : State) (p : Nat) (x : Page) : State := { s with hub := { s.hub with pages := tset s.hub.pages p x } }

/-- The payload as a number, and bits of it. -/
def pay (r : Request) : Nat := leNat r.payload
def pf (r : Request) (hi lo : Nat) : Nat := bits (pay r) hi lo
/-- Flags of a request. -/
def isAdmin (r : Request) : Bool := bit r.flags 1
def wantsNotify (r : Request) : Bool := bit r.flags 0
def wantsEnd (r : Request) : Bool := bit r.flags 2

/-- Request length of a command, none for an opcode that the table Commands does not list. -/
def cmdLength (op rows : Nat) : Option Nat :=
  if op = 0x01 || op = 0x02 || op = 0x11 || op = 0x12 || op = 0x71 then some 0
  else if op = 0x10 then some 48 else if op = 0x20 || op = 0x61 || op = 0x74 || op = 0x81 then some 24
  else if op = 0x21 || op = 0x31 || op = 0x70 || op = 0x82 || op = 0xB0 || op = 0xD0 then some 4
  else if op = 0x30 || op = 0x40 || op = 0x73 || op = 0xA0 || op = 0xC0 then some 16
  else if op = 0x50 || op = 0x72 then some 32 else if op = 0x60 then some 40 else if op = 0x62 then some 64
  else if op = 0x80 then some 12 else if op = 0x90 then some 8 else if op = 0xE0 then some (16 + 8 * rows) else none

/-- Which action of its command a request names. -/
def actionOfReq (r : Request) : Nat :=
  if r.opcode = 0x50 then pf r 3 3 else if r.opcode = 0x61 then pf r 31 28 else if r.opcode = 0x72 || r.opcode = 0xE0 then pf r 3 0
  else if r.opcode = 0x73 || r.opcode = 0xC0 then pf r 115 112 else if r.opcode = 0x74 then pf r 1 0 else if r.opcode = 0xB0 then pf r 7 4 else 0

/-- The action is one that the command defines. -/
def actionDefined (r : Request) : Bool :=
  let a := actionOfReq r
  if r.opcode = 0x61 || r.opcode = 0x72 || r.opcode = 0xB0 || r.opcode = 0xC0 then 1 ≤ a && a ≤ 3
  else if r.opcode = 0x73 then 1 ≤ a && a ≤ 2 else if r.opcode = 0xE0 then 1 ≤ a && a ≤ 4 else true

/-- Scope of a request. -/
inductive Scope where
  | any
  | job
  | part
  deriving DecidableEq, Repr

def scopeOf (r : Request) : Scope :=
  let op := r.opcode
  if op = 0x01 || op = 0x02 then .any
  else if op = 0x50 then (if actionOfReq r = 1 then .job else .part)
  else if op = 0x90 then (if 1 ≤ pf r 35 32 && pf r 35 32 ≤ 3 then .job else .part)
  else if (op = 0x20 || op = 0x21) && isAdmin r then .part
  else if op = 0x70 || op = 0x71 || 0x80 ≤ op then .part else .job

/-- Commands that a halted job accepts (14 R414). -/
def haltedOk (r : Request) : Bool :=
  r.opcode == 0x11 || r.opcode == 0x12 || r.opcode == 0x21 || r.opcode == 0x90 || (r.opcode == 0x74 && actionOfReq r == 0)

/-- Checks 5 to 7 and the header's part of check 8 (14 R411): the status of the first that fails. -/
def refusal (s : State) (p : Nat) (r : Request) : Option Nat :=
  let sc := scopeOf r
  let j := (jobOf s r.job).filter fun j => !j.closing
  let early := r.opcode == 0x01 || (!s.hub.bootFailed && (r.opcode == 0x02 || r.opcode == 0x90))
  if s.hub.phase != 1 && !early then some mbNotReady
  else if r.opcode == 0x10 && s.hub.pstate == 2 then some mbNotReady
  else if sc != .any && p != 0 && (isAdmin r || sc == .part) then some mbNotOwner
  else if sc == .job && p != 0 && j.any fun j => j.page != p then some mbNotOwner
  else if sc == .job && r.opcode != 0x10 && j.isNone then some mbNoJob
  else if sc == .job && !haltedOk r && j.any (·.halted) then some mbHalted
  else if r.rsv || !actionDefined r then some mbBadField
  else none

/-! ### Answers (14 R409, R410) -/

def responseBytes (r : Request) (status : Nat) (data : List Byte) : List Byte :=
  let h := leBytes 28 (r.opcode + (if r.loss then 8 else 0) * 2 ^ 16 + r.tally.toNat * 2 ^ 32 + data.length * 2 ^ 48 + r.job * 2 ^ 64 + status * 2 ^ 80)
  h ++ leBytes 4 (crc32c (h ++ data)) ++ data

/-- Show a response: `MB_STATE` 2, then the page's vector when `NOTIFY` is set. -/
def present (s : State) (p : Nat) (notify : Bool) (b : List Byte) : State :=
  let s := putPage s p { pageOf s p with resp := b ++ (pageOf s p).resp.drop b.length, mbState := 2, taken := none, waiting := false }
  if notify then sendMsix s p else s

/-- Answer a request; its response and its tally are the page's last. -/
def answerRequest (s : State) (p : Nat) (r : Request) (status : Nat) (data : List Byte) : State :=
  let b := responseBytes r status data
  present (putPage s p { pageOf s p with lastResp := b, lastTally := some r.tally }) p (wantsNotify r) b

/-- A request from the bytes of a request area. -/
def parseRequest (l : List Byte) : Request :=
  let x := leNat (l.take 32)
  let n := bits x 63 48
  { opcode := bits x 15 0, flags := bits x 31 16, tally := BitVec.ofNat 16 (bits x 47 32), job := bits x 75 64, payload := slice l 32 (min n 2016)
    rsv := bits x 95 76 != 0 || bits x 223 96 != 0 || bits x 31 19 != 0 }

/-- A page's check unit has formed the value of a header and its payload (13 R390). -/
def pageChecked (s : State) (p : Nat) (l : List Byte) : State :=
  putPage s p { pageOf s p with checkRun := BitVec.ofNat 32 (presetRun 0 (presetInit 0) l) }

/-- Ohmub reads the request of a page (14 R411, steps 1 to 4): it answers a failed check or a repeat, or takes the request. -/
def readRequest (s : State) (p : Nat) : State :=
  let x := pageOf s p
  let l := (List.range 2048).map fun i => tgetD x.req i 0
  let r := parseRequest l
  let n := fieldLe l 6 2
  let s := pageChecked s p (l.take 28 ++ r.payload)
  if n ≤ 2016 && crc32c (l.take 28 ++ r.payload) = fieldLe l 28 4 then
    if x.lastTally == some r.tally then present s p (wantsNotify r) x.lastResp
    else
      let gap := x.lastTally.any fun t => r.tally != t + 1
      let s := if gap then raiseLoss s 0 else s
      let r := { r with loss := gap, order := s.hub.ringOrder }
      match cmdLength r.opcode (pf r 15 8) with
      | none => answerRequest s p r mbUnknownCmd []
      | some k =>
        if n ≠ k then answerRequest s p r mbBadLength []
        else { putPage s p { pageOf s p with taken := some r } with hub := { (putPage s p { pageOf s p with taken := some r }).hub with ringOrder := s.hub.ringOrder + 1 } }
  else present s p (wantsNotify r) (responseBytes r mbCrcFail [])

/-- MB_RING (14 R409): a ring while the page is busy is ignored and counted. -/
def ringPage (s : State) (p : Nat) : State :=
  let x := pageOf s p
  if x.mbState = 1 then putPage s p { x with mbDrop := satInc x.mbDrop }
  else readRequest (putPage s p { x with mbState := 1 }) p

def execMbRing (page : Nat) (s : State) : Host.Outcome State Fault Refusal := onlyIf (linkUp s && page < 64) s (ringPage s page)

/-! ### Running a command (14 R411, R413) -/

/-- What a command answers; with `wait` its answer comes with a later event. -/
structure Reply where
  s : State
  status : Nat := 0
  data : List Byte := []
  wait : Bool := false

def ok (s : State) : Reply := { s := s }
def okNat (s : State) (n x : Nat) : Reply := { s := s, data := leBytes n x }
def fail (s : State) (status : Nat) : Reply := { s := s, status := status }

/-- The request of a page that Ohmub executes next: the oldest ring that waits for no event. -/
def nextRequest (s : State) (p : Nat) : Option Request :=
  match (pageOf s p).taken with
  | none => none
  | some r =>
    if (pageOf s p).waiting then none
    else if s.hub.pages.all fun q => q.2.waiting || q.2.taken.all fun t => r.order ≤ t.order then some r else none

/-- The operation of a kind, a subject and, where its scope is the job, a job. -/
def opOf (s : State) (kind subject : Nat) (job : Option Nat) : Option LongOp :=
  s.hub.longOps.find? fun o => o.kind == kind && o.subject == subject && o.job == job
def opRunning (s : State) (kind subject : Nat) (job : Option Nat) : Bool := (opOf s kind subject job).any fun o => o.state == 1

/-- A command meets a long operation on its subject (14 R413): a restore of its job, or a drain of the tensor that it unregisters. -/
def meetsLong (s : State) (r : Request) : Bool :=
  let job := some r.job
  scopeOf r == .job && r.opcode != 0x10 && r.opcode != 0x90 &&
    (opRunning s 2 0 job || opRunning s 3 0 job || (r.opcode == 0x72 && actionOfReq r == 2 && s.pair.drains.any fun d => d.job == r.job && d.handle == pf r 143 112))

/-- What a command answers; one whose fields are good answers `BUSY`, with no effect, where it meets a long operation. -/
def orBusy (s : State) (r : Request) (q : Reply) : Reply := if meetsLong s r && q.status != mbBadField then fail s mbBusy else q

/-- A row runs a request: the row's own, or one of its opcode with an `ACTION` that the command does not define, which every row of the opcode
refuses when its turn has come (14 R411, R413). -/
def isRow (r : Request) (op action : Nat) : Bool := r.opcode == op && (actionOfReq r == action || !actionDefined r)

/-- Run a command of a page if it is the one that its row names. -/
def runCmd (s : State) (p op action : Nat) (f : Request → State → Reply) : Host.Outcome State Fault Refusal :=
  match nextRequest s p with
  | none => .next s
  | some r =>
    if !isRow r op action then .next s else
    match refusal s p r with
    | some status => .next (answerRequest s p r status [])
    | none =>
      let q := orBusy s r (f r s)
      .next (if q.wait then putPage q.s p { pageOf q.s p with waiting := true } else answerRequest q.s p r q.status q.data)

/-- The same for a command of a job. -/
def runJobCmd (s : State) (p op action : Nat) (f : Request → Job → State → Reply) : Host.Outcome State Fault Refusal :=
  runCmd s p op action fun r s => (jobOf s r.job).elim (fail s mbNoJob) fun j => f r j s

/-- Answer the command that waits on a page, if one of an opcode does. -/
def answerWaiting (s : State) (p op status : Nat) (data : List Byte) : State :=
  match (pageOf s p).taken with
  | none => s
  | some r => if (pageOf s p).waiting && r.opcode == op then answerRequest s p r status data else s

/-- A page on which a command of an opcode waits. -/
def waitingPage (s : State) (op : Nat) (g : Request → Bool) : Option (Nat × Request) :=
  s.hub.pages.findSome? fun q => if q.2.waiting then q.2.taken.bind fun r => if r.opcode == op && g r then some (q.1, r) else none else none

/-! ### Window references (14 R421) -/

/-- The windows that a reference of a command may name: with `ADMIN` the staging windows, which serve part-scope commands; else those of the command's
job, which a part-scope command has not. -/
def refWindows (s : State) (r : Request) : List Window :=
  match isAdmin r, scopeOf r == .part with
  | true, true => s.hub.staging
  | false, false => (jobOf s r.job).elim [] (·.windows)
  | _, _ => []

/-- The part address and length that a window reference names. -/
def refAt (s : State) (r : Request) (x : Nat) : Option (Nat × Nat) :=
  let id := bits x 15 0
  let off := bits x 63 16
  let n := bits x 111 64
  let ws := refWindows s r
  (ws.find? fun w => w.id == id && off + n ≤ w.size).map fun w => (w.base + off, n)

/-- A range lies in a window of the job. -/
def inJob (s : State) (job a n : Nat) : Bool := (jobOf s job).any fun j => inWindow j a n

/-- A vector field that names no vector of a mailbox page (14 R407). -/
def vectorOk (v : Nat) : Bool := v == 0 || 64 ≤ v

/-- A power of two within bounds. -/
def pow2In (x lo hi : Nat) : Bool := lo ≤ x && x ≤ hi && x == 2 ^ Nat.log2 x

/-! ### Space (10 R292, 12 R354) -/

/-- Ranges that no new window and no guard region may take. -/
def takenRanges (s : State) : List (Nat × Nat) :=
  ((s.jobs.map fun j => j.2.windows).flatten ++ s.hub.staging).map (fun w => (w.base, w.size)) ++ s.pair.frames ++ (s.mem.zeroing.map (·.ranges)).flatten ++
    s.mem.retired.map fun r => (r.1, 65536)

/-- The lowest free place of `n` bytes in a region (log entry 22). -/
def lowestFree (used : List (Nat × Nat)) (base size n : Nat) : Option Nat :=
  let fits (a : Nat) : Bool := base ≤ a && a + n ≤ base + size && used.all fun u => a + n ≤ u.1 || u.1 + u.2 ≤ a
  ((base :: used.map fun u => ceilDiv (u.1 + u.2) 65536 * 65536).filter fits).foldl (fun (b : Option Nat) a => some (b.elim a (min a))) none

/-- Start of the next range taken at or behind an address. -/
def nextTaken (used : List (Nat × Nat)) (a e : Nat) : Nat := used.foldl (fun m u => if a < u.1 + u.2 then min m (max a u.1) else m) e
/-- End of the taken ranges that hold an address. -/
def endTaken (used : List (Nat × Nat)) (a : Nat) : Nat := used.foldl (fun m u => if u.1 ≤ m && m < u.1 + u.2 then u.1 + u.2 else m) a

/-- Free frames of a region, lowest first, until `n` bytes are found; none when they are not. -/
def gatherFree (used : List (Nat × Nat)) (e : Nat) : Nat → Nat → Nat → Option (List (Nat × Nat))
  | 0, _, n => if n = 0 then some [] else none
  | f + 1, a, n =>
    if n = 0 then some [] else if e ≤ a then none else
    let b := endTaken used a
    if a < b then gatherFree used e f b n else
    let t := min n (nextTaken used a e - a)
    (gatherFree used e f (a + t) (n - t)).map fun l => if t = 0 then l else (a, t) :: l

/-- Start the zeroisation of ranges (15 R447). -/
def startZero (s : State) (job : Option Nat) (ranges : List (Nat × Nat)) : State :=
  { s with mem := { s.mem with zeroing := s.mem.zeroing ++ [{ id := s.mem.nextBatch, job := job, ranges := ranges }], nextBatch := s.mem.nextBatch + 1 } }

/-- HBM and Pillow ranges of windows: host windows are host memory and are not written. -/
def zeroRanges (ws : List Window) : List (Nat × Nat) := (ws.filter fun w => w.kind != 3).map fun w => (w.base, w.size)

/-! ### Long operations (14 R427) -/

def putOp (s : State) (o : LongOp) : State :=
  { s with hub := { s.hub with longOps := (s.hub.longOps.filter fun q => !(q.kind == o.kind && q.subject == o.subject && q.job == o.job)) ++ [o] } }

/-- A command starts an operation; the last one of its kind and subject is no longer reported. -/
def startOp (s : State) (p : Nat) (r : Request) (o : LongOp) : State :=
  putOp s { o with page := p, notifyEnd := wantsEnd r, startStroke := BitVec.ofNat 64 (strokeNow s), state := 1 }

/-- An operation ends with a mailbox status; the vector of its page follows `NOTIFY_END`. -/
def endOp (s : State) (o : LongOp) (result : Nat) : State :=
  let good := result == mbOk
  let s := putOp s { o with result := result, state := if good then 2 else 3, position := if good then o.total else o.position }
  if o.notifyEnd then sendMsix s o.page else s

end Sys2Proof.Machine
end

