-- ==== Sys2Proof/Machine/Messages.lean ====
section
/-! DEFINITION. SEND and its messages, answers, timeouts, forwarding, and the control messages that concern a job or the routes (11 R329, R332 to
R341; 04 R127; 12 R379). -/

namespace Sys2Proof.Machine

/-! ### SEND (11 R339 to R341) -/

def sendArg (h number units : Nat) : Nat := h * 2 ^ 64 + number * 2 ^ 32 + units

def sendExec (s : State) (j : Job) (a : Active) : State :=
  match opnd a 0 with
  | none => s
  | some o =>
    let v := viewOf s j o
    let p := startGround s a
    let b := { p.2 with marks := { p.2.marks with poisoned := sourceBad v } }
    let number := a.sid.toNat % 2 ^ 32
    let ms := (pieces v o).map fun q => { baseMsg p.1 j b (dstStation a.st) .write with
      arg := sendArg (dstHandle a.st) number (q.1 / 64), data := q.2.1, marks := q.2.2
      source := some (sourceOf o (if dstSig a.st then some (dstPin a.st) else none)) }
    injectFor (putAct p.1 b) j.id a.sid 0 ms

/-- SEND (11 R339). -/
def execSend (sid : Sid) (s : State) : Host.Outcome State Fault Refusal := runGround s sid opSend sendExec

/-- Every WRITE of a `SEND` is acknowledged: WRITE_END leaves. -/
def sendEnd (s : State) (a : Active) : State :=
  match jobOf s a.job with
  | none => s
  | some j =>
    let arg := a.sid.toNat % 2 ^ 32 * 2 ^ 64 + dstPin a.st * 2 ^ 44 + dstInc a.st * 2 ^ 28 + (if dstSig a.st then 2 ^ 27 else 0)
    injectFor (putAct s { a with allSent := true }) a.job a.sid 0 [{ baseMsg s j a (dstStation a.st) .writeEnd with arg := arg }]

def rxFind (s : State) (job src number : Nat) : Option RxSend := s.fab.rx.find? fun r => r.job == job && r.src == src && r.number == number
def putRx (s : State) (r : RxSend) : State :=
  { s with fab := { s.fab with rx := (s.fab.rx.filter fun q => !(q.job == r.job && q.src == r.src && q.number == r.number)) ++ [r] } }

/-- WRITE (11 R339 to R341): the first one of a `SEND` to arrive brings the checks of the destination. Since they may arrive in any order, each
describes the source (log entry 20). -/
def execWrite (hdr : MsgHdr) (source : SendSource) (data : List Byte) (marks : List Nat) (s : State) : Host.Outcome State Fault Refusal :=
  let m := inMsg s hdr data marks (some source)
  let s := takeInbox s hdr data
  match verdict s hdr with
  | .take j =>
    let number := argBits hdr 63 32
    let handle := argBits hdr 95 64
    let first : RxSend :=
      { src := hdr.src, number := number, job := j.id, handle := handle, epoch := hdr.epoch, refused := destStatus s j handle m.source, dst := readOperand s j handle }
    let r := (rxFind s j.id hdr.src number).getD first
    let s := putRx s r
    if r.refused ≠ 0 then .next (nackTo s hdr 3 r.refused)
    else .next (ackTo (r.dst.elim s fun o => putStream s none o (64 * argBits hdr 31 0) data m.marks) hdr 3)
  | v => .next (notNow s m v)

/-- WRITE_END (11 R341): the bytes are visible, `DST_PIN` signals once, and the message is acknowledged. A pin that the first WRITE did not name is
checked here (log entry 20). -/
def execWriteEnd (hdr : MsgHdr) (s : State) : Host.Outcome State Fault Refusal :=
  let m := inMsg s hdr [] [] none
  let s := takeInbox s hdr []
  match verdict s hdr with
  | .take j =>
    match rxFind s j.id hdr.src (argBits hdr 95 64) with
    | none => .next (ackTo s hdr 3)
    | some r =>
      let sig := bit hdr.arg.toNat 27
      if r.refused ≠ 0 then .next (nackTo s hdr 3 r.refused)
      else if r.done then .next (ackTo s hdr 3)
      else if sig && j.pinCount ≤ argBits hdr 63 44 then .next (nackTo (putRx s { r with refused := adPinRange }) hdr 3 adPinRange)
      else
        let s := putRx (r.dst.elim s (reachOperand s j)) { r with done := true }
        let s := if sig && !j.halted then updJob s j.id fun j => addPin j (argBits hdr 63 44) (argBits hdr 43 28) true else s
        .next (ackTo s hdr 3)
  | v => .next (notNow s m v)

/-! ### Answers and timeouts (11 R336, R337, R340) -/

def transOf (s : State) (die tag : Nat) : Option Trans := s.fab.trans.find? fun t => t.die == die && t.tag == tag
/-- A transaction entry is free again, and a waiting message takes it. -/
def freeTrans (s : State) (t : Trans) : State :=
  wakeWaiting { s with fab := { s.fab with trans := s.fab.trans.filter fun q => !(q.die == t.die && q.tag == t.tag) } } t.die
/-- Transaction that an answer names. -/
def answered (s : State) (h : MsgHdr) : Option Trans := transOf s h.sdie (argBits h 95 84)

/-- Collective number of a message, 0 for a `SEND`. -/
def msgColl (h : MsgHdr) : Nat := if h.mtype == .redUp || h.mtype == .redDown then argBits h 95 64 else 0

/-- ACK (11 R336, R341, R347). -/
def execAck (hdr : MsgHdr) (s : State) : Host.Outcome State Fault Refusal :=
  let s := takeInbox s hdr []
  match answered s hdr with
  | none => .next s
  | some t =>
    let s := freeTrans s t
    match t.sid.bind (actOf s) with
    | none => .next s
    | some a =>
      if a.st.opcode == opSend && a.stage == .running && !a.allSent && !outstanding s a.sid then .next (sendEnd s a)
      else .next (groundCheck s a.sid)

/-- The partner is in Park (16 R481): its copies no longer count, and each job with registered tensors gets a record. -/
def partnerParks (s : State) (station : Nat) : State :=
  if s.pair.partnerParked then s else
  let s := { s with pair := { s.pair with partnerParked := true, drains := [], unacked := [] } }
  s.jobs.foldl (fun s j =>
    if j.2.prot.isEmpty then s else
    jobEvent (putJob s { j.2 with prot := j.2.prot.map fun p => { p with protected_ := false, remirror := true } }) j.1
      { area := areaResil j.2.committed 0 station 0x18 4 0 }) s

/-- A refusal of a mirror or Journal message, which holds no transaction entry: `ARG` carries status 0 for a record whose `CRC` fails, 0xFF in
Park, neither of which is an admission status (log entry 12). -/
def nackCrc : Nat := 0
def nackPark : Nat := 0xFF
def partnerRefusal (s : State) (h : MsgHdr) : Bool := s.pair.partner == some h.src && (argBits h 83 76 == nackCrc || argBits h 83 76 == nackPark)

/-- The records that are not acknowledged are sent again (12 R362), or the partner is in Park (16 R481). -/
def partnerNack (s : State) (h : MsgHdr) : State :=
  if argBits h 83 76 = nackCrc then s.pair.unacked.foldl (fun s r => (jobByFjk s r.fjk).elim s fun j => sendJournal s j r) s else partnerParks s h.src

/-- NACK (11 R340, R348; 12 R362; 16 R481). -/
def execNack (hdr : MsgHdr) (s : State) : Host.Outcome State Fault Refusal :=
  let s := takeInbox s hdr []
  if partnerRefusal s hdr then .next (partnerNack s hdr) else
  match answered s hdr with
  | none => .next s
  | some t =>
    let s := freeTrans s t
    .next ((t.sid.bind (actOf s)).elim s fun a => if a.stage == .running then abortGround s a hdr.src (argBits hdr 83 76) (msgColl t.hdr) else s)

/-- A destination is unreachable: the jobs whose key the message carries halt (11 R337, R338). -/
def transLost (s : State) (t : Trans) : State :=
  let s := freeTrans s t
  (jobByFjk s t.hdr.fjk).elim s fun j => stationLost s j.id t.hdr.dst t.sid (msgColl t.hdr)

/-- A first timeout or UNREACH sends the message again by another first port; a second one makes the destination unreachable (11 R337). -/
def retryTrans (s : State) (t : Trans) : State :=
  if t.resent then transLost s t else
  let h := { t.hdr with rdst := rdstOf s t.hdr.dst }
  let r := sendOn s h t.vl t.data (some t.firstPort) t.marks t.source
  match r.2 with
  | none => transLost r.1 t
  | some p =>
    let again (q : Trans) : Trans := { q with hdr := h, resent := true, firstPort := p, injectedAt := r.1.clk.now }
    { r.1 with fab := { r.1.fab with trans := r.1.fab.trans.map fun q => if q.die == t.die && q.tag == t.tag then again q else q } }

/-- UNREACH (11 R337). -/
def execUnreach (hdr : MsgHdr) (s : State) : Host.Outcome State Fault Refusal :=
  let s := takeInbox s hdr []
  .next ((answered s hdr).elim s (retryTrans s))

/-- TRANSACTION_TIMEOUT (11 R337): no answer within 2 ms of the injection. -/
def execTransactionTimeout (die tag : Nat) (s : State) : Host.Outcome State Fault Refusal :=
  match transOf s die tag with
  | none => .next s
  | some t => .next (retryTrans (advance s (t.injectedAt + 2000000)) t)

/-- HELD_MESSAGE_TIMEOUT (11 R335). -/
def execHeldMessageTimeout (position : Nat) (s : State) : Host.Outcome State Fault Refusal :=
  match s.fab.held[position]? with
  | none => .next s
  | some m =>
    let s := advance s (m.since + 2000000)
    .next (wakeWaiting { s with fab := { s.fab with held := s.fab.held.eraseIdx position, stale := satInc s.fab.stale } } (heldDie m))

/-! ### Forwarding (11 R329, R332, R333) -/

/-- The flits of a routed message return their credits on the port that received them (11 R320). -/
def routedCredits (s : State) (h : MsgHdr) (data : List Byte) : State × Option Arrived :=
  match s.fab.arrived.find? fun x => x.hdr == h && x.data == data with
  | none => (s, none)
  | some x =>
    let s := { s with fab := { s.fab with arrived := s.fab.arrived.erase x } }
    let p := portOf s x.port
    (putPort s x.port { p with creditsOwed := tadj p.creditsOwed x.vl 0 (· + x.flits) }, some x)

/-- MESSAGE_FORWARD (11 R329). A RED_UP for this part that finds no reduction memory waits at its port and holds its credits (11 R345). -/
def execMessageForward (hdr : MsgHdr) (data : List Byte) (s : State) : Host.Outcome State Fault Refusal :=
  if answersTo s hdr.dst && noRedRoom s hdr data then .next s else
  let r := routedCredits s hdr data
  let s := r.1
  let vl := r.2.elim (laneOf hdr.mtype) (·.vl)
  let marks := r.2.elim [] (·.marks)
  let source := r.2.bind (·.source)
  let m : InMsg := { hdr := hdr, data := data, marks := marks, source := source, die := r.2.elim 0 fun x => x.port / 16 }
  if answersTo s hdr.dst then .next (deliverHere s m) else
  match routeHop s hdr.rdst hdr.hops vl none with
  | .deliver => .next (deliverHere s m)
  | .hopLimit => .next { s with fab := { s.fab with hopLimit := satInc s.fab.hopLimit } }
  | .noRoute => .next (unreachTo { s with fab := { s.fab with noRoute := satInc s.fab.noRoute } } hdr)
  | .port p => .next (enqueue s p vl (flitsOf { hdr with hops := hdr.hops + 1 } vl data marks source))

/-- ALIAS_MESSAGE (11 R332): it adds or overwrites one entry; with the table full it is refused and a health record says so. -/
def execAliasMessage (hdr : MsgHdr) (fromStation toStation : Nat) (s : State) : Host.Outcome State Fault Refusal :=
  let s := ackAsked (takeInbox s hdr []) hdr
  let rest := s.fab.aliases.filter fun a => a.1 != fromStation
  if 4096 ≤ rest.length then .next (health s { code := 0x0103, severity := 2, value := fromStation })
  else
    let fresh := !s.fab.aliases.any fun a => a.1 == fromStation
    let seen (j : Job) : Job :=
      let j := { j with lost := j.lost.filter (· != fromStation) }
      if fresh && j.stations.contains fromStation then { j with check := { j.check with replacedStations := j.check.replacedStations + 1 } } else j
    .next { s with fab := { s.fab with aliases := rest ++ [(fromStation, toStation)] }, jobs := s.jobs.map fun p => (p.1, seen p.2) }

/-- MGMT (11 R334): lane 6 carries it to the management side, which keeps it. -/
def execMgmt (hdr : MsgHdr) (data : List Byte) (s : State) : Host.Outcome State Fault Refusal :=
  let s := takeInbox s hdr data
  .next { s with mgmt := { s.mgmt with tunnel := s.mgmt.tunnel ++ [(hdr, data)] } }

/-! ### Notices of a job (11 R338, 12 R379, 04 R127) -/

/-- The open job that a control message names, sent by a station of its list. -/
def noticeJob (s : State) (h : MsgHdr) : Option Job := (jobByFjk s h.fjk).filter fun j => j.stations.contains h.src

/-- HALT_NOTICE (11 R338, 12 R379): the job halts here as it did there, with the record that the notice's kind calls for. -/
def execHaltNotice (hdr : MsgHdr) (s : State) : Host.Outcome State Fault Refusal :=
  let s := ackAsked (takeInbox s hdr []) hdr
  match noticeJob s hdr with
  | none => .next s
  | some j =>
    if bit hdr.arg.toNat 0 then .next (releaseHeldActs (haltPoison s j.id 2 0 0 {} hdr.src) j.id)
    else .next (haltFabric s j.id (argBits hdr 23 4) none 0)

/-- STEP_REPLAY_REQUEST (04 R127, R128): a request of another part carries layer tag 0 and condition 0. -/
def execStepReplayRequest (hdr : MsgHdr) (s : State) : Host.Outcome State Fault Refusal :=
  let s := takeInbox s hdr []
  match noticeJob s hdr with
  | none => .next s
  | some j =>
    onlyIf (!j.halted && !j.step.replayRequested && hdr.epoch == epochOf j) s
      (putJob s { j with step := { j.step with replayRequested := true, replayTag := 0, replayCond := 0 } })

end Sys2Proof.Machine
end

