-- ==== Sys2Proof/Machine/Jobs.lean ====
section
/-! DEFINITION. The life of jobs, windows, queues and handle tables; identification, progress, and the takeover by Hub B (14 R415 to R423, R427;
10 R292 to R294; 15 R447). -/

namespace Sys2Proof.Machine

/-! ### Identification (14 R420, 08 R259) -/

/-- ASCII bytes of a text. -/
def asciiBytes (t : String) : List Byte := t.toList.map fun c => BitVec.ofNat 8 c.toNat
def orderCode (s : State) : String :=
  match s.nibs.grade with
  | .m8f => "AW-M8F-1T"
  | .m8s => "AW-M8S-1T"
  | .m6f => "AW-M6F-768G"

/-- The running firmware image. -/
def running (s : State) : FwImage := if s.fw.active = 0 then s.fw.slot0 else s.fw.slot1
def prickVer (s : State) : Nat := s.fw.pack.elim 0 fun k => k.version.toNat

/-- IDENTIFY (14 R420). -/
def execIdentify (page : Nat) (s : State) : Host.Outcome State Fault Refusal :=
  runCmd s page 0x01 0 fun _ s =>
    okNat s 64 (s.hub.phase.toNat * 2 ^ 138 + (if s.hub.preserve then 2 ^ 141 else 0) + s.hub.pstate.toNat * 2 ^ 142 + (if s.hub.hubB then 2 ^ 145 else 0) +
      s.pwr.slotId.toNat * 2 ^ 146 + s.pwr.feedTag.toNat * 2 ^ 152 + s.fab.nvStation * 2 ^ 156 + prickVer s * 2 ^ 176 + (running s).svn % 65536 * 2 ^ 208 +
      (running s).version.toNat * 2 ^ 224 + Config.serial.toNat * 2 ^ 256 + leNat (asciiBytes (orderCode s)) * 2 ^ 384)

/-- Registers of the feature page. -/
def featurePage (s : State) : List Byte :=
  ([featPanels s, featNibs s, 16384, 128, featPasses s, if featStrict s then 1 else 0, 0x007F3FFE, 64, stitchCompat, 1048576, 4096, featLive s].map
    (leBytes 4)).flatten ++ List.replicate (0x100 - 0x30) 0 ++ ((List.range 8).map fun p => leBytes 32 (nibMap s p)).flatten

/-- READ_FEATURES (14 R420). -/
def execReadFeatures (page : Nat) (s : State) : Host.Outcome State Fault Refusal :=
  runCmd s page 0x02 0 fun _ s => { s := s, data := slice (featurePage s) 0 512 }

/-! ### JOB_OPEN (14 R416, R403; 12 R373, R375) -/

/-- Address of the station list of a request in a staging window. -/
def stationListAt (s : State) (r : Request) : Option Nat :=
  let x := pf r 367 256
  (s.hub.staging.find? fun w => w.id == bits x 15 0 && bits x 63 16 + bits x 111 64 ≤ w.size).map fun w => w.base + bits x 63 16
/-- Station list of a request: this part alone, or INT32 entries of a staging window. -/
def stationList (s : State) (r : Request) : Option (List Nat) :=
  let x := pf r 367 256
  if bits x 15 0 = 0 then some [s.fab.station] else
  let n := bits x 111 64
  let a := stationListAt s r
  if n % 4 ≠ 0 || n = 0 || 4194304 < n then none else
  a.bind fun a =>
    let l := (List.range (n / 4)).map fun i => rdLe s (a + 4 * i) 4
    if l.all (· < 1048576) then some l else none

def openFieldsOk (r : Request) : Bool :=
  pf r 47 0 == 0 && pf r 383 368 == 0 && 4 ≤ pf r 52 48 && pf r 52 48 ≤ 16 && vectorOk (pf r 63 53) && pf r 69 64 == 0 && 1 ≤ pf r 159 128 && pf r 159 128 ≤ 1048576

/-- The job as it opens. -/
def freshJob (s : State) (p : Nat) (r : Request) (l : List Nat) : Job :=
  { id := r.job, page := p, fjk := BitVec.ofNat 32 (pf r 191 160), seed := BitVec.ofNat 64 (pf r 255 192), stations := l, pinCount := pf r 159 128
    eqAddr := pf r 127 64, eqVector := pf r 63 53, eqLog := pf r 52 48, assumed := s.fab.assumed.filter fun a => l.contains a
    ring := { busyAt := s.clk.now }, check := { openedNs := s.clk.now } }

/-- A spare tells every station of the list that its assumed ID is reached here (11 R332). -/
def sendAliases (s : State) (j : Job) : State :=
  j.assumed.elim s fun a => (j.stations.filter fun x => !answersTo s x).foldl (fun s x => ctrlTo s s.fab.station x j.fjk "ALIAS" (askBit + a * 2 ^ 20 + s.fab.station)) s

/-- JOB_OPEN (14 R416). -/
def execJobOpen (page : Nat) (s : State) : Host.Outcome State Fault Refusal :=
  runCmd s page 0x10 0 fun r s =>
    let s := (stationListAt s r).elim s fun a => reachRange s a (bits (pf r 367 256) 111 64)
    match stationList s r with
    | none => fail s mbBadField
    | some l =>
      if !openFieldsOk r || !(l.any fun x => answersTo s x) || !decide l.Nodup then fail s mbBadField
      else if s.fw.returnStep != 0 then fail s mbBusy
      else if (jobOf s r.job).isSome || s.mem.zeroing.any fun z => z.job == some r.job then fail s mbJobBusy
      else if 4096 ≤ s.jobs.length then fail s mbNoResource
      else
        let j := freshJob s page r l
        let s := wrHost (putJob { s with mem := { s.mem with jobOpened := true } } j) j.eqAddr (leBytes 8 0)
        okNat (tellPairs (sendAliases s j) j.id) 4 r.job

/-! ### JOB_RESET and JOB_CLOSE (14 R417, R418) -/

/-- The part's stroke settings return to their defaults at the next edge (09 R265, R266). -/
def defaultStrokes (s : State) : State :=
  { s with clk := { s.clk with nextPeriodUs := 20, nextXchPct := 20, changeAt := some (BitVec.ofNat 64 (s.clk.stroke.toNat + 1)), ownPeriodUs := 20, ownXchPct := 20
                               nextSource := 0, nextUp := 0xFF, nextAlt := 0xFF, owner := none } }

/-- An emptied queue. -/
def emptyQueue (q : Queue) : Queue := { q with head := q.tail, free := q.tail, stepBase := q.tail, state := .empty, passed := none, passedMate := none }

/-- Steps 1 to 4 of R417: queues stop and empty, stitches that have not started abort, started ones run on without signalling, pins are zero,
the Blotter is released, and the accumulators, which stay until JOB_CLOSE (05 R137), are clear. -/
def stopWork (s : State) (job : Nat) : State :=
  let s := abortUnstarted s fun a => a.job == job
  let s := releaseHeldActs s job
  let s := { s with acts := s.acts.map fun a => if a.job = job then { a with marks := { a.marks with freed := true, mute := true } } else a }
  let s := (queuesOf s job).foldl (fun s q => saveQueue s q.1 (emptyQueue q.2)) s
  updJob s job fun j => { j with pins := [], blot := {}, grads := j.grads.map fun g => (g.1, freshAcc g.2), step := {}, watchRecs := [] }

/-- Step 5: settings under 04 R130, 05 R143 and 09 R266. -/
def defaultSettings (s : State) (job : Nat) : State :=
  let s := updJob s job fun j => { j with watch := {}, tags := [], ladder := [], ring := { j.ring with base := 0, depth := 0 } }
  if s.clk.owner = some job then defaultStrokes s else s

/-- JOB_RESET (14 R417). -/
def execJobReset (page : Nat) (s : State) : Host.Outcome State Fault Refusal :=
  runJobCmd s page 0x12 0 fun r _ s =>
    let s := defaultSettings (stopWork s r.job) r.job
    ok (epochReached (updJob s r.job fun j => { j with halted := false, lost := [] }) r.job)

/-- The partner is told to drop its copies of a job's tensors (14 R418). -/
def dropAtPartner (s : State) (j : Job) (h : Option Nat) : State :=
  match s.pair.partner with
  | none => s
  | some st => if j.prot.isEmpty then s else ctrlTo s (srcOf s j) st j.fjk "DROP_COPIES" (h.getD 0)

/-- What the part keeps for a job goes: queues, messages, transactions of its reductions, drains. -/
def forgetJob (s : State) (j : Job) : State :=
  let p := s.pair
  { s with jobs := tdel s.jobs j.id, queues := s.queues.filter fun q => q.2.job != j.id
           fab := { s.fab with reds := s.fab.reds.filter (fun n => n.job != j.id), rx := s.fab.rx.filter (fun n => n.job != j.id)
                               held := s.fab.held.filter fun m => m.hdr.fjk != j.fjk }
           pair := { p with received := tdel p.received j.id, drains := p.drains.filter (fun d => d.job != j.id), unacked := p.unacked.filter fun q => q.fjk != j.fjk }
           hub := { s.hub with longOps := s.hub.longOps.filter fun o => o.job != some j.id }
           clk := { s.clk with owner := if s.clk.owner = some j.id then none else s.clk.owner } }

/-- ZEROISE_COMPLETE (15 R447): the frames hold zeros and may be granted again. -/
def execZeroiseComplete (batch : Nat) (s : State) : Host.Outcome State Fault Refusal :=
  match s.mem.zeroing.find? fun z => z.id == batch with
  | none => .next s
  | some z =>
    let m := z.ranges.foldl (fun m r => zeroRange m r.1 r.2) s.mem
    .next { s with mem := { m with zeroing := m.zeroing.filter fun q => q.id != batch } }

/-! ### Windows (10 R292 to R294; 14 R421, R422) -/

/-- Region that a window of a kind is placed in. -/
def regionOf (s : State) (kind panel nib : Nat) : Nat × Nat :=
  let g := s.nibs.grade
  if kind = 0 then (0, globalEnd g) else if kind = 1 then (localBase g panel, 0x1000000000)
  else if kind = 2 then (pillowOf panel nib, 0x170000) else (hostBase, hostEnd - hostBase)

/-- Largest window of a kind. -/
def maxWindow (s : State) (kind : Nat) : Nat :=
  if kind = 0 then globalEnd s.nibs.grade else if kind = 1 then 0x1000000000 else if kind = 2 then 0x170000 else 0x10000000000

def mapFieldsOk (s : State) (r : Request) : Bool :=
  let size := pf r 191 128
  let kind := pf r 3 0
  kind ≤ 3 && pf r 63 16 == 0 && size % 65536 == 0 && 65536 ≤ size && size ≤ maxWindow s kind &&
    (if kind = 3 then pf r 127 64 % 65536 == 0 else pf r 127 64 == 0) && (!(kind == 1 || kind == 2) || pf r 7 5 < featPanels s) &&
    (kind != 2 || (nibsLive s (pf r 7 5)).contains (pf r 15 8)) && (!isAdmin r || kind == 0 || kind == 3)

/-- The lowest window number that is not in use. -/
def freeWinId (ws : List Window) : Nat := ((List.range (ws.length + 1)).find? fun i => !(ws.any fun w => w.id == i + 1)).getD 0 + 1

/-- MAP_WINDOW (10 R292, 14 R422). -/
def execMapWindow (page : Nat) (s : State) : Host.Outcome State Fault Refusal :=
  runCmd s page 0x20 0 fun r s =>
    let kind := pf r 3 0
    let panel := pf r 7 5
    let nib := pf r 15 8
    let ws := if isAdmin r then s.hub.staging else (jobOf s r.job).elim [] (·.windows)
    if !mapFieldsOk s r then fail s mbBadField
    else if (if isAdmin r then 16 else 1024) ≤ ws.length then fail s mbNoResource
    else
      let reg := regionOf s kind panel nib
      match lowestFree (takenRanges s) reg.1 reg.2 (pf r 191 128) with
      | none => fail s mbNoResource
      | some base =>
        let w : Window := { id := freeWinId ws, kind := kind, base := base, size := pf r 191 128, readOnly := bit (pay r) 4, hostAddr := pf r 127 64
                            panel := panel, nib := nib }
        let s := if isAdmin r then { s with hub := { s.hub with staging := s.hub.staging ++ [w] } } else updJob s r.job fun j => { j with windows := j.windows ++ [w] }
        okNat s 12 (w.id + base * 2 ^ 48)

/-- Mark a window as being unmapped. -/
def markUnmap (ws : List Window) (id : Nat) : List Window := ws.map fun w => if w.id = id then { w with unmapping := true } else w

/-- UNMAP_WINDOW (14 R422): the answer comes when the unmapping takes effect. -/
def execUnmapWindow (page : Nat) (s : State) : Host.Outcome State Fault Refusal :=
  runCmd s page 0x21 0 fun r s =>
    let id := pf r 15 0
    let ws := if isAdmin r then s.hub.staging else (jobOf s r.job).elim [] (·.windows)
    if pf r 31 16 != 0 || !(ws.any fun w => w.id == id && !w.unmapping) then fail s mbBadField
    else if isAdmin r then { s := { s with hub := { s.hub with staging := markUnmap s.hub.staging id } }, wait := true }
    else { s := updJob s r.job fun j => { j with windows := markUnmap j.windows id }, wait := true }

/-- Byte ranges of an operand: its front buffer, for an `UPDATE` its back buffer too, or the Blotter records of a `STASH` tensor that it reads or
writes; and its side tensors in memory. -/
def rangesOf (j : Job) (a : Active) (o : Operand) : List (Int × Nat) :=
  let main : List (Int × Nat) :=
    if o.desc.stash then
      (j.blot.recs.filter fun r => r.handle == o.desc.handle && (r.writer == a.sid || recordFor j r.handle == some r)).map fun r => ((r.addr : Int), recSpace r)
    else footprint (frontDesc j o.desc false) :: if a.st.opcode == opUpdate then [footprint (frontDesc j o.desc true)] else []
  main ++ (memorySides o).map footprint

/-- A tensor, a Blotter record or the completion record of a stitch lies in a window (10 R294). -/
def touches (j : Job) (a : Active) (w : Window) : Bool :=
  let hit (r : Int × Nat) : Bool := r.1 < (w.base + w.size : Nat) && (w.base : Int) < r.1 + r.2
  (((a.opnds ++ [a.out, a.rep]).filterMap id).any fun o => (rangesOf j a o).any hit) || (a.st.crEn && hit ((a.st.crecAddr : Int), 64))

/-- A host window goes: the records moved to it are lost, each with a record, and moves to it end (05 R154, R156). -/
def loseWindow (s : State) (job : Nat) (w : Window) : State :=
  let inside (r : BlotRec) : Bool := w.hostAddr ≤ r.hostAddr && r.hostAddr < w.hostAddr + w.size
  let s := loseRecords s job fun _ r => r.loc == .atHost && inside r
  updJob s job fun j =>
    { j with blot := { j.blot with recs := j.blot.recs.map fun r => if r.moving == some .atHost && inside r then { r with moving := none } else r } }

/-- Pages that wait for the unmapping of a window of a job that has none any more are answered (14 R422). -/
def answerUnmaps (s : State) (job : Nat) : State :=
  s.hub.pages.foldl (fun s p =>
    let mine (r : Request) : Bool := r.opcode == 0x21 && !isAdmin r && r.job == job
    if (pageOf s p.1).waiting then ((pageOf s p.1).taken.filter mine).elim s fun r => answerRequest s p.1 r mbOk [] else s) s

/-- Steps 2 and 3 of R418. Stitches that are left touch no window of the job. -/
def closeJob (s : State) (job : Nat) : State :=
  match jobOf s job with
  | none => s
  | some j =>
    let s := { s with queues := s.queues.filter fun q => q.2.job != job }
    let s := (s.acts.filter fun a => a.job == job).foldl (fun s a => completeWith s a (statusOf a (strokeNow s))) s
    let s := dropAtPartner s j none
    let t := answerUnmaps (forgetJob s j) job
    startZero (if j.prot.isEmpty then t else tellTensors t) (some job) (zeroRanges j.windows)

/-- A stitch of the job still touches one of its windows. -/
def stillTouched (s : State) (job : Nat) : Bool :=
  (jobOf s job).any fun j => s.acts.any fun a => a.job == job && j.windows.any (touches j a)

/-- The job is closed but for the windows, whose unmapping takes effect as the stitches that touch them complete (10 R294). -/
def startClose (s : State) (job : Nat) : State :=
  updJob s job fun j => { j with closing := true, windows := j.windows.map fun w => { w with unmapping := true } }

/-- JOB_CLOSE (14 R418): started stitches run to completion first; the answer comes once the last window is unmapped. -/
def execJobClose (page : Nat) (s : State) : Host.Outcome State Fault Refusal :=
  runJobCmd s page 0x11 0 fun r _ s =>
    let t := stopWork s r.job
    if stillTouched t r.job then { s := startClose t r.job, wait := true } else ok (closeJob t r.job)

/-- A window of a job is gone; with the last one of a job that closes, JOB_CLOSE is done and answered. -/
def windowGone (s : State) (job : Nat) : State :=
  if (jobOf s job).any fun j => j.closing && j.windows.isEmpty then
    let t := closeJob s job
    (waitingPage t 0x11 fun r => r.job == job).elim t fun q => answerRequest t q.1 q.2 mbOk []
  else s

/-- UNMAP_TAKE_EFFECT (10 R294): no admitted stitch of the job touches the window; job 4,096 stands for the staging windows. -/
def execUnmapTakeEffect (job window : Nat) (s : State) : Host.Outcome State Fault Refusal :=
  let st := job == 4096
  let ws := if st then s.hub.staging else (jobOf s job).elim [] (·.windows)
  match ws.find? fun w => w.id == window && w.unmapping with
  | none => .next s
  | some w =>
    if !st && s.acts.any fun a => a.job == job && (jobOf s job).any (fun j => touches j a w) then .next s else
    let t := if st then { s with hub := { s.hub with staging := s.hub.staging.filter fun x => x.id != window } }
      else updJob s job fun j => { j with windows := j.windows.filter fun x => x.id != window }
    let closing := !st && (jobOf s job).any (·.closing)
    let t := if w.kind = 3 then (if st then t else loseWindow t job w) else startZero t (if closing then some job else none) (zeroRanges [w])
    let mine (r : Request) : Bool := pf r 15 0 == window && (isAdmin r == st) && (st || r.job == job)
    let t := (waitingPage t 0x21 mine).elim t fun q => answerRequest t q.1 q.2 mbOk []
    .next (if st then t else windowGone t job)

/-! ### Queues and handle tables (08 R243; 14 R423) -/

def queueFieldsOk (s : State) (r : Request) : Bool :=
  let log := pf r 4 0
  pf r 19 5 == 0 && 6 ≤ log && log ≤ 16 && vectorOk (pf r 31 21) && pf r 79 32 % 128 == 0 && pf r 127 80 % 64 == 0 &&
    inJob s r.job (pf r 79 32) (128 * 2 ^ log) && inJob s r.job (pf r 127 80) 64

/-- The lowest queue number that is not in use. -/
def freeQueue (s : State) : Nat := ((List.range (s.queues.length + 1)).find? fun i => (queueOf s i).isNone).getD 0

/-- QUEUE_CREATE (08 R243). -/
def execQueueCreate (page : Nat) (s : State) : Host.Outcome State Fault Refusal :=
  runJobCmd s page 0x30 0 fun r _ s =>
    if !queueFieldsOk s r then fail s mbBadField
    else if 1048576 ≤ s.queues.length then fail s mbNoResource
    else
      let n := freeQueue s
      okNat (saveQueue s n { job := r.job, ringBase := pf r 79 32, logSize := pf r 4 0, step := bit (pay r) 20, vector := pf r 31 21, statusAddr := pf r 127 80 }) 4 n

/-- QUEUE_DESTROY (14 R423). -/
def execQueueDestroy (page : Nat) (s : State) : Host.Outcome State Fault Refusal :=
  runJobCmd s page 0x31 0 fun r _ s =>
    let n := pf r 19 0
    match queueOf s n with
    | none => fail s mbBadField
    | some q =>
      if pf r 31 20 != 0 || q.job != r.job then fail s mbBadField
      else if (s.acts.any fun a => a.queue == n) || (q.step && q.head != q.stepBase) then fail s mbNotNow
      else ok { s with queues := tdel s.queues n }

/-- HANDLE_TABLE_SET (14 R423). -/
def execHandleTableSet (page : Nat) (s : State) : Host.Outcome State Fault Refusal :=
  runJobCmd s page 0x40 0 fun r _ s =>
    match refAt s r (pf r 111 0) with
    | none => fail s mbBadField
    | some (a, n) =>
      if pf r 127 112 != 0 || n % 8 != 0 || n = 0 || 16777216 < n / 8 then fail s mbBadField
      else ok (updJob s r.job fun j => { j with handles := some (a, n / 8), tables := j.tables + 1 })

/-! ### Progress (14 R427) -/

/-- Bytes of a drain that its partner has not acknowledged: those of the messages that still hold or wait for a transaction entry. -/
def drainLeft (s : State) (d : Drain) : Nat :=
  let mine (h : MsgHdr) : Bool := h.mtype == .mirror && argBits h 95 64 == d.handle && (jobOf s d.job).any fun j => j.fjk == h.fjk
  ((s.fab.trans ++ s.fab.waiting.map Prod.snd).filter fun t => mine t.hdr).foldl (fun n t => n + t.data.length) 0

/-- How far a running operation is: a replay has not begun while its transfer runs; of any other the units done are a free value (log entry 2). -/
def runningAt (s : State) (o : LongOp) : Nat :=
  if o.state ≠ 1 then o.position
  else if o.kind = 2 && opRunning s 3 0 o.job then 0 else drawn s % (o.total + 1)

/-- The operation that a query names, as it is reported. -/
def progressOf (s : State) (r : Request) : LongOp :=
  let kind := pf r 35 32
  let subject := pf r 31 0
  let slices := (List.range (featPanels s)).foldl (fun n p => n + (nibsLive s p).length * packSlices s) 0
  let done := (List.range (featPanels s)).foldl (fun n p => n + sweepDone s p) 0
  let job := if kind ≤ 3 then some r.job else none
  if kind = 1 then
    match s.pair.drains.find? fun d => d.job == r.job && d.handle == subject with
    | some d => { kind := 1, unit := true, position := d.bytes - drainLeft s d, total := d.bytes, startStroke := BitVec.ofNat 64 d.stroke }
    | none => (opOf s 1 subject job).getD { state := 0 }
  else if kind = 4 then { kind := 4, unit := true, position := s.mem.scrub, total := scrubTotal s, state := if scrubRuns s then 1 else 0
                          startStroke := BitVec.ofNat 64 s.mem.scrubStroke }
  else if kind = 5 then { kind := 5, position := if slices = 0 then 0 else min 10000 (done * 10000 / slices), total := 10000
                          state := if s.mgmt.cfg.selftestEn = 1 && slices != 0 then 1 else 0
                          startStroke := BitVec.ofNat 64 s.test.sweepStroke }
  else (opOf s kind subject job).elim { state := 0 } fun o => { o with position := runningAt s o }

/-- PROGRESS_QUERY (14 R427). -/
def execProgressQuery (page : Nat) (s : State) : Host.Outcome State Fault Refusal :=
  runCmd s page 0x90 0 fun r s =>
    if pf r 63 36 != 0 || pf r 35 32 = 0 || 8 < pf r 35 32 then fail s mbBadField else
    let o := progressOf s r
    okNat (draw s) 32 (o.state % 8 + (if o.unit then 8 else 0) + o.result % 65536 * 2 ^ 48 + o.startStroke.toNat * 2 ^ 64 + o.total % 2 ^ 64 * 2 ^ 128 +
      o.position % 2 ^ 64 * 2 ^ 192)

/-! ### Takeover by Hub B (14 R415) -/

/-- What a command that has not answered had begun is undone. -/
def undoWaiting (s : State) (r : Request) : State :=
  if r.opcode = 0x21 then
    let clear (ws : List Window) : List Window := ws.map fun w => if w.id = pf r 15 0 then { w with unmapping := false } else w
    if isAdmin r then { s with hub := { s.hub with staging := clear s.hub.staging } } else updJob s r.job fun j => { j with windows := clear j.windows }
  else if r.opcode = 0x70 || r.opcode = 0x82 then
    { s with pair := { s.pair with partner := none, frames := [], guardGib := 0, force := false }
             fab := { s.fab with assumed := if r.opcode = 0x82 then none else s.fab.assumed } }
  else if r.opcode = 0x11 then
    updJob s r.job fun j => { j with closing := false, windows := j.windows.map fun w => { w with unmapping := false } }
  else if r.opcode = 0xB0 then { s with hub := { s.hub with drowsePage := none } } else s

/-- A page whose request was not committed is idle; the request was not executed. -/
def idlePage (s : State) (p : Nat) : State :=
  let x := pageOf s p
  if x.mbState != 1 then s else
  let s := if x.waiting then x.taken.elim s (undoWaiting s) else s
  putPage s p { pageOf s p with mbState := 0, taken := none, waiting := false }

/-- A drain in progress ends as failed: its tensor is to be mirrored again (14 R415, 12 R364). -/
def failDrain (s : State) (d : Drain) : State :=
  let s := updJob s d.job fun j => updProt j d.handle fun p => { p with remirror := true, again := false }
  endOp s { kind := 1, subject := d.handle, job := some d.job, unit := true, total := d.bytes, position := d.bytes - drainLeft s d
            startStroke := BitVec.ofNat 64 d.stroke } mbNotReady

/-- Long operations in progress end as failed with `RESULT` `NOT_READY`. The scrub's pass and the sweep, which no command starts, begin anew; a return
preparation runs again from the next bring-up (15 R451). -/
def failOps (s : State) : State :=
  let s := (s.hub.longOps.filter fun o => o.state == 1).foldl (fun s o => endOp s o mbNotReady) s
  let s := s.pair.drains.foldl failDrain s
  { s with mem := { s.mem with scrub := skipRetired s.mem (s.mem.retired.length + 1) 0, scrubStart := s.clk.now, scrubStroke := strokeNow s, rowErrs := [] }
           test := { s.test with position := [], sweepStart := s.clk.now, sweepStroke := strokeNow s }, pair := { s.pair with drains := [] }
           fab := { s.fab with pendingRoute := s.fab.pendingRoute.filter (·.loaded) }, fw := { s.fw with staging := false, stagingPldm := false }
           hub := { s.hub with streams := s.hub.streams.filter fun c => c.use != .route } }

/-- HUB_FAILOVER (14 R415). -/
def execHubFailover (s : State) : Host.Outcome State Fault Refusal :=
  let t := failOps ((s.hub.pages.map Prod.fst).foldl idlePage s)
  onlyIf (s.pwr.hubOn && !s.hub.hubB) s (health { t with hub := { t.hub with hubB := true } } { code := 0x0602, severity := 2 })

end Sys2Proof.Machine
end

