-- ==== Sys2Proof/Machine/HostLink.lean ====
section
/-! DEFINITION. What the host does through the BARs: doorbells, register writes, the HBM aperture, configuration requests (08 R240, R247, R250; 14
R402 to R407). -/

namespace Sys2Proof.Machine

/-! ### The doorbell page (08 R240, R247, R250; 14 R406) -/

/-- A job that is open: it is no longer once its JOB_CLOSE is under way (14 R413, R418). -/
def openJob (s : State) (job : Nat) : Option Job := (jobOf s job).filter fun j => !j.closing

/-- Run a doorbell of a job that is open. -/
def doorbell (s : State) (job : Nat) (f : Job → State) : Host.Outcome State Fault Refusal :=
  match openJob s job with
  | none => .next s
  | some j => onlyIf (linkUp s) s (f j)

/-- A write that is ignored and counted in `DB_BAD`. -/
def badDoorbell (s : State) (j : Job) : State := putJob s { j with dbBad := satInc j.dbBad }

/-- The queue that a doorbell names, if it is the job's own. -/
def ownQueue (s : State) (j : Job) (n : Nat) : Option Queue := (queueOf s n).filter fun q => q.job == j.id

/-- A tail doorbell: stitches up to the new tail become available, or the write is counted. -/
def tailWrite (s : State) (j : Job) (value : Nat) : State :=
  let n := bits value 19 0
  match ownQueue s j n with
  | none => badDoorbell s j
  | some q =>
    let tail : Word32 := BitVec.ofNat 32 (bits value 63 32)
    let bad := j.halted || 2 ^ q.logSize < (tail - q.head).toNat || (tail - q.head).toNat < (q.tail - q.head).toNat
    if bad then saveQueue s n { q with dbDrop := satInc q.dbDrop }
    else
      let k := { q with tail := tail }
      saveQueue s n { k with state := if q.state == .empty then settled k else q.state }

/-- DB_TAIL (08 R247). -/
def execDbTail (job : Nat) (value : Word64) (s : State) : Host.Outcome State Fault Refusal := doorbell s job fun j => tailWrite s j value.toNat

/-- A resume of a queue that a rejection has stopped: the head is read afresh, or consumed without execution, record or signal. -/
def resumeWrite (s : State) (j : Job) (value : Nat) (skip : Bool) : State :=
  let n := bits value 19 0
  match ownQueue s j n with
  | none => badDoorbell s j
  | some q =>
    if q.state != .rejected then s
    else if skip then
      let k := { q with head := q.head + 1, free := if q.step then q.free else q.free + 1 }
      saveQueue s n { k with state := settled k }
    else saveQueue s n { q with state := settled q }

/-- Q_RESUME with bit 32 clear (08 R250). -/
def execQResumeRetry (job : Nat) (value : Word64) (s : State) : Host.Outcome State Fault Refusal :=
  doorbell s job fun j => resumeWrite s j value.toNat false

/-- Q_RESUME with bit 32 set (08 R250). -/
def execQResumeSkip (job : Nat) (value : Word64) (s : State) : Host.Outcome State Fault Refusal :=
  doorbell s job fun j => resumeWrite s j value.toNat true

/-- A pin addition from the host. -/
def pinWrite (s : State) (j : Job) (value : Nat) : State :=
  if j.pinCount ≤ bits value 19 0 then badDoorbell s j else putJob s (addPin j (bits value 19 0) (bits value 47 32) false)

/-- PIN_ADD (08 R240). -/
def execPinAdd (job : Nat) (value : Word64) (s : State) : Host.Outcome State Fault Refusal := doorbell s job fun j => pinWrite s j value.toNat

/-- A write of `PIN_SEL`. -/
def pinSelect (s : State) (j : Job) (value : Nat) : State :=
  if j.pinCount ≤ bits value 19 0 then badDoorbell s j else putJob s { j with pinSel := bits value 19 0 }

/-- A write to a doorbell page. -/
def pageWrite (s : State) (offset : Nat) (data : List Byte) : State :=
  match openJob s (offset / 4096) with
  | none => s
  | some j =>
    let x := leNat data
    let o := offset % 4096
    if o = 0x00 then (if data.length = 8 then tailWrite s j x else s)
    else if o = 0x08 then resumeWrite s j x (bit x 32)
    else if o = 0x10 then pinWrite s j x
    else if o = 0x18 then pinSelect s j x else s

/-- A 64-bit register of a doorbell page as a read gives it: zero for a job that is not open, and for a register that is written only. -/
def pageWord (s : State) (job o : Nat) : Nat :=
  match openJob s job with
  | none => 0
  | some j =>
    if o = 0x18 then j.pinSel else if o = 0x20 then (tgetD j.pins j.pinSel 0).toNat else if o = 0x28 then j.dbBad.toNat
    else if o = 0x30 then (if j.halted then 2 else 1) else 0
/-- A byte of BAR2 as a read gives it. -/
def bar2Read (s : State) (offset : Nat) : Byte := BitVec.ofNat 8 (pageWord s (offset / 4096) (offset % 4096 / 8 * 8) / 256 ^ (offset % 8))

/-! ### BAR0 (14 R404) -/

/-- `MB_STATUS` of a page. -/
def mbStatus (x : Page) : Nat := x.mbState.toNat + x.mbDrop.toNat * 2 ^ 32
/-- A byte of BAR0 as a read gives it. The response area of a busy page holds undefined bytes: each is a free value (14 R409; log entry 2). -/
def bar0Read (s : State) (offset : Nat) : Byte :=
  if offset < 0x1000 then (featurePage s).getD offset 0
  else if 0x10000 ≤ offset && offset < 0x50000 then
    let x := pageOf s ((offset - 0x10000) / 4096)
    let o := offset % 4096
    if o < 2048 then tgetD x.req o 0 else if x.mbState = 1 then BitVec.ofNat 8 (drawn { s with free := s.free + o }) else x.resp.getD (o - 2048) 0
  else if 0x50000 ≤ offset && offset < 0x50400 then
    BitVec.ofNat 8 (if offset % 16 < 8 then mbStatus (pageOf s ((offset - 0x50000) / 16)) / 256 ^ (offset % 16) else 0)
  else if 0x60000 ≤ offset && offset < 0x60008 then BitVec.ofNat 8 (s.hub.bar4Offset / 256 ^ (offset - 0x60000))
  else if 0x80000 ≤ offset && offset < 0x88000 then msixByte s (offset - 0x80000)
  else if 0x90000 ≤ offset && offset < 0x90100 then
    BitVec.ofNat 8 ((List.range 8).foldl (fun n i => n + if s.hub.msixPending.contains (8 * (offset - 0x90000) + i) then 2 ^ i else 0) 0)
  else 0

/-- Bytes written into a register of `n` bytes at an offset. -/
def mergeReg (old n at_ offset : Nat) (data : List Byte) : Nat :=
  leNat ((List.range n).map fun i =>
    if offset ≤ at_ + i && at_ + i < offset + data.length then data.getD (at_ + i - offset) 0 else BitVec.ofNat 8 (old / 256 ^ i))

/-- A write into a mailbox page: both its areas take it. -/
def requestWrite (s : State) (page offset : Nat) (data : List Byte) : State :=
  let x := pageOf s page
  let resp (i : Nat) : Byte := if offset ≤ 2048 + i && 2048 + i < offset + data.length then data.getD (2048 + i - offset) 0 else x.resp.getD i 0
  putPage s page { x with req := (List.range data.length).foldl (fun t i => if offset + i < 2048 then tset t (offset + i) (data.getD i 0) else t) x.req
                          resp := if offset + data.length ≤ 2048 then x.resp else (List.range (max x.resp.length (min 2048 (offset + data.length - 2048)))).map resp }

/-- Vectors whose pending message a cleared mask lets go. -/
def releasePending (s : State) : State :=
  (s.hub.msixPending.filter fun v => !msixMasked s v).foldl (fun s v =>
    sendMsix { s with hub := { s.hub with msixPending := s.hub.msixPending.filter (· != v) } } v) s

/-- A write into the MSI-X table. -/
def msixWrite (s : State) (offset : Nat) (data : List Byte) : State :=
  releasePending { s with hub := { s.hub with
    msixTable := (List.range data.length).foldl (fun t i => if offset + i < 0x8000 then tset t (offset + i) (data.getD i 0) else t) s.hub.msixTable } }

/-- A write to BAR0: read-only and reserved registers ignore it. A `BAR4_OFFSET` that is no multiple of the BAR4 size is rounded down (DESIGN CHOICE:
log entry 25). -/
def bar0Write (s : State) (offset : Nat) (data : List Byte) : State :=
  if 0x10000 ≤ offset && offset < 0x50000 then requestWrite s ((offset - 0x10000) / 4096) (offset % 4096) data
  else if 0x50000 ≤ offset && offset < 0x50400 then
    (if offset % 16 = 8 && bit (leNat data) 0 then ringPage s ((offset - 0x50000) / 16) else s)
  else if 0x60000 ≤ offset && offset < 0x60008 then
    { s with hub := { s.hub with bar4Offset := mergeReg s.hub.bar4Offset 8 0x60000 offset data / s.hub.bar4Size * s.hub.bar4Size } }
  else if 0x80000 ≤ offset && offset < 0x88000 then msixWrite s (offset - 0x80000) data
  else s

/-- REGISTER_WRITE (00_scope R11; 14 R404, R406). -/
def execRegisterWrite (bar offset : Nat) (data : List Byte) (s : State) : Host.Outcome State Fault Refusal :=
  onlyIf (linkUp s) s (if bar = 0 then bar0Write s offset data else if bar = 2 then pageWrite s offset data else s)

/-! ### BAR4 (14 R405; 10 R299, R302) -/

/-- A byte that BAR4 reaches: in HBM, and in a window of some job or a staging window. -/
def bar4Byte (s : State) (offset : Nat) : Bool :=
  let a := s.hub.bar4Offset + offset
  let hit (w : Window) : Bool := w.kind != 3 && w.base ≤ a && a < w.base + w.size
  offset < s.hub.bar4Size && inHbm s.nibs.grade a && (s.hub.staging.any hit || s.jobs.any fun j => j.2.windows.any hit)

/-- BAR4_READ (14 R405): data, Unsupported Request, or a poisoned completion. -/
def execBar4Read (offset len : Nat) (s : State) : Host.Outcome State Fault Refusal :=
  let a := s.hub.bar4Offset + offset
  let good := hbmOn s && (List.range len).all fun i => bar4Byte s (offset + i)
  let r : Bar4Reply := if good then { data := rdBytes s a len, ep := rangePoison s a len } else { ur := true }
  let t := if good then reachRange s a len else s
  onlyIf (linkUp s) s { t with out := { t.out with bar4 := some r } }

/-- BAR4_WRITE (14 R402, R405): bytes outside windows are discarded; a poisoned write is discarded and reported. -/
def execBar4Write (offset : Nat) (data : List Byte) (ep : Bool) (s : State) : Host.Outcome State Fault Refusal :=
  let cells := ((List.range data.length).filter fun i => bar4Byte s (offset + i)).map fun i => (s.hub.bar4Offset + offset + i, data.getD i 0)
  let t := if ep then { s with out := { s.out with advisory := s.out.advisory + 1 } } else if hbmOn s then putMem s none { bytes := cells } else s
  onlyIf (linkUp s) s t

/-! ### Configuration requests (16 R461; 14 R404) -/

/-- BAR4's size by the size field of the Resizable BAR control: 64 GiB to 1 TiB. -/
def rbarSize (value : Nat) : Option Nat := let n := bits value 13 8; if 16 ≤ n && n ≤ 20 then some (2 ^ (n + 20)) else none

/-- CONFIGURATION_REQUEST: a read answers the register; which bits of a register a write changes is PCIe's, so that it then holds a free value
(log entry 25). -/
def execConfigurationRequest (isWrite : Bool) (register : Nat) (value : Word32) (s : State) : Host.Outcome State Fault Refusal :=
  let t :=
    if isWrite then
      let h := { s.hub with pciCfg := tset s.hub.pciCfg register (BitVec.ofNat 32 (drawn s)) }
      let size := if register = Config.rbarRegister then (rbarSize value.toNat).getD h.bar4Size else h.bar4Size
      draw { s with hub := { h with bar4Size := size, bar4Offset := h.bar4Offset / size * size } }
    else { s with out := { s.out with cfgData := some (tgetD s.hub.pciCfg register (Config.cfgSpace register)) } }
  onlyIf (linkUp s) s t

end Sys2Proof.Machine
end

