-- ==== Sys2Proof/Machine/Routing.lean ====
section
/-! DEFINITION. The station ID, the port enables, and the route image (11 R322, R328, R331; 14 R425). -/

namespace Sys2Proof.Machine

/-! ### STATION_SET (11 R328) -/

/-- The port enables: cleared ports are disabled at once. -/
def setPorts (s : State) (mask : Nat) : State :=
  let s := { s with fab := { s.fab with portEn := BitVec.ofNat 64 mask, stationSet := true } }
  ((List.range 64).filter fun p => !bit mask p).foldl disablePort s

/-- A change of the station ID retrains an enabled port: an UP one enters RETRAIN, a DOWN one trains again at once, and one that is training or
retraining exchanges its hello with the new ID (11 R328). -/
def retrainPort (s : State) (p : Nat) : State :=
  match (portOf s p).lstate with
  | .up => enterRetrain s p
  | .down => putPort s p { portOf s p with lstate := .training }
  | _ => s

/-- STATION_SET: a change of the station ID retrains every enabled port. -/
def execStationSet (page : Nat) (s : State) : Host.Outcome State Fault Refusal :=
  runCmd s page 0x80 0 fun r s =>
    let st := pf r 19 0
    let change := st != s.fab.station
    if pf r 31 21 != 0 then fail s mbBadField
    else if change && !s.jobs.isEmpty then fail s mbNotNow
    else
      let s := setPorts { s with fab := { s.fab with station := st } } (pf r 95 32)
      let s := if change then ((List.range 64).filter (portEnabled s)).foldl retrainPort s else s
      let s := if !bit (pay r) 20 then s
        else if nvReady s then nvWrite { s with fab := { s.fab with nvStation := st, stationUnsaved := none } } (.station s.fab.nvStation)
        else { s with fab := { s.fab with stationUnsaved := some st } }
      ok s

/-! ### ROUTE_LOAD (11 R331, 14 R425) -/

/-- A table section of 1,024 entries at an address. -/
def routeTable (s : State) (a : Nat) : Tbl Word64 :=
  (List.range 1024).foldl (fun t i => let w := rdLe s (a + 8 * i) 8; if w = 0 then t else tset t i (BitVec.ofNat 64 w)) []

/-- The alias list of a section; none when a reserved bit is set. -/
def aliasList (s : State) (a n : Nat) : Option (List (Nat × Nat)) :=
  let ws := (List.range n).map fun i => rdLe s (a + 8 * i) 8
  if ws.any fun w => bits w 62 40 != 0 then none
  else some ((ws.filter fun w => bit w 63).map fun w => (bits w 39 20, bits w 19 0))

/-- What a route image at an address says, its number of entries, and the address of its trailer. -/
structure RouteImage where
  load : RouteLoad
  entries : Nat
  size : Nat

/-- Read an image: its sections follow in the order of the mask. -/
def readRoute (s : State) (a : Nat) (applyAt : Word64) : Option RouteImage :=
  let mask := rdLe s a 4
  let n := if bit mask 2 then rdLe s (a + 4) 4 else 0
  let g := a + 64
  let m := if bit mask 0 then g + 8192 else g
  let l := if bit mask 1 then m + 8192 else m
  if 8 ≤ mask || (rdBytes s (a + 8) 56).any (· != 0) then none else
  (if n ≤ 4096 then aliasList s l n else some []).map fun al =>
    { load := { group := if bit mask 0 then some (routeTable s g) else none, member := if bit mask 1 then some (routeTable s m) else none
                aliases := if bit mask 2 then some al else none, applyAt := applyAt }
      entries := (if bit mask 0 then 1024 else 0) + (if bit mask 1 then 1024 else 0) + n
      size := l + 8 * n + 4 - a }

/-- ROUTE_LOAD (11 R331): the sections go into inactive copies. The stream of the image's check keeps its context until the load ends, so that a warm
restart finds it again (13 R397). -/
def execRouteLoad (page : Nat) (s : State) : Host.Outcome State Fault Refusal :=
  runCmd s page 0x81 0 fun r s =>
    match refAt s r (pf r 111 0) with
    | none => fail s mbBadField
    | some (a, n) =>
      let s := reachRange s a n
      match readRoute s a (BitVec.ofNat 64 (pf r 175 112)) with
      | none => fail s mbBadField
      | some i =>
        if pf r 191 176 != 0 || n != i.size then fail s mbBadField
        else if opRunning s 7 0 none then fail s mbBusy
        else if 4096 < rdLe s (a + 4) 4 && bit (rdLe s a 4) 2 then fail s mbNoResource
        else if crc32c (rdBytes s a (n - 4)) != rdLe s (a + n - 4) 4 then fail s mbCrcFail
        else
          let run := presetRun 0 (presetInit 0) (rdBytes s a (n - 4))
          let load := { i.load with trailer := rdLe s (a + n - 4) 4 }
          let s := suspendStream { s with fab := { s.fab with pendingRoute := some load } } hubUnits { use := .route, preset := 0, value := BitVec.ofNat 64 run }
          { s := startOp s page r { kind := 7, unit := true, total := i.entries }, status := mbInProgress }

/-- The load of a route image ends: the running value that its context holds, across a warm restart too, is compared with the trailer (13 R397). -/
def endRoute (s : State) (o : LongOp) (good : Bool) : State :=
  let same := s.fab.pendingRoute.any fun r => presetFinal 0 (contextOf s .route 0).value.toNat == r.trailer
  let s := endStream s .route
  if good && same then endOp { s with fab := { s.fab with pendingRoute := s.fab.pendingRoute.map fun r => { r with loaded := true } } } o mbOk
  else endOp { s with fab := { s.fab with pendingRoute := none } } o mbCrcFail

end Sys2Proof.Machine
end

