-- ==== Sys2Proof/Machine/Shadows.lean ====
section
/-! DEFINITION. Shadow re-execution, self-test decisions, and the retirement of a nib (12 R384 to R389; 15 R445). -/

namespace Sys2Proof.Machine

/-! ### Faults of a nib (12 R386, R387) -/

def nibKey (n : Nat × Nat) : Nat := n.1 * 160 + n.2
/-- Unit of a record about a nib: the engine of the stitch that ran there, or its small check unit (log entry 8). -/
def nibUnit (opcode : Nat) (n : Nat × Nat) : UnitRef := { engine := if opcode = 0 then 8 else engineOf opcode, panel := n.1, nib := n.2 }

/-- A `SHADOW` record to a job. -/
def shadowRecord (s : State) (job : Nat) (sid : Sid) (opcode : Nat) (n : Nat × Nat) (action value : Nat) : State :=
  (jobOf s job).elim s fun j => jobEvent s job { area := areaResil j.committed 0 0 0x1A action value, sid := sid, opcode := opcode, unit := nibUnit opcode n }

/-- Jobs with an admitted stitch or a Pillow window on a nib. -/
def jobsOn (s : State) (n : Nat × Nat) : List Nat :=
  (s.jobs.filter fun j => (s.acts.any fun a => a.job == j.1 && a.nibs.contains n) ||
    j.2.windows.any fun w => w.kind == 2 && w.panel == n.1 && w.nib == n.2).map Prod.fst

/-- A stitch that includes a retired nib is shadowed (12 R387): one that has been evaluated is compared where it is held, and one whose group has
replayed before its new outcome. -/
def shadowLate (a : Active) : Active :=
  match a.stage with
  | .held => { a with stage := .comparing, resume := some .held }
  | .replayed => { a with stage := .comparing, resume := some .replayed }
  | .stepReplay => { a with stage := .comparing, resume := some .stepReplay }
  | .waiting | .running | .finished | .replaying => { a with shadow := true }
  | _ => a

/-- Retirement begins (12 R387, steps 1 and 2): the nib leaves the map, and every admitted stitch that includes it is shadowed. -/
def retireNib (s : State) (n : Nat × Nat) (source : Nat) : State :=
  let k := nibKey n
  if s.nibs.out.contains k then s else
  { s with nibs := { s.nibs with out := ninsert s.nibs.out k, retiring := s.nibs.retiring ++ [(k, source, jobsOn s n)] }
           acts := s.acts.map fun a => if a.nibs.contains n then shadowLate a else a
           test := { s.test with failing := s.test.failing.filter fun f => !(f.1 == n.1 && f.2.1 == n.2) } }

/-- A permanent fault: the nib is retired, or stays in service with a health record. -/
def permanentFault (s : State) (n : Nat × Nat) (source : Nat) : State :=
  if s.mgmt.cfg.retirePolicy = 1 then retireNib s n source
  else health s { code := 0x0402, severity := 2, panel := n.1, nib := n.2, value := source }

/-- Transients of a nib in the last 24 h. -/
def transientsOf (s : State) (n : Nat × Nat) : Nat :=
  (s.test.transients.filter fun t => t.1 == nibKey n && decide (s.clk.now < t.2 + 86400 * 1000000000)).length

/-- A transient is counted against a nib: a `SHADOW` record to the stitch's job, or a health record of the self-test; at the limit the fault is
permanent. -/
def countTransient (s : State) (n : Nat × Nat) (act : Option Active) : State :=
  let s := { s with test := { s.test with transients := s.test.transients ++ [(nibKey n, s.clk.now)] } }
  let k := transientsOf s n
  let s := match act with
    | some a => shadowRecord s a.job a.sid a.st.opcode n 5 k
    | none => health s { code := 0x0403, severity := 0, panel := n.1, nib := n.2, value := k }
  if s.mgmt.cfg.transientLimit ≤ k then permanentFault s n (if act.isSome then 1 else 2) else s

/-! ### The comparison (12 R384 to R386, R388) -/

def shadowOf (s : State) (sid : Sid) : Option Shadow := s.shadows.find? fun h => h.sid == sid
def putShadow (s : State) (h : Shadow) : State := { s with shadows := (s.shadows.filter fun q => q.sid != h.sid) ++ [h] }

/-- A share's two CRCs differ. -/
def differs (h : Shadow) (share : Nat) : Bool := (h.crcs[share]?).any fun c => c.1 != c.2

/-- The comparison ends without a disagreement that stands: the stitch goes on as it would have without it, and one that had been evaluated is
evaluated again only if its counts are another execution's. -/
def endCompare (s : State) (a : Active) : State :=
  let s := { s with shadows := s.shadows.filter fun h => h.sid != a.sid }
  match jobOf s a.job with
  | none => completeWith s { a with marks := { a.marks with mute := true } } (statusOf a (strokeNow s))
  | some j =>
    if a.marks.discarded then endDiscarded s a
    else if a.recompute then endRecompute s a
    else if a.marks.mute || j.halted then leaveMuted s a
    else
      let b := { a with shadow := false, resume := none }
      match a.resume with
      | some .held => settleGroup (putAct s { b with stage := .held }) { b with stage := .held }
      | some g => putAct s { b with stage := g }
      | none => evaluateAct s j b

/-- No majority (12 R385): the stitch completes `SHADOW_MISMATCH` and its job halts here and on its stations. -/
def mismatchHalt (s : State) (a : Active) : State :=
  let open_ := (jobOf s a.job).any fun j => !j.halted
  let s := haltJob s a.job
  let s := abortUnstarted s fun b => b.job == a.job && b.sid != a.sid
  let s := completeWith s { a with marks := { a.marks with mismatch := true } } stMismatch
  let s := releaseHeldActs s a.job
  if open_ then (jobOf s a.job).elim s fun j => toStations s j "HALT_NOTICE" (askBit + noticePoison) else s

/-- Every differing share has had its third execution and every loser has repeated. -/
def compareOver (h : Shadow) : Bool :=
  h.losers.isEmpty && (List.range h.crcs.length).all fun i => !differs h i || h.thirds.any fun t => t.1 == i

/-- End the comparison when nothing of it is left to run. -/
def settleCompare (s : State) (sid : Sid) : State :=
  match shadowOf s sid, actOf s sid with
  | some h, some a => if compareOver h then endCompare s a else s
  | _, _ => s

/-- SHADOW_COMPLETE (12 R384, R388): the CRCs of each share, the primary's first. The shadow execution has taken a free bobbin of each of its nibs in its
turn (09 R280). -/
def execShadowComplete (sid : Sid) (crcs : List (Word32 × Word32)) (s : State) : Host.Outcome State Fault Refusal :=
  match actOf s sid with
  | none => .next s
  | some a =>
    onlyIf (a.stage == .comparing && (shadowOf s sid).isNone && crcs.length == a.nibs.length && shadowRuns s a) s
      (settleCompare (putShadow s { sid := sid, crcs := crcs, compared := true }) sid)

/-- The nib that ran a share: the primary's, or the shadow's. Both executions of a stitch that a step replay has cleared ran on its own nibs (12 R388). -/
def shareNib (s : State) (a : Active) (share : Nat) (primary : Bool) : Nat × Nat :=
  (if primary || !shadowed a then a.nibs else shadowNibs s a.nibs).getD share (0, 0)

/-- Contributions in which those of one share are replaced. -/
def newContrib (l : List Int) (share : List (Nat × Int)) : List Int := l.zipIdx.map fun x => ((share.find? fun q => q.1 == x.2).map (·.2)).getD x.1

/-- The majority's contributions take the place of the primary's (12 R385; 05 R136): what overflows is left out, as it is in an execution (05 R139). -/
def moveContrib (s : State) (a : Active) (new : List Int) : State × Bool :=
  match a.contrib, jobOf s a.job with
  | _ :: _, some j =>
    let g := tgetD j.grads a.st.out {}
    let base := if a.contribOut then g.acc else accAdd g.acc (a.contrib.map fun x => -x)
    let sum := accAdd base new
    let out := accOver sum
    (putJob s { j with grads := tset j.grads a.st.out { g with acc := if out then base else sum } }, out)
  | _, _ => (s, false)

/-- The stitch as the majority's execution leaves it: its counts, its conditions and marks, its contributions. -/
def asMajority (a : Active) (m : ShareResult) (new : List Int) (out : Bool) : Active :=
  { a with counts := m.counts, contrib := new, contribOut := out, marks := { a.marks with flagged := m.wideNf }
           conds := (if out then [(condAcc, 0)] else []) ++ if m.wideNf then [(5, m.counts.nonfinite)] else []
           resume := a.resume.filter fun g => g != .held && g != .stepReplay }

/-- THIRD_EXEC_COMPLETE (12 R385): the third CRC of a share, with the bytes of the majority's share, which are written when the shadow's is the
majority, and with the counts that the stitch then has. -/
def execThirdExecComplete (sid : Sid) (share : Nat) (crc : Word32) (majority : ShareResult) (s : State) : Host.Outcome State Fault Refusal :=
  match shadowOf s sid, actOf s sid with
  | some h, some a =>
    if !differs h share || h.thirds.any fun t => t.1 == share then .next s else
    let c := h.crcs.getD share (0, 0)
    let h := { h with thirds := h.thirds ++ [(share, crc)] }
    let lose (primary : Bool) (bad : Word32) : Shadow × (Nat × Nat) :=
      let n := shareNib s a share primary
      ({ h with losers := h.losers ++ [(share, n.1, n.2, bad)] }, n)
    if crc = c.1 then
      let l := lose false c.2
      .next (shadowRecord (putShadow s l.1) a.job sid a.st.opcode l.2 1 0)
    else if crc = c.2 then
      let l := lose true c.1
      let ws : WriteSet := { bytes := majority.bytes.foldl (fun t w => tset t w.1 w.2) [] }
      let new := newContrib a.contrib majority.contrib
      let m := moveContrib (applyWrites (putShadow s l.1) (some sid) ws) a new
      .next (shadowRecord (putAct m.1 (asMajority a majority new m.2)) a.job sid a.st.opcode l.2 2 0)
    else
      let s := shadowRecord s a.job sid a.st.opcode (shareNib s a share true) 3 0
      .next (mismatchHalt s a)
  | _, _ => .next s

/-- LOSER_REPEAT_COMPLETE (12 R386): the loser's own earlier CRC again is a permanent fault, any other a transient. -/
def execLoserRepeatComplete (sid : Sid) (share : Nat) (crc : Word32) (s : State) : Host.Outcome State Fault Refusal :=
  match shadowOf s sid, actOf s sid with
  | some h, some a =>
    match h.losers.find? fun l => l.1 == share with
    | none => .next s
    | some l =>
      let n := (l.2.1, l.2.2.1)
      let s := putShadow s { h with losers := h.losers.filter fun q => q.1 != share }
      let s := if crc = l.2.2.2 then permanentFault s n 1 else countTransient s n (some a)
      .next (settleCompare s sid)
  | _, _ => .next s

/-! ### The end of a retirement (12 R387, step 3) -/

/-- A nib's Pillow leaves every window. -/
def dropPillow (n : Nat × Nat) (ws : List Window) : List Window :=
  ws.map fun w => if w.kind = 2 && w.panel = n.1 && w.nib = n.2 then { w with size := 0 } else w

/-- NIB_RETIRE_COMPLETE (12 R387): no admitted stitch includes the nib any more. -/
def execNibRetireComplete (panel nib : Nat) (s : State) : Host.Outcome State Fault Refusal :=
  let n := (panel, nib)
  match s.nibs.retiring.find? fun r => r.1 == nibKey n with
  | none => .next s
  | some (k, source, jobs) =>
    if s.acts.any fun a => a.nibs.contains n then .next s else
    let s := { s with nibs := { s.nibs with retiring := s.nibs.retiring.filter (fun r => r.1 != k), retired := ninsert s.nibs.retired k }
                      jobs := s.jobs.map fun j => (j.1, { j.2 with windows := dropPillow n j.2.windows }) }
    let s := health s { code := 0x0401, severity := 2, panel := panel, nib := nib, value := source }
    .next (jobs.foldl (fun s j => shadowRecord s j 0 0 n 4 0) s)

/-! ### Self-test decisions (15 R445) -/

/-- A slice ends with a CRC: the repeat of a failing one counts towards its decision after three. -/
def repeatEnds (s : State) (f : Nat × Nat × Nat × Word32 × Nat × Nat) (crc : Word32) : State :=
  let n := (f.1, f.2.1)
  let bad := f.2.2.2.1
  let runs := f.2.2.2.2.1 + 1
  let same := f.2.2.2.2.2 + if crc = bad then 1 else 0
  let rest := s.test.failing.filter fun g => !(g.1 == f.1 && g.2.1 == f.2.1 && g.2.2.1 == f.2.2.1)
  if runs < 3 then { s with test := { s.test with failing := (n.1, n.2, f.2.2.1, bad, runs, same) :: rest } }
  else
    let s := { s with test := { s.test with failing := rest } }
    if 2 ≤ same then permanentFault s n 2 else countTransient s n none

/-- SELFTEST_SLICE_END (15 R445): the slice ends one sixteenth of the period after the edge. -/
def execSelftestSliceEnd (panel nib : Nat) (crc : Word32) (s : State) : Host.Outcome State Fault Refusal :=
  match s.test.running.find? fun r => r.1 == panel && r.2.1 == nib with
  | none => .next s
  | some r =>
    let k := r.2.2
    let s := advance { s with test := { s.test with running := s.test.running.filter fun q => q != r } } (s.clk.edge + periodNs s / 16)
    match s.test.failing.find? fun f => f.1 == panel && f.2.1 == nib && f.2.2.1 == k with
    | some f => .next (repeatEnds s f crc)
    | none =>
      let good := (s.fw.pack.bind fun p => p.slices[k]?).all fun w => w.signature == crc
      .next (if good then s else { s with test := { s.test with failing := s.test.failing ++ [(panel, nib, k, crc, 0, 0)], lastSlice := k } })

end Sys2Proof.Machine
end

