-- ==== Sys2Proof/Machine/Resets.lean ====
section
/-! DEFINITION. What the resets leave: the start of the Hub domain and of the main domain, the Ohmub warm restart and the check of the firmware image
at a boot (16 R460, R475, R476, R482; 15 R439 to R441). -/

namespace Sys2Proof.Machine

/-! ### The nib clock's divisor (16 R469) -/

/-- The largest divisor that is demanded applies; a change is logged with its cause: 1 supply, 2 pair, 3 power, 4 cooling. -/
def setDivisor (s : State) (cause : Nat) : State :=
  let d := max (max s.pwr.divSupply s.pwr.divPair) (max s.pwr.divPower s.pwr.divCooling)
  if d = s.pwr.divisor then s else health { s with pwr := { s.pwr with divisor := d } } { code := 0x0820, severity := 0, value := d + cause * 256 }

/-! ### Secure boot (15 R439 to R441) -/

def fwSlot (s : State) (k : Nat) : FwImage := if k = 0 then s.fw.slot0 else s.fw.slot1
def otherSlot (s : State) : Nat := if s.fw.active = 0 then 1 else 0
/-- A signature verifies against a key whose SHA-384 lies in an unrevoked fuse slot for its algorithm. -/
def keyTrusted (slots : List KeySlot) (x : Signature) : Bool := x.verifies && slots.any fun k => !k.revoked && k.digest == x.key
/-- Both signatures of signed content verify. -/
def trusted (s : State) (ecdsa lms : Signature) : Bool := keyTrusted s.fw.ecdsaSlots ecdsa && keyTrusted s.fw.lmsSlots lms
/-- The CRC-32 of a package header is good (15 R441, 13 R398). -/
def headerOk (i : FwImage) : Bool := crc32 i.header == i.headerCrc.toNat
/-- An image passes the ROM's checks. -/
def bootable (s : State) (i : FwImage) : Bool := trusted s i.ecdsa i.lms && decide (fusesNow s ≤ i.svn)
/-- The other slot runs in place of the active one. -/
def fallBack (s : State) : State :=
  let refused := (running s).version.toNat
  health { s with fw := { s.fw with active := otherSlot s, bootFailures := 0 } } { code := 0x0701, severity := 2, value := refused }

/-- Hub ROM verifies the active slot, then the other; with neither the part stays in bring-up. -/
def bootCheck (s : State) : State :=
  let boots (s : State) (failed : Bool) : State := { s with hub := { s.hub with bootFailed := failed } }
  if bootable s (running s) then boots s false
  else if bootable s (fwSlot s (otherSlot s)) then fallBack (boots s false)
  else boots s true

/-- The phase in which Ohmub starts: bring-up, or the return state once its fuse is blown (15 R450, R451). -/
def startPhase (s : State) : BitVec 2 := if s.fw.returnFuse then 2 else 0

/-! ### PERST_N (15 R448) -/

/-- The JTAG instruction that a loaded one acts as (15 R448). -/
def jtagEffect (s : State) (code : JtagInstr) : JtagInstr :=
  match code with
  | .extest => if s.pwr.perstN then .bypass else .extest
  | .clamp => if s.pwr.perstN then .bypass else .clamp
  | .highz => if s.pwr.perstN then .bypass else .highz
  | .other _ => .bypass
  | .bypass => .bypass
  | .idcode => .idcode
  | .samplePreload => .samplePreload

/-- `PERST_N` takes a level: EXTEST, CLAMP and HIGHZ take effect only while it is low. -/
def setPerst (s : State) (high : Bool) : State :=
  let t := { s with pwr := { s.pwr with perstN := high } }
  { t with mgmt := { t.mgmt with jtag := jtagEffect t t.mgmt.jtagCode } }

/-! ### The main domain starts afresh (16 R460, R482) -/

/-- A port that is DISABLED with its status counts kept (11 R322, R327). -/
def coldPort (x : Port) : Port :=
  { lstate := .disabled, peerStation := x.peerStation, peerPort := x.peerPort, retrains := x.retrains, marksMissed := x.marksMissed, fecUncorr := x.fecUncorr
    crcErr := x.crcErr, stallDrop := x.stallDrop, delayNs := x.delayNs }
def coldPorts (s : State) : Tbl Port := s.fab.ports.map fun p => (p.1, coldPort p.2)

/-- Memory without contents: what Ohmub knows of retired frames and repaired rows stays (10 R307). -/
def freshMem (m : Mem) : Mem :=
  { sparesUsed := m.sparesUsed, repairLog := m.repairLog, unlogged := m.unlogged, retired := m.retired, unsaved := m.unsaved, degraded := m.degraded }

/-- Self-test starts a new sweep; its history and the sweeps completed since power-on stay. -/
def freshTest (s : State) : SelfTest :=
  { sweeps := s.test.sweeps, sweepStart := s.clk.now, sweepStroke := strokeNow s, lastSlice := s.test.lastSlice, transients := s.test.transients }

/-- The main domain returns to its power-on values; the Hub domain's state is unchanged. The mailbox pages of the Hubs stay, and a command that waited for
an event of the main domain is executed again. The configuration is reloaded from NV, with a write that still waits for the supply (16 R482, 15 R436). -/
def mainReset (s : State) : State :=
  { s with
    clk := { now := s.clk.now, edge := s.clk.now }
    lag := {}, mem := freshMem s.mem, nibs := { s.nibs with marks := [], panelStopped := [], turn := [] }
    jobs := [], queues := [], acts := [], runs := [], pair := {}, shadows := [], test := freshTest s
    fab := { ports := coldPorts s, station := s.fab.nvStation, nvStation := s.fab.nvStation, stationUnsaved := s.fab.stationUnsaved, noRoute := s.fab.noRoute
             hopLimit := s.fab.hopLimit, foreign := s.fab.foreign, stale := s.fab.stale, vl7Drop := s.fab.vl7Drop }
    hub := { phase := startPhase s, hubB := s.hub.hubB, bootFailed := s.hub.bootFailed, longOps := s.hub.longOps.filter (fun o => o.kind == 6 || o.kind == 8)
             pages := s.hub.pages.map (fun p => (p.1, { p.2 with waiting := false })), ringOrder := s.hub.ringOrder }
    mgmt := { s.mgmt with cfg := s.mgmt.cfgUnsaved.getD s.mgmt.cfgNv, uartOn := false }
    fw := { s.fw with pack := s.fw.nextPack.or s.fw.pack, nextPack := none } }

/-- The main rails go off: `PWR_GOOD` is driven low, and every job is lost with the HBM (16 R462). -/
def railsOff (s : State) : State :=
  let s := setPerst (mainReset s) false
  { s with pwr := { s.pwr with railsOn := false, railsRamping := false, pwrGoodLow := true } }

/-- The main rails ramp, and the main domain starts afresh (16 R461, step 4). -/
def railsRamp (s : State) : State :=
  let s := setPerst (mainReset s) false
  { s with pwr := { s.pwr with railsOn := false, railsRamping := true, pwrGoodLow := true } }

/-! ### Power-on (16 R460, R482) -/

/-- Spare rows that the repair log uses. -/
def recount (log : List (Nat × Bool)) : Tbl Nat := log.foldl (fun t r => tadj t (r.1 / 65536) 0 (· + 1)) []

/-- What NV and the fuses keep through a power-on reset, and everything else at its reset value. -/
def powerOnState (s : State) : State :=
  let log := s.mem.repairLog.filter fun r => !s.mem.unlogged.contains r
  { pending := s.pending, free := s.free, host := s.host, out := s.out
    nibs := { grade := s.nibs.grade, out := s.nibs.out, retired := s.nibs.retired, retiring := s.nibs.retiring }
    mem := { retired := s.mem.retired.filter (fun r => !s.mem.unsaved.contains r), repairLog := log, sparesUsed := recount log, degraded := s.mem.degraded }
    fab := { station := s.fab.nvStation, nvStation := s.fab.nvStation }
    hub := { phase := startPhase s }
    mgmt := { cfg := s.mgmt.cfgNv, cfgNv := s.mgmt.cfgNv, nvCritical := s.mgmt.nvCritical }
    fw := { slot0 := s.fw.slot0, slot1 := s.fw.slot1, active := s.fw.active, staged := s.fw.staged, bootFailures := s.fw.bootFailures, fuses := fusesNow s
            ecdsaSlots := s.fw.ecdsaSlots, lmsSlots := s.fw.lmsSlots
            pack := s.fw.nextPack.or s.fw.pack, keys := s.fw.keys, returnStep := s.fw.returnStep, returnTally := s.fw.returnTally
            returnRecord := s.fw.returnRecord, returnFuse := s.fw.returnFuse }
    pwr := { pwrEn := s.pwr.pwrEn } }

/-! ### The Ohmub warm restart (16 R475, R476, R482) -/

/-- A job that stays open as halted: its stitches end, its settings are at their defaults. -/
def keepHalted (s : State) (job : Nat) : State :=
  let s := haltJob s job
  let s := abortUnstarted s fun a => a.job == job
  let s := (s.acts.filter fun a => a.job == job).foldl (fun s a => completeWith s { a with marks := { a.marks with mute := true } } (statusOf a (strokeNow s))) s
  let s := (queuesOf s job).foldl (fun s q => if q.2.state == .halted then s else saveQueue s q.1 { q.2 with state := .halted, passed := none, passedMate := none }) s
  updJob s job fun j =>
    { j with
      halted := true, watch := {}, tags := [], ladder := [], watchRecs := [], blot := {}, check := { j.check with pending := none, copying := [] }
      step := { j.step with commitSid := none, voteSent := false, rewinding := false, replayRequested := false, fresh := [], nextWatch := none } }

/-- `PRESERVE` 1: every open job stays, halted. -/
def preserveJobs (s : State) : State := (s.jobs.map Prod.fst).foldl keepHalted s

/-- `PRESERVE` 0: every job is closed, its frames and the guard region are to be zeroised, and no memory content is kept. -/
def closeJobs (s : State) : State :=
  let s := s.jobs.foldl (fun s j => startZero s (some j.1) (zeroRanges j.2.windows)) s
  let s := if s.pair.frames.isEmpty then s else startZero s none s.pair.frames
  { s with jobs := [], queues := [], acts := [], runs := [], pair := {}, mem := { s.mem with bytes := [], poison := [], wcb := [] } }

/-- Mailbox pages: what they show stays, nothing is under way, and the tally streams start afresh. -/
def restartPage (x : Page) : Page :=
  { x with taken := none, waiting := false, lastTally := none, lastResp := [], mbState := if x.mbState = 1 then 0 else x.mbState }

/-- Ohmub and its memory restart; the image of the active slot is verified again. A route load goes on, its check from the running value that its context
holds (13 R397). -/
def warmRestart (s : State) : State :=
  let s := defaultStrokes (if s.hub.preserve then preserveJobs s else closeJobs s)
  let f := s.fab
  bootCheck { s with
    lag := {}, shadows := [], test := freshTest s, nibs := { s.nibs with marks := [], panelStopped := [] }
    mem := { s.mem with scrub := 0, scrubStart := s.clk.now, scrubStroke := strokeNow s, rowErrs := [], reqs := [], jobOpened := false }
    fab := { f with ports := coldPorts s, stationSet := false, portEn := 0
                    trans := [], waiting := [], held := [], reds := [], rx := [], arrived := [], inbox := [] }
    pair := { s.pair with drains := [], frags := [], heldJournal := [], received := [] }
    hub := { s.hub with phase := startPhase s, pages := s.hub.pages.map (fun p => (p.1, restartPage p.2)), staging := []
                        longOps := s.hub.longOps.filter (fun o => o.kind == 8 || (o.kind == 7 && o.state == 1)), pstate := 0, drowsePage := none
                        streams := s.hub.streams.filter fun c => c.use == .route }
    mgmt := { s.mgmt with sessions := [], spdmI3c := {}, spdmSgmii := {}, tunnel := [], uartOn := false }
    fw := { s.fw with staging := false, stagingPldm := false, stagedPack := none, received := 0 } }

end Sys2Proof.Machine
end

