-- ==== Sys2Proof/Machine/Settings.lean ====
section
/-! DEFINITION. The commands that set what a job or the part runs by: strokes, watch conditions, the ladder, the Blotter, registered tensors
(04 R108, R124, R125; 05 R143; 09 R264, R265; 12 R358; 14 R420). -/

namespace Sys2Proof.Machine

/-! ### STROKE_SET (09 R264, R265) -/

/-- Response: the current stroke and the stroke at which the part's fields take effect. -/
def strokeReply (s : State) (edge : Nat) : Reply := okNat s 16 (s.clk.stroke.toNat + edge % 2 ^ 64 * 2 ^ 64)

def portField (x : Nat) : Bool := x ≤ 63 || x == 0xFF
def strokeRsv (r : Request) : Bool := pf r 143 128 != 0 || pf r 63 4 != 0 || pf r 2 2 != 0

def strokePartOk (s : State) (r : Request) : Bool :=
  let at_ := pf r 255 192
  4 ≤ pf r 95 88 && pf r 95 88 ≤ 250 && pf r 87 80 ≤ 50 && portField (pf r 79 72) && portField (pf r 71 64) && pf r 1 0 ≤ 2 &&
    (at_ == 0 || s.clk.stroke.toNat + 16 ≤ at_)

/-- The part's settings: a root's period and reserve change at an edge ahead, a follower keeps them for when it becomes a root. -/
def setStrokes (s : State) (r : Request) (change : Nat) : State :=
  let period := pf r 95 88
  let xch := pf r 87 80
  let source := pf r 1 0
  let c := { s.clk with nextSource := source, nextUp := pf r 79 72, nextAlt := pf r 71 64, ownPeriodUs := period, ownXchPct := xch
                        owner := (jobOf s r.job).map (·.id) }
  { s with clk := if s.clk.source = 1 || source = 1 then c else { c with nextPeriodUs := period, nextXchPct := xch, changeAt := some (BitVec.ofNat 64 change) } }

/-- STROKE_SET with `SCOPE` 0 (09 R265). -/
def execStrokeSetPart (page : Nat) (s : State) : Host.Outcome State Fault Refusal :=
  runCmd s page 0x50 0 fun r s =>
    if strokeRsv r || !strokePartOk s r then fail s mbBadField else
    let change := if pf r 255 192 = 0 then s.clk.stroke.toNat + 16 else pf r 255 192
    strokeReply (setStrokes s r change) change

def strokeRingOk (j : Job) (r : Request) : Bool :=
  let depth := pf r 127 96
  depth == 0 || (pow2In depth 16 65536 && pf r 191 144 % 64 == 0 && inWindow j (pf r 191 144) (64 * depth))

/-- STROKE_SET with `SCOPE` 1 (09 R264): the ring's first record is of the first stroke that it counts whole. Its `CHANGE_EDGE` concerns no field that
the command sets, and is a free value (log entry 2). -/
def execStrokeSetJob (page : Nat) (s : State) : Host.Outcome State Fault Refusal :=
  runJobCmd s page 0x50 1 fun r j s =>
    if strokeRsv r || !strokeRingOk j r then fail s mbBadField else
    let edge := drawn s
    let s := updJob (draw s) r.job fun j => { j with ring := { j.ring with base := pf r 191 144, depth := pf r 127 96, since := strokeNow s } }
    strokeReply s edge

/-! ### WATCH_SET (04 R108, 05 R138) -/

/-- `NORM_JUMP` is in its range: 1.5 to 65,536, or 0. -/
def normJumpOk (w : Nat) : Bool :=
  let x := ofFp32 (BitVec.ofNat 32 w)
  x.isFinite && (x.ratD == 0 || (((3 : Rat) / 2) ≤ x.ratD && x.ratD ≤ 65536))

def watchFieldsOk (j : Job) (r : Request) : Bool :=
  let g (i : Nat) : Bool := bit (pay r) (304 + i)
  pf r 319 311 == 0 && pf r 56 0 == 0 &&
    (!g 2 || (normJumpOk (pf r 143 112) && 1 ≤ pf r 79 72)) &&
    (!g 3 || (pf r 239 208 ≤ 1000000 && 1 ≤ pf r 71 64)) &&
    (!g 5 || (1 ≤ pf r 63 59 && pf r 63 59 ≤ 16)) &&
    (!g 6 || (pow2In (pf r 255 240) 4 1024 && inWindow j (pf r 303 256) (pf r 255 240 * 16384)))

/-- The groups that `APPLY` names. -/
def watchApplied (w : Watch) (r : Request) : Watch :=
  let g (i : Nat) : Bool := bit (pay r) (304 + i)
  let w := if g 0 then { w with clipRate := pf r 111 96, gimpRate := pf r 95 80 } else w
  let w := if g 1 then { w with s8Limit := pf r 207 176, cancelLimit := pf r 175 144 } else w
  let w := if g 2 then { w with normJump := BitVec.ofNat 32 (pf r 143 112), normWarmup := pf r 79 72 } else w
  let w := if g 3 then { w with cleanSteps := pf r 239 208, window := pf r 71 64 } else w
  let w := if g 4 then { w with stepReplayMax := pf r 58 57 } else w
  let w := if g 5 then { w with accHeadroom := pf r 63 59 } else w
  if g 6 then { w with nrBase := pf r 303 256, nrDepth := pf r 255 240 } else w

/-- WATCH_SET (04 R108): from the next step on, or at once without a step in progress. -/
def execWatchSet (page : Nat) (s : State) : Host.Outcome State Fault Refusal :=
  runJobCmd s page 0x60 0 fun r j s =>
    if !watchFieldsOk j r then fail s mbBadField
    else if j.step.inProgress then ok (putJob s { j with step := { j.step with nextWatch := some (watchApplied (j.step.nextWatch.getD j.watch) r) } })
    else ok (putJob s { j with watch := watchApplied j.watch r })

/-! ### LADDER_SET (04 R123 to R125) -/

def ladderRsv (r : Request) : Bool := pf r 79 32 != 0 || pf r 4 0 != 0

/-- New bounds of a tag, and the level that the command moves it to. -/
def boundTag (lo hi : Nat) (force : Option Nat) (t : TagState) : TagState :=
  let t := { t with floor := lo, ceil := hi }
  let move := if force.isSome then force else if t.level < lo then some lo else if hi < t.level then some hi else none
  move.elim t fun l => { t with pendingLevel := some l, pendingQuiet := true, pendingCond := 0, history := [], clean := 0 }

/-- LADDER_SET with `ACTION` 0x1 (04 R124). -/
def execLadderSetLevels (page : Nat) (s : State) : Host.Outcome State Fault Refusal :=
  runJobCmd s page 0x61 1 fun r j s =>
    let a := pf r 27 20
    let b := pf r 19 12
    let lo := pf r 11 10
    let hi := pf r 9 8
    let force := if bit (pay r) 7 then some (pf r 6 5) else none
    if ladderRsv r || b < a || hi < lo || force.any fun f => f < lo || hi < f then fail s mbBadField else
    let j := (List.range (b + 1 - a)).foldl (fun j i => updTag j (a + i) (boundTag lo hi force)) j
    ok (if j.step.inProgress then putJob s j else applyLevels (putJob s j) j.id)

/-- A ladder-map entry from its 32 bytes; none when a reserved bit is set or its role is not defined. -/
def parseMapEntry (l : List Byte) : Option MapEntry :=
  let x := leNat l
  if bits x 95 16 != 0 || bits x 7 2 != 0 || bits x 1 0 = 3 then none else
  some { baseH := bits x 255 224, l1 := bits x 223 192, l2 := bits x 191 160, l3 := bits x 159 128, res := bits x 127 96, tag := bits x 15 8, role := bits x 1 0 }

/-- 32-byte entries of a window reference. -/
def entriesAt (s : State) (a n : Nat) : List (List Byte) := (List.range (n / 32)).map fun i => rdBytes s (a + 32 * i) 32

/-- Add an entry, or replace the one with its base handle and tag. -/
def addMapEntry (l : List MapEntry) (e : MapEntry) : List MapEntry := (l.filter fun x => !(x.baseH == e.baseH && x.tag == e.tag)) ++ [e]

/-- LADDER_SET with `ACTION` 0x2 (04 R125): every entry, or none of the command's. -/
def execLadderSetMap (page : Nat) (s : State) : Host.Outcome State Fault Refusal :=
  runJobCmd s page 0x61 2 fun r j s =>
    match refAt s r (pf r 191 80) with
    | none => fail s mbBadField
    | some (a, n) =>
      let s := reachRange s a n
      let es := (entriesAt s a n).map parseMapEntry
      if ladderRsv r || n % 32 != 0 || es.any (·.isNone) then fail s mbBadField else
      let l := (es.filterMap id).foldl addMapEntry j.ladder
      if 65536 < l.length then fail s mbNoResource else ok (putJob s { j with ladder := l, tables := j.tables + 1 })

/-- LADDER_SET with `ACTION` 0x3 (04 R125). -/
def execLadderSetClear (page : Nat) (s : State) : Host.Outcome State Fault Refusal :=
  runJobCmd s page 0x61 3 fun r j s => if ladderRsv r then fail s mbBadField else ok (putJob s { j with ladder := [], tables := j.tables + 1 })

/-! ### STASH_POLICY (05 R143) -/

/-- The settings that a request gives; a size of 0 removes the Blotter and leaves the region that is lent. -/
def blotCfgOf (r : Request) : BlotCfg :=
  let lend : BlotCfg := { lendStation := pf r 155 136, lendBase := pf r 271 224, lendSize := pf r 223 176 }
  if pf r 463 416 = 0 then lend else
  { lend with base := pf r 511 464, size := pf r 463 416, transit := pf r 415 368, policy := [pf r 119 116, pf r 115 112, pf r 111 108], hwm := pf r 107 102
              lwm := pf r 101 96, peerStation := pf r 175 156, peerBase := pf r 367 320, peerSize := pf r 319 272, hostWin := pf r 135 120
              recallAhead := pf r 95 91 }

/-- The policies of a list before its first 0. -/
def listed (c : BlotCfg) : List Nat := c.policy.takeWhile (· != 0)

def blotCfgOk (j : Job) (c : BlotCfg) : Bool :=
  let names (p : Nat) : Bool := (listed c).contains p
  (c.lendSize == 0 || (inWindow j c.lendBase c.lendSize && j.stations.contains c.lendStation)) &&
    (c.size == 0 ||
      (c.base % 65536 == 0 && c.size % 65536 == 0 && 1048576 ≤ c.size && inWindow j c.base c.size && c.transit % 65536 == 0 && 2 * c.transit ≤ c.size &&
        c.policy.all (· ≤ 3) && 1 ≤ c.lwm && c.lwm < c.hwm && c.hwm ≤ 63 && c.recallAhead ≤ 16 &&
        (c.peerSize == 0 || j.stations.contains c.peerStation) && (c.hostWin == 0 || j.windows.any fun w => w.id == c.hostWin && w.kind == 3) &&
        (!names 1 || c.peerSize != 0) && (!names 2 || c.hostWin != 0) && (!names 3 || c.transit != 0)))

/-- STASH_POLICY (05 R143). -/
def execStashPolicy (page : Nat) (s : State) : Host.Outcome State Fault Refusal :=
  runJobCmd s page 0x62 0 fun r j s =>
    let c := blotCfgOf r
    if pf r 90 0 != 0 || !blotCfgOk j c then fail s mbBadField
    else if !j.blot.recs.isEmpty then fail s mbNotNow
    else ok (putJob s { j with blot := { cfg := c } })

/-! ### PROTECT_POLICY (12 R358) -/

/-- A protection entry from its 32 bytes, with whether a reserved bit is set. -/
def parseProtect (l : List Byte) : Protect × Bool :=
  let x := leNat l
  ({ handle := bits x 159 128, altBase := bits x 255 208, state := bits x 127 96, stateAlt := bits x 207 160, method := bits x 1 0 }, bits x 95 2 != 0)

/-- Both buffers of a tensor lie in windows of the job. -/
def buffersOk (j : Job) (d : Desc) (alt : Nat) : Bool :=
  let f := footprint d
  let g := footprint { d with base := alt }
  alt % 64 == 0 && 0 ≤ f.1 && 0 ≤ g.1 && inWindow j f.1.toNat f.2 && inWindow j g.1.toNat g.2

/-- An entry's fields are in their ranges: an FP32 master, a momentum of M8, buffers inside windows. -/
def protectOk (s : State) (j : Job) (p : Protect × Bool) : Bool :=
  let p' := p.1
  !p.2 && p'.method ≤ 2 && ((readDesc s j p'.handle).any fun d => d.type == tFP32 && !d.stash && buffersOk j d p'.altBase) &&
    (if p'.state = 0 then p'.stateAlt == 0 else (readDesc s j p'.state).any fun d => d.type == tM8 && !d.stash && buffersOk j d p'.stateAlt)

/-- Guard bytes that a job's registered tensors need at the partner: 4 × M each. -/
def guardNeed (s : State) (j : Job) : Nat := j.prot.foldl (fun n p => n + 4 * mirrorBytes s j p) 0

/-- The command-specific checks of a registration. What the partner's guard region holds is a free value (log entry 23). -/
def registerRefusal (s : State) (j : Job) (ps : List Protect) : Option Nat :=
  let all := { j with prot := j.prot ++ ps }
  let need := s.jobs.foldl (fun n q => n + if q.1 = j.id then 0 else guardNeed s q.2) (guardNeed s all)
  if j.step.inProgress then some mbNotNow
  else if !pairFormed s && ps.any fun p => p.method != 0 then some mbNoPartner
  else if pairFormed s && (ps.any (fun p => 64 * 2 ^ 30 < mirrorBytes s j p) || s.pair.peerGuardGib * 2 ^ 30 < need) then some mbGuardFull
  else if 16384 < all.prot.length then some mbNoResource else none

/-- PROTECT_POLICY with `ACTION` 0x1 (12 R358): all of the command's entries or none. -/
def execProtectRegister (page : Nat) (s : State) : Host.Outcome State Fault Refusal :=
  runJobCmd s page 0x72 1 fun r j s =>
    match refAt s r (pf r 255 144) with
    | none => fail s mbBadField
    | some (a, n) =>
      let s := reachRange s a n
      let es := (entriesAt s a n).map parseProtect
      let ps := es.map Prod.fst
      let hs := (j.prot ++ ps).map (·.handle)
      if pf r 6 4 != 0 || n % 32 != 0 || !(es.all (protectOk s j)) || !decide hs.Nodup then fail s mbBadField else
      match registerRefusal s j ps with
      | some status => fail s status
      | none => okNat (tellTensors (putJob s { j with prot := j.prot ++ ps })) 4 hs.length

/-- PROTECT_POLICY with `ACTION` 0x2 (12 R358): the part keeps nothing more of the tensor, and its partner drops its copies (log entry 23). -/
def execProtectUnregister (page : Nat) (s : State) : Host.Outcome State Fault Refusal :=
  runJobCmd s page 0x72 2 fun r j s =>
    let h := pf r 143 112
    if pf r 6 4 != 0 || (protOf j h).isNone then fail s mbBadField
    else if j.step.inProgress then fail s mbNotNow
    else
      let k := { j with prot := j.prot.filter fun p => p.handle != h }
      let s := dropAtPartner s j (some h)
      okNat (tellTensors (putJob s k)) 4 k.prot.length

def protSettingsOk (r : Request) : Bool :=
  let f := ofFp32 (BitVec.ofNat 32 (pf r 111 80))
  pf r 6 4 == 0 && 1 ≤ pf r 47 40 && pf r 47 40 ≤ 50 && 10 ≤ pf r 39 32 && pf r 39 32 ≤ 100 && 1 ≤ pf r 31 16 && pf r 31 16 ≤ 1024 && 1 ≤ pf r 15 7 &&
    pf r 15 7 ≤ 256 && 2 ≤ pf r 79 48 && pf r 79 48 ≤ 65536 && f.isFinite && 0 ≤ f.ratD

/-- PROTECT_POLICY with `ACTION` 0x3 (12 R358). -/
def execProtectSettings (page : Nat) (s : State) : Host.Outcome State Fault Refusal :=
  runJobCmd s page 0x72 3 fun r j s =>
    if !protSettingsOk r then fail s mbBadField else
    okNat (putJob s { j with protCfg := { mirrorPct := pf r 47 40, restorePct := pf r 39 32, smallMib := pf r 31 16, rhoHi := pf r 15 7, jMaxSteps := pf r 79 48
                                          fleetRate := BitVec.ofNat 32 (pf r 111 80) } }) 4 j.prot.length

end Sys2Proof.Machine
end

