-- ==== Sys2Proof/Machine/Pairing.lean ====
section
/-! DEFINITION. The pair: binding, the spare that takes a failed part's place, Ohmub's control messages, and the mirror slots and Journal records
that this part holds for its partner (12 R354 to R365, R375, R376; 13 R400; 16 R481). -/

namespace Sys2Proof.Machine

/-! ### Forming a pair (12 R354, R355) -/

/-- A message for a station finds a port, or the station is this part. -/
def reachable (s : State) (dst : Nat) : Bool :=
  match routeHop s (rdstOf s dst) 0 1 none with
  | .deliver => true
  | .port _ => true
  | _ => false

/-- The feed tag that a station has sent, with its `FORCE` and its registered tensors. -/
def offeredTag (s : State) (st : Nat) : Option (Nat × Bool × Nat) := (s.pair.offered.find? fun o => o.1 == st).map (·.2)
/-- Two parts may pair: their tags differ, or the one that asks forces it. -/
def tagsAllow (s : State) (tag : Nat) (force : Bool) : Bool := tag != s.pwr.feedTag.toNat || force

/-- A context holds the stream of a Journal record. -/
def journalUse : StreamUse → Bool
  | .journal _ _ => true
  | _ => false

/-- The pair forms: its Journal streams start afresh, registered tensors are to be mirrored, equal tags make it correlated (12 R355, 13 R399). -/
def formPair (s : State) (tag tensors : Nat) : State :=
  let same := tag == s.pwr.feedTag.toNat
  let p := s.pair
  let fresh : Pair := { p with state := (if same then 2 else 1), partnerFeed := tag, lastTally := none, accepted := [], outTally := 0, unacked := []
                               drains := [], heldJournal := [], frags := [], partnerParked := false
                               peerGuardGib := drawn s % (globalEnd s.nibs.grade / 2 ^ 30) + 1, peerTensors := tensors }
  let s1 := draw { s with pair := fresh, hub := { s.hub with streams := s.hub.streams.filter fun c => !journalUse c.use } }
  let renew (j : Job) : Job := { j with prot := j.prot.map fun q => { q with protected_ := false, remirror := true, again := false, slotStep := none, retained := [] } }
  let s2 := tellTensors { s1 with jobs := s1.jobs.map fun q => (q.1, if q.2.prot.isEmpty then q.2 else renew q.2) }
  if same then health s2 { code := 0x0501, severity := 1, value := s.pair.partner.getD 0 } else s2

/-- The binding of this part is taken back. -/
def unbound (s : State) : State :=
  { s with pair := { s.pair with partner := none, guardGib := 0, force := false, state := 0, frames := [], partnerFeed := 0 } }

/-- A registered tensor of an open job lies on this part or, as its partner or its copies say, on the partner (12 R356). -/
def pairBusy (s : State) : Bool :=
  s.jobs.any (fun j => !j.2.prot.isEmpty) || s.pair.peerTensors != 0 || !s.pair.slots.isEmpty || !s.pair.journal.isEmpty

def pairReply (s : State) : Nat := s.pair.partnerFeed % 16 + s.pair.state * 16

/-- This part sends its feed tag to the station that it is bound to. -/
def sendFeed (s : State) (src : Nat) (force : Bool) : State :=
  let s := { s with pair := { s.pair with askedNs := s.clk.now } }
  ctrlTo s src (s.pair.partner.getD 0) 0 "FEED_TAG" (s.pwr.feedTag.toNat + (if force then 16 else 0) + 32 * min 65535 (tensorCount s))

/-- What the partner's tag settles for a binding: refused, or accepted, and formed once the partner has named this part too. -/
def settleBind (s : State) (tag tensors : Nat) (forms : Bool) : Reply :=
  if !tagsAllow s tag s.pair.force then fail (unbound s) mbSameFeed else
  let s := { s with pair := { s.pair with partnerFeed := tag, peerTensors := tensors } }
  let s := if forms then formPair s tag tensors else s
  okNat s 4 (pairReply s)

/-- The station that a binding names has sent a tag that allows the pair. -/
def offerStands (s : State) (st : Nat) : Bool := (offeredTag s st).any fun o => tagsAllow s o.1 o.2.1

/-- The 2 ms for the named station's answer are over. -/
def askedTooLong (s : State) : Bool := s.pair.askedNs + 2000000 ≤ s.clk.now

/-- A binding that waits for its answer ends as `UNREACHABLE` once 2 ms are over. -/
def expireBind (s : State) (page op : Nat) : Host.Outcome State Fault Refusal :=
  let waits := (pageOf s page).waiting && (pageOf s page).taken.any fun r => r.opcode == op
  onlyIf (waits && askedTooLong s) s
    (let t := answerWaiting (unbound s) page op mbUnreachable []
     if op = 0x82 then { t with fab := { t.fab with assumed := none } } else t)

/-- Free frames for a guard region, lowest first (12 R354). -/
def guardFrames (s : State) (gib : Nat) : Option (List (Nat × Nat)) :=
  let used := takenRanges s
  gatherFree used (globalEnd s.nibs.grade) (2 * used.length + 2) 0 (gib * 2 ^ 30)

/-- Bind to a station whose guard region has its frames: the partner is asked for its feed tag. -/
def bindTo (s : State) (st gib : Nat) (force : Bool) (frames : List (Nat × Nat)) : Reply :=
  let s := { s with pair := { s.pair with partner := some st, guardGib := gib, force := force, state := 0, frames := frames } }
  let s := sendFeed s s.fab.station force
  match offeredTag s st with
  | some o => if o.2.2 != 0 then fail (unbound s) mbPairBusy else settleBind s o.1 o.2.2 (offerStands s st)
  | none => { s := s, wait := true }

/-- PAIR_BIND (12 R354, R355): the answer comes with the partner's feed tag. -/
def execPairBind (page : Nat) (s : State) : Host.Outcome State Fault Refusal :=
  if (pageOf s page).waiting then expireBind s page 0x70 else
  runCmd s page 0x70 0 fun r s =>
    let st := pf r 19 0
    let gib := pf r 29 20
    if bit (pay r) 30 || answersTo s st || gib = 0 || globalEnd s.nibs.grade < gib * 2 ^ 30 then fail s mbBadField
    else if pairBusy s then fail s mbPairBusy
    else if s.pair.partner.isSome then fail s mbNotNow
    else
      match guardFrames s gib with
      | none => fail s mbNoResource
      | some frames => if !reachable s st then fail s mbUnreachable else bindTo s st gib (bit (pay r) 31) frames

/-- PAIR_UNBIND (12 R354, R356): the guard region is zeroised. -/
def execPairUnbind (page : Nat) (s : State) : Host.Outcome State Fault Refusal :=
  runCmd s page 0x71 0 fun _ s =>
    match s.pair.partner with
    | none => fail s mbNoPartner
    | some st =>
      if pairBusy s then fail s mbPairBusy else
      let s := startZero s none s.pair.frames
      ok (unbound (ctrlTo s s.fab.station st 0 "UNBIND"))

/-- SPARE_ASSUME (12 R375): the spare answers to the failed station's ID and binds itself to its partner. -/
def execSpareAssume (page : Nat) (s : State) : Host.Outcome State Fault Refusal :=
  if (pageOf s page).waiting then expireBind s page 0x82 else
  runCmd s page 0x82 0 fun r s =>
    let st := pf r 19 0
    if pf r 31 21 != 0 || st = s.fab.station then fail s mbBadField
    else if !s.jobs.isEmpty then fail s mbJobBusy
    else if pairFormed s then fail s mbPairBusy
    else
      let other := Config.partnerOf st
      let t := { s with fab := { s.fab with assumed := some st }, pair := { s.pair with partner := some other, force := bit (pay r) 20, state := 0 } }
      if !reachable t other then fail s mbUnreachable else { s := sendFeed t st (bit (pay r) 20), wait := true }

/-! ### Ohmub's control messages (11 R334; log entry 12) -/

/-- A station names this part in a binding and gives its tag; a partner that binds again is a spare in the failed part's place. -/
def takeFeedTag (s : State) (src tag : Nat) (force : Bool) (tensors : Nat) : State :=
  let s := ctrlTo s s.fab.station src 0 "FEED_ANSWER" (s.pwr.feedTag.toNat + 32 * min 65535 (tensorCount s))
  let s := { s with pair := { s.pair with offered := (s.pair.offered.filter fun o => o.1 != src) ++ [(src, tag, force, tensors)] } }
  let waits := (waitingPage s 0x70 fun _ => true).isSome || (waitingPage s 0x82 fun _ => true).isSome
  if s.pair.partner == some src && !waits && tagsAllow s tag force then formPair s tag tensors else s

/-- The named station answers with its tag; one that holds registered tensors is no partner for a new binding, though a spare's rebinding is the
exception (12 R356). -/
def takeFeedAnswer (s : State) (src tag tensors : Nat) : State :=
  if s.pair.partner != some src then s else
  match waitingPage s 0x70 fun _ => true, waitingPage s 0x82 fun _ => true with
  | some w, _ =>
    if askedTooLong s then answerRequest (unbound s) w.1 w.2 mbUnreachable [] else
    if tensors != 0 then answerRequest (unbound s) w.1 w.2 mbPairBusy [] else
    let q := settleBind s tag tensors (offerStands s src)
    answerRequest q.s w.1 w.2 q.status q.data
  | none, some w =>
    let gone (s : State) : State := { unbound s with fab := { s.fab with assumed := none } }
    if askedTooLong s then answerRequest (gone s) w.1 w.2 mbUnreachable [] else
    let q := settleBind s tag tensors true
    answerRequest (if q.status = mbOk then q.s else gone s) w.1 w.2 q.status []
  | none, none => s

/-- The partner has released its binding. -/
def takeUnbind (s : State) (src : Nat) : State :=
  let s := { s with pair := { s.pair with offered := s.pair.offered.filter fun o => o.1 != src } }
  if s.pair.partner == some src then { s with pair := { s.pair with state := 0 } } else s

/-- A part of the job tells what it contributes to the sums of pairs (12 R373). -/
def takePairCounts (s : State) (h : MsgHdr) (c o u : Nat) : State :=
  (noticeJob s h).elim s fun j => putJob s { j with check := { j.check with peerPairs := tset j.check.peerPairs h.src (c, o, u) } }

/-- A part of the job tells its last checkpoint cost (12 R373). -/
def takeCost (s : State) (h : MsgHdr) (ns : Nat) : State :=
  (noticeJob s h).elim s fun j => putJob s { j with check := { j.check with peerCosts := tset j.check.peerCosts h.src ns } }

/-- A copy of a tensor is poisoned at the partner: the tensor is unprotected, and the next commit mirrors it from here (12 R381). Poison in the slot
that a drain is still filling keeps that drain from making it complete. -/
def takePoisonedCopy (s : State) (h : MsgHdr) (handle : Nat) (slot : Option Nat) (step : Nat) : State :=
  (jobByFjk s h.fjk).elim s fun j =>
    let whole := (protOf j handle).any fun p => p.slotStep.isSome && slot == some p.slotIdx
    if slot.isNone || whole then
      updJob (unprotect s j.id handle) j.id fun j => updProt j handle fun p =>
        { p with remirror := true, slotStep := if whole then none else p.slotStep, retained := if whole then p.retained else p.retained.filter fun r => r.1 != step }
    else { s with pair := { s.pair with
      drains := s.pair.drains.map fun d => if d.job == j.id && d.handle == handle then { d with incomplete := true } else d } }

/-- Journal records are lost: their tensors are unprotected until the next mirror (12 R362). -/
def takeJournalLoss (s : State) (first last : BitVec 16) : State :=
  let lost (r : JRec) : Bool := (r.tally - first).toNat ≤ (last - first).toNat
  let hit := s.pair.unacked.filter lost
  let s := { s with pair := { s.pair with unacked := s.pair.unacked.filter fun r => !lost r } }
  hit.foldl (fun s r => (jobByFjk s r.fjk).elim s fun j =>
    let s := unprotect s j.id r.handle
    updJob s j.id fun j => updProt j r.handle fun p => { p with remirror := true, retained := p.retained.filter fun q => q.1 != r.step }) s

/-- The partner restored this part's job tensor to protection: the record that R376 asks of both parts. -/
def restoredRecord (s : State) (h : MsgHdr) (handle : Nat) : State :=
  match jobByFjk s h.fjk with
  | none => s
  | some j =>
    let fresh := !s.pair.slots.any fun m => m.fjk == h.fjk && m.handle == handle && m.complete
    if fresh && (opOf s 3 0 (some j.id)).any (fun o => o.state == 2) then protectRecord s j handle 1 else s

/-- The partner's drain is whole: its slot is the tensor's complete one, and the records that it covers are released (12 R364). -/
def takeDrainDone (s : State) (h : MsgHdr) (handle slot step : Nat) : State :=
  let s := restoredRecord s h handle
  let mine (fjk : Word32) (hd : Nat) : Bool := fjk == h.fjk && hd == handle
  { s with pair := { s.pair with
    slots := s.pair.slots.map fun m => if mine m.fjk m.handle && m.slot == slot then { m with complete := true, step := step } else m
    journal := s.pair.journal.filter fun r => !(mine r.fjk r.handle && decide (r.step ≤ step)) } }

/-- The partner drops its copies of a tensor, or of every tensor of a job (14 R418). -/
def takeDrop (s : State) (h : MsgHdr) (handle : Option Nat) : State :=
  let goes (fjk : Word32) (hd : Nat) : Bool := fjk == h.fjk && handle.all fun x => x == hd
  { s with pair := { s.pair with slots := s.pair.slots.filter (fun m => !goes m.fjk m.handle), journal := s.pair.journal.filter (fun r => !goes r.fjk r.handle)
                                 heldJournal := s.pair.heldJournal.filter fun r => !goes r.fjk r.handle } }

/-- A station that has named this part, or is bound to it, tells its registered tensors (12 R356). -/
def takeTensors (s : State) (src n : Nat) (fromPartner : Bool) : State :=
  { s with pair := { s.pair with peerTensors := if fromPartner then n else s.pair.peerTensors
                                 offered := s.pair.offered.map fun o => if o.1 == src then (o.1, o.2.1, o.2.2.1, n) else o } }

/-- CONTROL (11 R334): messages about the pair count from the partner alone. -/
def execControl (hdr : MsgHdr) (msg : CtrlMsg) (s : State) : Host.Outcome State Fault Refusal :=
  let s := ackAsked (takeInbox s hdr []) hdr
  let fromPartner := isPartner s hdr.src
  .next (match msg with
    | .feedTag tag force n => takeFeedTag s hdr.src tag force n
    | .feedAnswer tag n => takeFeedAnswer s hdr.src tag n
    | .unbind => takeUnbind s hdr.src
    | .pairCounts c o u => takePairCounts s hdr c o u
    | .checkpointCost ns => takeCost s hdr ns
    | .copyPoisoned handle slot step => if fromPartner then takePoisonedCopy s hdr handle slot step else s
    | .journalAck tally =>
      if fromPartner then { s with pair := { s.pair with unacked := s.pair.unacked.filter (fun r => r.tally != tally), partnerParked := false } } else s
    | .journalLoss a b => if fromPartner then takeJournalLoss s a b else s
    | .drainDone handle slot step => if fromPartner then takeDrainDone s hdr handle slot step else s
    | .dropCopies handle => if fromPartner then takeDrop s hdr handle else s
    | .tensors n => takeTensors s hdr.src n fromPartner)

/-! ### The store for the partner (12 R357, R362, R364; 13 R400) -/

/-- What a MIRROR or JOURNAL message meets: it is not the partner's, or this part is in Park and refuses it (16 R481); else it is taken. -/
def storeGate (s : State) (h : MsgHdr) (f : State) : State :=
  if !isPartner s h.src then { s with fab := { s.fab with foreign := satInc s.fab.foreign } }
  else if s.hub.pstate = 2 then nackTo s h (laneOf h.mtype) nackPark
  else f

/-- The slot that a mirror message writes, fresh when its step is a new one. -/
def slotFor (s : State) (h : MsgHdr) : MirSlot :=
  let handle := argBits h 95 64
  let slot := argBits h 63 63
  match s.pair.slots.find? fun m => m.fjk == h.fjk && m.handle == handle && m.slot == slot with
  | some m => if m.step % 2 ^ 32 = argBits h 31 0 then m else { fjk := h.fjk, handle := handle, slot := slot, step := argBits h 31 0 }
  | none => { fjk := h.fjk, handle := handle, slot := slot, step := argBits h 31 0 }

/-- Bytes of a mirror message in its slot. -/
def slotWrite (m : MirSlot) (h : MsgHdr) (data : List Byte) : MirSlot :=
  let o := 64 * argBits h 61 32
  let put (t : Tbl Byte) : Tbl Byte := (List.range data.length).foldl (fun t i => tset t (o + i) (data.getD i 0)) t
  if argBits h 62 62 = 0 then { m with master := put m.master } else { m with state := put m.state }

/-- MIRROR (12 R364): drain data of the partner. A poisoned message keeps the slot from being complete, since its drain ends incomplete (12 R381). -/
def execMirror (hdr : MsgHdr) (data : List Byte) (_poisoned : Bool) (s : State) : Host.Outcome State Fault Refusal :=
  let s := takeInbox s hdr data
  let m := slotWrite { slotFor s hdr with complete := false } hdr data
  let rest := s.pair.slots.filter fun q => !(q.fjk == m.fjk && q.handle == m.handle && q.slot == m.slot)
  .next (storeGate s hdr (ctrlTo { s with pair := { s.pair with slots := rest ++ [m] } } hdr.dst hdr.src hdr.fjk "MIRROR_ACK"))

/-- A record is accepted: it is kept for the owner and acknowledged. The accepted tallies within 64 behind the newest stay known (13 R400). -/
def acceptRecord (s : State) (r : JRec) : State :=
  let p := s.pair
  let s := { s with pair := { p with journal := p.journal ++ [r], lastTally := some r.tally, accepted := r.tally :: p.accepted.filter fun t => (r.tally - t).toNat ≤ 64 } }
  ctrlTo s s.fab.station (p.partner.getD 0) r.fjk "JOURNAL_ACK" r.tally.toNat

/-- Held records that now follow in order are accepted. -/
def takeHeld : Nat → State → State
  | 0, s => s
  | f + 1, s =>
    match s.pair.heldJournal.find? fun r => s.pair.lastTally.any fun l => r.tally == l + 1 with
    | none => s
    | some r => takeHeld f (acceptRecord { s with pair := { s.pair with heldJournal := s.pair.heldJournal.filter fun q => q.tally != r.tally } } r)

/-- Tallies between two of a stream, both left out. -/
def talliesBetween (l t : BitVec 16) : List (BitVec 16) := (List.range ((t - l).toNat - 1)).map fun i => l + BitVec.ofNat 16 (i + 1)

/-- Give a gap up: the flag is raised, records that are held up to the newest tally are accepted in order, and the owner hears which are lost. -/
def giveUpGap (s : State) (l newest : BitVec 16) : State :=
  let held := s.pair.heldJournal
  let between := talliesBetween l newest ++ [newest]
  let s := raiseLoss { s with pair := { s.pair with heldJournal := [] } } 2
  between.foldl (fun s t =>
    match held.find? fun r => r.tally == t with
    | some r => acceptRecord s r
    | none => if t = newest then s else ctrlTo s s.fab.station (s.pair.partner.getD 0) 0 "JOURNAL_LOSS" t.toNat) s

/-- A whole record that has passed its check meets the tally rule (13 R400). -/
def judgeRecord (s : State) (r : JRec) : State :=
  let p := s.pair
  match p.lastTally with
  | none => acceptRecord s r
  | some l =>
    let d := (r.tally - l).toNat
    let again := ctrlTo s s.fab.station (p.partner.getD 0) r.fjk "JOURNAL_ACK" r.tally.toNat
    if d = 0 || p.accepted.contains r.tally then again
    else if d = 1 then takeHeld (p.heldJournal.length + 1) (acceptRecord s r)
    else if d ≤ 64 then
      if p.heldJournal.any fun q => q.tally == r.tally then s
      else
        let newest := p.heldJournal.all fun q => (q.tally - l).toNat < d
        { s with pair := { p with heldJournal := p.heldJournal ++ [r], heldSince := if newest then s.clk.now else p.heldSince } }
    else acceptRecord (if d < 32768 then giveUpGap s l r.tally else raiseLoss s 2) r

/-- Bytes of a record's fragment that its `CRC` covers: those from byte 4 to the end of the body. -/
def checkedPart (body i : Nat) (l : List Byte) : List Byte := (l.take (128 + body - 16384 * i)).drop (if i = 0 then 4 else 0)

/-- The check of a record goes on with the fragments that follow in order; between two of them its stream is suspended (13 R397). -/
def checkFragments (body : Nat) (part : Nat → Option (List Byte)) : Nat → Stream → Stream
  | 0, c => c
  | f + 1, c =>
    match part c.fragments with
    | none => c
    | some l => checkFragments body part f { c with value := BitVec.ofNat 64 (presetRun 0 c.value.toNat (checkedPart body c.fragments l)), fragments := c.fragments + 1 }

/-- Put a fragment with the others of its record; its bytes and its check value, when they are whole. -/
def addFragment (s : State) (h : MsgHdr) (die : Nat) (data : List Byte) : State × Option (List Byte × Nat) :=
  let tally := BitVec.ofNat 16 (argBits h 63 48)
  let mine (f : Word32 × BitVec 16 × Nat × List Byte) : Bool := f.1 == h.fjk && f.2.1 == tally
  let n := argBits h 47 32
  let all := (s.pair.frags.filter fun f => !(mine f && f.2.2.1 == n)) ++ [(h.fjk, tally, n, data)]
  let part (i : Nat) : Option (List Byte) := (all.find? fun f => mine f && f.2.2.1 == i).map (·.2.2.2)
  let body := (part 0).elim 0 fun l => bits (leNat (l.take 128)) 287 256
  let parts := (List.range (ceilDiv (pad64 (128 + body)) 16384)).map part
  let c := checkFragments body part parts.length (contextOf s (.journal h.fjk tally) 0)
  let s := { s with pair := { s.pair with frags := all } }
  if (part 0).isNone || parts.any (·.isNone) then (suspendStream s (dieUnits die) c, none)
  else (endStream { s with pair := { s.pair with frags := all.filter fun f => !mine f } } c.use, some ((parts.filterMap id).flatten, presetFinal 0 c.value.toNat))

/-- Take a fragment; a record that fails its check, or comes poisoned, is refused. -/
def takeJournal (s : State) (h : MsgHdr) (die : Nat) (data : List Byte) (poisoned : Bool) : State :=
  if poisoned then nackTo s h 5 nackCrc else
  match addFragment s h die data with
  | (s, none) => s
  | (s, some l) =>
    match parseJournal h.fjk l.1 l.2 with
    | none => nackTo s h 5 nackCrc
    | some r => judgeRecord s r

/-- JOURNAL (12 R362). -/
def execJournal (hdr : MsgHdr) (data : List Byte) (poisoned : Bool) (s : State) : Host.Outcome State Fault Refusal :=
  let m := inMsg s hdr data (markAll poisoned data) none
  let s := takeInbox s hdr data
  .next (storeGate s hdr (takeJournal s hdr m.die data !m.marks.isEmpty))

/-- JOURNAL_GAP_TIMEOUT (13 R400): a gap remains 2 ms after the newest record arrived. -/
def execJournalGapTimeout (s : State) : Host.Outcome State Fault Refusal :=
  match s.pair.lastTally, s.pair.heldJournal with
  | some l, r :: rest =>
    let newest := rest.foldl (fun (b : BitVec 16) q => if (b - l).toNat < (q.tally - l).toNat then q.tally else b) r.tally
    .next (giveUpGap (advance s (s.pair.heldSince + 2000000)) l newest)
  | _, _ => .next s

/-! ### The end of a drain (12 R359, R364, R376, R381) -/

/-- A tensor is protected again: the record, and W's measurement once every tensor of the job is. -/
def nowProtected (s : State) (job handle : Nat) : State :=
  match jobOf s job with
  | none => s
  | some j =>
    if (protOf j handle).any (·.protected_) then s else
    let j := updProt j handle fun p => { p with protected_ := true }
    let done := j.prot.all (·.protected_)
    let c := j.check
    let j := if done then { j with check := { c with windowNs := c.lostNs.elim c.windowNs (fun t => c.windowNs ++ [s.clk.now - t]), lostNs := none } } else j
    protectRecord (putJob s j) j handle 1

/-- MIRROR_DRAIN_COMPLETE (12 R364): the last byte is acknowledged. The tensor is protected again when the partner holds its records from the slot's step to
C (12 R359); a drain that a commit has asked for meanwhile follows. -/
def execMirrorDrainComplete (job handle : Nat) (s : State) : Host.Outcome State Fault Refusal :=
  match s.pair.drains.find? (fun d => d.job == job && d.handle == handle), jobOf s job with
  | some d, some j =>
    let s := { s with pair := { s.pair with drains := s.pair.drains.filter fun x => !(x.job == job && x.handle == handle) } }
    let s := putOp s { kind := 1, subject := handle, job := some job, unit := true, position := d.bytes, total := d.bytes, state := if d.incomplete then 3 else 2
                       startStroke := BitVec.ofNat 64 d.stroke }
    let next (s : State) : State := if (protOf j handle).any (·.again) then startDrain s job handle false else s
    if d.incomplete then .next (next (updJob s job fun j => updProt j handle fun p => { p with remirror := true })) else
    let s := updJob s job fun j => updProt j handle fun p =>
      { p with slotStep := some d.step, slotIdx := d.slot, retained := p.retained.filter fun q => d.step < q.1 }
    let s := ctrlTo s (srcOf s j) (s.pair.partner.getD 0) j.fjk "DRAIN_DONE" (handle * 2 ^ 64 + d.slot * 2 ^ 63 + d.step % 2 ^ 32)
    let whole := (jobOf s job).any fun j => (protOf j handle).any (covered s j)
    .next (next (if whole then nowProtected s job handle else s))
  | _, _ => .next s

end Sys2Proof.Machine
end

