-- ==== Sys2Proof/Machine/Restore.lean ====
section
/-! DEFINITION. External checkpoints and restores (12 R367 to R373, R376, R382). -/

namespace Sys2Proof.Machine

/-! ### Snapshots (12 R372) -/

/-- Bytes of a tensor's data in an image: master and state, each padded to 64. -/
def imageData (s : State) (j : Job) (p : Protect) : Nat := (buffersAt s j p 0).foldl (fun n d => n + pad64 (footprint d).2) 0
/-- `IMAGE_BYTES`. -/
def imageBytes (s : State) (j : Job) : Nat := j.prot.foldl (fun n p => n + 64 + imageData s j p) 0

/-- The 64-byte entry of a tensor (its layout is the model's choice: log entry 24). -/
def imageEntry (handle step elements : Nat) (rms : Word64) (crc : Nat) : List Byte :=
  leBytes 64 (handle + step % 2 ^ 64 * 2 ^ 64 + elements * 2 ^ 128 + rms.toNat * 2 ^ 192 + crc * 2 ^ 448)

/-- Granules of a destination that a source's poison reaches. -/
def poisonMap (s : State) (src dst n : Nat) : List Nat :=
  (List.range n).foldl (fun l i => if rangePoison s (src + i) 1 then ninsert l ((dst + i) / 64) else l) []

/-- Check value of a tensor's data from a place on in the image's data: a pause in it left the running value to go on from (13 R390, R397). -/
def snapCrc (s : State) (job place : Nat) (data : List Byte) : Nat :=
  let c := contextOf s (.snapshot job) 2
  let n := c.bytes - place
  presetFinal 2 (if place ≤ c.bytes && n < data.length then presetRun 2 c.value.toNat (data.drop n) else presetRun 2 (presetInit 2) data)

/-- Copy a tensor's fronts with their entry to an address; answers the state, the address behind it, and the bytes of data copied so far. -/
def snapshotOne (job step : Nat) (acc : State × Nat × Nat) (p : Protect) : State × Nat × Nat :=
  let s := acc.1
  let a := acc.2.1
  match jobOf s job with
  | none => acc
  | some j =>
    let ds := buffersAt s j p step
    let s := ds.foldl reachDesc s
    let data := snapData s j p step
    let crc := snapCrc s job acc.2.2 data
    let image := bytesAt a (imageEntry p.handle step (elems (ds.headD {})) (tagState j (ds.headD {}).tag).rOwner crc ++ data)
    let bad := (ds.foldl (fun (acc : List Nat × Nat) d =>
      ((poisonMap s (footprint d).1.toNat acc.2 (footprint d).2).foldl ninsert acc.1, acc.2 + pad64 (footprint d).2)) ([], a + 64)).1
    (applyWrites s none { image with poisoned := bad }, a + 64 + data.length, acc.2.2 + data.length)

/-- CHECKPOINT_SNAPSHOT (12 R372): the snapshot is taken at the next commit. -/
def execCheckpointSnapshot (page : Nat) (s : State) : Host.Outcome State Fault Refusal :=
  runJobCmd s page 0x73 1 fun r j s =>
    match refAt s r (pf r 111 0) with
    | none => fail s mbBadField
    | some (_, n) =>
      if pf r 127 116 != 0 then fail s mbBadField
      else if n < imageBytes s j then { s := s, status := mbNoResource, data := leBytes 8 (imageBytes s j) }
      else
        let c := { j.check with pending := some (pf r 15 0, pf r 63 16, n), lastSnapshotNs := some s.clk.now, dueSent := false }
        okNat (putJob s { j with check := c }) 8 (imageBytes s j)

/-- CHECKPOINT_STORED (12 R372): the cost is the time since SNAPSHOT, and the job's other parts hear of it (12 R373). -/
def execCheckpointStored (page : Nat) (s : State) : Host.Outcome State Fault Refusal :=
  runJobCmd s page 0x73 2 fun r j s =>
    if pf r 127 116 != 0 then fail s mbBadField else
    match j.check.lastSnapshotNs with
    | none => fail s mbNotNow
    | some t =>
      let cost := s.clk.now - t
      let told := toStations s j "CHECKPOINT_COST" cost
      okNat (updJob told r.job fun k => { k with check := { k.check with costNs := some cost } }) 8 (imageBytes s j)

def checkpointRecord (s : State) (job action value : Nat) : State :=
  (jobOf s job).elim s fun j => jobEvent s job { area := areaResil j.committed 0 0 0x1B action value }

/-- SNAPSHOT_COMPLETE (12 R372): the copy of the fronts of the committed step into the window ends. -/
def execSnapshotComplete (job : Nat) (s : State) : Host.Outcome State Fault Refusal :=
  match jobOf s job with
  | none => .next s
  | some j =>
    match j.check.copying with
    | (step, id, off, _) :: rest =>
      let s := match j.windows.find? fun w => w.id == id with
        | none => s
        | some w => (j.prot.foldl (snapshotOne job step) (s, w.base + off, 0)).1
      let s := updJob (endStream s (.snapshot job)) job fun k => { k with check := { k.check with copying := rest } }
      .next (checkpointRecord s job 2 0)
    | [] => .next s

/-! ### The interval (12 R373) -/

def hourNs : Nat := 3600 * 1000000000
def hours (ns : Nat) : Rat := (ns : Rat) / (hourNs : Rat)

/-- λ, in failures per module-hour. -/
def failureRate (s : State) (j : Job) : Rat :=
  let h := (j.stations.length : Rat) * hours (s.clk.now - j.check.openedNs)
  let h0 : Rat := 1000000
  ((j.check.replacedStations : Rat) + (ofFp32 j.protCfg.fleetRate).ratD) / (h + h0)

/-- W, in hours. -/
def windowHours (j : Job) : Rat :=
  let l := j.check.windowNs
  if l.isEmpty then 1 / 100 else hours (l.foldl (· + ·) 0) / (l.length : Rat)

/-- P_c, P_i and U over the job's station list. -/
def pairSums (c : Checkpoint) : Nat × Nat × Nat :=
  c.peerPairs.foldl (fun n p => (n.1 + p.2.1, n.2.1 + p.2.2.1, n.2.2 + p.2.2.2)) (c.correlated, c.otherPairs, c.unpaired)

/-- r: failures per hour that the pairs cannot survive. -/
def fatalRate (s : State) (j : Job) : Rat :=
  let l := failureRate s j
  let n := pairSums j.check
  l * (2 * (n.1 : Rat) + (n.2.2 : Rat)) + 2 * l * l * windowHours j * (n.2.1 : Rat)

/-- The checkpoint cost in hours: the largest last cost among the job's parts, or 10 min before any. -/
def costHours (j : Job) : Rat :=
  let l := j.check.costNs.toList ++ j.check.peerCosts.map Prod.snd
  if l.isEmpty then 1 / 6 else hours (l.foldl max 0)

/-- τ² in hours², before the clamp; none when no failure is fatal. -/
def intervalSq (s : State) (j : Job) : Option Rat :=
  let r := fatalRate s j
  if r ≤ 0 then none else some (2 * costHours j / r)

/-- τ in whole minutes. -/
def intervalMinutes (s : State) (j : Job) : Nat := (intervalSq s j).elim 1440 fun q => max 5 (min 1440 (isqrt (3600 * q).floor.toNat))

/-- τ has passed since the last snapshot, or since the job opened. -/
def checkpointPassed (s : State) (j : Job) : Bool :=
  let d := hours (s.clk.now - j.check.lastSnapshotNs.getD j.check.openedNs)
  decide (24 ≤ d) || (decide ((1 : Rat) / 12 ≤ d) && (intervalSq s j).any fun q => decide (q ≤ d * d))

/-- CHECKPOINT_DUE (12 R373): one record, with τ in minutes. -/
def execCheckpointDue (job : Nat) (s : State) : Host.Outcome State Fault Refusal :=
  match jobOf s job with
  | none => .next s
  | some j =>
    onlyIf (checkpointPassed s j && !j.check.dueSent) s
      (updJob (checkpointRecord s job 1 (intervalMinutes s j)) job fun k => { k with check := { k.check with dueSent := true } })

/-! ### What the partner can rebuild (12 R367, R369) -/

/-- Oldest and newest step that the partner can rebuild of every registered tensor, where this part knows what the partner holds. -/
def restorable (s : State) (j : Job) : Option (Nat × Nat) :=
  if !pairFormed s || j.prot.isEmpty then none else
  j.prot.foldl (fun (acc : Option (Nat × Nat)) p =>
    match acc, p.slotStep with
    | some b, some m => some (max b.1 m, min b.2 (journalReach s j p (p.retained.length + 1) m))
    | _, _ => none) (some (0, 2 ^ 64))

/-- Response of RESTORE; steps that only the partner knows are free values (log entry 2). -/
def restoreReply (s : State) (j : Job) (status : Nat) : Reply :=
  let b := (restorable s j).getD (drawn s, drawn (draw s))
  let x := (if j.inDoubt then 1 else 0) + b.2 % 2 ^ 64 * 2 ^ 64 + b.1 % 2 ^ 64 * 2 ^ 128 + j.committed % 2 ^ 64 * 2 ^ 192
  { s := draw (draw s), status := status, data := leBytes 32 x }

/-! ### What a restore leaves (12 R369; 05 R138, R166) -/

/-- A restore ends: the step number, clear accumulators (05 R137) and no gradient rms, the store at the partner as far as the step, classes to be decided. -/
def restored (s : State) (job target : Nat) : State :=
  let keep (p : Protect) : Protect :=
    let good := p.slotStep.any fun m => m ≤ target
    { p with ternary := [], retained := p.retained.filter (fun r => r.1 ≤ target), slotStep := if good then p.slotStep else none
             remirror := p.remirror || !good }
  let s := updJob s job fun j =>
    { j with committed := target, inDoubt := false, step := {}, grads := j.grads.map fun g => (g.1, freshAcc g.2), redecide := true, prot := j.prot.map keep
             tags := j.tags.map (fun t => (t.1, { t.2 with rOwner := 0, rReplica := 0 })) }
  epochReached (tellPairs s job) job

/-! ### Rebuilding a tensor from the partner (12 R371; 05 R165, R167, R170) -/

/-- Elements of a step's `UPDATE` from its Journal record and the buffers of the step before it. -/
def replayElems (s : State) (j : Job) (p : UpdPar) (master mom : Option Operand) (ts : List Int) : List UpdElem :=
  let v1 := master.map fun o => viewOf s j o
  let v2 := mom.map fun o => viewOf s j o
  ts.zipIdx.map fun t =>
    let idx (o : Option Operand) : List Nat := unlinear (o.elim [] fun x => dims x.desc) t.2
    let w := v1.elim (.fin false 0) fun v => elemVal v (idx master)
    let m := v2.elim 0 fun v => (elemVal v (idx mom)).ratD
    { g := 0, bad := false, s := t.1, w := w, wNew := newWeight p w (stepOf p m t.1), m := newMom p m t.1 }

/-- Replay one record: the buffers of its step from those of the step before it; none when it is malformed or failed its `CRC`. -/
def replayRecord (s : State) (job : Nat) (p : Protect) (r : JRec) : Option State :=
  (jobOf s job).bind fun j =>
    let j := { j with committed := r.step - 1 }
    let plain (d : Desc) : Operand := { desc := d }
    let master := (readDesc s j p.handle).map plain
    let mom := if p.state = 0 then none else (readDesc s j p.state).map plain
    if !r.crcOk || r.handle != p.handle || r.ternary.length != master.elim 0 (fun o => elems o.desc) then none else
    let par := parsePar r.params.toNat
    some (applyWrites s none (updWrites s j par master mom (replayElems s j par master mom r.ternary)))

/-- Put a slot's bytes into the buffers of its step. -/
def placeSlot (s : State) (job : Nat) (p : Protect) (c : PeerCopy) : State :=
  match jobOf s job with
  | none => s
  | some j => ((buffersAt s j p c.step).zip [c.master, c.state]).foldl (fun s d => wrBytes s (footprint d.1).1.toNat (d.2.take (footprint d.1).2)) s

/-- Replay the records of the steps from one on, each of which must be there. -/
def replaySteps (job : Nat) (p : Protect) (c : PeerCopy) : Nat → Nat → State → Option State
  | 0, _, s => some s
  | n + 1, step, s =>
    let rs := c.records.filter fun r => r.step == step
    if rs.isEmpty then none else
    (rs.foldl (fun (a : Option State) r => a.bind fun s => replayRecord s job p r) (some s)).bind (replaySteps job p c n (step + 1))

/-- The slot from which a tensor is rebuilt: the newest that is not beyond the target. -/
def baseCopy (cs : List PeerCopy) (h target : Nat) : Option PeerCopy :=
  (cs.filter fun c => c.handle == h && c.step ≤ target).foldl (fun (b : Option PeerCopy) c => some (b.elim c fun x => if x.step < c.step then c else x)) none

/-- Rebuild a tensor: the slot of step m, the records of steps m + 1 to the target, and in the back buffer the step before the target where the
partner holds it; none when a record is missing or bad. -/
def rebuild (s : State) (job target : Nat) (cs : List PeerCopy) (p : Protect) : Option State :=
  (baseCopy cs p.handle target).bind fun c =>
    let s := if c.step = target then (cs.find? fun q => q.handle == p.handle && q.step + 1 == target).elim s (placeSlot s job p) else s
    replaySteps job p c (target - c.step) (c.step + 1) (placeSlot s job p c)

/-- Rebuild several tensors; none as soon as one cannot be. -/
def rebuildAll (s : State) (job target : Nat) (cs : List PeerCopy) (ps : List Protect) : Option State :=
  ps.foldl (fun (a : Option State) p => a.bind fun s => rebuild s job target cs p) (some s)

/-! ### RESTORE (12 R369 to R371, R382) -/

def restoreRunning (s : State) (job : Nat) : Bool := opRunning s 2 0 (some job) || opRunning s 3 0 (some job)

/-- Checks common to the actions. -/
def restoreRefusal (s : State) (r : Request) : Option Nat :=
  let short := !(refAt s r (pf r 191 80)).any fun a => (jobOf s r.job).all fun j => decide (imageBytes s j ≤ a.2)
  if pf r 15 2 != 0 || (if pf r 1 0 = 3 then short else pf r 191 80 != 0) then some mbBadField
  else if restoreRunning s r.job then some mbBusy
  else if s.acts.any fun a => a.job == r.job then some mbNotNow else none

/-- Run an action of RESTORE behind its common checks. -/
def runRestore (s : State) (page action : Nat) (f : Request → Job → State → Reply) : Host.Outcome State Fault Refusal :=
  runJobCmd s page 0x74 action fun r j s => (restoreRefusal s r).elim (f r j s) (fail s)

/-- RESTORE `QUERY` (12 R369). -/
def execRestoreQuery (page : Nat) (s : State) : Host.Outcome State Fault Refusal := runRestore s page 0 fun _ j s => restoreReply s j mbOk

def frontsPoisoned (s : State) (j : Job) (p : Protect) (step : Nat) : Bool :=
  (buffersAt s j p step).any fun d => rangePoison s (footprint d).1.toNat (footprint d).2
def footRetired (s : State) (j : Job) (p : Protect) : Bool :=
  (buffersAt s j p 0 ++ buffersAt s j p 1).any fun d =>
    s.mem.retired.any fun f => (footprint d).1.toNat < f.1 + 65536 && f.1 < (footprint d).1.toNat + (footprint d).2

/-- The partner can rebuild one tensor at a step. -/
def partnerReaches (s : State) (j : Job) (p : Protect) (target : Nat) : Bool :=
  pairFormed s && p.slotStep.any fun m => m ≤ target && target ≤ journalReach s j p (p.retained.length + 1) m

/-- Drains of the tensors that the partner has lost start at once after a local restore (12 R376). -/
def drainLost (s : State) (job : Nat) : State :=
  match jobOf s job with
  | none => s
  | some j => if pairFormed s then (j.prot.filter (·.remirror)).foldl (fun s p => startDrain s job p.handle true) s else s

/-- RESTORE `LOCAL` (12 R370, R382); what the partner sends of the tensors whose fronts are poisoned comes with it. -/
def execRestoreLocal (restore : LocalRestore) (s : State) : Host.Outcome State Fault Refusal :=
  runRestore s restore.page 1 fun r j s =>
    let target := pf r 79 16
    let bad := j.prot.filter fun p => frontsPoisoned s j p target
    if !(target == j.committed || (target == j.committed + 1 && j.inDoubt)) then fail s mbRestoreGap
    else if j.prot.any (footRetired s j) || !(bad.all fun p => partnerReaches s j p target) then fail s mbRestoreGap
    else
      let t := if target = j.committed then s else commitStep s r.job (j.tags.map fun q => (q.1, q.2.level))
      match rebuildAll t r.job target restore.received bad with
      | none => fail s mbRestoreGap
      | some t =>
        let t := drainLost (restored t r.job target) r.job
        (jobOf t r.job).elim (ok t) fun j => restoreReply t j mbOk

/-- RESTORE `PARTNER` (12 R371) starts the transfer and the replay. -/
def execRestorePartner (page : Nat) (s : State) : Host.Outcome State Fault Refusal :=
  runRestore s page 2 fun r j s =>
    let target := pf r 79 16
    let known := restorable s j
    if !pairFormed s || known.any fun b => target < b.1 || b.2 < target then fail s mbRestoreGap
    else
      let bytes := j.prot.foldl (fun n p => n + mirrorBytes s j p + ((p.retained.filter fun q => q.1 ≤ target).foldl (fun n q => n + q.2) 0)) 0
      let total := known.elim (drawn s) fun _ => bytes
      let steps := known.elim (drawn (draw s)) fun b => target - b.1
      let s := draw (draw s)
      let s := startOp s page r { kind := 3, job := some r.job, unit := true, total := total, arg := [2, target] }
      let s := putOp s { (opOf s 3 0 (some r.job)).getD {} with notifyEnd := false }
      restoreReply (startOp s page r { kind := 2, job := some r.job, unit := true, total := steps, arg := [2, target] }) j mbInProgress

/-- Read an image: for each registered tensor in order its buffers' data; none when an entry does not stand for it at the step, or its check fails. -/
def readImage (s : State) (j : Job) (target : Nat) : List Protect → Nat → Option (List (Protect × List Byte))
  | [], _ => some []
  | p :: r, a =>
    let n := imageData s j p
    let data := rdBytes s (a + 64) n
    let d := (buffersAt s j p 0).headD {}
    let good := rdLe s a 8 == p.handle && rdLe s (a + 8) 8 == target && rdLe s (a + 16) 8 == elems d && rdLe s (a + 56) 8 == crc64 data && !rangePoison s a (64 + n)
    if good then (readImage s j target r (a + 64 + n)).map fun l => (p, data) :: l else none

/-- Put an image's data into the buffers of its step. -/
def loadImage (s : State) (job target : Nat) (l : List (Protect × List Byte)) : State :=
  l.foldl (fun s e =>
    match jobOf s job with
    | none => s
    | some j =>
      ((buffersAt s j e.1 target).foldl (fun (acc : State × List Byte) d =>
        let f := footprint d
        (wrBytes acc.1 f.1.toNat (acc.2.take f.2), acc.2.drop (pad64 f.2))) (s, e.2)).1) s

/-- RESTORE `IMAGE` (12 R369) starts the transfer. -/
def execRestoreImage (page : Nat) (s : State) : Host.Outcome State Fault Refusal :=
  runRestore s page 3 fun r j s =>
    match refAt s r (pf r 191 80) with
    | none => fail s mbBadField
    | some (a, n) =>
      let target := pf r 79 16
      if n < imageBytes s j then fail s mbBadField
      else if !j.prot.isEmpty && rdLe s (a + 8) 8 != target then fail s mbRestoreGap
      else restoreReply (startOp s page r { kind := 3, job := some r.job, unit := true, total := imageBytes s j, arg := [3, target, a] }) j mbInProgress

/-- The transfer of a restore ends; what the partner has sent is kept for the replay. -/
def endTransfer (s : State) (o : LongOp) (good : Bool) (received : List PeerCopy) : State :=
  let job := o.job.getD 0
  let target := o.arg.getD 1 0
  if o.arg.getD 0 0 = 3 then
    match jobOf s job with
    | none => s
    | some j =>
      let s := reachRange s (o.arg.getD 2 0) (imageBytes s j)
      match readImage s j target j.prot (o.arg.getD 2 0) with
      | some l => if good then endOp (restored (loadImage s job target l) job target) o mbOk else endOp s o mbRestoreGap
      | none => endOp s o mbRestoreGap
  else if good then endOp { s with pair := { s.pair with received := tset s.pair.received job received } } o mbOk
  else
    let s := endOp s o mbRestoreGap
    (opOf s 2 0 o.job).elim s fun q => endOp s q mbRestoreGap

/-- After a `PARTNER` restore this part knows what the partner holds of each tensor: the slot from which it was rebuilt and the records after it, so that
the next drain takes the other slot (12 R364, R371). -/
def keptAtPartner (s : State) (job target : Nat) (cs : List PeerCopy) : State :=
  let know (p : Protect) : Protect :=
    (baseCopy cs p.handle target).elim p fun c =>
      { p with slotStep := some c.step, slotIdx := c.slot, retained := c.records.map fun r => (r.step, (journalBytes r).length) }
  updJob s job fun j => { j with prot := j.prot.map know }

/-- The replay ends, which follows the transfer: with it the fronts hold the target, or nothing of the job is changed. -/
def endReplay (s : State) (o : LongOp) (good : Bool) : State :=
  let job := o.job.getD 0
  let target := o.arg.getD 1 0
  if (opOf s 3 0 o.job).any fun t => t.state == 2 then
    if !good then endOp s o mbRestoreGap else
    match jobOf s job with
    | none => s
    | some j =>
      let t := { s with pair := { s.pair with received := tdel s.pair.received job } }
      let cs := tgetD s.pair.received job []
      (rebuildAll t job target cs j.prot).elim (endOp t o mbRestoreGap) fun t => endOp (keptAtPartner (restored t job target) job target cs) o mbOk
  else s

end Sys2Proof.Machine
end

