-- ==== Sys2Proof/Machine/Power.lean ====
section
/-! DEFINITION. Power, straps, supply, cooling, the leak sensor, and the events that reset the part or a panel (16 R452, R457 to R478). -/

namespace Sys2Proof.Machine

/-! ### Power-up and power-down (16 R457 to R462) -/

/-- POWER_ON_RESET (16 R460): the Hub domain starts; a UV-reset before it is reported now (16 R467). -/
def execPowerOnReset (s : State) : Host.Outcome State Fault Refusal :=
  let t := powerOnState s
  .next (if s.pwr.uvResetFlag then health t { code := 0x0802, severity := 2 } else t)

/-- STRAP_LATCH (16 R457): 1 ms after the start of the Hub domain, with which secure boot begins (R461, step 2). From then on `PWR_GOOD` is held low while
the main rails are not good (R455, R458). -/
def execStrapLatch (slotId feedTag : Nat) (s : State) : Host.Outcome State Fault Refusal :=
  let t := advance s 1000000
  onlyIf (s.pwr.hubOn && !s.pwr.strapsLatched) s
    (bootCheck { t with pwr :=
      { t.pwr with slotId := BitVec.ofNat 6 slotId, feedTag := BitVec.ofNat 4 feedTag, strapsLatched := true, pwrGoodLow := !t.pwr.railsOn } })

/-- The input is now known to stand at a level; it has been above UV-warn from the moment it rose through its clearing level (16 R463). -/
def inputAt (s : State) (mv : Nat) : State :=
  let fresh := s.pwr.inputMv < 43500 && 43500 ≤ mv
  { s with pwr := { s.pwr with inputMv := mv, aboveWarnSince := if fresh then s.clk.now else s.pwr.aboveWarnSince } }

/-- PWR_EN_RISE (16 R461, R468, R472, R473): what waited for `PWR_EN` to be low and then high is released; an over-voltage stop needs the input within
its operating range. -/
def execPwrEnRise (inputMv : Nat) (s : State) : Host.Outcome State Fault Refusal :=
  let latched := s.pwr.ovLatched && !(44000 ≤ inputMv && inputMv ≤ 58000)
  let t := inputAt s inputMv
  let t := { t with pwr := { t.pwr with pwrEn := true, ovLatched := latched, faultLow := latched, thermtripLow := false } }
  if !s.pwr.hubOn then .next { s with pwr := { s.pwr with pwrEn := true } } else
  onlyIf (!s.pwr.pwrEn) s (if !latched && 44000 ≤ inputMv then railsRamp t else t)

/-- OPERATING_RANGE_ENTRY (16 R461): with `PWR_EN` high already, the rails start as the input reaches 44.0 V. -/
def execOperatingRangeEntry (inputMv : Nat) (s : State) : Host.Outcome State Fault Refusal :=
  let idle := s.pwr.pwrEn && !s.pwr.railsOn && !s.pwr.railsRamping && !s.pwr.ovLatched && !s.pwr.thermtripLow
  onlyIf (s.pwr.hubOn && 44000 ≤ inputMv) s (if idle then railsRamp (inputAt s inputMv) else inputAt s inputMv)

/-- PWR_GOOD_RELEASE (16 R461, step 5): the main rails are good and bring-up starts. -/
def execPwrGoodRelease (s : State) : Host.Outcome State Fault Refusal :=
  onlyIf s.pwr.railsRamping s { s with pwr := { s.pwr with railsOn := true, railsRamping := false, pwrGoodLow := false } }

/-- PWR_EN_FALL (16 R462). -/
def execPwrEnFall (s : State) : Host.Outcome State Fault Refusal :=
  let t := railsOff s
  if !s.pwr.hubOn then .next { s with pwr := { s.pwr with pwrEn := false } } else
  onlyIf s.pwr.pwrEn s { t with pwr := { t.pwr with pwrEn := false } }

/-! ### The end of bring-up (10 R307; 14 R412; 15 R440, R441, R449 to R451) -/

/-- The anti-rollback fuses advance to the running image's version, capped at 64, when an NV write may start. -/
def advanceFuses (s : State) : State :=
  let n := min 64 (running s).svn
  if n ≤ fusesNow s then s
  else if nvReady s then health (nvWrite { s with fw := { s.fw with fusePending := none } } (.fuses n)) { code := 0x0702, severity := 0, value := n }
  else { s with fw := { s.fw with fusePending := some n } }

/-- A return preparation that was interrupted runs again from its first step, as an operation of kind 8. -/
def resumeReturn (s : State) : State :=
  if s.fw.returnStep = 0 || s.fw.returnFuse then s else
  let o := (opOf s 8 0 none).getD { kind := 8, total := 10000 }
  putOp { s with mgmt := { s.mgmt with sessions := [] } } { o with state := 1, result := 0, position := 0, startStroke := BitVec.ofNat 64 (strokeNow s) }

/-- BRING_UP_COMPLETE (14 R412). -/
def execBringUpComplete (s : State) : Host.Outcome State Fault Refusal :=
  let t := { s with
    hub := { s.hub with phase := 1 }, mem := { s.mem with scrub := skipRetired s.mem (s.mem.retired.length + 1) 0, scrubStart := s.clk.now, scrubStroke := strokeNow s }
    fw := { s.fw with bootFailures := 0 }, mgmt := { s.mgmt with uartOn := s.mgmt.cfg.consoleEn == 1 } }
  onlyIf (s.pwr.strapsLatched && s.pwr.railsOn && !s.hub.bootFailed && s.hub.phase == 0) s (resumeReturn (advanceFuses t))

/-! ### Resets (16 R475) -/

/-- PERST_N_RESET: the first rise after power-up ends it (16 R461); a later one resets the PCIe core and restarts Ohmub warm. -/
def execPerstNReset (s : State) : Host.Outcome State Fault Refusal :=
  if !s.pwr.perstN then onlyIf s.pwr.railsOn s (setPerst s true)
  else .next (warmRestart { s with hub := { s.hub with pciCfg := [], bar4Offset := 0, bar4Size := 0x1000000000, msixTable := [], msixPending := [] } })

/-- OHMUB_WARM_RESTART (12 R380): both copies of a structure of Ohmub's own were poisoned. -/
def execOhmubWarmRestart (s : State) : Host.Outcome State Fault Refusal :=
  onlyIf (hbmOn s) s (health (warmRestart s) { code := 0x0601, severity := 2 })

/-- HUB_WATCHDOG (16 R475; 15 R441): a warm restart; an image that fails bring-up for the third time in a row gives way to the other slot. -/
def execHubWatchdog (s : State) : Host.Outcome State Fault Refusal :=
  let n := s.fw.bootFailures + 1
  let t := if s.hub.phase != 0 then s
    else if 3 ≤ n && bootable s (fwSlot s (otherSlot s)) then fallBack s
    else { s with fw := { s.fw with bootFailures := n } }
  onlyIf (s.pwr.hubOn && s.pwr.strapsLatched) s (warmRestart t)

/-! ### Supply (16 R463 to R468) -/

/-- A list with one entry more, unless it has it. -/
def addNew {α : Type} [BEq α] (l : List α) (x : α) : List α := if l.contains x then l else l ++ [x]

/-- A write to NV is aborted at its next page boundary with the old record standing; it waits for its retry (16 R465). Of the fuses, which are blown one
at a time, a number below the target is blown by then, by a free value (15 R440; log entry 2). -/
def nvRevert (s : State) (i : NvItem) : State :=
  match i with
  | .frame f stack => { s with mem := { s.mem with unsaved := addNew s.mem.unsaved (f, stack) } }
  | .repair row hard =>
    { s with mem := { s.mem with repairLog := s.mem.repairLog.map (fun r => if r.1 = row && hard then (row, false) else r)
                                 unlogged := addNew s.mem.unlogged (row, hard) } }
  | .cfg old => { s with mgmt := { s.mgmt with cfgNv := old, cfgUnsaved := some (s.mgmt.cfgUnsaved.getD s.mgmt.cfgNv) } }
  | .fuses k =>
    let t := draw s
    { t with fw := { t.fw with fuses := t.fw.fuses + drawn s % max 1 (k - t.fw.fuses), fusePending := some (max k (t.fw.fusePending.getD 0)) } }
  | .station old => { s with fab := { s.fab with nvStation := old, stationUnsaved := some (s.fab.stationUnsaved.getD s.fab.nvStation) } }

/-- The longest that a write of a record may take: two copies of at most 20 ms each (DEDUCED from 16 R478: log entry 26). -/
def nvWriteNs : Nat := 40000000

/-- A write to NV is complete: of the fuses, all are known to be blown. -/
def nvDone (s : State) (i : NvItem) : State :=
  match i with
  | .fuses k => { s with fw := { s.fw with fuses := max s.fw.fuses k } }
  | _ => s

/-- A UV-warn crossing meets the writes to NV, the newest first: each that may still be under way is complete, or aborted with the old record standing,
by a free value (16 R463, R465; log entry 2). -/
def abortNv (s : State) : State :=
  s.pwr.nvBusy.reverse.foldl (fun s w =>
    if s.clk.now < w.2 + nvWriteNs && drawn s % 2 = 1 then nvRevert (draw s) w.1 else nvDone (draw s) w.1)
    { s with pwr := { s.pwr with nvBusy := [] } }

/-- UV_WARN (16 R464): the nib clock is divided by 2; NV writes stop. -/
def execUvWarn (inputMv : Nat) (s : State) : Host.Outcome State Fault Refusal :=
  let s' := abortNv s
  onlyIf (s.pwr.hubOn && !s.pwr.uvWarn) s
    (setDivisor { s' with pwr := { s'.pwr with uvWarn := true, uvWarnSince := s.clk.now, inputMv := inputMv, divSupply := 2 } } 1)

/-- SAG (16 R466): the input has recovered through 43.5 V. -/
def execSag (lowUs minMv : Nat) (s : State) : Host.Outcome State Fault Refusal :=
  let t := advance s (s.pwr.uvWarnSince + lowUs * 1000)
  let t := { t with pwr := { t.pwr with uvWarn := false, nvStop := false, aboveWarnSince := t.clk.now, inputMv := 43500, divSupply := 1 } }
  onlyIf s.pwr.uvWarn s (health (setDivisor t 1) { code := 0x0801, severity := 1, value := satTo 32 lowUs * 2 ^ 32 + satTo 16 minMv })

/-- NV_STOP (16 R463): no program, erase or fuse pulse starts. -/
def execNvStop (s : State) : Host.Outcome State Fault Refusal := onlyIf (s.pwr.hubOn && s.pwr.uvWarn) s { s with pwr := { s.pwr with nvStop := true } }

/-- NV_STOP_CLEAR (16 R463). -/
def execNvStopClear (s : State) : Host.Outcome State Fault Refusal := onlyIf s.pwr.nvStop s { s with pwr := { s.pwr with nvStop := false } }

/-- UV_RESET (16 R467): both domains reset, outputs released; the flag that the next power-on reset reports is written. -/
def execUvReset (s : State) : Host.Outcome State Fault Refusal :=
  let t := powerOnState s
  onlyIf s.pwr.hubOn s { t with pwr := { t.pwr with hubOn := false, uvResetFlag := true, inputMv := 39000 } }

/-- OV_STOP (16 R468). -/
def execOvStop (maxMv : Nat) (s : State) : Host.Outcome State Fault Refusal :=
  let t := railsOff s
  onlyIf s.pwr.hubOn s
    (health { t with pwr := { t.pwr with ovLatched := true, faultLow := true, inputMv := maxMv } } { code := 0x0803, severity := 2, value := maxMv })

/-- What a write to NV that waited brings, now that it may start: retired frames, repairs, the configuration, critical records, the station ID, the
fuses (16 R465). -/
def flushNv (s : State) : State :=
  let m := s.mem
  let log := m.repairLog.map fun r => (r.1, r.2 || m.unlogged.contains (r.1, true))
  let items := m.unsaved.map (fun f => NvItem.frame f.1 f.2) ++ m.unlogged.map (fun r => NvItem.repair r.1 r.2) ++
    (s.mgmt.cfgUnsaved.map fun _ => NvItem.cfg s.mgmt.cfgNv).toList ++ (s.fab.stationUnsaved.map fun _ => NvItem.station s.fab.nvStation).toList ++
    (s.fw.fusePending.map NvItem.fuses).toList
  let s := items.foldl nvWrite s
  let s := { s with
    mem := { s.mem with unsaved := [], unlogged := [], repairLog := log }
    mgmt := { s.mgmt with cfgNv := s.mgmt.cfgUnsaved.getD s.mgmt.cfgNv, cfgUnsaved := none, nvCritical := newestCritical (s.mgmt.nvCritical ++ s.mgmt.critUnsaved)
                          critUnsaved := [] }
    fab := { s.fab with nvStation := s.fab.stationUnsaved.getD s.fab.nvStation, stationUnsaved := none } }
  match s.fw.fusePending with
  | none => s
  | some n => health { s with fw := { s.fw with fusePending := none } } { code := 0x0702, severity := 0, value := n }

/-! ### Power limits (16 R452, R469) -/

/-- PAIR_IMBALANCE (16 R452): 1 for P50A, 2 for P50B. -/
def execPairImbalance (low : Nat) (s : State) : Host.Outcome State Fault Refusal :=
  let t := { s with pwr := { s.pwr with powerCap := true, divPair := 2 } }
  onlyIf (s.pwr.hubOn && !s.pwr.powerCap) s (setDivisor (health t { code := 0x0804, severity := 1, value := low % 4 }) 2)

/-- PAIR_IMBALANCE_CLEAR (16 R452). -/
def execPairImbalanceClear (s : State) : Host.Outcome State Fault Refusal :=
  onlyIf s.pwr.powerCap s (setDivisor { s with pwr := { s.pwr with powerCap := false, divPair := 1 } } 2)

/-- POWER_LIMIT (16 R469). -/
def execPowerLimit (s : State) : Host.Outcome State Fault Refusal :=
  onlyIf (s.pwr.hubOn && s.pwr.divPower == 1) s (setDivisor { s with pwr := { s.pwr with divPower := 2 } } 3)

/-- POWER_LIMIT_CLEAR (16 R469). -/
def execPowerLimitClear (s : State) : Host.Outcome State Fault Refusal :=
  onlyIf (s.pwr.divPower == 2) s (setDivisor { s with pwr := { s.pwr with divPower := 1 } } 3)

/-! ### Cooling (16 R471, R472) -/

/-- The hottest sensor of a range among those that a poll has read. -/
def hottestOf (rs : List Reading) (lo n : Nat) : Option Reading :=
  (rs.filter fun r => lo ≤ r.sensor && r.sensor < lo + n).foldl (fun b r => some (b.elim r fun x => if x.value < r.value then r else x)) none

/-- The measurement that a poll gives: 0 coolant inlet, 1 flow, 2 hottest panel sensor, 3 hottest HBM stack sensor. -/
def measured (rs : List Reading) (m : Nat) : Option Reading :=
  if m = 0 then hottestOf rs 54 1 else if m = 1 then hottestOf rs 58 1 else if m = 2 then hottestOf rs 0 32 else hottestOf rs 32 16

/-- Margin within which an entered column is not yet left: 2 K, or 0.5 L/min. -/
def coolMargin (m : Nat) : Int := if m = 1 then 50 else 16

/-- A measurement is outside a column's threshold (table Cooling thresholds and actions; column 1 warning, 2 and 4 divisors, 8 trip), in 0.125 °C or
0.01 L/min, tightened by a margin. -/
def outside (m col : Nat) (v margin : Int) : Bool :=
  let pick (a b c d : Int) : Int := if col = 1 then a else if col = 2 then b else if col = 4 then c else d
  if m = 0 then pick 45 47 50 55 * 8 - margin < v || (col == 1 && v < 160 + margin)
  else if m = 1 then v < pick 800 700 600 400 + margin
  else if m = 2 then pick 95 100 105 115 * 8 - margin < v
  else pick 85 90 95 105 * 8 - margin < v

/-- `VALUE` of the cooling records: sensor and reading. -/
def coolValue (r : Reading) : Nat := r.sensor % 256 + unsigned 32 r.value * 2 ^ 16

/-- One column of one measurement: it is entered, held, or left after 1 s inside. -/
def coolColumn (s : State) (m col : Nat) (r : Reading) : State :=
  let mine (c : Nat × Nat × Nat) : Bool := c.1 == m && c.2.1 == col
  let put (s : State) (l : List (Nat × Nat × Nat)) : State := { s with pwr := { s.pwr with cooling := l } }
  let rest := s.pwr.cooling.filter fun c => !mine c
  match s.pwr.cooling.find? mine with
  | none =>
    if outside m col r.value 0 then
      health (put s (rest ++ [(m, col, s.clk.now)]))
        { code := if col = 1 then 0x0810 else 0x0811, severity := 1, value := coolValue r + if col = 1 then 0 else col * 2 ^ 56 }
    else s
  | some c =>
    if outside m col r.value (coolMargin m) then put s (rest ++ [(m, col, s.clk.now)])
    else if c.2.2 + secondNs ≤ s.clk.now then put s rest else s

/-- Columns of one measurement. -/
def coolMeasure (rs : List Reading) (s : State) (m : Nat) : State :=
  (measured rs m).elim s fun r => [1, 2, 4].foldl (fun s col => coolColumn s m col r) s

/-- SENSOR_POLL (16 R471). -/
def execSensorPoll (readings : List Reading) (s : State) : Host.Outcome State Fault Refusal :=
  let t := { s with pwr := { s.pwr with readings := readings.foldl (fun t r => tset t r.sensor r.value) s.pwr.readings } }
  let t := [0, 1, 2, 3].foldl (coolMeasure readings) t
  let d := t.pwr.cooling.foldl (fun d c => max d c.2.1) 1
  onlyIf s.pwr.hubOn s (setDivisor { t with pwr := { t.pwr with divCooling := d } } 4)

/-- THERMAL_TRIP (16 R472): the reading is beyond its trip threshold. -/
def execThermalTrip (reading : Reading) (s : State) : Host.Outcome State Fault Refusal :=
  let trips := [0, 1, 2, 3].any fun m => (measured [reading] m).any fun r => outside m 8 r.value 0
  let t := railsOff s
  onlyIf (s.pwr.hubOn && (s.pwr.railsOn || s.pwr.railsRamping) && trips) s
    (health { t with pwr := { t.pwr with thermtripLow := true, faultLow := true } } { code := 0x0821, severity := 2, value := coolValue reading })

/-! ### Leak and panel resets (16 R473, R477) -/

/-- A job halts as under 12 R379, with halt notices to its stations; no poison has been consumed, so that no `POISON` record is sent here. -/
def haltHere (s : State) (job : Nat) : State :=
  match jobOf s job with
  | none => s
  | some j =>
    if j.halted then s else
    let s := haltJob s job
    let s := abortUnstarted s fun a => a.job == job
    let s := releaseHeldActs s job
    toStations s j "HALT_NOTICE" (askBit + noticePoison)

/-- The Pillows lose power: their contents are undefined from now on (16 R481; log entry 6). -/
def dropPillows (m : Mem) : Mem :=
  { m with bytes := m.bytes.filter (fun c => !(pillowBase ≤ c.1 && c.1 < pillowEnd)), poison := m.poison.filter fun g => !(pillowBase ≤ g * 64 && g * 64 < pillowEnd) }

/-- Response of POWER_STATE. -/
def powerReply (s : State) : Reply := okNat s 4 (s.hub.pstate.toNat + if s.hub.preserve then 8 else 0)
def powerData (s : State) : List Byte := (powerReply s).data

/-- A Drowse that still waits is given up: its page is answered with the state that the part is in now. -/
def endDrowseWait (s : State) : State :=
  s.hub.drowsePage.elim s fun p => answerWaiting { s with hub := { s.hub with drowsePage := none } } p 0xB0 mbOk (powerData s)

/-- The part enters Park (16 R479, R481). -/
def enterPark (s : State) : State := endDrowseWait { s with mem := dropPillows s.mem, hub := { s.hub with pstate := 2 } }

/-- Stitches of a halted job that still run end without signalling. -/
def muteAll (s : State) : State :=
  s.acts.foldl (fun s a => completeWith s { a with marks := { a.marks with mute := true } } (statusOf a (strokeNow s))) s

/-- LEAK_DETECT (16 R473). -/
def execLeakDetect (s : State) : Host.Outcome State Fault Refusal :=
  let t := { s with pwr := { s.pwr with leakLow := true, faultLow := true } }
  let t := muteAll ((s.jobs.map Prod.fst).foldl haltHere t)
  onlyIf (s.pwr.hubOn && !s.pwr.leakLow) s (health (if s.pwr.railsOn then enterPark t else t) { code := 0x0830, severity := 2 })

/-- Every Pillow line of a panel holds zero with its poison bit set. -/
def poisonPanel (m : Mem) (panel : Nat) : Mem :=
  let a := pillowOf panel 0
  let n := 160 * 0x200000
  let m := zeroRange m a n
  { m with poison := m.poison.filter (· < a / 64) ++ List.range' (a / 64) (n / 64) ++ m.poison.filter (a / 64 < ·) }

/-- PANEL_RESET (16 R477). -/
def execPanelReset (panel : Nat) (s : State) : Host.Outcome State Fault Refusal :=
  let mine := s.acts.filter fun a => a.nibs.any fun n => n.1 == panel
  let t := mine.foldl (fun s a => completeWith s { a with marks := { a.marks with aborted := true } } stAborted) s
  let t := mine.foldl (fun s a => haltHere s a.job) t
  let m := poisonPanel t.mem panel
  let t := { t with mem := { m with reqs := m.reqs.filter fun r => !(r.nib.any fun n => n.1 == panel) }
                    nibs := { t.nibs with panelStopped := tset t.nibs.panelStopped panel t.clk.now } }
  onlyIf (s.pwr.railsOn && s.hub.pstate != 2 && panel < featPanels s) s (health t { code := 0x0805, severity := 2, panel := panel, value := panel })

/-- PANEL_HEARTBEAT_TIMEOUT (16 R477): heartbeat has not returned within 5 ms; the source that the retirements report is a free value (log entry 2). -/
def execPanelHeartbeatTimeout (panel : Nat) (s : State) : Host.Outcome State Fault Refusal :=
  match tget s.nibs.panelStopped panel with
  | none => .next s
  | some since =>
    let t := advance s (since + 5000000)
    let src := drawn t
    let t := (nibsLive t panel).foldl (fun s n => retireNib s (panel, n) src) (draw t)
    let t := { t with nibs := { t.nibs with panelStopped := tdel t.nibs.panelStopped panel } }
    .next (health t { code := 0x0805, severity := 2, panel := panel, value := panel + 256 })

end Sys2Proof.Machine
end

