-- ==== Sys2Proof/Machine/Firmware.lean ====
section
/-! DEFINITION. Ohmub's own commands: power states, Pricking packs, firmware updates, returns, memory repair, and the end of a long operation (10
R308; 14 R424, R426, R427; 15 R441, R442, R450, R451; 16 R476, R479). -/

namespace Sys2Proof.Machine

/-- Run a command whose answer comes first and whose effect follows it, when its status is `OK`. -/
def runThen (s : State) (p op action : Nat) (f : Request → State → Reply) (g : State → State) : Host.Outcome State Fault Refusal :=
  match nextRequest s p with
  | none => .next s
  | some r =>
    if !isRow r op action then .next s else
    match refusal s p r with
    | some status => .next (answerRequest s p r status [])
    | none =>
      let q := f r s
      let t := answerRequest q.s p r q.status q.data
      .next (if q.status = mbOk then g t else t)

/-! ### Power states (16 R476, R479 to R481; 14 R424, R426) -/

/-- Drowse is entered; a page that waits for it is answered. -/
def enterDrowse (s : State) : State := { s with hub := { s.hub with pstate := 1, drowsePage := none } }

/-- POWER_STATE `ACTION` 0x1. -/
def execPowerStateEnter (page : Nat) (s : State) : Host.Outcome State Fault Refusal :=
  runCmd s page 0xB0 1 fun r s =>
    let t := pf r 1 0
    if pf r 3 2 != 0 || pf r 31 8 != 0 || t = 3 then fail s mbBadField
    else if t = 2 && !s.jobs.isEmpty then fail s mbJobBusy
    else if t = 0 then powerReply (endDrowseWait { s with hub := { s.hub with pstate := 0 } })
    else if t = 2 then powerReply (enterPark s)
    else if s.acts.isEmpty then powerReply (enterDrowse s)
    else if s.hub.drowsePage.isSome then fail s mbBusy
    else { s := { s with hub := { s.hub with drowsePage := some page } }, wait := true }

/-- DROWSE_ENTRY (16 R479): every admitted stitch has completed. -/
def execDrowseEntry (page : Nat) (s : State) : Host.Outcome State Fault Refusal :=
  let t := enterDrowse s
  onlyIf (s.hub.drowsePage == some page && s.acts.isEmpty) s (answerWaiting t page 0xB0 mbOk (powerData t))

/-- POWER_STATE `ACTION` 0x2. -/
def execPowerStatePreserve (page : Nat) (s : State) : Host.Outcome State Fault Refusal :=
  runCmd s page 0xB0 2 fun r s =>
    if pf r 3 1 != 0 || pf r 31 8 != 0 then fail s mbBadField else powerReply { s with hub := { s.hub with preserve := bit (pay r) 0 } }

/-- POWER_STATE `ACTION` 0x3. -/
def execPowerStateRestart (page : Nat) (s : State) : Host.Outcome State Fault Refusal :=
  runThen s page 0xB0 3 (fun r s => if pf r 3 0 != 0 || pf r 31 8 != 0 then fail s mbBadField else if !s.jobs.isEmpty then fail s mbJobBusy else powerReply s)
    warmRestart

/-! ### Pricking packs (15 R442) -/

def gradeBit (s : State) : Nat :=
  match s.nibs.grade with
  | .m8f => 0
  | .m8s => 1
  | .m6f => 2

/-- Health record of signed content that is refused: 1 firmware, 2 Pricking pack. -/
def refuseContent (s : State) (what : Nat) : State := health s { code := 0x0703, severity := 1, value := what }

/-- The status with which a pack is refused. -/
def packRefusal (s : State) (k : PrickPack) : Option Nat :=
  if !trusted s k.ecdsa k.lms then some mbAuthFail
  else if k.version.toNat < prickVer s then some mbRollback
  else if !bit k.gradeMask.toNat (gradeBit s) || k.slices.isEmpty || 4096 < k.slices.length then some mbBadField else none

/-- Load a pack at the next edge, or refuse it. -/
def loadPack (s : State) (k : PrickPack) : Reply :=
  match packRefusal s k with
  | some x => fail (refuseContent s 2) x
  | none => okNat { s with fw := { s.fw with nextPack := some k } } 4 k.version.toNat

/-- PRICKING_LOAD (15 R442): the pack that its reference names. -/
def execPrickingLoad (page : Nat) (pack : PrickPack) (s : State) : Host.Outcome State Fault Refusal :=
  runCmd s page 0xA0 0 fun r s => if pf r 127 112 != 0 || (refAt s r (pf r 111 0)).isNone then fail s mbBadField else loadPack s pack

/-! ### Firmware (15 R439 to R441) -/

def putSlot (s : State) (k : Nat) (i : FwImage) : State :=
  if k = 0 then { s with fw := { s.fw with slot0 := i } } else { s with fw := { s.fw with slot1 := i } }
def stagedVersion (s : State) : Nat := s.fw.staged.elim 0 fun i => i.version.toNat

/-- The status with which an image is refused: the package header's CRC-32 first, then the checks of R439. -/
def imageRefusal (s : State) (i : FwImage) : Option Nat :=
  if !headerOk i then some mbCrcFail else if !trusted s i.ecdsa i.lms then some mbAuthFail else if i.svn < fusesNow s then some mbRollback else none

/-- An image whose signatures do not verify: its slot is not whole. -/
def unverified (i : FwImage) (verifies : Bool) : FwImage := { i with ecdsa := { i.ecdsa with verifies := verifies }, lms := { i.lms with verifies := verifies } }

/-- The inactive slot is being written; what it holds verifies once it is whole. -/
def beginStage (s : State) (i : FwImage) : State :=
  putSlot { s with fw := { s.fw with staged := none, staging := true } } (otherSlot s) (unverified i false)

/-- The staging ends: the slot is whole and staged, or holds nothing that boots. -/
def finishStage (s : State) (good : Bool) : State :=
  let k := otherSlot s
  let i := unverified (fwSlot s k) good
  let s := putSlot s k i
  { s with fw := { s.fw with staging := false, staged := if good then some i else none } }

/-- An image is refused: one whose header is good has been written into the inactive slot, where it does not boot, and a health record says so (15
R431, R441). -/
def refusedImage (s : State) (i : FwImage) (status : Nat) : State :=
  if status = mbCrcFail then s else refuseContent (putSlot { s with fw := { s.fw with staged := none } } (otherSlot s) i) 1

/-- FW_UPDATE `ACTION` 0x1. -/
def execFwUpdateStage (page : Nat) (image : FwImage) (s : State) : Host.Outcome State Fault Refusal :=
  runCmd s page 0xC0 1 fun r s =>
    if pf r 127 116 != 0 || (refAt s r (pf r 111 0)).isNone then fail s mbBadField
    else if s.fw.staging || s.fw.stagingPldm then fail s mbBusy else
    match imageRefusal s image with
    | some x => fail (refusedImage s image x) x
    | none =>
      let s := beginStage s image
      { s := startOp s page r { kind := 6, total := 10000 }, status := mbInProgress, data := leBytes 4 0 }

/-- The staged slot becomes active. -/
def activateSlot (s : State) : State := { s with fw := { s.fw with active := otherSlot s, staged := none, bootFailures := 0 } }

/-- FW_UPDATE `ACTION` 0x2: the staged slot is marked active, the answer is given, and Ohmub restarts warm. -/
def execFwUpdateActivate (page : Nat) (s : State) : Host.Outcome State Fault Refusal :=
  runThen s page 0xC0 2
    (fun r s => if pf r 127 116 != 0 then fail s mbBadField else if !s.jobs.isEmpty then fail s mbJobBusy else if s.fw.staging then fail s mbBusy
      else if s.fw.staged.isNone then fail s mbNotNow else okNat s 4 (stagedVersion s))
    fun s => warmRestart (activateSlot s)

/-- FW_UPDATE `ACTION` 0x3. -/
def execFwUpdateDiscard (page : Nat) (s : State) : Host.Outcome State Fault Refusal :=
  runCmd s page 0xC0 3 fun r s =>
    if pf r 127 116 != 0 then fail s mbBadField else if s.fw.staging then fail s mbBusy else okNat { s with fw := { s.fw with staged := none } } 4 0

/-! ### Returns (15 R450, R451) -/

/-- RETURN_PREPARE: self-test, scrub and shadowing stop, and both management sessions close. -/
def execReturnPrepare (page : Nat) (s : State) : Host.Outcome State Fault Refusal :=
  runCmd s page 0xD0 0 fun r s =>
    if pf r 31 0 != 0x52455455 then fail s mbBadField
    else if !s.jobs.isEmpty then fail s mbJobBusy
    else if opRunning s 8 0 none || s.fw.staging then fail s mbBusy
    else
      let s := { s with fw := { s.fw with returnStep := 1 }, mgmt := { s.mgmt with sessions := [] } }
      { s := startOp s page r { kind := 8, total := 10000 }, status := mbInProgress }

/-- One word of `LAST_CRIT`. -/
def critWord (h : Health) : Nat :=
  let c := h.hcode.toNat
  let place := if c / 256 = 3 then h.stack.toNat else h.panel.toNat
  c * 2 ^ 16 + place * 2 ^ 8 + if c / 256 = 1 then h.port.toNat else h.nib.toNat

/-- The return record; the power-on hours are a free value (log entry 2). -/
def returnBytes (s : State) : List Byte :=
  let crit := (s.mgmt.nvCritical.reverse.take 8).map critWord
  let last := (List.range 8).foldl (fun n i => n + crit.getD i 0 % 2 ^ 32 * 2 ^ (608 - 32 * i)) 0
  let degraded := s.mem.degraded.foldl (fun n k => n + 2 ^ (656 + k)) 0
  let x := 7 * 2 ^ 352 + last + s.nibs.retired.length % 65536 * 2 ^ 640 + degraded + s.mem.retired.length % 2 ^ 32 * 2 ^ 672 + drawn s % 2 ^ 32 * 2 ^ 704 +
    wallNow s * 2 ^ 736 + s.fw.returnTally.toNat * 2 ^ 800 + prickVer s * 2 ^ 816 + (running s).svn % 65536 * 2 ^ 848 + (running s).version.toNat * 2 ^ 864 +
    Config.serial.toNat * 2 ^ 896
  let body := (leBytes 128 x).drop 8
  leBytes 8 (crc64 body) ++ body

/-- Steps 2 to 6 of R450: memory outside retired frames and keys are zero, the record is written, the fuse is blown, and the part restarts into the return
state. -/
def finishReturn (s : State) (o : LongOp) : State :=
  let m := s.mem
  let s := { s with mem := { m with bytes := [], poison := [], wcb := [], zeroing := [] }, pair := {}, mgmt := { s.mgmt with sessions := [] } }
  let record := returnBytes s
  let s := draw { s with fw := { s.fw with keys := false, returnRecord := [record, record], returnTally := s.fw.returnTally + 1, returnFuse := true } }
  warmRestart (endOp s o mbOk)

/-! ### HBM_REPAIR (10 R308; 14 R424) -/

/-- Row entries of a request, by row number. -/
def rowsOf (r : Request) : List Nat := (List.range (pf r 15 8)).map fun i => pf r (64 * i + 191) (64 * i + 128)
def rowEntryOk (s : State) (x : Nat) : Bool := bits x 32 0 == 0 && bits x 63 60 < stacksOf s.nibs.grade

/-- Fields first: a query's reference, the entries of the rows to be repaired. Then the time: it is accepted from the end of bring-up until the first
JOB_OPEN. -/
def repairRefusal (s : State) (r : Request) : Option Nat :=
  let a := actionOfReq r
  let named := (a != 1 || (refAt s r (pf r 127 16)).isSome) && ((a != 2 && a != 3) || (rowsOf r).all (rowEntryOk s))
  if pf r 7 4 != 0 || 240 < pf r 15 8 || !named then some mbBadField else if s.mem.jobOpened then some mbNotNow else none

def repairReply (s : State) (status done : Nat) : Reply := { s := s, status := status, data := leBytes 8 (done % 2 ^ 32 + s.mem.repairLog.length % 2 ^ 32 * 2 ^ 32) }

/-- The report of a query. -/
def repairReport (s : State) : List Byte :=
  let m := s.mem
  (List.range (stacksOf s.nibs.grade * 1024)).map (fun g => BitVec.ofNat 8 (sparesLeft m g)) ++
    (m.repairLog.map fun r => leBytes 8 (r.1 * 2 ^ 34 + if r.2 then 2 ^ 33 else 0)).flatten ++ (m.retired.map fun f => leBytes 8 (f.1 + f.2 * 2 ^ 48)).flatten

/-- HBM_REPAIR `ACTION` 0x1. -/
def execHbmRepairQuery (page : Nat) (s : State) : Host.Outcome State Fault Refusal :=
  runCmd s page 0xE0 1 fun r s =>
    match repairRefusal s r, refAt s r (pf r 127 16) with
    | some x, _ => fail s x
    | none, none => fail s mbBadField
    | none, some (a, n) =>
      let l := repairReport s
      if n < l.length then fail s mbNoResource else repairReply (wrBytes s a l) mbOk s.mem.retired.length

/-- Hard repair of a row. A logged soft repair keeps its spare row, and keeps its soft repair until the NV write may start. -/
def hardRow (s : State) (row : Nat) : State :=
  let soft := s.mem.repairLog.contains (row, false)
  let s := if soft then s else repairRow s row false
  let m := s.mem
  if nvReady s then
    nvWrite { s with mem := { m with repairLog := (m.repairLog.filter fun x => x.1 != row) ++ [(row, true)], unlogged := m.unlogged.filter fun u => u.1 != row } }
      (.repair row true)
  else { s with mem := { m with unlogged := m.unlogged ++ [(row, true)] } }

/-- Repair rows in order until a bank group has no spare row; answers the rows repaired, and whether all were. -/
def repairRows (hard : Bool) : List Nat → Nat → State → Nat × Bool × State
  | [], n, s => (n, true, s)
  | row :: l, n, s =>
    let logged := hard && s.mem.repairLog.contains (row, false)
    if !logged && sparesLeft s.mem (row / 65536) = 0 then (n, false, s)
    else repairRows hard l (n + 1) (if hard then hardRow s row else repairRow s row false)

/-- Repair rows and answer; the pending entries of their banks drain first (10 R296). -/
def repairAnswer (s : State) (hard : Bool) (rows : List Nat) : Reply :=
  let s := { s with mem := drainIf s.mem fun e => rows.any fun r => r / 16384 == bankKey (place s.nibs.grade e.granule) }
  let q := repairRows hard rows 0 s
  repairReply q.2.2 (if q.2.1 then mbOk else mbNoResource) q.1

/-- Repair the rows that a request lists. -/
def repairListed (s : State) (r : Request) (hard : Bool) : Reply :=
  (repairRefusal s r).elim (repairAnswer s hard ((rowsOf r).map fun x => x / 2 ^ 34)) (fail s)

/-- HBM_REPAIR `ACTION` 0x2. -/
def execHbmRepairSoft (page : Nat) (s : State) : Host.Outcome State Fault Refusal := runCmd s page 0xE0 2 fun r s => repairListed s r false
/-- HBM_REPAIR `ACTION` 0x3. -/
def execHbmRepairHard (page : Nat) (s : State) : Host.Outcome State Fault Refusal := runCmd s page 0xE0 3 fun r s => repairListed s r true
/-- HBM_REPAIR `ACTION` 0x4. -/
def execHbmRepairHardLogged (page : Nat) (s : State) : Host.Outcome State Fault Refusal :=
  runCmd s page 0xE0 4 fun r s =>
    (repairRefusal s r).elim (repairAnswer s true ((s.mem.repairLog.filter fun x => !x.2).map Prod.fst)) (fail s)

/-! ### The end of a long operation (14 R427) -/

/-- A staging ends; its last pages are NV writes. -/
def endStage (s : State) (o : LongOp) (good : Bool) : State :=
  if good then (if nvReady s then endOp (finishStage s true) o mbOk else s) else endOp (refuseContent (finishStage s false) 1) o mbAuthFail

/-- LONG_OPERATION_END: drains, the scrub and the sweep end through their own rows. `done` is none when the operation fails, and
otherwise what a restore's transfer has brought from the partner (12 R371). -/
def execLongOperationEnd (kind subject : Nat) (done : Option (List PeerCopy)) (s : State) : Host.Outcome State Fault Refusal :=
  match s.hub.longOps.find? fun o => o.kind == kind && o.subject == subject && o.state == 1 with
  | none => .next s
  | some o =>
    let ok := done.isSome
    .next (if kind = 2 then endReplay s o ok else if kind = 3 then endTransfer s o ok (done.getD []) else if kind = 6 then endStage s o ok
      else if kind = 7 then endRoute s o ok
      else if kind = 8 then (if ok && nvReady s && s.hub.phase == 1 then finishReturn s o else s) else s)

end Sys2Proof.Machine
end

