-- ==== Sys2Proof/Machine/Manage.lean ====
section
/-! DEFINITION. The management endpoints: health records, PLDM, the management registers, SPDM sessions and attestation, the I3C address and the JTAG
port (15 R432 to R438, R441, R448). -/

namespace Sys2Proof.Machine

/-! ### Health records (15 R432) -/

/-- When a record that is not acknowledged is to be sent again. -/
def resendDue (h : Health) : Nat := h.sentAt.elim 0 (· + secondNs)
def openHealth (s : State) : List Health := (s.mgmt.ring.map Prod.snd).filter fun h => !h.acked
/-- Records that are due at the present time are sent, in `HSEQ` order. -/
def sendDue (s : State) : State :=
  let due (h : Health) : Bool := !h.acked && resendDue h ≤ s.clk.now
  { s with
    out := { s.out with healthSent := s.out.healthSent ++ ((s.mgmt.ring.map Prod.snd).filter due).filterMap (eventOf s) }
    mgmt := { s.mgmt with ring := s.mgmt.ring.map fun p => (p.1, if due p.2 then { p.2 with sentAt := some s.clk.now } else p.2) } }

/-- HEALTH_RESEND: the moment comes at which the next record is due. -/
def execHealthResend (s : State) : Host.Outcome State Fault Refusal :=
  match openHealth s with
  | [] => .next s
  | h :: r => onlyIf (s.pwr.hubOn && s.mgmt.receiver.isSome) s (sendDue (advance s (r.foldl (fun t q => min t (resendDue q)) (resendDue h))))

/-- HEALTH_ACK: the record is acknowledged, and `ALERT_N` follows. -/
def execHealthAck (hseq : Nat) (s : State) : Host.Outcome State Fault Refusal :=
  onlyIf (s.pwr.hubOn && s.mgmt.receiver.isSome) s
    (setAlert { s with mgmt := { s.mgmt with ring := s.mgmt.ring.map fun p => (p.1, if p.1 = hseq then { p.2 with acked := true } else p.2) } })

/-! ### PLDM (15 R434, R435) -/

/-- Completion codes: 0x02, 0x04 and 0x05 are the spec's; the others are those of the DMTF specifications that it names (PRESUMED, log entry 28). -/
def pldmOk : Nat := 0x00
def pldmInvalidData : Nat := 0x02
def pldmNotReady : Nat := 0x04
def pldmUnsupportedCmd : Nat := 0x05
def pldmInvalidSensor : Nat := 0x80
def pldmNotInUpdate : Nat := 0x80
def pldmInUpdate : Nat := 0x81
def pldmInvalidType : Nat := 0x83

/-- An endpoint answers: it works whenever the Hub domain is on (15 R433). -/
def pldmAnswer (s : State) (via : Transport) (code : Nat) (data : List Nat) : State :=
  { s with out := { s.out with pldm := some (via, code, data.map (BitVec.ofNat 64)) } }
def pldmReply (s : State) (via : Transport) (t : State) (code : Nat) (data : List Nat) : Host.Outcome State Fault Refusal :=
  onlyIf s.pwr.hubOn s (pldmAnswer t via code data)

def sessionOf (s : State) (via : Transport) (id : Nat) : Option Session := s.mgmt.sessions.find? fun q => q.via == via && q.id == id
/-- The command came inside a secured session. -/
def secured (s : State) (via : Transport) (session : Option Nat) : Bool := session.any fun id => (sessionOf s via id).any (·.established)

def pldmTypes : List Nat := [0x00, 0x02, 0x05, 0x3F]

/-- GET_TID: the terminus ID is a free value. -/
def execGetTid (via : Transport) (s : State) : Host.Outcome State Fault Refusal := pldmReply s via (draw s) pldmOk [drawn s % 256]

/-- GET_PLDM_VERSION: the version of a supported type is a free value. -/
def execGetPldmVersion (via : Transport) (pldmType : Nat) (s : State) : Host.Outcome State Fault Refusal :=
  if pldmTypes.contains pldmType then pldmReply s via (draw s) pldmOk [drawn s % 2 ^ 32] else pldmReply s via s pldmInvalidType []

/-- GET_PLDM_TYPES: one bit for each supported type. -/
def execGetPldmTypes (via : Transport) (s : State) : Host.Outcome State Fault Refusal :=
  pldmReply s via s pldmOk [pldmTypes.foldl (fun n t => n + 2 ^ t) 0]

/-- GET_PLDM_COMMANDS: one bit for each command; which update-agent commands there are is a free value. -/
def execGetPldmCommands (via : Transport) (pldmType : Nat) (s : State) : Host.Outcome State Fault Refusal :=
  let word := if pldmType = 0 then 0x3C else if pldmType = 2 then 2 ^ 0x04 + 2 ^ 0x0A + 2 ^ 0x11 else if pldmType = 5 then drawn s else 2 ^ 0x01 + 2 ^ 0x02
  if pldmTypes.contains pldmType then pldmReply s via (draw s) pldmOk [word, 0, 0, 0] else pldmReply s via s pldmInvalidType []

/-- PLDM_UNSUPPORTED (15 R434). -/
def execPldmUnsupported (via : Transport) (_pldmType _code : Nat) (s : State) : Host.Outcome State Fault Refusal := pldmReply s via s pldmUnsupportedCmd []

/-- SET_EVENT_RECEIVER (15 R432, R435). -/
def execSetEventReceiver (via : Transport) (session : Option Nat) (eid : Nat) (s : State) : Host.Outcome State Fault Refusal :=
  if secured s via session then pldmReply s via { s with mgmt := { s.mgmt with receiver := some (via, eid) } } pldmOk []
  else pldmReply s via s pldmNotReady []

/-- The number under which a PLDM sensor's reading is kept; none when the part has no such sensor. -/
def pldmSensor (s : State) (id : Nat) : Option Nat :=
  let n := id - 1
  if id = 57 || id = 58 then some id
  else if id = 0 || 58 < id || (n < 32 && featPanels s ≤ n / 4) || (32 ≤ n && n < 48 && stacksOf s.nibs.grade ≤ n - 32) then none else some n

/-- GET_SENSOR_READING (15 R434): the coolant flow in whole L/min, the other sensors in their own unit (log entry 28). -/
def execGetSensorReading (via : Transport) (sensorId : Nat) (s : State) : Host.Outcome State Fault Refusal :=
  match pldmSensor s sensorId with
  | none => pldmReply s via s pldmInvalidSensor []
  | some n => pldmReply s via s pldmOk [unsigned 64 (if n = 58 then readingOf s n / 100 else readingOf s n)]

/-! ### Firmware update over PLDM (15 R441, R442) -/

/-- REQUEST_UPDATE: component 1 is the Ohmub image, 2 the Pricking pack. -/
def execRequestUpdate (via : Transport) (session : Option Nat) (component : Nat) (s : State) : Host.Outcome State Fault Refusal :=
  if !secured s via session then pldmReply s via s pldmNotReady []
  else if s.fw.staging || s.fw.stagingPldm then pldmReply s via s pldmInUpdate []
  else if component != 1 && component != 2 then pldmReply s via s pldmInvalidData []
  else
    let f := { s.fw with stagingPldm := true, component := component, received := 0, staged := if component = 1 then none else s.fw.staged
                         stagedPack := if component = 2 then none else s.fw.stagedPack }
    pldmReply s via { s with fw := f } pldmOk []

/-- What a transferred content does once it is whole: it is verified and staged, or refused; the code of a refusal is a free value. -/
def stageContent (s : State) (image : Option FwImage) (pack : Option PrickPack) : State × Nat :=
  let s := { s with fw := { s.fw with stagingPldm := false } }
  if s.fw.component = 1 then
    match image with
    | none => (s, pldmOk)
    | some i =>
      match imageRefusal s i with
      | some x => let t := refusedImage s i x; (draw t, drawn t % 255 + 1)
      | none => let s := putSlot s (otherSlot s) i; ({ s with fw := { s.fw with staged := some i } }, pldmOk)
  else
    match pack with
    | none => (s, pldmOk)
    | some k =>
      match packRefusal s k with
      | some _ => let t := refuseContent s 2; (draw t, drawn t % 255 + 1)
      | none => ({ s with fw := { s.fw with stagedPack := some k } }, pldmOk)

/-- PLDM_FW_TRANSFER: the last transfer brings the whole content; its NV writes wait for the supply, and its answer with them. -/
def execPldmFwTransfer (via : Transport) (session : Option Nat) (data : List Byte) (image : Option FwImage) (pack : Option PrickPack) (s : State) :
    Host.Outcome State Fault Refusal :=
  if !secured s via session then pldmReply s via s pldmNotReady []
  else if !s.fw.stagingPldm then pldmReply s via s pldmNotInUpdate []
  else if s.fw.content.isSome then pldmReply s via s pldmNotReady []
  else
    let t := { s with fw := { s.fw with received := s.fw.received + data.length } }
    if image.isNone && pack.isNone then pldmReply s via t pldmOk []
    else
      let q := stageContent t image pack
      if nvReady s then pldmReply s via q.1 q.2 []
      else onlyIf s.pwr.hubOn s { t with fw := { t.fw with content := some (via, image, pack) } }

/-- A whole content that has waited for its NV writes is staged, and its transfer is answered. -/
def stageWaiting (s : State) : State :=
  s.fw.content.elim s fun c =>
    let q := stageContent { s with fw := { s.fw with content := none } } c.2.1 c.2.2
    pldmAnswer q.1 c.1 q.2 []

/-- NV_WRITE_RETRY (16 R465): the input has been above UV-warn for 10 ms. -/
def execNvWriteRetry (s : State) : Host.Outcome State Fault Refusal :=
  onlyIf (s.pwr.hubOn && !s.pwr.uvWarn && !s.pwr.nvStop && 43500 ≤ s.pwr.inputMv) s
    (stageWaiting (flushNv (advance s (s.pwr.aboveWarnSince + 10000000))))

/-- ACTIVATE_FIRMWARE: a staged pack, which a pack loaded since may outdate, is loaded at the next edge; a staged image's slot becomes active and Ohmub restarts warm. -/
def execActivateFirmware (via : Transport) (session : Option Nat) (s : State) : Host.Outcome State Fault Refusal :=
  if !secured s via session || s.fw.stagingPldm || s.fw.staging || (s.fw.staged.isSome && !s.jobs.isEmpty) then pldmReply s via s pldmNotReady []
  else if s.fw.staged.isNone && s.fw.stagedPack.isNone then pldmReply s via s pldmNotInUpdate []
  else if s.fw.stagedPack.any fun k => (packRefusal s k).isSome then
    let t := refuseContent { s with fw := { s.fw with stagedPack := none } } 2
    pldmReply s via (draw t) (drawn t % 255 + 1) []
  else
    let t := { s with fw := { s.fw with nextPack := s.fw.stagedPack.or s.fw.nextPack, stagedPack := none } }
    pldmReply s via (if s.fw.staged.isSome then warmRestart (activateSlot t) else t) pldmOk []

/-! ### Management registers (15 R435, R436) -/

def cfgWords (c : NvCfg) : List Nat := [c.scrubHours, c.rowCeLimit, c.shadowRate, c.retirePolicy, c.transientLimit, c.selftestEn, c.sweepMin, c.consoleEn]

/-- A value lies in the range of a setting (table NV configuration). -/
def cfgOk (k v : Nat) : Bool :=
  if k = 0 then 1 ≤ v && v ≤ 168 else if k = 1 || k = 4 then 1 ≤ v && v ≤ 255 else if k = 2 then v == 0 || (100 ≤ v && v ≤ 10000000)
  else if k = 6 then 5 ≤ v && v ≤ 1440 else v ≤ 1

def setCfg (c : NvCfg) (k v : Nat) : NvCfg :=
  match k with
  | 0 => { c with scrubHours := v }
  | 1 => { c with rowCeLimit := v }
  | 2 => { c with shadowRate := v }
  | 3 => { c with retirePolicy := v }
  | 4 => { c with transientLimit := v }
  | 5 => { c with selftestEn := v }
  | 6 => { c with sweepMin := v }
  | _ => { c with consoleEn := v }

/-- `ST_STATUS` (15 R445). -/
def stStatus (s : State) : Nat :=
  let f := s.test.failing
  let panels := (List.range 8).foldl (fun n p => n + if f.any fun x => x.1 == p then 2 ^ p else 0) 0
  let nib := f.foldl (fun n x => min n x.2.1) 0xFF
  s.test.lastSlice % 2 ^ 24 + nib % 256 * 2 ^ 24 + panels * 2 ^ 32 + s.test.sweeps.toNat * 2 ^ 48

def lstateCode : LState → Nat
  | .disabled => 0
  | .training => 1
  | .up => 2
  | .retrain => 3
  | .down => 4

/-- A port's status register (11 R327). -/
def portStatus (x : Port) : Nat :=
  lstateCode x.lstate + x.delayNs.toNat * 2 ^ 4 + x.stallDrop.toNat * 2 ^ 16 + x.crcErr.toNat * 2 ^ 32 + x.fecUncorr.toNat * 2 ^ 48 +
    x.marksMissed.toNat * 2 ^ 64 + x.retrains.toNat * 2 ^ 80 + x.peerPort.toNat * 2 ^ 102 + x.peerStation.toNat * 2 ^ 108

/-- The part drop counters (11 R327). -/
def dropCounters (s : State) : Nat :=
  s.fab.vl7Drop.toNat + s.fab.stale.toNat * 2 ^ 32 + s.fab.foreign.toNat * 2 ^ 64 + s.fab.hopLimit.toNat * 2 ^ 96 + s.fab.noRoute.toNat * 2 ^ 128

/-- The tally loss register (13 R401). -/
def tallyLoss (s : State) : Nat :=
  let m := s.mgmt
  (if m.mbLoss then 1 else 0) + (if m.markLoss then 2 else 0) + (if m.jrnlLoss then 4 else 0) + m.jrnlGaps.toNat * 2 ^ 16 + m.markGaps.toNat * 2 ^ 32 +
    m.mbGaps.toNat * 2 ^ 48

/-- 64-bit word `i` of a register. -/
def wordAt (x i : Nat) : Nat := bits x (64 * i + 63) (64 * i)

/-- The word at a register address; none outside the table Management registers. A ring entry that holds no record yet reads as a free value. -/
def mgmtWord (s : State) (a : Nat) : Option Nat :=
  if a % 8 != 0 then none
  else if a = 0x00 then some (wallNow s)
  else if a = 0x08 then some Config.macAddr.toNat
  else if a = 0x10 then some s.mgmt.healthDrop.toNat
  else if a = 0x18 then some (stStatus s)
  else if 0x100 ≤ a && a < 0x140 then some ((cfgWords s.mgmt.cfg).getD ((a - 0x100) / 8) 0)
  else if 0x1000 ≤ a && a < 0x1400 then some (wordAt (portStatus (portOf s ((a - 0x1000) / 16))) (a % 16 / 8))
  else if 0x2000 ≤ a && a < 0x2018 then some (wordAt (dropCounters s) ((a - 0x2000) / 8))
  else if a = 0x2100 then some (tallyLoss s)
  else if 0x10000 ≤ a && a < 0x20000 then
    let n := (a - 0x10000) / 64
    some ((s.mgmt.ring.reverse.find? fun p => p.1 % 1024 == n).elim (drawn s) fun p => wordAt (healthWord p.2) (a % 64 / 8))
  else none

/-- MGMT_READ (15 R435). Each word has a free value of its own (log entry 2). -/
def execMgmtRead (via : Transport) (addr count : Nat) (s : State) : Host.Outcome State Fault Refusal :=
  let ws := (List.range count).map fun i => mgmtWord { s with free := s.free + i } (addr + 8 * i)
  if count = 0 || 32 < count || ws.any Option.isNone then pldmReply s via s pldmInvalidData []
  else pldmReply s via { s with free := s.free + count } pldmOk (ws.filterMap id)

/-- A word may be written at an address. -/
def mgmtWritable (a v : Nat) : Bool := a == 0 || a == 0x2100 || (a % 8 == 0 && 0x100 ≤ a && a < 0x140 && cfgOk ((a - 0x100) / 8) v)

/-- Write one management register: the wall clock, the NV configuration, or the loss flags, which a written 1 clears. -/
def mgmtPut (s : State) (a v : Nat) : State :=
  let m := s.mgmt
  if a = 0 then { s with mgmt := { m with wallBase := some ((v : Int) - (s.clk.now : Int)) } }
  else if a = 0x2100 then
    { s with mgmt := { m with mbLoss := m.mbLoss && !bit v 0, markLoss := m.markLoss && !bit v 1, jrnlLoss := m.jrnlLoss && !bit v 2 } }
  else
    let c := setCfg m.cfg ((a - 0x100) / 8) v
    let ready := nvReady s
    let t := if ready then nvWrite s (.cfg m.cfgNv) else s
    { t with mgmt := { m with cfg := c, cfgNv := if ready then c else m.cfgNv, cfgUnsaved := if ready then none else some c
                              uartOn := if a = 0x138 then v == 1 else m.uartOn } }

/-- MGMT_WRITE (15 R435, R436): all of its words, or none. -/
def execMgmtWrite (via : Transport) (session : Option Nat) (addr : Nat) (words : List Word64) (s : State) : Host.Outcome State Fault Refusal :=
  let ws := (List.range words.length).map fun i => (addr + 8 * i, (words.getD i 0).toNat)
  if !secured s via session then pldmReply s via s pldmNotReady []
  else if words.isEmpty || 32 < words.length || !(ws.all fun w => mgmtWritable w.1 w.2) then pldmReply s via s pldmInvalidData []
  else pldmReply s via (ws.foldl (fun s w => mgmtPut s w.1 w.2) s) pldmOk []

/-! ### SPDM (15 R437, R438) -/

def spdmOf (s : State) (via : Transport) : Spdm :=
  match via with
  | .i3c => s.mgmt.spdmI3c
  | .sgmii => s.mgmt.spdmSgmii
def putSpdm (s : State) (via : Transport) (x : Spdm) : State :=
  match via with
  | .i3c => { s with mgmt := { s.mgmt with spdmI3c := x } }
  | .sgmii => { s with mgmt := { s.mgmt with spdmSgmii := x } }

/-- An answer of the responder. -/
def spdmReply (s : State) (via : Transport) (t : State) (name : String) (data : List Byte) : Host.Outcome State Fault Refusal :=
  onlyIf s.pwr.hubOn s { t with out := { t.out with spdm := some (via, name, data) } }
/-- `ERROR` with a code of DSP0274 (PRESUMED, log entry 13): 0x01 invalid request, 0x04 unexpected, 0x06 decrypt error, 0x07 unsupported, 0x0A session
limit. -/
def spdmError (s : State) (via : Transport) (code : Nat) : Host.Outcome State Fault Refusal := spdmReply s via s "ERROR" [BitVec.ofNat 8 code]

/-- A request that needs the negotiated algorithms, and the keys that a return zeroises. -/
def spdmReady (s : State) (via : Transport) (f : Host.Outcome State Fault Refusal) : Host.Outcome State Fault Refusal :=
  if !(spdmOf s via).algorithms then spdmError s via 0x04
  else if !s.fw.keys || s.fw.returnFuse then spdmError s via 0x07 else f

/-- GET_VERSION: version 1.3; the connection starts afresh. -/
def execGetVersion (via : Transport) (s : State) : Host.Outcome State Fault Refusal := spdmReply s via (putSpdm s via { version := true }) "VERSION" [0x13]

/-- GET_CAPABILITIES: the flags that the responder sets are a free value. -/
def execGetCapabilities (via : Transport) (s : State) : Host.Outcome State Fault Refusal :=
  if (spdmOf s via).version then
    spdmReply s via (draw (putSpdm s via { version := true, capabilities := true })) "CAPABILITIES" (leBytes 4 (drawn s))
  else spdmError s via 0x04

/-- NEGOTIATE_ALGORITHMS: the one set of R437, when the requester offers it. -/
def execNegotiateAlgorithms (via : Transport) (offersSet : Bool) (s : State) : Host.Outcome State Fault Refusal :=
  let c := spdmOf s via
  if c.capabilities then
    spdmReply s via (putSpdm s via { c with algorithms := offersSet }) "ALGORITHMS"
      (if offersSet then asciiBytes "ECDSA-P384 SHA-384 secp384r1 AES-256-GCM" else [])
  else spdmError s via 0x04

/-- The certificate chain in slot 0 and a signature with the Alias key, both of the running image (15 R438). -/
def chain (s : State) : List Byte := Config.certificateChain (running s).digest
def aliasSign (s : State) (l : List Byte) : List Byte := Config.spdmSignature (running s).digest l

/-- GET_DIGESTS: the digest of the chain in slot 0. -/
def execGetDigests (via : Transport) (s : State) : Host.Outcome State Fault Refusal :=
  spdmReady s via (spdmReply s via s "DIGESTS" (Config.sha384 (chain s)))

/-- GET_CERTIFICATE: part of the chain in slot 0. -/
def execGetCertificate (via : Transport) (slot offset len : Nat) (s : State) : Host.Outcome State Fault Refusal :=
  spdmReady s via
    (if slot != 0 || (chain s).length ≤ offset then spdmError s via 0x01
     else spdmReply s via s "CERTIFICATE" (slice (chain s) offset len))

/-- CHALLENGE: a signature with the Alias key. -/
def execChallenge (via : Transport) (slot : Nat) (nonce : List Byte) (s : State) : Host.Outcome State Fault Refusal :=
  spdmReady s via (if slot != 0 then spdmError s via 0x01 else spdmReply s via s "CHALLENGE_AUTH" (aliasSign s nonce))

/-- A measurement of the table Measurements; digests stand for the contents whose SHA-384 they are. -/
def measurement (s : State) (k : Nat) : List Byte :=
  if k = 1 then leBytes 48 Config.romDigest.toNat
  else if k = 2 then leBytes 48 (running s).digest.toNat
  else if k = 3 then leBytes 48 (s.fw.pack.elim 0 fun p => p.digest.toNat)
  else if k = 4 then Config.sha384 ((cfgWords s.mgmt.cfg).map (leBytes 8)).flatten
  else leBytes 1 (fusesNow s) ++ leBytes 2 (running s).svn

/-- GET_MEASUREMENTS: index 0 asks how many there are, 0xFF for all of them; the answer is signed. -/
def execGetMeasurements (via : Transport) (index : Nat) (nonce : List Byte) (s : State) : Host.Outcome State Fault Refusal :=
  let body := if index = 0 then [5] else if index = 0xFF then ([1, 2, 3, 4, 5].map (measurement s)).flatten else measurement s index
  spdmReady s via
    (if 5 < index && index != 0xFF then spdmError s via 0x01 else spdmReply s via s "MEASUREMENTS" (body ++ aliasSign s (body ++ nonce)))

/-- KEY_EXCHANGE: a session is in its handshake; one on each endpoint. The responder's half of its ID is a free value; the answer is
signed. -/
def execKeyExchange (via : Transport) (reqSession : Nat) (exchange : Word64) (s : State) : Host.Outcome State Fault Refusal :=
  spdmReady s via
    (if s.mgmt.sessions.any fun q => q.via == via then spdmError s via 0x0A
     else
       let id := drawn s % 65536 * 65536 + reqSession % 65536
       let q : Session := { id := id, via := via, secret := Config.spdmSecret exchange, lastHeartbeat := s.clk.now }
       spdmReply s via { draw s with mgmt := { s.mgmt with sessions := s.mgmt.sessions ++ [q] } } "KEY_EXCHANGE_RSP"
         (leBytes 4 id ++ aliasSign s (leBytes 4 id ++ leBytes 8 exchange.toNat)))

def dropSession (s : State) (via : Transport) (id : Nat) : State :=
  { s with mgmt := { s.mgmt with sessions := s.mgmt.sessions.filter fun q => !(q.via == via && q.id == id) } }

/-- FINISH: the handshake ends with the requester's HMAC, or the session does. -/
def execFinish (via : Transport) (session : Nat) (hmacOk : Bool) (s : State) : Host.Outcome State Fault Refusal :=
  match sessionOf s via session with
  | none => spdmError s via 0x04
  | some q =>
    if q.established then spdmError s via 0x04
    else if !hmacOk then spdmReply s via (dropSession s via session) "ERROR" [0x06]
    else
      let t := dropSession s via session
      spdmReply s via { t with mgmt := { t.mgmt with sessions := t.mgmt.sessions ++ [{ q with established := true, lastHeartbeat := s.clk.now }] } } "FINISH_RSP" []

/-- END_SESSION. -/
def execEndSession (via : Transport) (session : Nat) (s : State) : Host.Outcome State Fault Refusal :=
  if secured s via (some session) then spdmReply s via (dropSession s via session) "END_SESSION_ACK" [] else spdmError s via 0x04

/-- HEARTBEAT. -/
def execHeartbeat (via : Transport) (session : Nat) (s : State) : Host.Outcome State Fault Refusal :=
  let beat (q : Session) : Session := if q.via == via && q.id == session then { q with lastHeartbeat := s.clk.now } else q
  if secured s via (some session) then spdmReply s via { s with mgmt := { s.mgmt with sessions := s.mgmt.sessions.map beat } } "HEARTBEAT_ACK" []
  else spdmError s via 0x04

/-! ### The I3C address and the JTAG port (15 R433, R448) -/

/-- Bits [5:0] of the instance field of the provisional ID. -/
def i3cInstance (s : State) : Nat := s.pwr.slotId.toNat

/-- ENTDAA: the dynamic address that the bus gives. -/
def execEntdaa (address : Nat) (s : State) : Host.Outcome State Fault Refusal :=
  onlyIf (s.pwr.hubOn && address < 128) s { s with mgmt := { s.mgmt with i3cAddress := some address } }

/-- IDCODE (15 R448). -/
def idcode (s : State) : Word32 :=
  let part := match s.nibs.grade with
    | .m8f => 0x4D38
    | .m8s => 0x4D53
    | .m6f => 0x4D36
  BitVec.ofNat 32 (1 + Config.jep106.toNat * 2 + part * 2 ^ 12 + Config.siliconVersion.toNat * 2 ^ 28)

/-- JTAG_INSTRUCTION: in the return state the codes outside the public ones reach the vendor's own test modes, whose effect the spec does not give. -/
def execJtagInstruction (code : JtagInstr) (s : State) : Host.Outcome State Fault Refusal :=
  match code, s.hub.phase == 2 with
  | .other n, true => .refused (.vendorTestMode n)
  | c, _ => onlyIf s.pwr.hubOn s { s with mgmt := { s.mgmt with jtagCode := c, jtag := jtagEffect s c } }

end Sys2Proof.Machine
end

