-- ==== Sys2Proof/Machine/Vector.lean ====
section
/-! DEFINITION. VSCRIPT, the start of its runs, and the instructions of the vector engine and the reduction unit (06 R179 to R201). -/

namespace Sys2Proof.Machine

/-! ### The stitch and its runs -/

/-- Runs of a script stitch: one on each nib of a chained product's set, else its repeat count (06 R179, R193). -/
def runCount (a : Active) : Nat := if a.st.tileq then a.nibs.length else a.count

/-- The runs, spread over the nib set in ascending blocks. -/
def makeRuns (a : Active) : List Run :=
  let n := runCount a
  let per := ceilDiv n (max 1 a.nibs.length)
  (List.range n).map fun i =>
    let q := a.nibs.getD (i / max 1 per) (0, 0)
    { sid := a.sid, index := i, panel := q.1, nib := q.2, rm := if a.st.strict then a.st.rm else 0 }

def vscriptExec (s : State) (j : Job) (a : Active) : State :=
  match opnd a 3 with
  | none => s
  | some o =>
    let v := viewOf s j o
    if (List.range (elems o.desc)).any fun i => v.codeBad i 0 then finishExec s a { poisoned := true } else
    let p := startAct s a
    let b := { p.2 with stage := .running, script := scriptWords v, runsLeft := runCount a, counts := {}
                        marks := { a.marks with replayRound := a.stage == .replaying } }
    { putAct p.1 b with runs := p.1.runs ++ makeRuns b }

/-- VSCRIPT (06 R179): the stitch starts and its runs wait for their register areas. -/
def execVscript (sid : Sid) (s : State) : Host.Outcome State Fault Refusal := runAct s sid opVscript vscriptExec

/-- Runs in progress on a nib. -/
def runsOn (s : State) (p n : Nat) : Nat := (s.runs.filter fun r => (r.state == .running) && r.panel == p && r.nib == n).length

/-- VSCRIPT_RUN_START (06 R180): a nib runs at most four runs at once and needs a bobbin for each (09 R280). -/
def execVscriptRunStart (sid : Sid) (run : Nat) (s : State) : Host.Outcome State Fault Refusal :=
  match actOf s sid, runOf s sid run with
  | some a, some r =>
    let n := (r.panel, r.nib)
    let room := decide (runsOn s r.panel r.nib < 4) && bobbinRoom s (byOhmub a) n
    let t := putAct (accrue s a.job s.clk.now) { a with held := if a.held.contains n then a.held else a.held ++ [n] }
    onlyIf (a.stage == .running && r.state == .waiting && room) s (putRun t { r with state := .running })
  | _, _ => .next s

/-- VE_INSTRUCTION_LIMIT (06 R181): a run that would execute more than 2^24 instructions faults. -/
def execVeInstructionLimit (sid : Sid) (run : Nat) (s : State) : Host.Outcome State Fault Refusal :=
  match actOf s sid, runOf s sid run with
  | some a, some r =>
    onlyIf (r.state == .running && decide (2 ^ 24 ≤ r.executed)) s (afterRun s a { r with state := .faulted 3 r.pc })
  | _, _ => .next s

/-! ### Control (06 R183, R184, R192, R200) -/

/-- SETVL: the immediate, or what remains of a slot from its cursor. -/
def veSetvl (e : VeEnv) (r : Run) : Option VeRes :=
  some { run := { r with vl := if e.w.sa = 15 then e.w.immv else min e.w.immv (slotElems e e.w.sa - r.cursors.getD e.w.sa 0) } }
def execSetvl (sid : Sid) (run : Nat) (s : State) : Host.Outcome State Fault Refusal := veRow sid run 0x01 s veSetvl

def execJmp (sid : Sid) (run : Nat) (s : State) : Host.Outcome State Fault Refusal :=
  veRow sid run 0x02 s fun e r => some { run := r, jump := some e.w.immv }

def execBzvl (sid : Sid) (run : Nat) (s : State) : Host.Outcome State Fault Refusal :=
  veRow sid run 0x03 s fun e r => some { run := r, jump := if r.vl = 0 then some e.w.immv else none }

/-- BTQE: waits for a tile or the end of the stream. -/
def veBtqe (e : VeEnv) (r : Run) : Option VeRes :=
  if streamEnded e r then some { run := { r with sawEnd := true }, jump := some e.w.immv }
  else if (nibTiles e r).any fun t => !t.queue.isEmpty then some { run := r } else none
def execBtqe (sid : Sid) (run : Nat) (s : State) : Host.Outcome State Fault Refusal := veRow sid run 0x04 s veBtqe

def execCurrun (sid : Sid) (run : Nat) (s : State) : Host.Outcome State Fault Refusal :=
  veRow sid run 0x05 s fun e r => some { run := { r with cursors := r.cursors.set e.w.sa (r.index * e.w.immv) } }

def execEndRun (sid : Sid) (run : Nat) (s : State) : Host.Outcome State Fault Refusal :=
  veRow sid run 0x06 s fun _ r => some { run := r, stop := true }

def execSetrm (sid : Sid) (run : Nat) (s : State) : Host.Outcome State Fault Refusal :=
  veRow sid run 0x07 s fun e r => some { run := { r with rm := e.w.immv % 8 } }

/-! ### Memory (06 R185 to R187) -/

/-- Load elements `(element, linear index)` of a tensor; the whole list is checked for poison, the active part is written. -/
def loadEls (e : VeEnv) (r : Run) (v : View) (cover : List (Nat × Nat)) (take raise : Nat → Bool) : Run :=
  let m := modeOf e.a r
  let es := (cover.filter fun c => take c.1).map fun c =>
    let x := loadEl e m v c.2
    (c.1, x.1, if raise c.1 then x.2 else 0, loadBad v c.2 || chooseBad r e.w c.1)
  { putEls r e.w.ty e.w.dst es with
    poisoned := r.poisoned || cover.any fun c => loadBad v c.2
    nonfinite := r.nonfinite + loadNf v ((cover.filter fun c => take c.1 && raise c.1).map (·.2)) }

/-- Store active elements `(element, linear index)` of a register to the output; the whole list is checked for poison. -/
def storeEls (e : VeEnv) (r : Run) (cover : List (Nat × Nat)) : Run :=
  let m := modeOf e.a r
  let t := e.a.out.elim 0 fun o => o.desc.type
  let act := activeEls r e.w
  let es := (cover.filter fun c => act.contains c.1).map fun c => (c, storeAs m t e.w.ty (getEl r e.w.ty e.w.sa c.1), elBad r e.w.ty e.w.sa c.1 || chooseBad r e.w c.1)
  { r with writes := r.writes ++ es.map (fun x => (x.1.2, x.2.1.1, x.2.2)), flags := es.foldl (fun f x => f ||| x.2.1.2) r.flags
           poisoned := r.poisoned || cover.any fun c => outBad e c.2 }

/-- The `VL` elements from a cursor. -/
def fromCursor (r : Run) (slot : Nat) : List (Nat × Nat) := (List.range r.vl).map fun i => (i, r.cursors.getD slot 0 + i)
def advanceCursor (r : Run) (slot : Nat) : Run := { r with cursors := r.cursors.set slot (r.cursors.getD slot 0 + r.vl) }
/-- The range from a cursor leaves a tensor of `n` elements. -/
def rangeOut (r : Run) (slot n : Nat) : Bool := r.vl != 0 && decide (n < r.cursors.getD slot 0 + r.vl)

/-- VLD. -/
def veVld (e : VeEnv) (r : Run) : Option VeRes :=
  match slotView e e.w.sa with
  | none => some { run := r, fault := some 1 }
  | some v =>
    if rangeOut r e.w.sa (elems v.desc) then some { run := r, fault := some 1 } else
    let act := activeEls r e.w
    some { run := advanceCursor (loadEls e r v (fromCursor r e.w.sa) act.contains fun _ => true) e.w.sa }
def execVld (sid : Sid) (run : Nat) (s : State) : Host.Outcome State Fault Refusal := veRow sid run 0x10 s veVld

/-- VST. -/
def veVst (e : VeEnv) (r : Run) : Option VeRes :=
  if rangeOut r 3 (slotElems e 3) then some { run := r, fault := some 1 }
  else some { run := advanceCursor (storeEls e r (fromCursor r 3)) 3 }
def execVst (sid : Sid) (run : Nat) (s : State) : Host.Outcome State Fault Refusal := veRow sid run 0x11 s veVst

/-- Index of an element of an INT32 register. -/
def indexEl (r : Run) (reg i : Nat) : Int := signed 32 (getEl r 2 reg i)

/-- VGATH: an index outside the tensor reads +0 and counts as malformed. -/
def veVgath (e : VeEnv) (r : Run) : Option VeRes :=
  match slotView e e.w.sb with
  | none => some { run := r }
  | some v =>
    let m := modeOf e.a r
    let n := elems v.desc
    let one (i : Nat) : Nat × Nat × BitVec 8 × Bool × Bool × Bool :=
      let k := indexEl r e.w.sa i
      let b := elBad r 2 e.w.sa i || chooseBad r e.w i
      if k < 0 || (n : Int) ≤ k then (i, 0, 0, b, true, false) else
      let x := loadEl e m v k.toNat
      (i, x.1, x.2, b || loadBad v k.toNat, false, loadBad v k.toNat)
    let es := (activeEls r e.w).map one
    let q := putEls r e.w.ty e.w.dst (es.map fun x => (x.1, x.2.1, x.2.2.1, x.2.2.2.1))
    let read := ((activeEls r e.w).map (indexEl r e.w.sa)).filter fun k => 0 ≤ k && k < (n : Int)
    some { run := { q with
      malformed := r.malformed + (es.filter fun x => x.2.2.2.2.1).length
      poisoned := r.poisoned || es.any fun x => x.2.2.2.2.2
      nonfinite := r.nonfinite + loadNf v (read.map (·.toNat)) } }
def execVgath (sid : Sid) (run : Nat) (s : State) : Host.Outcome State Fault Refusal := veRow sid run 0x12 s veVgath

/-- VSCAT: an index outside the output writes nothing and counts as malformed. -/
def veVscat (e : VeEnv) (r : Run) : Option VeRes :=
  let n := slotElems e 3
  let act := activeEls r e.w
  let ok (i : Nat) : Bool := 0 ≤ indexEl r e.w.sb i && indexEl r e.w.sb i < (n : Int)
  let q := storeEls e r ((act.filter ok).map fun i => (i, (indexEl r e.w.sb i).toNat))
  let idxBad (i : Nat) : Bool := elBad r 2 e.w.sb i
  let new := (q.writes.drop r.writes.length).zip (act.filter ok)
  some { run := { q with writes := r.writes ++ new.map (fun x => (x.1.1, x.1.2.1, x.1.2.2 || idxBad x.2)), malformed := r.malformed + (act.filter fun i => !ok i).length } }
def execVscat (sid : Sid) (run : Nat) (s : State) : Host.Outcome State Fault Refusal := veRow sid run 0x13 s veVscat

/-- TQPOP: waits for a tile; after the end of the stream it faults. In fast mode a subnormal word becomes zero (06 R198). -/
def veTqpop (e : VeEnv) (r : Run) : Option VeRes :=
  if streamEnded e r then some { run := r, fault := some 2 } else
  match (nibTiles e r).bind fun t => t.queue.head? with
  | none => none
  | some t =>
    let es := if r.vl = 0 then [] else (List.range 512).map fun i => (i, moveEl (modeOf e.a r) 0 (t.data.getD i 0).toNat, (0 : BitVec 8), t.bad.contains i)
    some { run := { putEls r 0 e.w.dst es with tile := some t }, popped := true }
def execTqpop (sid : Sid) (run : Nat) (s : State) : Host.Outcome State Fault Refusal := veRow sid run 0x14 s veTqpop

/-- VLDT: the tile of a slot at the kept tag; positions beyond the product read +0, with `VL` = 0 nothing is written, though the range is
checked as for any `VL` (DESIGN CHOICE: log entry 15). It faults once the run has seen its tile stream at the end (DEDUCED, log entry 15). -/
def veVldt (e : VeEnv) (r : Run) : Option VeRes :=
  if r.sawEnd then some { run := r, fault := some 2 } else
  match r.tile, slotView e e.w.sa with
  | some t, some v =>
    match tileRange v.desc t with
    | none => some { run := r, fault := some 1 }
    | some cover =>
      let act := activeEls r e.w
      let z := if r.vl = 0 then r else putEls r e.w.ty e.w.dst ((List.range 512).map fun i => (i, 0, (0 : BitVec 8), false))
      some { run := loadEls e z v cover (fun _ => r.vl != 0) act.contains }
  | _, _ => some { run := r, fault := some 2 }
def execVldt (sid : Sid) (run : Nat) (s : State) : Host.Outcome State Fault Refusal := veRow sid run 0x15 s veVldt

/-- VSTT: the tile of a register to the output at the kept tag; with `VL` = 0 it stores nothing and checks its range (log entry 15). -/
def veVstt (e : VeEnv) (r : Run) : Option VeRes :=
  match r.tile, e.a.out with
  | some t, some o =>
    match tileRange o.desc t with
    | none => some { run := r, fault := some 1 }
    | some cover => some { run := storeEls e r cover }
  | _, _ => some { run := r, fault := some 2 }
def execVstt (sid : Sid) (run : Nat) (s : State) : Host.Outcome State Fault Refusal := veRow sid run 0x16 s veVstt

/-! ### Elementwise operations (06 R182, R184, R190, R198, R199) -/

/-- Operands of element `i`: a, b where the row has one, and c where it has one. -/
structure ElArgs where
  a : Nat
  b : Nat
  c : Nat
  idx : Nat

/-- Apply a function to every active element: its result code and flags; the result depends on poison when an operand or the choice does. -/
def veMap (useB useC : Bool) (dty : VeWord → Nat) (draws : VeWord → Bool) (f : VeEnv → Mode → ElArgs → Nat × BitVec 8) (e : VeEnv) (r : Run) : Option VeRes :=
  let m := modeOf e.a r
  let w := e.w
  let es := (activeEls r w).map fun i =>
    let x := f e m { a := getEl r w.ty w.sa i, b := srcB r w i, c := getEl r w.ty w.sc i, idx := i }
    (i, x.1, x.2, chooseBad r w i || elBad r w.ty w.sa i || (useB && srcBBad r w i) || (useC && elBad r w.ty w.sc i))
  some { run := putEls r (dty w) w.dst es, draws := draws w }

/-- An operation on codes with its operands' number: `TY` INT32 by one function, FP by another with the standard's flags. -/
def fpResult (m : Mode) (ty : Nat) (sig : Bool) (x : Num × BitVec 8) : Nat × BitVec 8 :=
  let r := outMode m (tyFmt ty) x.1
  (encodeFloat (tyFmt ty) r.1, r.2 ||| x.2 ||| flagIf sig fNV)

/-- An INT32 result: a value outside the format that the spec does not state is free (log entry 2). -/
def intResult (e : VeEnv) (i : Nat) (x : Int) : Nat × BitVec 8 :=
  if -2147483648 ≤ x && x ≤ 2147483647 then (unsigned 32 x, 0) else (freshEl e i % 2 ^ 32, 0)

/-- A two-operand operation. -/
def veBin (fi : VeEnv → ElArgs → Nat × BitVec 8) (ff : Mode → Num → Num → Num × BitVec 8) (e : VeEnv) (m : Mode) (x : ElArgs) : Nat × BitVec 8 :=
  let ty := e.w.ty
  if ty = 2 then fi e x else fpResult m ty (elSig ty x.a || elSig ty x.b) (ff m (elNum m ty x.a) (elNum m ty x.b))

/-- A one-operand operation in a floating-point type. -/
def veUn (ff : Mode → Num → Num × BitVec 8) (e : VeEnv) (m : Mode) (x : ElArgs) : Nat × BitVec 8 :=
  fpResult m e.w.ty (elSig e.w.ty x.a) (ff m (elNum m e.w.ty x.a))

def sInt (c : Nat) : Int := signed 32 c
def intTy (w : VeWord) : Bool := w.ty == 2
def sameTy (w : VeWord) : Nat := w.ty
def never (_ : VeWord) : Bool := false
/-- Rounding attribute in force, nearest in fast mode. -/
def rmOf (m : Mode) : Nat := if m.strict then m.rm else 0

/-- VMOVI. -/
def execVmovi (sid : Sid) (run : Nat) (s : State) : Host.Outcome State Fault Refusal :=
  veRow sid run 0x17 s fun e r =>
    some { run := putEls r e.w.ty e.w.dst ((activeEls r e.w).map fun i => (i, moveEl (modeOf e.a r) e.w.ty (immEl e.w i), moveFl e.w.ty (immEl e.w i), chooseBad r e.w i)) }

/-- VADD. -/
def execVadd (sid : Sid) (run : Nat) (s : State) : Host.Outcome State Fault Refusal :=
  veRow sid run 0x20 s (veMap true false sameTy intTy (veBin (fun e x => intResult e x.idx (sInt x.a + sInt x.b))
    fun m a b => (addRm (rmOf m) a b, flagIf (addInvalid a b) fNV)))

/-- VSUB. -/
def execVsub (sid : Sid) (run : Nat) (s : State) : Host.Outcome State Fault Refusal :=
  veRow sid run 0x21 s (veMap true false sameTy intTy (veBin (fun e x => intResult e x.idx (sInt x.a - sInt x.b))
    fun m a b => (addRm (rmOf m) a b.negate, flagIf (addInvalid a b.negate) fNV)))

/-- VMUL: INT32 keeps the low 32 bits. -/
def execVmul (sid : Sid) (run : Nat) (s : State) : Host.Outcome State Fault Refusal :=
  veRow sid run 0x22 s (veMap true false sameTy never (veBin (fun _ x => (unsigned 32 (sInt x.a * sInt x.b), 0))
    fun _ a b => (a.mul b, flagIf (mulInvalid a b) fNV)))

/-- a × b + c, rounded once, with the product negated for `VFNMA`; the invalid flag of ∞ × 0 with a NaN c is free, as the standard leaves
it (log entry 2). -/
def fmaEl (neg : Bool) (e : VeEnv) (m : Mode) (x : ElArgs) : Nat × BitVec 8 :=
  let ty := e.w.ty
  let a := elNum m ty x.a
  let b := elNum m ty x.b
  let c := elNum m ty x.c
  let p := if neg then (a.mul b).negate else a.mul b
  let nv := if mulInvalid a b then (!c.isNan || freshEl e x.idx % 2 == 1) else addInvalid p c
  fpResult m ty (elSig ty x.a || elSig ty x.b || elSig ty x.c) (addRm (rmOf m) p c, flagIf nv fNV)

def execVfma (sid : Sid) (run : Nat) (s : State) : Host.Outcome State Fault Refusal :=
  veRow sid run 0x23 s (veMap true true sameTy (fun _ => true) (fmaEl false))
def execVfnma (sid : Sid) (run : Nat) (s : State) : Host.Outcome State Fault Refusal :=
  veRow sid run 0x24 s (veMap true true sameTy (fun _ => true) (fmaEl true))

/-- VDIV. -/
def execVdiv (sid : Sid) (run : Nat) (s : State) : Host.Outcome State Fault Refusal :=
  veRow sid run 0x25 s (veMap true false sameTy never (veBin (fun _ _ => (0, 0)) fun _ a b => divNum a b))

/-- VSQRT. -/
def execVsqrt (sid : Sid) (run : Nat) (s : State) : Host.Outcome State Fault Refusal :=
  veRow sid run 0x26 s (veMap false false sameTy never (veUn fun _ a => sqrtNum a))

/-- VMIN. -/
def execVmin (sid : Sid) (run : Nat) (s : State) : Host.Outcome State Fault Refusal :=
  veRow sid run 0x27 s (veMap true false sameTy never (veBin (fun _ x => (unsigned 32 (min (sInt x.a) (sInt x.b)), 0)) fun _ a b => (minNum a b, 0)))

/-- VMAX. -/
def execVmax (sid : Sid) (run : Nat) (s : State) : Host.Outcome State Fault Refusal :=
  veRow sid run 0x28 s (veMap true false sameTy never (veBin (fun _ x => (unsigned 32 (max (sInt x.a) (sInt x.b)), 0)) fun _ a b => (maxNum a b, 0)))

/-- Sign bit of a floating-point `TY`. -/
def signBit (ty : Nat) : Nat := if ty = 1 then 2 ^ 15 else 2 ^ 31

/-- VABS: by the sign bit; of the most negative INT32 the spec states no value (log entry 2). -/
def execVabs (sid : Sid) (run : Nat) (s : State) : Host.Outcome State Fault Refusal :=
  veRow sid run 0x29 s (veMap false false sameTy intTy fun e m x =>
    if e.w.ty = 2 then intResult e x.idx (sInt x.a).natAbs else (moveEl m e.w.ty (x.a % signBit e.w.ty), moveFl e.w.ty x.a))

/-- VNEG. -/
def execVneg (sid : Sid) (run : Nat) (s : State) : Host.Outcome State Fault Refusal :=
  veRow sid run 0x2A s (veMap false false sameTy intTy fun e m x =>
    if e.w.ty = 2 then intResult e x.idx (-sInt x.a) else (moveEl m e.w.ty (x.a ^^^ signBit e.w.ty), moveFl e.w.ty x.a))

/-- `TY` of a type code in `SC`. -/
def tyOfCode (c : Nat) : Nat := if c = 7 then 1 else if c = 9 then 2 else 0

/-- VCVT. -/
def execVcvt (sid : Sid) (run : Nat) (s : State) : Host.Outcome State Fault Refusal :=
  veRow sid run 0x2B s (veMap false false (fun w => tyOfCode w.sc) never fun e m x =>
    let r := convTo m (tyOfCode e.w.sc) (elNum m e.w.ty x.a)
    (r.1, r.2 ||| flagIf (elSig e.w.ty x.a) fNV))

/-- VRNDI: roundToIntegralExact; in fast mode it raises no flag. -/
def execVrndi (sid : Sid) (run : Nat) (s : State) : Host.Outcome State Fault Refusal :=
  veRow sid run 0x2C s (veMap false false sameTy never fun e m x =>
    let a := elNum m e.w.ty x.a
    let v := toIntegral (rmOf m) a
    let c := encodeFloat (tyFmt e.w.ty) (outMode m (tyFmt e.w.ty) v).1
    (c, if m.strict then flagIf (elSig e.w.ty x.a) fNV ||| flagIf (a.isFinite && a.ratD != v.ratD) fNX else 0))

/-- Bitwise operations. -/
def veBits (f : Nat → Nat → Nat) : VeEnv → Run → Option VeRes := veMap true false sameTy never fun _ _ x => (f x.a x.b % 2 ^ 32, 0)

def execVand (sid : Sid) (run : Nat) (s : State) : Host.Outcome State Fault Refusal := veRow sid run 0x30 s (veBits fun a b => a &&& b)
def execVor (sid : Sid) (run : Nat) (s : State) : Host.Outcome State Fault Refusal := veRow sid run 0x31 s (veBits fun a b => a ||| b)
def execVxor (sid : Sid) (run : Nat) (s : State) : Host.Outcome State Fault Refusal := veRow sid run 0x32 s (veBits fun a b => a ^^^ b)
/-- VSHL: by b mod 32. -/
def execVshl (sid : Sid) (run : Nat) (s : State) : Host.Outcome State Fault Refusal := veRow sid run 0x33 s (veBits fun a b => a * 2 ^ (b % 32))
/-- VSHR: arithmetic, by b mod 32. -/
def execVshr (sid : Sid) (run : Nat) (s : State) : Host.Outcome State Fault Refusal :=
  veRow sid run 0x34 s (veBits fun a b => unsigned 32 (sInt a / ((2 ^ (b % 32) : Nat) : Int)))

/-- Approximate functions. -/
def veApprox (op : Nat) : VeEnv → Run → Option VeRes :=
  veMap false false sameTy never fun e m x => fpResult m e.w.ty (elSig e.w.ty x.a) (approx op e.w.ty x.a (elNum m e.w.ty x.a))

def execVexp2 (sid : Sid) (run : Nat) (s : State) : Host.Outcome State Fault Refusal := veRow sid run 0x38 s (veApprox 0x38)
def execVlog2 (sid : Sid) (run : Nat) (s : State) : Host.Outcome State Fault Refusal := veRow sid run 0x39 s (veApprox 0x39)
def execVrcp (sid : Sid) (run : Nat) (s : State) : Host.Outcome State Fault Refusal := veRow sid run 0x3A s (veApprox 0x3A)
def execVrsq (sid : Sid) (run : Nat) (s : State) : Host.Outcome State Fault Refusal := veRow sid run 0x3B s (veApprox 0x3B)
def execVtanh (sid : Sid) (run : Nat) (s : State) : Host.Outcome State Fault Refusal := veRow sid run 0x3C s (veApprox 0x3C)

/-! ### Masks (06 R184, R188) -/

/-- Write computed mask bits: element, bit, whether it depends on poison. -/
def putMasks (r : Run) (m : Nat) (l : List (Nat × Bool × Bool)) : Run := l.foldl (fun r x => putMask r m x.1 x.2.1 x.2.2) r

/-- A predicate of `VCMP`; NE and unordered hold of a NaN. -/
def predicate (p : Nat) (a b : Num) : Bool :=
  let un := a.isNan || b.isNan
  if p = 4 then un
  else if un then p == 1
  else if p = 0 then a.eqv b else if p = 1 then !a.eqv b else if p = 2 then a.lt b else !b.lt a

/-- VCMP: LT and LE of a NaN are invalid. -/
def veVcmp (e : VeEnv) (r : Run) : Option VeRes :=
  let m := modeOf e.a r
  let w := e.w
  let es := (activeEls r w).map fun i =>
    let ca := getEl r w.ty w.sa i
    let cb := srcB r w i
    let a := elNum m w.ty ca
    let b := elNum m w.ty cb
    let nv := elSig w.ty ca || elSig w.ty cb || ((w.sc == 2 || w.sc == 3) && (a.isNan || b.isNan))
    ((i, predicate w.sc a b, chooseBad r w i || elBad r w.ty w.sa i || srcBBad r w i), flagIf nv fNV)
  some { run := { putMasks r w.dst (es.map (·.1)) with flags := es.foldl (fun f x => f ||| x.2) r.flags } }
def execVcmp (sid : Sid) (run : Nat) (s : State) : Host.Outcome State Fault Refusal := veRow sid run 0x40 s veVcmp

/-- Mask operations over the active elements. -/
def veMask (two : Bool) (f : Bool → Bool → Bool) (e : VeEnv) (r : Run) : Option VeRes :=
  let w := e.w
  let bad (m i : Nat) : Bool := r.badMask.contains (m * 4096 + i)
  some { run := putMasks r w.dst ((activeEls r w).map fun i =>
    (i, f (maskAt r w.sa i) (maskAt r w.sb i), chooseBad r w i || bad w.sa i || (two && bad w.sb i))) }

def execMand (sid : Sid) (run : Nat) (s : State) : Host.Outcome State Fault Refusal := veRow sid run 0x41 s (veMask true fun a b => a && b)
def execMor (sid : Sid) (run : Nat) (s : State) : Host.Outcome State Fault Refusal := veRow sid run 0x42 s (veMask true fun a b => a || b)
def execMnot (sid : Sid) (run : Nat) (s : State) : Host.Outcome State Fault Refusal := veRow sid run 0x43 s (veMask false fun a _ => !a)

/-- VSEL: every element below `VL` is written; the active ones raise the flag of either operand (06 R188; DEDUCED, log entry 15). -/
def veVsel (e : VeEnv) (r : Run) : Option VeRes :=
  let m := modeOf e.a r
  let w := e.w
  let act := activeEls r w
  some { run := putEls r w.ty w.dst ((List.range r.vl).map fun i =>
    let c := chosen r w i
    let a := getEl r w.ty w.sa i
    let b := srcB r w i
    (i, moveEl m w.ty (if c then a else b), if act.contains i then moveFl w.ty a ||| moveFl w.ty b else 0,
      r.badMask.contains (w.msel * 4096 + i) || if c then elBad r w.ty w.sa i else srcBBad r w i)) }
def execVsel (sid : Sid) (run : Nat) (s : State) : Host.Outcome State Fault Refusal := veRow sid run 0x44 s veVsel

/-! ### The reduction unit (06 R195) -/

/-- A fold: its identity, its combination with the invalid flag, and what it takes of an element. -/
structure Fold where
  ident : Word64
  comb : Word64 → Word64 → Word64 × Bool
  pre : Num → Num

def foldAdd (a b : Word64) : Word64 × Bool := (fp64Add a b, addInvalid (ofFp64 a) (ofFp64 b))
def foldMax (a b : Word64) : Word64 × Bool :=
  (toFp64 (if (ofFp64 a).isNan || (ofFp64 b).isNan then .nan else maxNum (ofFp64 a) (ofFp64 b)), false)
def foldMin (a b : Word64) : Word64 × Bool :=
  (toFp64 (if (ofFp64 a).isNan || (ofFp64 b).isNan then .nan else minNum (ofFp64 a) (ofFp64 b)), false)
def Num.mag : Num → Num
  | .fin _ m => .fin false m
  | .inf _ => .inf false
  | .nan => .nan

def foldSum : Fold := { ident := 0, comb := foldAdd, pre := id }
def foldSsq : Fold := { ident := 0, comb := foldAdd, pre := fun x => x.mul x }
def foldMaxOf : Fold := { ident := 0xFFF0000000000000, comb := foldMax, pre := id }
def foldMinOf : Fold := { ident := 0x7FF0000000000000, comb := foldMin, pre := id }
def foldAmax : Fold := { ident := 0, comb := foldMax, pre := Num.mag }

/-- One level of the tree: neighbours are combined, an odd last one stays. -/
def pairUp (c : Word64 → Word64 → Word64 × Bool) : List (Word64 × Bool) → List (Word64 × Bool)
  | a :: b :: r => let x := c a.1 b.1; (x.1, x.2 || a.2 || b.2) :: pairUp c r
  | l => l
/-- The binary tree in element order. -/
def treeFold (c : Word64 → Word64 → Word64 × Bool) : Nat → List (Word64 × Bool) → List (Word64 × Bool)
  | 0, l => l
  | n + 1, l => treeFold c n (pairUp c l)

/-- An RU fold. -/
def veFold (f : Fold) (e : VeEnv) (r : Run) : Option VeRes :=
  let w := e.w
  let act := activeEls r w
  let seg := 2 ^ w.sc
  let one (i : Nat) : Word64 × Bool :=
    if act.contains i then (toFp64 (f.pre (decodeFloat (tyFmt w.ty) (getEl r w.ty w.sa i))), elSig w.ty (getEl r w.ty w.sa i)) else (f.ident, false)
  let bad (i : Nat) : Bool := chooseBad r w i || (act.contains i && elBad r w.ty w.sa i)
  some { run := (List.range (ceilDiv r.vl seg)).foldl (fun q k =>
    let is := (List.range seg).filterMap fun i => if k * seg + i < r.vl then some (k * seg + i) else none
    let x := ((treeFold f.comb 13 (is.map one)).head?).getD (f.ident, false)
    let acc := f.comb (accAt q (w.immv % 256 + k)) x.1
    { putAcc q (w.immv % 256 + k) acc.1 (q.badAcc.contains ((w.immv % 256 + k) % 256) || is.any bad) with flags := q.flags ||| flagIf (acc.2 || x.2) fNV }) r }

def execRsum (sid : Sid) (run : Nat) (s : State) : Host.Outcome State Fault Refusal := veRow sid run 0x50 s (veFold foldSum)
def execRssq (sid : Sid) (run : Nat) (s : State) : Host.Outcome State Fault Refusal := veRow sid run 0x51 s (veFold foldSsq)
def execRmax (sid : Sid) (run : Nat) (s : State) : Host.Outcome State Fault Refusal := veRow sid run 0x52 s (veFold foldMaxOf)
def execRmin (sid : Sid) (run : Nat) (s : State) : Host.Outcome State Fault Refusal := veRow sid run 0x53 s (veFold foldMinOf)
def execRamax (sid : Sid) (run : Nat) (s : State) : Host.Outcome State Fault Refusal := veRow sid run 0x54 s (veFold foldAmax)

/-- Accumulators rounded into a register: the elements and the accumulator of each. Only active elements raise flags (06 R188). -/
def getAcc (e : VeEnv) (r : Run) (is : List Nat) (k : Nat → Nat) (chooses : Bool) : Option VeRes :=
  let m := modeOf e.a r
  let act := activeEls r e.w
  some { run := putEls r e.w.ty e.w.dst (is.map fun i =>
    let x := convTo m e.w.ty (ofFp64 (accAt r (k i)))
    (i, x.1, if act.contains i then x.2 else 0, r.badAcc.contains (k i % 256) || (chooses && chooseBad r e.w i))) }

/-- RGET: every element below `VL`. -/
def execRget (sid : Sid) (run : Nat) (s : State) : Host.Outcome State Fault Refusal :=
  veRow sid run 0x55 s fun e r => getAcc e r (List.range r.vl) (fun i => e.w.immv + i) false

/-- RBCAST. -/
def execRbcast (sid : Sid) (run : Nat) (s : State) : Host.Outcome State Fault Refusal :=
  veRow sid run 0x56 s fun e r => getAcc e r (activeEls r e.w) (fun _ => e.w.immv % 256) true

/-- RSET: each active element exactly. -/
def execRset (sid : Sid) (run : Nat) (s : State) : Host.Outcome State Fault Refusal :=
  veRow sid run 0x57 s fun e r =>
    let act := activeEls r e.w
    let q := act.foldl (fun q i => putAcc q (e.w.immv + i) (toFp64 (decodeFloat (tyFmt e.w.ty) (getEl r e.w.ty e.w.sa i))) (chooseBad r e.w i || elBad r e.w.ty e.w.sa i)) r
    some { run := { q with flags := q.flags ||| flagIf (act.any fun i => elSig e.w.ty (getEl r e.w.ty e.w.sa i)) fNV } }

end Sys2Proof.Machine
end

