-- ==== Sys2Proof/Machine/Dispatch.lean ====
section
/-! DEFINITION. One arm for each command: a direct call of its meaning, or a rejection by name. -/

namespace Sys2Proof.Machine

def exec (i : Instr) (s : State) : Host.Outcome State Fault Refusal :=
  match i with
  | .stitchAdmit queue => Sys2Proof.Machine.execStitchAdmit queue s
  | .nop sid => Sys2Proof.Machine.execNop sid s
  | .commit sid => Sys2Proof.Machine.execCommit sid s
  | .matmul sid => Sys2Proof.Machine.execMatmul sid s
  | .gatherMm sid => Sys2Proof.Machine.execGatherMm sid s
  | .route sid => Sys2Proof.Machine.execRoute sid s
  | .convert sid => Sys2Proof.Machine.execConvert sid s
  | .deriv sid => Sys2Proof.Machine.execDeriv sid s
  | .update sid => Sys2Proof.Machine.execUpdate sid s
  | .vscript sid => Sys2Proof.Machine.execVscript sid s
  | .vscriptRunStart sid run => Sys2Proof.Machine.execVscriptRunStart sid run s
  | .copy sid => Sys2Proof.Machine.execCopy sid s
  | .fetch sid => Sys2Proof.Machine.execFetch sid s
  | .gather sid => Sys2Proof.Machine.execGather sid s
  | .scatter sid => Sys2Proof.Machine.execScatter sid s
  | .stashFree sid => Sys2Proof.Machine.execStashFree sid s
  | .reduce sid => Sys2Proof.Machine.execReduce sid s
  | .multicast sid => Sys2Proof.Machine.execMulticast sid s
  | .send sid => Sys2Proof.Machine.execSend sid s
  | .check sid => Sys2Proof.Machine.execCheck sid s
  | .groundInject sid => Sys2Proof.Machine.execGroundInject sid s
  | .stitchComplete sid elapsed => Sys2Proof.Machine.execStitchComplete sid elapsed s
  | .watchResponse sid => Sys2Proof.Machine.execWatchResponse sid s
  | .stitchGroupReplay sid => Sys2Proof.Machine.execStitchGroupReplay sid s
  | .stitchGroupReplayDone sid => Sys2Proof.Machine.execStitchGroupReplayDone sid s
  | .stepReplay job => Sys2Proof.Machine.execStepReplay job s
  | .commitVoteSend job => Sys2Proof.Machine.execCommitVoteSend job s
  | .commitVoteResult job vote => Sys2Proof.Machine.execCommitVoteResult job vote s
  | .mirrorDrainComplete job handle => Sys2Proof.Machine.execMirrorDrainComplete job handle s
  | .stashMoveComplete job handle => Sys2Proof.Machine.execStashMoveComplete job handle s
  | .stashRecallComplete job handle => Sys2Proof.Machine.execStashRecallComplete job handle s
  | .stashRecompute sid => Sys2Proof.Machine.execStashRecompute sid s
  | .tileQueuePush sid position => Sys2Proof.Machine.execTileQueuePush sid position s
  | .setvl sid run => Sys2Proof.Machine.execSetvl sid run s
  | .jmp sid run => Sys2Proof.Machine.execJmp sid run s
  | .bzvl sid run => Sys2Proof.Machine.execBzvl sid run s
  | .btqe sid run => Sys2Proof.Machine.execBtqe sid run s
  | .currun sid run => Sys2Proof.Machine.execCurrun sid run s
  | .endRun sid run => Sys2Proof.Machine.execEndRun sid run s
  | .setrm sid run => Sys2Proof.Machine.execSetrm sid run s
  | .vld sid run => Sys2Proof.Machine.execVld sid run s
  | .vst sid run => Sys2Proof.Machine.execVst sid run s
  | .vgath sid run => Sys2Proof.Machine.execVgath sid run s
  | .vscat sid run => Sys2Proof.Machine.execVscat sid run s
  | .tqpop sid run => Sys2Proof.Machine.execTqpop sid run s
  | .vldt sid run => Sys2Proof.Machine.execVldt sid run s
  | .vstt sid run => Sys2Proof.Machine.execVstt sid run s
  | .vmovi sid run => Sys2Proof.Machine.execVmovi sid run s
  | .vadd sid run => Sys2Proof.Machine.execVadd sid run s
  | .vsub sid run => Sys2Proof.Machine.execVsub sid run s
  | .vmul sid run => Sys2Proof.Machine.execVmul sid run s
  | .vfma sid run => Sys2Proof.Machine.execVfma sid run s
  | .vfnma sid run => Sys2Proof.Machine.execVfnma sid run s
  | .vdiv sid run => Sys2Proof.Machine.execVdiv sid run s
  | .vsqrt sid run => Sys2Proof.Machine.execVsqrt sid run s
  | .vmin sid run => Sys2Proof.Machine.execVmin sid run s
  | .vmax sid run => Sys2Proof.Machine.execVmax sid run s
  | .vabs sid run => Sys2Proof.Machine.execVabs sid run s
  | .vneg sid run => Sys2Proof.Machine.execVneg sid run s
  | .vcvt sid run => Sys2Proof.Machine.execVcvt sid run s
  | .vrndi sid run => Sys2Proof.Machine.execVrndi sid run s
  | .vand sid run => Sys2Proof.Machine.execVand sid run s
  | .vor sid run => Sys2Proof.Machine.execVor sid run s
  | .vxor sid run => Sys2Proof.Machine.execVxor sid run s
  | .vshl sid run => Sys2Proof.Machine.execVshl sid run s
  | .vshr sid run => Sys2Proof.Machine.execVshr sid run s
  | .vexp2 sid run => Sys2Proof.Machine.execVexp2 sid run s
  | .vlog2 sid run => Sys2Proof.Machine.execVlog2 sid run s
  | .vrcp sid run => Sys2Proof.Machine.execVrcp sid run s
  | .vrsq sid run => Sys2Proof.Machine.execVrsq sid run s
  | .vtanh sid run => Sys2Proof.Machine.execVtanh sid run s
  | .vcmp sid run => Sys2Proof.Machine.execVcmp sid run s
  | .mand sid run => Sys2Proof.Machine.execMand sid run s
  | .mor sid run => Sys2Proof.Machine.execMor sid run s
  | .mnot sid run => Sys2Proof.Machine.execMnot sid run s
  | .vsel sid run => Sys2Proof.Machine.execVsel sid run s
  | .rsum sid run => Sys2Proof.Machine.execRsum sid run s
  | .rssq sid run => Sys2Proof.Machine.execRssq sid run s
  | .rmax sid run => Sys2Proof.Machine.execRmax sid run s
  | .rmin sid run => Sys2Proof.Machine.execRmin sid run s
  | .ramax sid run => Sys2Proof.Machine.execRamax sid run s
  | .rget sid run => Sys2Proof.Machine.execRget sid run s
  | .rbcast sid run => Sys2Proof.Machine.execRbcast sid run s
  | .rset sid run => Sys2Proof.Machine.execRset sid run s
  | .veInstructionLimit sid run => Sys2Proof.Machine.execVeInstructionLimit sid run s
  | .strokeEdge => Sys2Proof.Machine.execStrokeEdge s
  | .strokeMarkReceive port mark crc arrival => Sys2Proof.Machine.execStrokeMarkReceive port mark crc arrival s
  | .strokeMarkMissed port => Sys2Proof.Machine.execStrokeMarkMissed port s
  | .holdoverTimeout => Sys2Proof.Machine.execHoldoverTimeout s
  | .strokeRefEdge time => Sys2Proof.Machine.execStrokeRefEdge time s
  | .strokeRefMissing => Sys2Proof.Machine.execStrokeRefMissing s
  | .flitSend port => Sys2Proof.Machine.execFlitSend port s
  | .flitReceive port flit fecOk => Sys2Proof.Machine.execFlitReceive port flit fecOk s
  | .nak port fseq => Sys2Proof.Machine.execNak port fseq s
  | .flitStallTimeout port lane => Sys2Proof.Machine.execFlitStallTimeout port lane s
  | .portTrainStart port => Sys2Proof.Machine.execPortTrainStart port s
  | .portTrainComplete port peerStation peerPort delayNs => Sys2Proof.Machine.execPortTrainComplete port peerStation peerPort delayNs s
  | .portTrainTimeout port => Sys2Proof.Machine.execPortTrainTimeout port s
  | .retrain port => Sys2Proof.Machine.execRetrain port s
  | .retrainComplete port hello ok => Sys2Proof.Machine.execRetrainComplete port hello ok s
  | .linkDownFlit port => Sys2Proof.Machine.execLinkDownFlit port s
  | .portRetryTimer port => Sys2Proof.Machine.execPortRetryTimer port s
  | .messageForward hdr data => Sys2Proof.Machine.execMessageForward hdr data s
  | .write hdr source data poisoned => Sys2Proof.Machine.execWrite hdr source data poisoned s
  | .writeEnd hdr => Sys2Proof.Machine.execWriteEnd hdr s
  | .ack hdr => Sys2Proof.Machine.execAck hdr s
  | .nack hdr => Sys2Proof.Machine.execNack hdr s
  | .unreach hdr => Sys2Proof.Machine.execUnreach hdr s
  | .redUp hdr data poisoned => Sys2Proof.Machine.execRedUp hdr data poisoned s
  | .redDown hdr body poisoned => Sys2Proof.Machine.execRedDown hdr body poisoned s
  | .haltNotice hdr => Sys2Proof.Machine.execHaltNotice hdr s
  | .stepReplayRequest hdr => Sys2Proof.Machine.execStepReplayRequest hdr s
  | .aliasMessage hdr fromStation toStation => Sys2Proof.Machine.execAliasMessage hdr fromStation toStation s
  | .control hdr msg => Sys2Proof.Machine.execControl hdr msg s
  | .mgmt hdr data => Sys2Proof.Machine.execMgmt hdr data s
  | .mirror hdr data poisoned => Sys2Proof.Machine.execMirror hdr data poisoned s
  | .journal hdr data poisoned => Sys2Proof.Machine.execJournal hdr data poisoned s
  | .transactionTimeout die tag => Sys2Proof.Machine.execTransactionTimeout die tag s
  | .heldMessageTimeout position => Sys2Proof.Machine.execHeldMessageTimeout position s
  | .journalGapTimeout => Sys2Proof.Machine.execJournalGapTimeout s
  | .wcbWrite piece sid outcome => Sys2Proof.Machine.execWcbWrite piece sid outcome s
  | .wcbHoldTimeout held => Sys2Proof.Machine.execWcbHoldTimeout held s
  | .hbmGranuleRead granule found reader => Sys2Proof.Machine.execHbmGranuleRead granule found reader s
  | .requestPromote granule since => Sys2Proof.Machine.execRequestPromote granule since s
  | .scrubRead found => Sys2Proof.Machine.execScrubRead found s
  | .zeroiseComplete batch => Sys2Proof.Machine.execZeroiseComplete batch s
  | .unmapTakeEffect job window => Sys2Proof.Machine.execUnmapTakeEffect job window s
  | .nvWriteRetry => Sys2Proof.Machine.execNvWriteRetry s
  | .shadowComplete sid crcs => Sys2Proof.Machine.execShadowComplete sid crcs s
  | .thirdExecComplete sid share crc majority => Sys2Proof.Machine.execThirdExecComplete sid share crc majority s
  | .loserRepeatComplete sid share crc => Sys2Proof.Machine.execLoserRepeatComplete sid share crc s
  | .nibRetireComplete panel nib => Sys2Proof.Machine.execNibRetireComplete panel nib s
  | .selftestSliceEnd panel nib crc => Sys2Proof.Machine.execSelftestSliceEnd panel nib crc s
  | .checkpointDue job => Sys2Proof.Machine.execCheckpointDue job s
  | .longOperationEnd kind subject done => Sys2Proof.Machine.execLongOperationEnd kind subject done s
  | .dbTail job value => Sys2Proof.Machine.execDbTail job value s
  | .qResumeRetry job value => Sys2Proof.Machine.execQResumeRetry job value s
  | .qResumeSkip job value => Sys2Proof.Machine.execQResumeSkip job value s
  | .pinAdd job value => Sys2Proof.Machine.execPinAdd job value s
  | .registerWrite bar offset data => Sys2Proof.Machine.execRegisterWrite bar offset data s
  | .bar4Read offset len => Sys2Proof.Machine.execBar4Read offset len s
  | .bar4Write offset data ep => Sys2Proof.Machine.execBar4Write offset data ep s
  | .identify page => Sys2Proof.Machine.execIdentify page s
  | .readFeatures page => Sys2Proof.Machine.execReadFeatures page s
  | .jobOpen page => Sys2Proof.Machine.execJobOpen page s
  | .jobClose page => Sys2Proof.Machine.execJobClose page s
  | .jobReset page => Sys2Proof.Machine.execJobReset page s
  | .mapWindow page => Sys2Proof.Machine.execMapWindow page s
  | .unmapWindow page => Sys2Proof.Machine.execUnmapWindow page s
  | .queueCreate page => Sys2Proof.Machine.execQueueCreate page s
  | .queueDestroy page => Sys2Proof.Machine.execQueueDestroy page s
  | .handleTableSet page => Sys2Proof.Machine.execHandleTableSet page s
  | .strokeSetPart page => Sys2Proof.Machine.execStrokeSetPart page s
  | .strokeSetJob page => Sys2Proof.Machine.execStrokeSetJob page s
  | .watchSet page => Sys2Proof.Machine.execWatchSet page s
  | .ladderSetLevels page => Sys2Proof.Machine.execLadderSetLevels page s
  | .ladderSetMap page => Sys2Proof.Machine.execLadderSetMap page s
  | .ladderSetClear page => Sys2Proof.Machine.execLadderSetClear page s
  | .stashPolicy page => Sys2Proof.Machine.execStashPolicy page s
  | .pairBind page => Sys2Proof.Machine.execPairBind page s
  | .pairUnbind page => Sys2Proof.Machine.execPairUnbind page s
  | .protectRegister page => Sys2Proof.Machine.execProtectRegister page s
  | .protectUnregister page => Sys2Proof.Machine.execProtectUnregister page s
  | .protectSettings page => Sys2Proof.Machine.execProtectSettings page s
  | .checkpointSnapshot page => Sys2Proof.Machine.execCheckpointSnapshot page s
  | .checkpointStored page => Sys2Proof.Machine.execCheckpointStored page s
  | .restoreQuery page => Sys2Proof.Machine.execRestoreQuery page s
  | .restoreLocal restore => Sys2Proof.Machine.execRestoreLocal restore s
  | .restorePartner page => Sys2Proof.Machine.execRestorePartner page s
  | .restoreImage page => Sys2Proof.Machine.execRestoreImage page s
  | .stationSet page => Sys2Proof.Machine.execStationSet page s
  | .routeLoad page => Sys2Proof.Machine.execRouteLoad page s
  | .spareAssume page => Sys2Proof.Machine.execSpareAssume page s
  | .progressQuery page => Sys2Proof.Machine.execProgressQuery page s
  | .prickingLoad page pack => Sys2Proof.Machine.execPrickingLoad page pack s
  | .powerStateEnter page => Sys2Proof.Machine.execPowerStateEnter page s
  | .drowseEntry page => Sys2Proof.Machine.execDrowseEntry page s
  | .powerStatePreserve page => Sys2Proof.Machine.execPowerStatePreserve page s
  | .powerStateRestart page => Sys2Proof.Machine.execPowerStateRestart page s
  | .fwUpdateStage page image => Sys2Proof.Machine.execFwUpdateStage page image s
  | .fwUpdateActivate page => Sys2Proof.Machine.execFwUpdateActivate page s
  | .fwUpdateDiscard page => Sys2Proof.Machine.execFwUpdateDiscard page s
  | .returnPrepare page => Sys2Proof.Machine.execReturnPrepare page s
  | .hbmRepairQuery page => Sys2Proof.Machine.execHbmRepairQuery page s
  | .hbmRepairSoft page => Sys2Proof.Machine.execHbmRepairSoft page s
  | .hbmRepairHard page => Sys2Proof.Machine.execHbmRepairHard page s
  | .hbmRepairHardLogged page => Sys2Proof.Machine.execHbmRepairHardLogged page s
  | .hubFailover => Sys2Proof.Machine.execHubFailover s
  | .healthResend => Sys2Proof.Machine.execHealthResend s
  | .healthAck hseq => Sys2Proof.Machine.execHealthAck hseq s
  | .getTid via => Sys2Proof.Machine.execGetTid via s
  | .getPldmVersion via pldmType => Sys2Proof.Machine.execGetPldmVersion via pldmType s
  | .getPldmTypes via => Sys2Proof.Machine.execGetPldmTypes via s
  | .getPldmCommands via pldmType => Sys2Proof.Machine.execGetPldmCommands via pldmType s
  | .setEventReceiver via session eid => Sys2Proof.Machine.execSetEventReceiver via session eid s
  | .getSensorReading via sensorId => Sys2Proof.Machine.execGetSensorReading via sensorId s
  | .requestUpdate via session component => Sys2Proof.Machine.execRequestUpdate via session component s
  | .activateFirmware via session => Sys2Proof.Machine.execActivateFirmware via session s
  | .pldmFwTransfer via session data image pack => Sys2Proof.Machine.execPldmFwTransfer via session data image pack s
  | .mgmtRead via addr count => Sys2Proof.Machine.execMgmtRead via addr count s
  | .mgmtWrite via session addr words => Sys2Proof.Machine.execMgmtWrite via session addr words s
  | .pldmUnsupported via pldmType code => Sys2Proof.Machine.execPldmUnsupported via pldmType code s
  | .getVersion via => Sys2Proof.Machine.execGetVersion via s
  | .getCapabilities via => Sys2Proof.Machine.execGetCapabilities via s
  | .negotiateAlgorithms via offersSet => Sys2Proof.Machine.execNegotiateAlgorithms via offersSet s
  | .getDigests via => Sys2Proof.Machine.execGetDigests via s
  | .getCertificate via slot offset len => Sys2Proof.Machine.execGetCertificate via slot offset len s
  | .challenge via slot nonce => Sys2Proof.Machine.execChallenge via slot nonce s
  | .getMeasurements via index nonce => Sys2Proof.Machine.execGetMeasurements via index nonce s
  | .keyExchange via reqSession exchange => Sys2Proof.Machine.execKeyExchange via reqSession exchange s
  | .finish via session hmacOk => Sys2Proof.Machine.execFinish via session hmacOk s
  | .endSession via session => Sys2Proof.Machine.execEndSession via session s
  | .heartbeat via session => Sys2Proof.Machine.execHeartbeat via session s
  | .powerOnReset => Sys2Proof.Machine.execPowerOnReset s
  | .strapLatch slotId feedTag => Sys2Proof.Machine.execStrapLatch slotId feedTag s
  | .pwrEnRise inputMv => Sys2Proof.Machine.execPwrEnRise inputMv s
  | .pwrGoodRelease => Sys2Proof.Machine.execPwrGoodRelease s
  | .bringUpComplete => Sys2Proof.Machine.execBringUpComplete s
  | .pwrEnFall => Sys2Proof.Machine.execPwrEnFall s
  | .perstNReset => Sys2Proof.Machine.execPerstNReset s
  | .ohmubWarmRestart => Sys2Proof.Machine.execOhmubWarmRestart s
  | .hubWatchdog => Sys2Proof.Machine.execHubWatchdog s
  | .uvWarn inputMv => Sys2Proof.Machine.execUvWarn inputMv s
  | .sag lowUs minMv => Sys2Proof.Machine.execSag lowUs minMv s
  | .nvStop => Sys2Proof.Machine.execNvStop s
  | .nvStopClear => Sys2Proof.Machine.execNvStopClear s
  | .uvReset => Sys2Proof.Machine.execUvReset s
  | .ovStop maxMv => Sys2Proof.Machine.execOvStop maxMv s
  | .pairImbalance low => Sys2Proof.Machine.execPairImbalance low s
  | .powerLimit => Sys2Proof.Machine.execPowerLimit s
  | .powerLimitClear => Sys2Proof.Machine.execPowerLimitClear s
  | .sensorPoll readings => Sys2Proof.Machine.execSensorPoll readings s
  | .thermalTrip reading => Sys2Proof.Machine.execThermalTrip reading s
  | .leakDetect => Sys2Proof.Machine.execLeakDetect s
  | .panelReset panel => Sys2Proof.Machine.execPanelReset panel s
  | .panelHeartbeatTimeout panel => Sys2Proof.Machine.execPanelHeartbeatTimeout panel s
  | .mbRing page => Sys2Proof.Machine.execMbRing page s
  | .snapshotComplete job => Sys2Proof.Machine.execSnapshotComplete job s
  | .atomicopRequest offset => Sys2Proof.Machine.execAtomicopRequest offset s
  | .configurationRequest isWrite register value => Sys2Proof.Machine.execConfigurationRequest isWrite register value s
  | .entdaa address => Sys2Proof.Machine.execEntdaa address s
  | .jtagInstruction code => Sys2Proof.Machine.execJtagInstruction code s
  | .pairImbalanceClear => Sys2Proof.Machine.execPairImbalanceClear s
  | .operatingRangeEntry inputMv => Sys2Proof.Machine.execOperatingRangeEntry inputMv s

end Sys2Proof.Machine
end

