-- ==== Sys2Proof/Machine/Form.lean ====
section
/-! DEFINITION. The form of the part's tables that every step keeps, beside `Memory.wf` and `Memory.wcbOk`. -/

namespace Sys2Proof.Machine

/-- Open jobs stand in the order of their numbers, each under its own. -/
def jobsOk (t : Tbl Job) : Bool := rising t && t.all fun p => p.2.id == p.1

end Sys2Proof.Machine
end

