-- ==== Sys2Proof/WellFormed.lean ====
section
/-! DEFINITION. Well-formed commands: every operand within the range that the spec gives its field. An ill-formed command names nothing
that exists, and its meaning finds nothing to act on. -/

namespace Sys2Proof

/-- Queue numbers are part-wide, 20 bits (08 R243). -/
def queueOk (q : Nat) : Bool := q < 1048576
/-- Job IDs are 12 bits (00_scope, Headline figures). -/
def jobOk (j : Nat) : Bool := j < 4096
/-- Mailbox pages are 0 to 63 (14 R404). -/
def pageOk (p : Nat) : Bool := p < 64
/-- Ground ports are 0 to 63 (11 R315). -/
def portOk (p : Nat) : Bool := p < 64
/-- Stations are 20 bits (11 R328). -/
def stationOk (x : Nat) : Bool := x < 1048576
/-- A granule address is 64-byte aligned in the 48-bit space (10 R289, R295). -/
def granuleOk (a : Nat) : Bool := a < 281474976710656 && a % 64 == 0
/-- Panels are 0 to 7 and physical nibs 0 to 159 (00_scope R1, 08 R233). -/
def nibOk (panel nib : Nat) : Bool := panel < 8 && nib < 160

/-- A message header within its fields' widths (11 R334). -/
def hdrOk (h : MsgHdr) : Bool :=
  stationOk h.dst && stationOk h.rdst && stationOk h.src && h.hops < 16 && h.tag < 4096 && h.sdie < 4 && h.len < 65536

/-- A stroke mark within its fields' widths (09 R273). -/
def markOk (m : Mark) : Bool :=
  stationOk m.root && m.hops < 256 && m.periodUs < 256 && m.nextUs < 256 && m.changeIn < 65536 && m.xchPct < 256 && m.nextXch < 256

/-- A flit within its fields' widths (11 R317). -/
def flitOk (f : Flit) : Bool :=
  f.vl < 8 && f.fseq < 4096 && f.fack < 4096 && f.crVl < 8 && f.crN < 4096 && f.payload.length ≤ 244 && f.plen ≤ 244 && hdrOk f.hdr

/-- Every operand within its range; commands whose operands have no range of their own are well formed. -/
def Instr.wf : Instr → Bool
  | .stitchAdmit q => queueOk q
  | .stepReplay j | .commitVoteSend j | .checkpointDue j | .snapshotComplete j => jobOk j
  | .commitVoteResult j v => jobOk j && v.levels.all fun p => p.1 < 256 && p.2 < 4
  | .mirrorDrainComplete j h | .stashMoveComplete j h | .stashRecallComplete j h => jobOk j && h < 16777216
  | .strokeMarkReceive p m _ _ => portOk p && markOk m
  | .strokeMarkMissed p | .flitSend p | .portTrainStart p | .portTrainTimeout p | .retrain p | .linkDownFlit p | .portRetryTimer p => portOk p
  | .flitStallTimeout p l => portOk p && l < 8
  | .flitReceive p f _ => portOk p && flitOk f
  | .nak p f => portOk p && f < 4096
  | .portTrainComplete p st pp d => portOk p && stationOk st && portOk pp && d < 4096
  | .retrainComplete p h _ => portOk p && stationOk h.station && portOk h.port && h.delayNs < 4096
  | .messageForward h d => hdrOk h && d.length ≤ 16384
  | .write h _ d _ => hdrOk h && d.length ≤ 16384
  | .writeEnd h | .ack h | .nack h | .unreach h | .haltNotice h | .stepReplayRequest h => hdrOk h
  | .redUp h d _ | .mirror h d _ | .journal h d _ => hdrOk h && d.length ≤ 16384
  | .redDown h b _ => hdrOk h && b.bytes.length ≤ 16384
  | .mgmt h d => hdrOk h && d.length ≤ 16384
  | .aliasMessage h a b => hdrOk h && stationOk a && stationOk b
  | .control h _ => hdrOk h
  | .transactionTimeout d t => d < 4 && t < 4096
  | .wcbWrite w _ _ => w.addr < 281474976710656 && w.addr % 64 + w.data.length ≤ 64
  | .wcbHoldTimeout e => granuleOk e.granule
  | .requestPromote g _ => granuleOk g
  | .hbmGranuleRead g f _ => granuleOk g && f.bad.all (· < 16)
  | .scrubRead f => f.bad.all (· < 16)
  | .unmapTakeEffect j w => j ≤ 4096 && w ≤ 1024
  | .nibRetireComplete p n | .selftestSliceEnd p n _ => nibOk p n
  | .longOperationEnd k _ _ => k < 16
  | .dbTail j _ | .qResumeRetry j _ | .qResumeSkip j _ | .pinAdd j _ => jobOk j
  | .registerWrite b o d => (b == 0 || b == 2) && o + d.length ≤ 16777216
  | .bar4Read o n => o + n ≤ 1099511627776
  | .bar4Write o d _ => o + d.length ≤ 1099511627776
  | .identify p | .readFeatures p | .jobOpen p | .jobClose p | .jobReset p | .mapWindow p | .unmapWindow p | .queueCreate p
  | .queueDestroy p | .handleTableSet p | .strokeSetPart p | .strokeSetJob p | .watchSet p | .ladderSetLevels p | .ladderSetMap p
  | .ladderSetClear p | .stashPolicy p | .pairBind p | .pairUnbind p | .protectRegister p | .protectUnregister p | .protectSettings p
  | .checkpointSnapshot p | .checkpointStored p | .restoreQuery p | .restorePartner p | .restoreImage p
  | .stationSet p | .routeLoad p | .spareAssume p | .progressQuery p | .powerStateEnter p | .drowseEntry p | .powerStatePreserve p
  | .powerStateRestart p | .fwUpdateActivate p | .fwUpdateDiscard p | .returnPrepare p | .hbmRepairQuery p | .hbmRepairSoft p
  | .hbmRepairHard p | .hbmRepairHardLogged p | .mbRing p => pageOk p
  | .restoreLocal l => pageOk l.page
  | .prickingLoad p k => pageOk p && 1 ≤ k.slices.length && k.slices.length ≤ 4096
  | .fwUpdateStage p i => pageOk p && i.svn < 65536
  | .mgmtRead _ a n => a < 4294967296 && 1 ≤ n && n ≤ 32
  | .mgmtWrite _ _ a ws => a < 4294967296 && 1 ≤ ws.length && ws.length ≤ 32
  | .strapLatch a b => a < 64 && b < 16
  | .pairImbalance l => l == 1 || l == 2
  | .panelReset p | .panelHeartbeatTimeout p => p < 8
  | .nop _ | .commit _ | .matmul _ | .gatherMm _ | .route _ | .convert _ | .deriv _ | .update _ | .vscript _ | .vscriptRunStart _ _
  | .copy _ | .fetch _ | .gather _ | .scatter _ | .stashFree _ | .reduce _ | .multicast _ | .send _ | .check _ | .groundInject _
  | .stitchComplete _ _ | .watchResponse _ | .stitchGroupReplay _ | .stitchGroupReplayDone _ | .stashRecompute _ | .tileQueuePush _ _
  | .setvl _ _ | .jmp _ _ | .bzvl _ _ | .btqe _ _ | .currun _ _ | .endRun _ _ | .setrm _ _ | .vld _ _ | .vst _ _ | .vgath _ _
  | .vscat _ _ | .tqpop _ _ | .vldt _ _ | .vstt _ _ | .vmovi _ _ | .vadd _ _ | .vsub _ _ | .vmul _ _ | .vfma _ _ | .vfnma _ _ | .vdiv _ _
  | .vsqrt _ _ | .vmin _ _ | .vmax _ _ | .vabs _ _ | .vneg _ _ | .vcvt _ _ | .vrndi _ _ | .vand _ _ | .vor _ _ | .vxor _ _ | .vshl _ _
  | .vshr _ _ | .vexp2 _ _ | .vlog2 _ _ | .vrcp _ _ | .vrsq _ _ | .vtanh _ _ | .vcmp _ _ | .mand _ _ | .mor _ _ | .mnot _ _ | .vsel _ _
  | .rsum _ _ | .rssq _ _ | .rmax _ _ | .rmin _ _ | .ramax _ _ | .rget _ _ | .rbcast _ _ | .rset _ _ | .veInstructionLimit _ _
  | .strokeEdge | .holdoverTimeout | .strokeRefEdge _ | .strokeRefMissing | .heldMessageTimeout _ | .journalGapTimeout
  | .zeroiseComplete _ | .nvWriteRetry | .shadowComplete _ _ | .thirdExecComplete _ _ _ _ | .loserRepeatComplete _ _ _ | .hubFailover
  | .healthResend | .healthAck _ | .getTid _ | .getPldmVersion _ _ | .getPldmTypes _ | .getPldmCommands _ _ | .setEventReceiver _ _ _
  | .getSensorReading _ _ | .requestUpdate _ _ _ | .activateFirmware _ _ | .pldmFwTransfer _ _ _ _ _ | .pldmUnsupported _ _ _
  | .getVersion _ | .getCapabilities _ | .negotiateAlgorithms _ _ | .getDigests _ | .getCertificate _ _ _ _ | .challenge _ _ _
  | .getMeasurements _ _ _ | .keyExchange _ _ _ | .finish _ _ _ | .endSession _ _ | .heartbeat _ _ | .powerOnReset | .pwrEnRise _
  | .pwrGoodRelease | .bringUpComplete | .pwrEnFall | .perstNReset | .ohmubWarmRestart | .hubWatchdog | .uvWarn _ | .sag _ _ | .nvStop
  | .nvStopClear | .uvReset | .ovStop _ | .powerLimit | .powerLimitClear | .sensorPoll _ | .thermalTrip _ | .leakDetect
  | .atomicopRequest _ | .configurationRequest _ _ _ | .entdaa _ | .jtagInstruction _ | .pairImbalanceClear | .operatingRangeEntry _ => true

end Sys2Proof
end

