-- ==== Sys2Proof/Safety.lean ====
section
/-! DEFINITION. What claims use to speak of a good run: a step that neither faults nor refuses, and when a command's own effect is due: a
request stands and passes the checks, a stitch may run, a run stands before an instruction. -/

namespace Sys2Proof

open Sys2Proof.Machine

/-- A step answers a next state. -/
def stepsOn (s : State) : Bool :=
  match step s with
  | .next _ => true
  | _ => false

/-- The request that page `p` has rung is the next that Ohmub executes; it is for this row, it passes the checks of 14 R411, and
no long operation on its subject runs (14 R413). -/
abbrev Asked (s : State) (p op action : Nat) (r : Request) : Prop :=
  nextRequest s p = some r ∧ r.opcode = op ∧ actionOfReq r = action ∧ refusal s p r = none ∧ meetsLong s r = false

/-- The same for a command of an open job. -/
abbrev AskedOf (s : State) (p op action : Nat) (r : Request) (j : Job) : Prop := Asked s p op action r ∧ jobOf s r.job = some j

/-- Page `p` shows the answer to a request (14 R409, R410). -/
abbrev Shows (t : State) (p : Nat) (r : Request) (status : Nat) (data : List Byte) : Prop :=
  (pageOf t p).resp = responseBytes r status data ∧ (pageOf t p).mbState = 2 ∧ (pageOf t p).taken = none ∧ (pageOf t p).lastTally = some r.tally

/-- A command answers its request, once what it does has been done. -/
abbrev Answers (c : Instr) (s u : State) (p : Nat) (r : Request) (status : Nat) (data : List Byte) : Prop :=
  exec c s = .next (answerRequest u p r status data)

/-- A command has begun, and its answer waits on a later event. -/
abbrev Waits (c : Instr) (s u : State) (p : Nat) : Prop := exec c s = .next (putPage u p { pageOf u p with waiting := true })

/-- What an SPDM answer changes besides what the request does. -/
abbrev Says (c : Instr) (s u : State) (via : Transport) (name : String) (data : List Byte) : Prop :=
  exec c s = .next { u with out := { u.out with spdm := some (via, name, data) } }

/-- The mailbox commands' rows without an operand beside their page: each with its opcode and action (14, table Commands). -/
def mailboxRows : List ((Nat → Instr) × Nat × Nat) :=
  [(.identify, 0x01, 0), (.readFeatures, 0x02, 0), (.jobOpen, 0x10, 0), (.jobClose, 0x11, 0), (.jobReset, 0x12, 0), (.mapWindow, 0x20, 0),
    (.unmapWindow, 0x21, 0), (.queueCreate, 0x30, 0), (.queueDestroy, 0x31, 0), (.handleTableSet, 0x40, 0), (.strokeSetPart, 0x50, 0),
    (.strokeSetJob, 0x50, 1), (.watchSet, 0x60, 0), (.ladderSetLevels, 0x61, 1), (.ladderSetMap, 0x61, 2), (.ladderSetClear, 0x61, 3),
    (.stashPolicy, 0x62, 0), (.pairBind, 0x70, 0), (.pairUnbind, 0x71, 0), (.protectRegister, 0x72, 1), (.protectUnregister, 0x72, 2),
    (.protectSettings, 0x72, 3)] ++
  [(.checkpointSnapshot, 0x73, 1), (.checkpointStored, 0x73, 2), (.restoreQuery, 0x74, 0), (.restorePartner, 0x74, 2),
    (.restoreImage, 0x74, 3), (.stationSet, 0x80, 0), (.routeLoad, 0x81, 0), (.spareAssume, 0x82, 0), (.progressQuery, 0x90, 0),
    (.powerStateEnter, 0xB0, 1), (.powerStatePreserve, 0xB0, 2), (.powerStateRestart, 0xB0, 3), (.fwUpdateActivate, 0xC0, 2),
    (.fwUpdateDiscard, 0xC0, 3), (.returnPrepare, 0xD0, 0), (.hbmRepairQuery, 0xE0, 1), (.hbmRepairSoft, 0xE0, 2), (.hbmRepairHard, 0xE0, 3),
    (.hbmRepairHardLogged, 0xE0, 4)]

/-- An admitted stitch of an open job may execute now: it may start, and its nibs have the request slots that its reads need (09 R282, R283). -/
abbrev Ready (s : State) (sid : Sid) (op : Nat) (j : Job) (a : Active) : Prop :=
  actOf s sid = some a ∧ jobOf s a.job = some j ∧ canRun s a op = true ∧ slotsWait s j a = false

/-- What the next instruction of a run sees; a load sees memory with the pending entries of its tensor drained (10 R296). -/
def envOf (s : State) (j : Job) (a : Active) (r : Run) : VeEnv :=
  { s := reachLoads s j a (parseVe (a.script.getD r.pc 0)), j := j, a := a, w := parseVe (a.script.getD r.pc 0), prod := chainedProduct s a }

/-- A run in progress stands before an instruction of an opcode, which need not wait for a request slot of its nib (09 R283). -/
abbrev Stands (s : State) (sid : Sid) (n op : Nat) (j : Job) (a : Active) (r : Run) : Prop :=
  actOf s sid = some a ∧ runOf s sid n = some r ∧ jobOf s a.job = some j ∧
    (r.state == .running && r.pc < a.script.length && r.executed < 2 ^ 24 && (envOf s j a r).w.op == op && !loadWaits s j a r (envOf s j a r).w) = true

/-- The run stands before an instruction that is not the script's last. -/
abbrev Amid (s : State) (sid : Sid) (n op : Nat) (j : Job) (a : Active) (r : Run) : Prop := Stands s sid n op j a r ∧ r.pc + 1 < a.script.length

/-- After an instruction the run stands so, and nothing but runs, stitches' tile queues and the count of free values has changed. -/
abbrev RunIs (s t : State) (sid : Sid) (n : Nat) (r : Run) : Prop :=
  runOf t sid n = some r ∧ t = { s with runs := t.runs, acts := t.acts, free := t.free }

/-- The same after a load, which drains pending entries: every byte of memory reads as before. -/
abbrev RunReads (s t : State) (sid : Sid) (n : Nat) (r : Run) : Prop :=
  runOf t sid n = some r ∧ t = { s with runs := t.runs, acts := t.acts, free := t.free, mem := t.mem } ∧
    ∀ x, frameRetired s.mem x = false → memByte t.mem x = memByte s.mem x

/-- Bits that an element of a type has in a register (06 R184). -/
def elBits (ty : Nat) : Nat := if ty = 1 then 16 else 32

/-- A run after an instruction that goes on at `pc`. -/
def went (r : Run) (pc : Nat) : Run := { r with executed := r.executed + 1, pc := pc }

/-- The code of an INT32 value that the format holds. -/
def exact32 (x : Int) : Option Nat := if -2147483648 ≤ x && x ≤ 2147483647 then some (unsigned 32 x) else none

/-- A message stands at the head of what a port's lane or the fabric has brought to this part, and its job and epoch let it be taken. -/
abbrev Taken (s : State) (hdr : MsgHdr) (data : List Byte) (j : Job) : Prop := verdict (takeInbox s hdr data) hdr = .take j

end Sys2Proof
end

