-- ==== Sys2Proof/Certificates/Slice0/Obligations.lean ====
section
/-! DEFINITION. The statements about the part, for the provers; `cites` of OBLIGATIONS.json names the chapters and rules. -/

open Sys2Proof Sys2Proof.Machine

/-! ### The queue of commands and what every step keeps -/

/-- A step takes the command at the front of the queue and runs it on the state with the queue's rest; with nothing waiting it leaves the state as it
stands (that a waiting block idles is the model's choice, log entry 1). -/
def Obligations.StepRunsFrontCommand : Prop :=
  (∀ (c : Instr) (rest : List Instr) (s : State), s.pending = c :: rest → step s = exec c { s with pending := rest }) ∧
    ∀ s : State, s.pending = [] → step s = .next s

/-- No command puts a command into the queue or takes one from it: a step that goes on leaves the queue's rest. -/
def Obligations.StepConsumesOneCommand : Prop := ∀ s t : State, step s = .next t → t.pending = s.pending.tail

/-- Every step keeps memory and the job table in their form. Memory: addresses rise strictly, no listed byte has the value of an unlisted one, and
pending write-combining entries stand one to a granule with bytes of that granule alone. Open jobs: in the order of their numbers, each under its own.
-/
def Obligations.StepKeepsForms : Prop :=
  (∀ s t : State, Memory.wf s.mem.bytes = true → Memory.wcbOk s.mem.wcb = true → step s = .next t →
    Memory.wf t.mem.bytes = true ∧ Memory.wcbOk t.mem.wcb = true) ∧
  (∀ s t : State, jobsOk s.jobs = true → step s = .next t → jobsOk t.jobs = true)

/-- At reset memory and the job table are in their form, no command waits, no job is open, no queue exists, no stitch is admitted, and Ohmub is in
bring-up. -/
def Obligations.ResetIsEmpty : Prop :=
  Memory.wf State.reset.mem.bytes = true ∧ Memory.wcbOk State.reset.mem.wcb = true ∧ jobsOk State.reset.jobs = true ∧ State.reset.pending = [] ∧
    State.reset.jobs = [] ∧ State.reset.queues = [] ∧ State.reset.acts = [] ∧
    State.reset.hub.phase = 0 ∧ State.reset.hub.pstate = 0 ∧ State.reset.pwr.railsOn = false ∧ State.reset.clk.periodUs = 20

/-- What no step undoes: the anti-rollback fuses do not go back, the return-lock fuse stays blown, the grade stays, and a retired nib never comes back
into service. -/
def Obligations.FusesAndRetirementsStay : Prop :=
  ∀ s t : State, step s = .next t →
    s.fw.fuses ≤ t.fw.fuses ∧ (s.fw.returnFuse = true → t.fw.returnFuse = true) ∧ t.nibs.grade = s.nibs.grade ∧
      ∀ k ∈ s.nibs.retired, k ∈ t.nibs.retired

/-- Every command answers a next state in every state, but for three controller rows at an address that 10 R289 gives no memory, which fault, and a
JTAG instruction outside the public ones in the return state, which is refused. -/
def Obligations.OnlyFourCommandsStop : Prop :=
  ∀ (c : Instr) (s : State), (∃ t, exec c s = .next t) ∨
    (∃ w sid o, c = .wcbWrite w sid o ∧ inHbm s.nibs.grade w.addr = false ∧ exec c s = .fault (.addressHole w.addr)) ∨
    (∃ a f r, c = .hbmGranuleRead a f r ∧ inHbm s.nibs.grade a = false ∧ inPillow s.nibs.grade a = false ∧ exec c s = .fault (.addressHole a)) ∨
    (∃ a n, c = .requestPromote a n ∧ inHbm s.nibs.grade a = false ∧ exec c s = .fault (.addressHole a)) ∨
    ∃ n, c = .jtagInstruction (.other n) ∧ s.hub.phase = 2 ∧ exec c s = .refused (.vendorTestMode n)

/-! ### Memory -/

/-- What a stitch, the host or Ohmub puts into memory is what every later reader finds, byte by byte, and nothing else changes; pending entries do not
show. A retired frame takes no data (10 R303) and is left out. What an execution that produced its whole output leaves: each byte of its write set in
HBM and the Pillows, every other byte as it was, and its stitch's stage; only memory, host memory, jobs and stitches change. -/
def Obligations.WritesAreRead : Prop :=
  (∀ (g : Grade) (now : Nat) (sid : Option Sid) (m : Mem) (ws : WriteSet) (x : Nat), Memory.wf m.bytes = true → Memory.wcbOk m.wcb = true →
    rising ws.bytes = true → frameRetired m x = false → memByte (commitWrites g now sid m ws) x = (tget ws.bytes x).getD (memByte m x)) ∧
  (∀ (s : State) (a : Active) (d : Done), Memory.wf s.mem.bytes = true → Memory.wcbOk s.mem.wcb = true → rising d.ws.bytes = true →
    (∃ t, finishExec s a d = t ∧ t = { s with mem := t.mem, host := t.host, jobs := t.jobs, acts := t.acts } ∧
      (∀ x, inHost x = false → frameRetired s.mem x = false → memByte t.mem x = (tget d.ws.bytes x).getD (memByte s.mem x)) ∧
      (∀ b, actOf s a.sid = some b → ∃ c, actOf t a.sid = some c ∧ c.stage = afterStage a ∧ c.started.isSome = true) ∧
      ∀ k, k ≠ a.sid → actOf t k = actOf s k))

/-- WCB_WRITE: a write within one granule of HBM, whose nib has a request slot, is accepted; every reader sees its bytes from then on and no other
byte changes, in memory that is in its form, and nothing but memory changes; with its nib's 48 slots taken, or 16 on the pseudo-channel, it waits.
WCB_HOLD_TIMEOUT drains the entry of a granule 1 µs after it was allocated and changes no byte that a reader finds; a granule that its read finds
uncorrectable is poisoned. REQUEST_PROMOTE, 2 µs after a request arrived, marks it as promoted and no other; ATOMICOP_REQUEST answers Unsupported
Request and changes nothing else. -/
def Obligations.ControllerWritesAndTimers : Prop :=
  ((∀ (s : State) (addr : Nat) (data : List Byte) (nib : Option (Nat × Nat)) (sid : Sid) (o : ReadOutcome), Memory.wf s.mem.bytes = true →
    Memory.wcbOk s.mem.wcb = true → inHbm s.nibs.grade addr = true → hbmOn s = true → addr % 64 + data.length ≤ 64 →
    (∀ k, nib = some k → slotRoom s k addr = true) →
    ∃ t, exec (.wcbWrite ⟨addr, data, nib⟩ sid o) s = .next t ∧ t = { s with mem := t.mem } ∧
      ∀ x, frameRetired s.mem x = false →
        memByte t.mem x = if addr ≤ x ∧ x < addr + data.length then data.getD (x - addr) 0 else memByte s.mem x) ∧
  ∀ (s : State) (addr : Nat) (data : List Byte) (k : Nat × Nat) (sid : Sid) (o : ReadOutcome), inHbm s.nibs.grade addr = true →
    (48 ≤ (slotsHeld s k fun _ => true).length ∨ 16 ≤ slotsOn s k addr) → exec (.wcbWrite ⟨addr, data, some k⟩ sid o) s = .next s) ∧
  ((∀ (s : State) (g : Nat) (o : ReadOutcome) (e : WcbEntry), Memory.wf s.mem.bytes = true → Memory.wcbOk s.mem.wcb = true →
    s.mem.wcb.find? (fun e => e.granule == g) = some e →
    ∃ t, exec (.wcbHoldTimeout ⟨g, o⟩) s = .next t ∧ t = { s with mem := t.mem, clk := { s.clk with now := max s.clk.now (e.since + 1000) } } ∧
      (t.mem.wcb.all fun e => e.granule != g) = true ∧ (o = .uncorrectable → e.data.length ≠ 64 → granulePoisoned t.mem g = true) ∧
      ∀ x, frameRetired s.mem x = false → memByte t.mem x = memByte s.mem x) ∧
  (∀ (s : State) (g since : Nat), inHbm s.nibs.grade g = true →
    ∃ t, exec (.requestPromote g since) s = .next t ∧ t = { s with clk := { s.clk with now := max s.clk.now (since + 2000) }, mem := t.mem } ∧
      t.mem = { s.mem with reqs := t.mem.reqs } ∧ (∃ r ∈ t.mem.reqs, r.granule = g ∧ r.since = since) ∧
      (∀ r ∈ t.mem.reqs, r.granule = g → r.since = since → r.promoted = true) ∧
      ∀ r, ¬(r.granule = g ∧ r.since = since) → (r ∈ t.mem.reqs ↔ r ∈ s.mem.reqs)) ∧
  ∀ (s : State) (o : Nat), exec (.atomicopRequest o) s = .next { s with out := { s.out with atomicUr := true } })

/-- HBM_GRANULE_READ, served with no request before it: a granule that is not poisoned answers its stored bytes and leaves every byte as it was; an
uncorrectable one answers poison and is poisoned from then on. A nib that holds its 48 slots issues no further request but within one that it holds.
SCRUB_READ of a clean granule, with no request waiting, changes no byte and goes on to the next granule outside retired frames; ZEROISE_COMPLETE
leaves every byte of the batch zero and changes no other; both leave all but memory alone. -/
def Obligations.GranulesScrubAndZeroise : Prop :=
  ((∀ (s : State) (g : Nat) (r : Reader) (bad : List Nat), Memory.wf s.mem.bytes = true → Memory.wcbOk s.mem.wcb = true → (∀ c, r ≠ .own c) →
    (inHbm s.nibs.grade g || inPillow s.nibs.grade g) = true → hbmOn s = true → g % 64 = 0 → s.mem.reqs = [] → rangePoison s g 64 = false →
    ∃ t, exec (.hbmGranuleRead g ⟨.clean, bad⟩ r) s = .next t ∧ t = { s with mem := t.mem, out := { s.out with granule := some (some (rdBytes s g 64)) } } ∧
      t.mem.reqs = [] ∧ ∀ x, frameRetired s.mem x = false → memByte t.mem x = memByte s.mem x) ∧
  (∀ (s : State) (g : Nat) (r : Reader) (bad : List Nat), Memory.wcbOk s.mem.wcb = true → (∀ e ∈ s.mem.wcb, e.granule = g → e.data.length ≠ 64) →
    (inHbm s.nibs.grade g || inPillow s.nibs.grade g) = true → hbmOn s = true → g % 64 = 0 → s.mem.reqs = [] →
    ∃ t, exec (.hbmGranuleRead g ⟨.uncorrectable, bad⟩ r) s = .next t ∧ t.out.granule = some none ∧ granulePoisoned t.mem g = true) ∧
  ∀ (s : State) (g p n : Nat) (o : ReadOutcome) (bad : List Nat), inHbm s.nibs.grade g = true → hbmOn s = true → g % 64 = 0 →
    48 ≤ (slotsHeld s (p, n) fun _ => true).length → (slotsHeld s (p, n) fun _ => true).contains (slotKey g none) = false →
    exec (.hbmGranuleRead g ⟨o, bad⟩ (.nib p n)) s = .next s) ∧
  ((∀ (s : State) (bad : List Nat), Memory.wf s.mem.bytes = true → Memory.wcbOk s.mem.wcb = true → scrubRuns s = true → s.mem.retired = [] →
    s.mem.reqs = [] → rangePoison s (64 * s.mem.scrub) 64 = false → s.mem.scrub + 1 < scrubTotal s →
    ∃ t, exec (.scrubRead ⟨.clean, bad⟩) s = .next t ∧ t = { s with mem := t.mem } ∧ t.mem.scrub = s.mem.scrub + 1 ∧
      ∀ x, memByte t.mem x = memByte s.mem x) ∧
  ∀ (s : State) (b : Nat) (z : ZeroBatch), Memory.wf s.mem.bytes = true → Memory.wcbOk s.mem.wcb = true →
    s.mem.zeroing.find? (fun z => z.id == b) = some z → (z.ranges.all fun r => r.1 % 64 == 0 && r.2 % 64 == 0) = true →
    ∃ t, exec (.zeroiseComplete b) s = .next t ∧ t = { s with mem := t.mem } ∧ (t.mem.zeroing.all fun q => q.id != b) = true ∧
      ∀ x, frameRetired s.mem x = false →
        memByte t.mem x = if z.ranges.any fun r => r.1 ≤ x && x < r.1 + r.2 then 0 else memByte s.mem x)

/-! ### Numbers -/

/-- The magnitude that a fresh scale rests on: with gimp the third-largest of a block's finite non-zero values, and of fewer than three the smallest;
without gimp the largest. The exponent chosen for it is the smallest under which it does not clip in its format. -/
def Obligations.FreshScales : Prop :=
  (∀ l d : List Rat, d.Perm l → d.Pairwise (fun x y => y ≤ x) → l ≠ [] →
    (3 ≤ l.length → amaxOf true l = d.getD 2 0) ∧ (l.length < 3 → amaxOf true l ∈ l ∧ ∀ x ∈ l, amaxOf true l ≤ x) ∧
      amaxOf false l ∈ l ∧ ∀ x ∈ l, x ≤ amaxOf false l) ∧
  ∀ t ∈ [1, 2, 4, 5, 6], ∀ m : Rat, 0 < m → clipsIn t (m / pow2 (freshExp t m)) = false ∧ ∀ e : Int, e < freshExp t m → clipsIn t (m / pow2 e) = true

/-! ### Admission and the execution of stitches -/

/-- STITCH_ADMIT of a stitch that is no chained pair, on a queue that nothing stops: unmet waits hold the head; a failed check rejects it; poison that
admission needs is consumed; a stitch that passes is admitted. A head that waits, and a rejected head, stay where they are: no stitch is admitted and
no pin changes. A rejected head's queue stops with its status; the job gets one record. -/
def Obligations.AdmissionOutcomes : Prop :=
  (∀ (s : State) (n : Nat) (q : Queue) (j : Job), queueOf s n = some q → jobOf s q.job = some j → q.head ≠ q.tail →
    (q.state = .running ∨ q.state = .headWaiting ∨ q.state = .empty) → q.passed = none → s.hub.pstate = 0 → s.hub.drowsePage = none →
    chainedHead s q = false → chainedHead (reachHead s j q) q = false →
    (readyWaits j (slotStitch s q q.head.toNat) = false → exec (.stitchAdmit n) s = .next (waitHead s n q)) ∧
    (readyWaits j (slotStitch s q q.head.toNat) = true → ∀ u, u = reachHead s j q →
      (∀ r, checkStitch u j n q q.head.toNat false none = .reject r → exec (.stitchAdmit n) s = .next (rejectHead u n q r)) ∧
      (checkStitch u j n q q.head.toNat false none = .poison → exec (.stitchAdmit n) s = .next (poisonHead u n q)) ∧
      ∀ a, checkStitch u j n q q.head.toNat false none = .pass a → exec (.stitchAdmit n) s = .next (admitChecked u n a none))) ∧
  ((∀ (s : State) (n : Nat) (q : Queue), queueOf s n = some q → ∃ t q', waitHead s n q = t ∧ queueOf t n = some q' ∧ q'.state = .headWaiting ∧
    q'.head = q.head ∧ t = { s with mem := t.mem, host := t.host, queues := t.queues } ∧ ∀ k, k ≠ n → queueOf t k = queueOf s k) ∧
  ∀ (s : State) (n : Nat) (q : Queue) (j : Job) (r : Reject), jobsOk s.jobs = true → jobOf s q.job = some j → ∃ t q' j',
    rejectHead s n q r = t ∧ queueOf t n = some q' ∧ q'.state = .rejected ∧ q'.head = q.head ∧ q'.lastAdmit = BitVec.ofNat 8 r.status ∧
      jobOf t q.job = some j' ∧ j' = { j with eqCount := j.eqCount + 1 } ∧
      t = { s with mem := t.mem, host := t.host, queues := t.queues, jobs := t.jobs, free := s.free + 1, hub := t.hub, out := t.out } ∧
      (∀ k, k ≠ n → queueOf t k = queueOf s k) ∧ ∀ k, k ≠ q.job → jobOf t k = jobOf s k)

/-- NOP completes with the status that its marks give, and executes nothing before it. An admitted stitch that may run executes, each row by its own
opcode, on memory whose pending entries under what it reads have drained; a Ground stitch first injects from its first slot on (GROUND_INJECT). -/
def Obligations.StitchExecutions : Prop :=
  (∀ (s : State) (sid : Sid) (a : Active), actOf s sid = some a → a.st.opcode = opNop → a.stage = .waiting → exec (.nop sid) s = .next (complete s a)) ∧
  (∀ (s : State) (sid : Sid) (j : Job) (a : Active),
    (Ready s sid opMatmul j a → exec (.matmul sid) s = .next (productExec (reachReads s j a) j a)) ∧
    (Ready s sid opGatherMm j a → exec (.gatherMm sid) s = .next (productExec (reachReads s j a) j a)) ∧
    (Ready s sid opRoute j a → exec (.route sid) s = .next (routeExec (reachReads s j a) j a)) ∧
    (Ready s sid opConvert j a → exec (.convert sid) s = .next (convertExec (reachReads s j a) j a)) ∧
    (Ready s sid opDeriv j a → exec (.deriv sid) s = .next (derivExec (reachReads s j a) j a)) ∧
    (Ready s sid opUpdate j a → exec (.update sid) s = .next (updateExec (reachReads s j a) j a)) ∧
    (Ready s sid opVscript j a → exec (.vscript sid) s = .next (vscriptExec (reachReads s j a) j a)) ∧
    (Ready s sid opCopy j a → exec (.copy sid) s = .next (copyExec (reachReads s j a) j a)) ∧
    (Ready s sid opFetch j a → exec (.fetch sid) s = .next (copyExec (reachReads s j a) j a)) ∧
    (Ready s sid opGather j a → exec (.gather sid) s = .next (gatherExec (reachReads s j a) j a)) ∧
    (Ready s sid opScatter j a → exec (.scatter sid) s = .next (scatterExec (reachReads s j a) j a)) ∧
    (Ready s sid opCheck j a → exec (.check sid) s = .next (checkExec (reachReads s j a) j a))) ∧
  ((∀ (s : State) (sid : Sid) (a : Active), actOf s sid = some a → isGround a.st.opcode = true → a.stage = .waiting → a.injected = false →
    exec (.groundInject sid) s = .next (putAct (advance s a.firstSlotNs) { a with injected := true })) ∧
  ∀ (s : State) (sid : Sid) (j : Job) (a : Active), a.injected = true →
    (Ready s sid opReduce j a → exec (.reduce sid) s = .next (reduceExec (reachReads s j a) j a)) ∧
    (Ready s sid opMulticast j a → exec (.multicast sid) s = .next (multicastExec (reachReads s j a) j a)) ∧
    (Ready s sid opSend j a → exec (.send sid) s = .next (sendExec (reachReads s j a) j a)))

/-! ### Scripts -/

/-- VSCRIPT_RUN_START: a waiting run starts where its nib has room and takes a bobbin of it. VE_INSTRUCTION_LIMIT: a run beyond its limit faults with code
3. TILE_QUEUE_PUSH: a finished tile enters a queue that is not full. The control instructions SETVL, JMP, BZVL, BTQE, CURRUN and SETRM, where the script
goes on: length, branches, cursor and rounding attribute; END_RUN ends the run. -/
def Obligations.RunsTilesAndControl : Prop :=
  ((∀ (s : State) (sid : Sid) (n : Nat) (a : Active) (r : Run), actOf s sid = some a → runOf s sid n = some r → a.stage = .running → r.state = .waiting →
    runsOn s r.panel r.nib < 4 → bobbinRoom s (byOhmub a) (r.panel, r.nib) = true →
    ∃ t b, exec (.vscriptRunStart sid n) s = .next t ∧ runOf t sid n = some { r with state := .running } ∧
      t = { s with runs := t.runs, acts := t.acts, jobs := t.jobs } ∧ actOf t sid = some b ∧ b = { a with held := b.held } ∧ (r.panel, r.nib) ∈ b.held) ∧
  (∀ (s : State) (sid : Sid) (n : Nat) (a : Active) (r : Run), actOf s sid = some a → runOf s sid n = some r → r.state = .running → 2 ^ 24 ≤ r.executed →
    exec (.veInstructionLimit sid n) s = .next (afterRun s a { r with state := .faulted 3 r.pc })) ∧
  ∀ (s : State) (sid : Sid) (k : Nat) (a : Active) (x : Tile) (rest queue : List Tile), actOf s sid = some a →
    tget a.tiles k = some { stream := x :: rest, queue := queue } → queue.length < 8 →
    ∃ t b, exec (.tileQueuePush sid k) s = .next t ∧ actOf t sid = some b ∧ tget b.tiles k = some { stream := rest, queue := queue ++ [x] } ∧
      t = { s with acts := t.acts } ∧ (rest ≠ [] → b.stage = a.stage)) ∧
  (∀ (s : State) (sid : Sid) (n : Nat) (j : Job) (a : Active) (r : Run), let e := envOf s j a r; let v := e.w.immv
    (Amid s sid n 0x01 j a r → ∃ t, exec (.setvl sid n) s = .next t ∧ RunIs s t sid n { went r (r.pc + 1) with
      vl := if e.w.sa = 15 then v else min v (slotElems e e.w.sa - r.cursors.getD e.w.sa 0) }) ∧
    (Stands s sid n 0x02 j a r → v < a.script.length → ∃ t, exec (.jmp sid n) s = .next t ∧ RunIs s t sid n (went r v)) ∧
    (Amid s sid n 0x03 j a r → v < a.script.length → ∃ t, exec (.bzvl sid n) s = .next t ∧
      RunIs s t sid n (went r (if r.vl = 0 then v else r.pc + 1))) ∧
    (Amid s sid n 0x04 j a r → v < a.script.length → streamEnded e r = true → ∃ t, exec (.btqe sid n) s = .next t ∧ RunIs s t sid n (went { r with sawEnd := true } v)) ∧
    (Amid s sid n 0x04 j a r → streamEnded e r = false → ((nibTiles e r).any fun t => !t.queue.isEmpty) = true →
      ∃ t, exec (.btqe sid n) s = .next t ∧ RunIs s t sid n (went r (r.pc + 1))) ∧
    (Amid s sid n 0x05 j a r → ∃ t, exec (.currun sid n) s = .next t ∧ RunIs s t sid n { went r (r.pc + 1) with cursors := r.cursors.set e.w.sa (r.index * v) }) ∧
    (Amid s sid n 0x07 j a r → ∃ t, exec (.setrm sid n) s = .next t ∧ RunIs s t sid n { went r (r.pc + 1) with rm := v % 8 }) ∧
    (Stands s sid n 0x06 j a r → exec (.endRun sid n) s = .next (afterRun s a { went r (r.pc + 1) with state := .ended })))

/-- VLD, VST, VGATH, VSCAT, TQPOP, VLDT and VSTT whose ranges lie inside their tensors, where the script goes on. A load writes each active element with
the slot's element under `TY` and no other element; VGATH gives +0 to an index outside and counts it. A store adds one pending write, under the
output's type, for each active element whose index lies in the output. TQPOP takes the oldest tile of its queue and writes its 512 words; VLDT writes
those positions with the tile of its slot, +0 beyond it. Cursors advance by `VL` in VLD and VST alone. A load drains pending entries, so that memory
reads as before; nothing else changes but runs, tile queues and the count of free values. That a load finds in memory what a store of the same stitch has
not yet changed is the model's choice (log entry 15). -/
def Obligations.VeMemoryAccess : Prop :=
  ∀ (s : State) (sid : Sid) (n : Nat) (j : Job) (a : Active) (r : Run), let e := envOf s j a r; let w := e.w; let m := modeOf a r; let act := activeEls r w
    let cur (k : Nat) : Nat := r.cursors.getD k 0
    let moves (k : Nat) : List Nat := r.cursors.set k (cur k + r.vl)
    let stored (i : Nat) := (storeAs m (a.out.elim 0 fun o => o.desc.type) w.ty (getEl r w.ty w.sa i)).1
    let badEl (i : Nat) : Bool := elBad r w.ty w.sa i || chooseBad r w i
    let loads (c : Instr) (cursors : List Nat) (bad : Nat) (ty : Nat) (val : Nat → Option Nat) : Prop := ∃ t q, exec c s = .next t ∧
      RunReads s t sid n (went q (r.pc + 1)) ∧
      q = { r with vec := q.vec, badVec := q.badVec, flags := q.flags, poisoned := q.poisoned, malformed := r.malformed + bad, cursors := cursors, nonfinite := q.nonfinite } ∧
      ∀ d i, i < 4096 → getEl q ty d i = if d = w.dst then (val i).elim (getEl r ty d i) (· % 2 ^ elBits ty) else getEl r ty d i
    let stores (c : Instr) (cursors : List Nat) (bad : Nat) (l : List (Nat × OutVal × Bool)) : Prop := ∃ t q, exec c s = .next t ∧
      RunIs s t sid n (went q (r.pc + 1)) ∧
      q = { r with writes := r.writes ++ l, flags := q.flags, poisoned := q.poisoned, malformed := r.malformed + bad, cursors := cursors }
    Memory.wf s.mem.bytes = true → Memory.wcbOk s.mem.wcb = true → rising r.vec = true → r.vl ≤ 4096 →
    (Amid s sid n 0x10 j a r → ∀ v, slotView e w.sa = some v → rangeOut r w.sa (elems v.desc) = false →
      loads (.vld sid n) (moves w.sa) 0 w.ty fun i => if i ∈ act then some (loadEl e m v (cur w.sa + i)).1 else none) ∧
    (Amid s sid n 0x11 j a r → rangeOut r 3 (slotElems e 3) = false →
      stores (.vst sid n) (moves 3) 0 (act.map fun i => (cur 3 + i, stored i, badEl i))) ∧
    (Amid s sid n 0x12 j a r → ∀ v, slotView e w.sb = some v → let inside (i : Nat) : Bool := 0 ≤ indexEl r w.sa i && indexEl r w.sa i < (elems v.desc : Int)
      loads (.vgath sid n) r.cursors (act.filter fun i => !inside i).length w.ty fun i =>
        if i ∈ act then some (if inside i then (loadEl e m v (indexEl r w.sa i).toNat).1 else 0) else none) ∧
    (Amid s sid n 0x13 j a r → let inside (i : Nat) : Bool := 0 ≤ indexEl r w.sb i && indexEl r w.sb i < (slotElems e 3 : Int)
      stores (.vscat sid n) r.cursors (act.filter fun i => !inside i).length
        ((act.filter inside).map fun i => ((indexEl r w.sb i).toNat, stored i, badEl i || elBad r 2 w.sb i))) ∧
    (Amid s sid n 0x14 j a r → ∀ p x rest stream, chainedProduct s a = some p → tget p.tiles r.index = some { stream := stream, queue := x :: rest } →
      ∃ t q, exec (.tqpop sid n) s = .next t ∧ RunIs s t sid n (went q (r.pc + 1)) ∧ q = { r with vec := q.vec, badVec := q.badVec, tile := some x } ∧
        (∀ d i, i < 4096 → getEl q 0 d i = if d = w.dst ∧ r.vl ≠ 0 ∧ i < 512 then moveEl m 0 (x.data.getD i 0).toNat % 2 ^ 32 else getEl r 0 d i) ∧
        actOf t p.sid = some { p with tiles := tset p.tiles r.index { stream := stream, queue := rest } }) ∧
    (Amid s sid n 0x15 j a r → r.sawEnd = false → ∀ x v c, r.tile = some x → x.rows ≤ 16 → x.cols ≤ 32 → slotView e w.sa = some v → tileRange v.desc x = some c →
      loads (.vldt sid n) r.cursors 0 w.ty fun i =>
        if r.vl = 0 || 512 ≤ i then none else some ((c.find? fun y => y.1 == i).elim 0 fun y => (loadEl e m v y.2).1)) ∧
    (Amid s sid n 0x16 j a r → ∀ x o c, r.tile = some x → a.out = some o → tileRange o.desc x = some c →
      stores (.vstt sid n) r.cursors 0 ((c.filter fun y => act.contains y.1).map fun y => (y.2, stored y.1, badEl y.1)))

/-- A range outside its tensor, a tile after the stream's end or a tile that no pop has brought stops the run at the instruction with its code; the
instruction writes no register and no memory (a load may have drained pending entries), and the run's earlier writes stand. That VLDT faults once its run
has seen the end, and that VLDT and VSTT check their range at `VL` 0 too, are the model's readings (log entry 15). -/
def Obligations.VeFaultsWriteNothing : Prop :=
  ∀ (s : State) (sid : Sid) (n : Nat) (j : Job) (a : Active) (r : Run) (v : View), let e := envOf s j a r
    let stops (c : Instr) (k : Nat) : Prop := exec c s = .next (afterRun e.s a { r with executed := r.executed + 1, state := .faulted k r.pc })
    (Stands s sid n 0x10 j a r → slotView e e.w.sa = some v → rangeOut r e.w.sa (elems v.desc) = true → stops (.vld sid n) 1) ∧
    (Stands s sid n 0x11 j a r → rangeOut r 3 (slotElems e 3) = true → stops (.vst sid n) 1) ∧
    e.s = { s with mem := e.s.mem } ∧
    (Stands s sid n 0x14 j a r → streamEnded e r = true → stops (.tqpop sid n) 2) ∧
    (Stands s sid n 0x15 j a r → r.tile = none ∨ r.sawEnd = true → stops (.vldt sid n) 2) ∧
    (Stands s sid n 0x15 j a r → r.sawEnd = false → ∀ x, r.tile = some x → slotView e e.w.sa = some v → tileRange v.desc x = none → stops (.vldt sid n) 1) ∧
    (Stands s sid n 0x16 j a r → r.tile = none → stops (.vstt sid n) 2) ∧
    (Stands s sid n 0x16 j a r → ∀ x o, r.tile = some x → a.out = some o → tileRange o.desc x = none → stops (.vstt sid n) 1)

/-- INT32 results, element by element, for every value that the spec states: active elements take them, inactive elements and every other register
keep theirs, and no flag is raised. -/
def Obligations.VeIntegerResults : Prop :=
  ∀ x ∈ ([(.vadd, 0x20, fun a b => exact32 (sInt a + sInt b)), (.vsub, 0x21, fun a b => exact32 (sInt a - sInt b)),
      (.vmul, 0x22, fun a b => some (unsigned 32 (sInt a * sInt b))), (.vmin, 0x27, fun a b => exact32 (min (sInt a) (sInt b))),
      (.vmax, 0x28, fun a b => exact32 (max (sInt a) (sInt b))), (.vabs, 0x29, fun a _ => exact32 (sInt a).natAbs),
      (.vneg, 0x2A, fun a _ => exact32 (-sInt a)), (.vand, 0x30, fun a b => some (a &&& b)), (.vor, 0x31, fun a b => some (a ||| b)),
      (.vxor, 0x32, fun a b => some (a ^^^ b)), (.vshl, 0x33, fun a b => some (a * 2 ^ (b % 32) % 2 ^ 32)),
      (.vshr, 0x34, fun a b => some (unsigned 32 (sInt a / ((2 ^ (b % 32) : Nat) : Int))))] : List ((Sid → Nat → Instr) × Nat × (Nat → Nat → Option Nat))),
    ∀ (s : State) (sid : Sid) (n : Nat) (j : Job) (a : Active) (r : Run), let w := (envOf s j a r).w
      Amid s sid n x.2.1 j a r → w.ty = 2 → rising r.vec = true → r.vl ≤ 4096 →
      ∃ t q, exec (x.1 sid n) s = .next t ∧ RunIs s t sid n (went q (r.pc + 1)) ∧
        q = { r with vec := q.vec, badVec := q.badVec } ∧
        (∀ i ∈ activeEls r w, ∀ v, x.2.2 (getEl r 2 w.sa i) (srcB r w i) = some v → getEl q 2 w.dst i = v) ∧
        ∀ d i, i < 4096 → ¬(d = w.dst ∧ i ∈ activeEls r w) → getEl q 2 d i = getEl r 2 d i

/-- FP32 and BF16 results of VADD, VSUB, VMUL, VDIV, VMIN and VMAX, element by element: the value as the run's mode delivers it, with the flags of all
active elements; inactive elements and every other register keep theirs. -/
def Obligations.VeFloatResults : Prop :=
  ∀ x ∈ ([(.vadd, 0x20, fun m a b => (addRm (rmOf m) a b, flagIf (addInvalid a b) fNV)),
      (.vsub, 0x21, fun m a b => (addRm (rmOf m) a b.negate, flagIf (addInvalid a b.negate) fNV)),
      (.vmul, 0x22, fun _ a b => (a.mul b, flagIf (mulInvalid a b) fNV)), (.vdiv, 0x25, fun _ a b => divNum a b),
      (.vmin, 0x27, fun _ a b => (minNum a b, 0)), (.vmax, 0x28, fun _ a b => (maxNum a b, 0))] :
      List ((Sid → Nat → Instr) × Nat × (Mode → Machine.Num → Machine.Num → Machine.Num × BitVec 8))),
    ∀ (s : State) (sid : Sid) (n : Nat) (j : Job) (a : Active) (r : Run), let w := (envOf s j a r).w; let m := modeOf a r
      let res (i : Nat) := fpResult m w.ty (elSig w.ty (getEl r w.ty w.sa i) || elSig w.ty (srcB r w i))
        (x.2.2 m (elNum m w.ty (getEl r w.ty w.sa i)) (elNum m w.ty (srcB r w i)))
      Amid s sid n x.2.1 j a r → w.ty ≠ 2 → rising r.vec = true → r.vl ≤ 4096 →
      ∃ t q, exec (x.1 sid n) s = .next t ∧ RunIs s t sid n (went q (r.pc + 1)) ∧
        q = { r with vec := q.vec, badVec := q.badVec, flags := (activeEls r w).foldl (fun f i => f ||| (res i).2) r.flags } ∧
        (∀ i ∈ activeEls r w, getEl q w.ty w.dst i = (res i).1 % 2 ^ elBits w.ty) ∧
        ∀ d i, i < 4096 → ¬(d = w.dst ∧ i ∈ activeEls r w) → getEl q w.ty d i = getEl r w.ty d i

/-- The fused, one-operand, conversion and move rows VMOVI, VFMA, VFNMA, VSQRT, VEXP2, VLOG2, VRCP, VRSQ, VTANH, VABS, VNEG, VCVT, VRNDI and VSEL,
element by element and under each type that they have: active elements take the row's value, VSEL's take it below `VL` by the selected mask; the flags
are those of all active elements; every other element of every register keeps its own. The values of the approximate functions, and the invalid flag
of ∞ × 0 with a NaN addend, are free within the spec's limits (log entries 2 and 4); that VSEL takes the flag of both operands is a reading (log entry 15). -/
def Obligations.VeOtherResults : Prop :=
  ∀ (s : State) (sid : Sid) (n : Nat) (j : Job) (a : Active) (r : Run), let e := envOf s j a r; let w := e.w; let m := modeOf a r; let act := activeEls r w
    let writes (c : Instr) (ty : Nat) (is : List Nat) (g : Nat → Nat × BitVec 8) : Prop := ∃ t q, exec c s = .next t ∧ RunIs s t sid n (went q (r.pc + 1)) ∧
      q = { r with vec := q.vec, badVec := q.badVec, flags := act.foldl (fun f i => f ||| (g i).2) r.flags } ∧
      ∀ d i, i < 4096 → getEl q ty d i = if d = w.dst ∧ i ∈ is then (g i).1 % 2 ^ elBits ty else getEl r ty d i
    let gives (c : Instr) (g : Nat → Nat × BitVec 8) : Prop := writes c w.ty act g
    let ca (i : Nat) : Nat := getEl r w.ty w.sa i
    let x (i : Nat) := elNum m w.ty (ca i)
    let y (i : Nat) := elNum m w.ty (srcB r w i)
    let z (i : Nat) := elNum m w.ty (getEl r w.ty w.sc i)
    let sig (i : Nat) : Bool := elSig w.ty (ca i)
    let sig3 (i : Nat) : Bool := sig i || elSig w.ty (srcB r w i) || elSig w.ty (getEl r w.ty w.sc i)
    let nv (i : Nat) (p : Machine.Num) : BitVec 8 :=
      flagIf (if mulInvalid (x i) (y i) then !(z i).isNan || freshEl e i % 2 == 1 else addInvalid p (z i)) fNV
    let fused (i : Nat) (p : Machine.Num) : Nat × BitVec 8 := fpResult m w.ty (sig3 i) (addRm (rmOf m) p (z i), nv i p)
    rising r.vec = true → r.vl ≤ 4096 →
    (Amid s sid n 0x17 j a r → gives (.vmovi sid n) fun i => (moveEl m w.ty (immEl w i), flagIf (elSig w.ty (immEl w i)) fNV)) ∧
    (Amid s sid n 0x23 j a r → gives (.vfma sid n) fun i => fused i ((x i).mul (y i))) ∧
    (Amid s sid n 0x24 j a r → gives (.vfnma sid n) fun i => fused i ((x i).mul (y i)).negate) ∧
    (Amid s sid n 0x26 j a r → gives (.vsqrt sid n) fun i => fpResult m w.ty (sig i) (sqrtNum (x i))) ∧
    (∀ c ∈ ([(.vexp2, 0x38), (.vlog2, 0x39), (.vrcp, 0x3A), (.vrsq, 0x3B), (.vtanh, 0x3C)] : List ((Sid → Nat → Instr) × Nat)),
      Amid s sid n c.2 j a r → gives (c.1 sid n) fun i => fpResult m w.ty (sig i) (approx c.2 w.ty (ca i) (x i))) ∧
    (Amid s sid n 0x29 j a r → w.ty ≠ 2 → gives (.vabs sid n) fun i => (moveEl m w.ty (ca i % signBit w.ty), flagIf (sig i) fNV)) ∧
    (Amid s sid n 0x2A j a r → w.ty ≠ 2 → gives (.vneg sid n) fun i => (moveEl m w.ty (ca i ^^^ signBit w.ty), flagIf (sig i) fNV)) ∧
    (Amid s sid n 0x2B j a r → writes (.vcvt sid n) (tyOfCode w.sc) act fun i =>
      ((convTo m (tyOfCode w.sc) (x i)).1, (convTo m (tyOfCode w.sc) (x i)).2 ||| flagIf (sig i) fNV)) ∧
    (Amid s sid n 0x2C j a r → gives (.vrndi sid n) fun i => (encodeFloat (tyFmt w.ty) (outMode m (tyFmt w.ty) (toIntegral (rmOf m) (x i))).1,
      if m.strict then flagIf (sig i) fNV ||| flagIf ((x i).isFinite && (x i).ratD != (toIntegral (rmOf m) (x i)).ratD) fNX else 0)) ∧
    (Amid s sid n 0x44 j a r → writes (.vsel sid n) w.ty (List.range r.vl) fun i =>
      (moveEl m w.ty (if chosen r w i then ca i else srcB r w i), flagIf (sig i) fNV ||| flagIf (elSig w.ty (srcB r w i)) fNV))

/-- Rows that complete, each with the state it leaves or what it keeps. SETVL, JMP, BZVL, BTQE, CURRUN, SETRM and END_RUN, VSCRIPT_RUN_START and
TILE_QUEUE_PUSH answer the state written here. VMOVI and the elementwise rows, among them VFMA, VFNMA, VSQRT, VCVT, VRNDI, VEXP2, VLOG2, VRCP, VRSQ,
VTANH and VSEL, go on to the next instruction, keep every element but those of their destination below `VL`, and take back no flag. -/
def Obligations.ScriptRowsComplete : Prop :=
  (∀ (s : State) (sid : Sid) (n : Nat) (j : Job) (a : Active) (r : Run),
    let e := envOf s j a r; let v := e.w.immv; let next : Run := { r with executed := r.executed + 1, pc := r.pc + 1 }
    (Amid s sid n 0x01 j a r → exec (.setvl sid n) s =
      .next (putRun s { next with vl := if e.w.sa = 15 then v else min v (slotElems e e.w.sa - r.cursors.getD e.w.sa 0) })) ∧
    (Stands s sid n 0x02 j a r → v < a.script.length → exec (.jmp sid n) s = .next (putRun s { next with pc := v })) ∧
    (Amid s sid n 0x03 j a r → r.vl ≠ 0 → exec (.bzvl sid n) s = .next (putRun s next)) ∧
    (Stands s sid n 0x03 j a r → r.vl = 0 → v < a.script.length → exec (.bzvl sid n) s = .next (putRun s { next with pc := v })) ∧
    (Stands s sid n 0x04 j a r → streamEnded e r = true → v < a.script.length →
      exec (.btqe sid n) s = .next (putRun s { next with pc := v, sawEnd := true })) ∧
    (Amid s sid n 0x04 j a r → streamEnded e r = false → ((nibTiles e r).any fun t => !t.queue.isEmpty) = true →
      exec (.btqe sid n) s = .next (putRun s next)) ∧
    (Amid s sid n 0x05 j a r → exec (.currun sid n) s = .next (putRun s { next with cursors := r.cursors.set e.w.sa (r.index * v) })) ∧
    (Amid s sid n 0x07 j a r → exec (.setrm sid n) s = .next (putRun s { next with rm := v % 8 })) ∧
    (Stands s sid n 0x06 j a r → 1 < a.runsLeft →
      exec (.endRun sid n) s = .next (putAct (putRun s { next with state := .ended }) { a with runsLeft := a.runsLeft - 1 }))) ∧
  (∀ (s : State) (sid : Sid) (n : Nat) (a : Active) (r : Run), actOf s sid = some a → runOf s sid n = some r →
    (a.stage = .running → r.state = .waiting → runsOn s r.panel r.nib < 4 → bobbinRoom s (byOhmub a) (r.panel, r.nib) = true →
      (r.panel, r.nib) ∈ a.held → exec (.vscriptRunStart sid n) s = .next (putRun (putAct (accrue s a.job s.clk.now) a) { r with state := .running })) ∧
    (r.state = .running → 2 ^ 24 ≤ r.executed → 1 < a.runsLeft → exec (.veInstructionLimit sid n) s =
      .next (putAct (putRun s { r with state := .faulted 3 r.pc }) { a with runsLeft := a.runsLeft - 1 }))) ∧
  (∀ (s : State) (sid : Sid) (k : Nat) (a : Active) (x y : Tile) (rest queue : List Tile), actOf s sid = some a →
    tget a.tiles k = some { stream := x :: y :: rest, queue := queue } → queue.length < 8 →
    ∃ t, exec (.tileQueuePush sid k) s = .next (putAct s { a with tiles := t }) ∧ tget t k = some { stream := y :: rest, queue := queue ++ [x] } ∧
      ∀ i, i ≠ k → tget t i = tget a.tiles i) ∧
  ∀ x ∈ ([(.vmovi, 0x17), (.vadd, 0x20), (.vsub, 0x21), (.vmul, 0x22), (.vfma, 0x23), (.vfnma, 0x24), (.vdiv, 0x25), (.vsqrt, 0x26), (.vmin, 0x27),
      (.vmax, 0x28), (.vabs, 0x29), (.vneg, 0x2A), (.vcvt, 0x2B), (.vrndi, 0x2C), (.vand, 0x30), (.vor, 0x31), (.vxor, 0x32), (.vshl, 0x33),
      (.vshr, 0x34), (.vexp2, 0x38), (.vlog2, 0x39), (.vrcp, 0x3A), (.vrsq, 0x3B), (.vtanh, 0x3C), (.vsel, 0x44)] : List ((Sid → Nat → Instr) × Nat)),
    ∀ (s : State) (sid : Sid) (n : Nat) (j : Job) (a : Active) (r : Run), Amid s sid n x.2 j a r → rising r.vec = true → r.vl ≤ 4096 →
      let w := (envOf s j a r).w
      let ty := if x.2 = 0x2B then tyOfCode w.sc else w.ty
      ∃ t q, exec (x.1 sid n) s = .next t ∧ runOf t sid n = some { q with executed := r.executed + 1, pc := r.pc + 1 } ∧
        t = { s with runs := t.runs, acts := t.acts, free := t.free } ∧ q = { r with vec := q.vec, badVec := q.badVec, flags := q.flags } ∧
        q.flags &&& r.flags = r.flags ∧ ∀ d i, i < 4096 → ¬(d = w.dst ∧ i < r.vl) → getEl q ty d i = getEl r ty d i

/-- Comparisons and mask operations write the bits of the active elements of one mask register, and no vector register. The reduction unit: a fold puts
the tree of each segment onto its accumulator and changes flags besides; RGET and RBCAST write accumulators, rounded, into a register; RSET writes each
active element exactly into its accumulator. -/
def Obligations.VeMasksAndReductions : Prop :=
  (∀ (s : State) (sid : Sid) (n : Nat) (j : Job) (a : Active) (r : Run), let w := (envOf s j a r).w; let m := modeOf a r
    let sets (c : Instr) (g : Nat → Bool) : Prop := ∃ t q, exec c s = .next t ∧ RunIs s t sid n (went q (r.pc + 1)) ∧ q.vec = r.vec ∧ q.acc = r.acc ∧
      (∀ i ∈ activeEls r w, maskAt q w.dst i = g i) ∧ ∀ d i, i < 4096 → ¬(d = w.dst ∧ i ∈ activeEls r w) → maskAt q d i = maskAt r d i
    r.vl ≤ 4096 →
    (Amid s sid n 0x40 j a r → sets (.vcmp sid n) fun i => predicate w.sc (elNum m w.ty (getEl r w.ty w.sa i)) (elNum m w.ty (srcB r w i))) ∧
    (Amid s sid n 0x41 j a r → sets (.mand sid n) fun i => maskAt r w.sa i && maskAt r w.sb i) ∧
    (Amid s sid n 0x42 j a r → sets (.mor sid n) fun i => maskAt r w.sa i || maskAt r w.sb i) ∧
    (Amid s sid n 0x43 j a r → sets (.mnot sid n) fun i => !maskAt r w.sa i)) ∧
  (∀ (s : State) (sid : Sid) (n : Nat) (j : Job) (a : Active) (r : Run), let w := (envOf s j a r).w; let m := modeOf a r; let act := activeEls r w
    let segs := ceilDiv r.vl (2 ^ w.sc)
    let segEls (k : Nat) : List Nat := (List.range (2 ^ w.sc)).filterMap fun i => if k * 2 ^ w.sc + i < r.vl then some (k * 2 ^ w.sc + i) else none
    let num (i : Nat) := decodeFloat (tyFmt w.ty) (getEl r w.ty w.sa i)
    let tree (f : Fold) (k : Nat) : Word64 := (((treeFold f.comb 13 ((segEls k).map fun i =>
      if act.contains i then (toFp64 (f.pre (num i)), elSig w.ty (getEl r w.ty w.sa i)) else (f.ident, false))).head?).getD (f.ident, false)).1
    let rounded (k : Nat) : Nat := (convTo m w.ty (ofFp64 (accAt r k))).1 % 2 ^ elBits w.ty
    let gets (c : Instr) (is : List Nat) (k : Nat → Nat) : Prop := ∃ t q, exec c s = .next t ∧ RunIs s t sid n (went q (r.pc + 1)) ∧
      q = { r with vec := q.vec, badVec := q.badVec, flags := q.flags } ∧
      ∀ d i, i < 4096 → getEl q w.ty d i = if d = w.dst ∧ i ∈ is then rounded (k i) else getEl r w.ty d i
    rising r.vec = true → rising r.acc = true → r.vl ≤ 4096 →
    (∀ x ∈ ([(.rsum, 0x50, foldSum), (.rssq, 0x51, foldSsq), (.rmax, 0x52, foldMaxOf), (.rmin, 0x53, foldMinOf), (.ramax, 0x54, foldAmax)] :
        List ((Sid → Nat → Instr) × Nat × Fold)),
      Amid s sid n x.2.1 j a r → segs ≤ 256 → ∃ t q, exec (x.1 sid n) s = .next t ∧ RunIs s t sid n (went q (r.pc + 1)) ∧
        q = { r with acc := q.acc, badAcc := q.badAcc, flags := q.flags } ∧
        (∀ k, k < segs → accAt q (w.immv + k) = (x.2.2.comb (accAt r (w.immv + k)) (tree x.2.2 k)).1) ∧
        ∀ i, (∀ k, k < segs → i % 256 ≠ (w.immv + k) % 256) → accAt q i = accAt r i) ∧
    (Amid s sid n 0x55 j a r → gets (.rget sid n) (List.range r.vl) fun i => w.immv + i) ∧
    (Amid s sid n 0x56 j a r → gets (.rbcast sid n) act fun _ => w.immv) ∧
    (Amid s sid n 0x57 j a r → r.vl ≤ 256 → ∃ t q, exec (.rset sid n) s = .next t ∧ RunIs s t sid n (went q (r.pc + 1)) ∧
      q = { r with acc := q.acc, badAcc := q.badAcc, flags := q.flags } ∧ (∀ i ∈ act, accAt q (w.immv + i) = toFp64 (num i)) ∧
      ∀ k, (∀ i ∈ act, k % 256 ≠ (w.immv + i) % 256) → accAt q k = accAt r k))

/-! ### Ends, responses, replays, commits -/

/-- STITCH_COMPLETE at the end of a finished stitch, `n` ns after its start: one that a comparison must come before is compared; a discarded stitch ends
without effect, a recomputed one leaves its record, consumed poison halts the job, a muted stitch does not signal, and any other is evaluated (a
shadowed one once compared). Heads that wait are planned again where a plan mark has changed, and a Blotter policy in force goes on. -/
def Obligations.StitchesEnd : Prop :=
  ∀ (s u : State) (sid : Sid) (n : Nat) (j : Job) (a : Active), actOf s sid = some a → a.stage = .finished → jobOf s a.job = some j →
    (a.marks.poisoned && mateRunning s a) = false → u = advance s (a.started.getD s.clk.now + n) →
    let ends (t : State) : Prop := exec (.stitchComplete sid n) s = .next (afterEnds t u)
    (comparesFirst u j a = true → ends (putAct u { a with stage := .comparing })) ∧
    (comparesFirst u j a = false →
      (a.marks.discarded = true → ends (endDiscarded u a)) ∧
      (a.marks.discarded = false → a.recompute = true → ends (endRecompute u a)) ∧
      (a.marks.discarded = false → a.recompute = false →
        (a.marks.poisoned = true → ends (consumePoison u a)) ∧
        (a.marks.poisoned = false →
          ((a.marks.mute || j.halted) = true → ends (leaveMuted u a)) ∧
          ((a.marks.mute || j.halted) = false →
            (a.marks.escalated = true → ends (releaseAct u a)) ∧
            (a.marks.escalated = false →
              (a.shadow = true → ends (putAct u { a with stage := .comparing })) ∧
              (a.shadow = false → ends (evaluateAct u j a)))))))

/-- What a completion does: the stitch leaves, the others stay as they are; its pin advances by its increment when its status signals, no other pin of
the job changes; the slot of a queue that is not a step queue is released. -/
def Obligations.CompletionEffects : Prop :=
  ∀ (s : State) (a : Active) (st : Nat) (j : Job) (q : Queue), jobsOk s.jobs = true → jobOf s a.job = some j → queueOf s a.queue = some q →
    j.halted = false → a.marks.discarded = false → a.marks.mute = false → a.marks.freed = false →
    ∃ t k r, completeWith s a st = t ∧ actOf t a.sid = none ∧ (∀ x, x ≠ a.sid → actOf t x = actOf s x) ∧ jobOf t a.job = some k ∧
      (∀ p, pinOf k p = if bit a.st.signal 31 && signals st && p == wPin a.st.signal then pinOf j p + BitVec.ofNat 32 (sInc a.st.signal) else pinOf j p) ∧
      k.halted = false ∧ k.committed = j.committed ∧ k.ring.completed = j.ring.completed + 1 ∧
      queueOf t a.queue = some r ∧ r = (if q.step then q else { q with free := q.free + 1 })

/-- WATCH_RESPONSE decides the response to a held stitch once its whole group is evaluated; STITCH_GROUP_REPLAY readmits each held member with its old
scales left to it and its counts at zero and touches no other stitch; STITCH_GROUP_REPLAY_DONE evaluates each again, after a comparison of
CRCs that a retired nib calls for; STEP_REPLAY starts the replay that was requested. What the end of a stitch brings after it follows. -/
def Obligations.ResponsesAndReplays : Prop :=
  (∀ (s : State) (sid : Sid) (j : Job) (a : Active) (p q : State × Active) (r : Response), actOf s sid = some a → jobOf s a.job = some j → undecided a = true →
    (groupMembers s a).all evaluated = true → j.halted = false → r = respond s j a (groupMembers s a) → p = countOccurrences s a r →
    q = applyResponse p.1 p.2 r → exec (.watchResponse sid) s = .next (afterEnds (settleGroup (putAct q.1 q.2) q.2) s)) ∧
  (∀ (s : State) (sid : Sid) (j : Job) (a : Active), actOf s sid = some a → jobOf s a.job = some j → (groupMembers s a).all evaluated = true →
    (groupMembers s a).any undecided = false → (groupMembers s a).any (fun b => b.marks.toReplay) = true → j.halted = false → j.step.rewinding = false →
    ∃ t, exec (.stitchGroupReplay sid) s = .next t ∧ t = { s with mem := t.mem, host := t.host, jobs := t.jobs, acts := t.acts } ∧
      ∀ k b, actOf s k = some b → ∃ c, actOf t k = some c ∧
        if (groupMembers s a).any (fun x => x.stage == .held && x.sid == b.sid) then
          c.stage = .replaying ∧ c.st = { b.st with scaleSrc := false } ∧ c.counts = {} ∧ c.conds = [] ∧ c.started = b.started ∧ c.out = b.out
        else c = b) ∧
  (∀ (s : State) (sid : Sid) (j : Job) (a : Active), actOf s sid = some a → jobOf s a.job = some j → a.stage = .replayed → groupMembers s a = [a] →
    a.marks.poisoned = false → a.marks.discarded = false → a.marks.mute = false → j.halted = false → (a.marks.escalated && a.marks.halts) = false →
    (a.shadow = false → exec (.stitchGroupReplayDone sid) s = .next (afterEnds (replayOutcome s j a) s)) ∧
    (a.shadow = true → exec (.stitchGroupReplayDone sid) s = .next (putAct s { a with stage := .comparing, shadow := false, resume := some .replayed }))) ∧
  ∀ (s : State) (job : Nat) (j : Job), jobOf s job = some j → j.step.replayRequested = true → j.step.rewinding = false → j.halted = false →
    exec (.stepReplay job) s = .next (startStepReplay s job)

/-- COMMIT starts once no stitch of the step is held, in a halted job too; COMMIT_VOTE_SEND puts the part's vote out, keeps the levels that it demands and
puts the step in doubt; the vote's result halts the job and aborts its COMMIT, replays the step, or commits it at the levels of the result, once no
stitch of the step is held. -/
def Obligations.CommitRows : Prop :=
  (∀ (s : State) (sid : Sid) (j : Job) (a : Active), jobsOk s.jobs = true → actOf s sid = some a → jobOf s a.job = some j → a.st.opcode = opCommit →
    a.stage = .waiting → stepHeld s a.job = false → j.step.commitSid = none →
    ∃ t k b, exec (.commit sid) s = .next t ∧ t = { s with jobs := t.jobs, acts := t.acts } ∧ jobOf t a.job = some k ∧
      k = { j with step := { j.step with commitSid := some sid, starts := k.step.starts } } ∧
      (∀ x ∈ j.step.starts, x ∈ k.step.starts) ∧ (onStepQueue s a = true → (k.step.starts.any fun x => x.1 == a.sid) = true) ∧
      actOf t sid = some b ∧ b = { a with stage := .running, started := some s.clk.now }) ∧
  (∀ (s : State) (job : Nat) (j : Job), jobsOk s.jobs = true → jobOf s job = some j → j.step.commitSid.isSome = true → j.step.voteSent = false →
    stepHeld s job = false → journalClear s j = true →
    ∃ t k, exec (.commitVoteSend job) s = .next t ∧ t.out.votes = s.out.votes ++ [(job, voteOf j)] ∧ jobOf t job = some k ∧
      k = { j with step := { j.step with voteSent := true, voted := (voteOf j).levels }, inDoubt := true } ∧ t.acts = s.acts ∧ t.mem = s.mem) ∧
  ∀ (s : State) (job : Nat) (v : Vote) (j : Job), jobOf s job = some j → j.step.commitSid.isSome = true → j.step.voteSent = true →
    ((j.halted = true ∨ v.halt = true ∨ v.step ≠ BitVec.ofNat 64 (j.committed + 1)) →
      exec (.commitVoteResult job v) s = .next (abortUnstarted (haltJob s job) fun a => a.job == job && a.st.opcode == opCommit && a.started.isSome)) ∧
    (j.halted = false → v.halt = false → v.step = BitVec.ofNat 64 (j.committed + 1) →
      (v.replay = false → stepHeld s job = false → exec (.commitVoteResult job v) s = .next (commitStep s job v.levels)) ∧
      (v.replay = false → stepHeld s job = true → exec (.commitVoteResult job v) s = .next s) ∧
      (v.replay = true → j.step.replayRequested = true → exec (.commitVoteResult job v) s = .next (startStepReplay (putJob s j) job)) ∧
      (v.replay = true → j.step.replayRequested = false →
        exec (.commitVoteResult job v) s = .next (startStepReplay (putJob s { j with step := { j.step with replayTag := 0, replayCond := 0 } }) job)))

/-- STASH_MOVE_COMPLETE: the record lies where it moved to, with its bytes and its `LOC`; a copy in the host window stands there. STASH_RECALL_COMPLETE
puts a record from the peer back where the kept area has a gap for it. STASH_FREE releases the record once earlier reads have finished.
STASH_RECOMPUTE admits the writers of a record that is not kept, ahead of its reader, where there is room for what they write. -/
def Obligations.BlotterRows : Prop :=
  (∀ (s : State) (job handle : Nat) (j : Job) (r : BlotRec) (l : Loc), jobsOk s.jobs = true → Memory.wf s.mem.bytes = true →
    Memory.wcbOk s.mem.wcb = true → jobOf s job = some j → j.blot.recs = [r] → r.handle = handle → r.loc = .kept → r.moving = some l →
    (l = .atPeer ∨ l = .atHost) →
    ∃ t k q, exec (.stashMoveComplete job handle) s = .next t ∧ t = { s with mem := t.mem, host := t.host, jobs := t.jobs } ∧ jobOf t job = some k ∧
      k.blot.recs = [q] ∧ q.loc = l ∧ q.moving = none ∧ q.handle = r.handle ∧ q.recalling = beingRead s job handle ∧
      q.movedBad = rangePoison s r.addr r.bytes ∧ (∀ x, frameRetired s.mem x = false → memByte t.mem x = memByte s.mem x) ∧
      (l = .atPeer → q.moved = withLoc (rdBytes s r.addr r.bytes) .atPeer ∧ t.host = s.host) ∧
      (l = .atHost → t.host = (wrHost s r.hostAddr (withLoc (rdBytes s r.addr r.bytes) .atHost)).host)) ∧
  (∀ (s : State) (job handle addr : Nat) (j : Job) (r : BlotRec), jobsOk s.jobs = true → Memory.wf s.mem.bytes = true → Memory.wcbOk s.mem.wcb = true →
    jobOf s job = some j → j.blot.recs.find? (fun q => q.handle == handle && q.recalling && (q.loc == .atPeer || q.loc == .atHost)) = some r →
    r.loc = .atPeer → placeAt s job .kept r.bytes = some (s, addr) → inHost addr = false → r.movedBad = false →
    ∃ t k, exec (.stashRecallComplete job handle) s = .next t ∧ t = { s with mem := t.mem, jobs := t.jobs } ∧ jobOf t job = some k ∧
      k.blot.recs = (j.blot.recs.filter fun q => q != r) ++ [{ r with loc := .kept, addr := addr, moved := [], movedBad := false, recalling := false }] ∧
      ∀ x, frameRetired s.mem x = false →
        memByte t.mem x = if addr ≤ x ∧ x < addr + r.moved.length then (withLoc r.moved .kept).getD (x - addr) 0 else memByte s.mem x) ∧
  (∀ (s : State) (sid : Sid) (a : Active) (o : Operand), actOf s sid = some a → a.st.opcode = opStashFree → mayExecute a = true → opnd a 0 = some o →
    (((earlier s sid).filter fun b => b.job == a.job).all fun b => readsDone b || !(readHandles b).contains o.desc.handle) = true →
    exec (.stashFree sid) s = .next (updJob (finishExec s a {}) a.job fun j => relaxPolicy
      { j with blot := { j.blot with recs := j.blot.recs.filter fun r => !(r.handle == o.desc.handle && r.written) } })) ∧
  ∀ (s : State) (sid : Sid) (a : Active) (j : Job) (o : Operand) (r : BlotRec) (u v : State), actOf s sid = some a → jobOf s a.job = some j →
    a.stage = .waiting → recordReads a = [o] → o.desc.stash = true → recordFor j o.desc.handle = some r → needsRecompute j r = true →
    (s.acts.any fun b => b.job == a.job && b.recompute) = false → reserveAll s (recomputeSet s j r) = (u, none) →
    v = stashEvent u j 4 r.handle r.tag r.mb →
    exec (.stashRecompute sid) s = .next { v with
      acts := (v.acts.takeWhile fun b => b.sid != sid) ++ recomputeSet s j r ++ v.acts.dropWhile fun b => b.sid != sid }

/-! ### Strokes -/

/-- A stroke edge of the timebase, at the time that the period and the steering give: the stroke number is one more, the time has come to the edge, and
every UP port is handed the mark of the new stroke, with its own tally. An edge of the reference input within 1 µs of that time does the same at its own
time and counts no reference edge as missing; while `SOURCE` stays 2 it ends holdover. An edge that comes too early by more ends the stroke all the
same. -/
def Obligations.StrokeEdgeAdvances : Prop :=
  (∀ s : State, (s.clk.source != 2 || s.clk.holdover) = true →
    ∃ t, exec .strokeEdge s = .next t ∧ t.clk.stroke = s.clk.stroke + 1 ∧ t.clk.edge = nextEdge s ∧ t.clk.now = max s.clk.now (nextEdge s) ∧
      t.clk.steer = 0 ∧ ∀ p, p < 64 → (portOf s p).lstate = .up →
        ∃ m, (p, m, markCrc m) ∈ t.out.marks ∧ m.stroke = s.clk.stroke + 1 ∧ m.tally = (portOf s p).markTallyOut) ∧
  (∀ (s : State) (time : Nat), s.clk.source = 2 → ((time : Int) - (nextEdge s : Int)).natAbs ≤ 1000 →
    ∃ t, exec (.strokeRefEdge time) s = .next t ∧ t.clk.stroke = s.clk.stroke + 1 ∧ t.clk.edge = time ∧ t.clk.now = max s.clk.now time ∧
      t.clk.refMisses = 0 ∧ (s.clk.nextSource = 2 → t.clk.holdover = false) ∧ ∀ p, p < 64 → (portOf s p).lstate = .up →
        ∃ m, (p, m, markCrc m) ∈ t.out.marks ∧ m.stroke = s.clk.stroke + 1 ∧ m.tally = (portOf s p).markTallyOut) ∧
  ∀ (s : State) (time : Nat), s.clk.source = 2 → s.clk.holdover = false → s.clk.refMisses = 0 → time + 1000 < nextEdge s →
    ∃ t, exec (.strokeRefEdge time) s = .next t ∧ t.clk.stroke = s.clk.stroke + 1 ∧ t.clk.edge = time ∧ t.clk.refMisses = 1

/-- Marks. A mark with its CRC and a tally of its own, within 1 µs of the nearest edge, on a port that the part follows, gives root, hops, period and
reserve; more than 50 ns off, or with another number, it gives its edge and number too, and otherwise it steers the timebase by at most 1 ns. A mark
with a bad CRC is missed; a repeated one is dropped. A missed mark is counted, and the third in a row takes the port down. HOLDOVER_TIMEOUT: 20 ms of
holdover make a health record with code 0x0104. STROKE_REF_MISSING: the stroke goes on from the timebase, and the third missing edge in a row is
holdover. -/
def Obligations.MarksAndHoldover : Prop :=
  (∀ (s : State) (port arrival root : Nat) (m : Mark), (portOf s port).lstate = .up →
    (∀ crc, crc ≠ markCrc m → exec (.strokeMarkReceive port m crc arrival) s = .next (missMark (advance s arrival) port)) ∧
    ((portOf s port).markTally = some m.tally → exec (.strokeMarkReceive port m (markCrc m) arrival) s = .next (advance s arrival)) ∧
    ((portOf s port).markTally ≠ some m.tally → followsPort s port = true → s.clk.nextSource = 1 →
      root = arrival - (portOf s port).delayNs.toNat - 64 → ((root : Int) - ((nearestEdge s root).1 : Int)).natAbs ≤ 1000 →
      ∃ t, exec (.strokeMarkReceive port m (markCrc m) arrival) s = .next t ∧ (portOf t port).markTally = some m.tally ∧ (portOf t port).missedRun = 0 ∧
        t.clk.root = m.root ∧ t.clk.hops = m.hops + 1 ∧ t.clk.periodUs = m.periodUs ∧ t.clk.xchPct = m.xchPct ∧ t.clk.nextPeriodUs = m.nextUs ∧
        ((50 < ((root : Int) - ((nearestEdge s root).1 : Int)).natAbs ∨ (nearestEdge s root).2 ≠ m.stroke.toNat) →
          t.clk.edge = root ∧ t.clk.stroke = m.stroke) ∧
        (((root : Int) - ((nearestEdge s root).1 : Int)).natAbs ≤ 50 → (nearestEdge s root).2 = m.stroke.toNat →
          t.clk.edge = s.clk.edge ∧ t.clk.stroke = s.clk.stroke ∧ t.clk.steer = max (-1) (min 1 ((root : Int) - ((nearestEdge s root).1 : Int)))))) ∧
  (∀ (s : State) (port : Nat), (portOf s port).lstate = .up →
    ∃ t, exec (.strokeMarkMissed port) s = .next t ∧ (portOf t port).marksMissed = satInc (portOf s port).marksMissed ∧
      ((portOf s port).missedRun < 2 → (portOf t port).lstate = .up ∧ (portOf t port).missedRun = (portOf s port).missedRun + 1) ∧
      (2 ≤ (portOf s port).missedRun → (portOf t port).lstate = .down) ∧ ∀ k, k ≠ port → portOf t k = portOf s k) ∧
  (∀ s : State, s.clk.holdover = true →
    ∃ t h, exec .holdoverTimeout s = .next t ∧ t.clk.now = max s.clk.now (s.clk.holdoverSince + 20000000) ∧ tget t.mgmt.ring s.mgmt.hseq = some h ∧
      h.hcode = 0x0104 ∧ h.severity = 1 ∧ h.hseq = s.mgmt.hseq ∧ t.mgmt.hseq = s.mgmt.hseq + 1 ∧ t.jobs = s.jobs ∧ t.mem = s.mem) ∧
  ∀ s : State, s.clk.source = 2 → s.clk.holdover = false →
    ∃ t, exec .strokeRefMissing s = .next t ∧ t.clk.stroke = s.clk.stroke + 1 ∧ t.clk.edge = nextEdge s ∧ t.clk.refMisses = s.clk.refMisses + 1 ∧
      (2 ≤ s.clk.refMisses → t.clk.holdover = true)

/-! ### Links -/

/-- FLIT_SEND: an UP port, none of whose flits has been sent fifteen times without an answer, sends exactly one flit, with its `FACK` and its CRC: a
control flit that waits, the one due after 127 others, a flit to be sent again, a data flit of the lane next in order, the first by that lane's own
order, which takes the next `FSEQ`, a credit and a place in the retry buffer, or an idle one. -/
def Obligations.OneFlitLeaves : Prop :=
  ∀ (s : State) (port : Nat) (x : Port), portOf s port = x → x.lstate = .up → (∀ q, tgetD x.sent q 0 < 15) →
    ∃ t f, exec (.flitSend port) s = .next t ∧ t.out.flits = s.out.flits ++ [(port, f)] ∧ f.fack = (x.expectFseq + 4095) % 4096 ∧ f.crc = flitCrc f ∧
      t = { s with fab := t.fab, pair := t.pair, out := t.out } ∧ (∀ k, k ≠ port → portOf t k = portOf s k) ∧
      (∀ c rest, x.ctrlOut = c :: rest → f.kind = .ctrl ∧ f.ctrl = c ∧ (portOf t port).ctrlOut = rest ∧ (portOf t port).sinceCtrl = 0) ∧
      (x.ctrlOut = [] →
        (127 ≤ x.sinceCtrl → f.kind = .ctrl ∧ (portOf t port).sinceCtrl = 0) ∧
        (x.sinceCtrl < 127 →
          (∀ g rest, x.resend = g :: rest → f.fseq = g.fseq ∧ f.hdr = g.hdr ∧ f.payload = g.payload ∧ (portOf t port).resend = rest) ∧
          (x.resend = [] →
            ((2048 ≤ x.retry.length ∨ nextLane s x = none) → f.kind = .idle ∧ (portOf t port).retry = x.retry) ∧
            ∀ r, x.retry.length < 2048 → nextLane s x = some r →
              f.vl = r.1 ∧ f.fseq = x.nextFseq ∧ (portOf t port).nextFseq = (x.nextFseq + 1) % 4096 ∧ (portOf t port).retry.length = x.retry.length + 1 ∧
                tgetD (portOf t port).credits r.1 0 = tgetD x.credits r.1 0 - 1 ∧ laneOut (portOf t port) r.1 = (laneNow s x r.1).tail ∧
                ∀ g, (laneNow s x r.1).head? = some g → f.hdr = g.hdr ∧ f.payload = g.payload)))

/-- FLIT_RECEIVE: a flit with a bad CRC starts discarding and asks once for the expected one; what a good flit's `FACK` covers leaves the retry
buffer; the next expected data flit is taken, and its message arrives with its last flit; a flit ahead of the expected one starts discarding. NAK: the
retry buffer is sent again from the named flit. -/
def Obligations.FlitsArrive : Prop :=
  (∀ (s : State) (port : Nat) (f : Flit) (x : Port), portOf s port = x → x.lstate = .up → x.discarding = false → f.crc ≠ flitCrc f →
    ∃ t, exec (.flitReceive port f ⟨false, 0⟩) s = .next t ∧ t = { s with fab := t.fab } ∧ (portOf t port).discarding = true ∧
      (portOf t port).ctrlOut = x.ctrlOut ++ [.nakFor x.expectFseq] ∧ (portOf t port).expectFseq = x.expectFseq ∧ t.fab.arrived = s.fab.arrived) ∧
  (∀ (s : State) (port : Nat) (f : Flit) (x : Port), portOf s port = x → x.lstate = .up → f.crc = flitCrc f → f.kind = .data → f.fseq = x.expectFseq →
    f.vl ≠ 0 → f.vl ≠ 7 →
    ∃ t, exec (.flitReceive port f ⟨false, 0⟩) s = .next t ∧ t = { s with fab := t.fab } ∧ (portOf t port).expectFseq = (x.expectFseq + 1) % 4096 ∧
      (portOf t port).discarding = false ∧ (portOf t port).retry = x.retry.filter (fun g => decide (2048 ≤ (f.fack + 4096 - g.fseq) % 4096)) ∧
      (f.som = true → f.eom = true → t.fab.arrived = s.fab.arrived ++
        [{ port := port, vl := f.vl, flits := 1, hdr := f.hdr, data := f.payload.take f.hdr.len, marks := f.marks, source := f.source }]) ∧
      (f.eom = false → t.fab.arrived = s.fab.arrived)) ∧
  (∀ (s : State) (port : Nat) (f : Flit) (x : Port), portOf s port = x → x.lstate = .up → x.discarding = false → f.crc = flitCrc f → f.kind = .data →
    f.fseq ≠ x.expectFseq → 2048 < (x.expectFseq + 4096 - f.fseq) % 4096 →
    ∃ t, exec (.flitReceive port f ⟨false, 0⟩) s = .next t ∧ (portOf t port).discarding = true ∧ (portOf t port).ctrlOut = x.ctrlOut ++ [.nakFor x.expectFseq] ∧
      (portOf t port).expectFseq = x.expectFseq) ∧
  ∀ (s : State) (port fseq : Nat) (x : Port), portOf s port = x → x.lstate = .up →
    ∃ t, exec (.nak port fseq) s = .next t ∧ t = { s with fab := t.fab } ∧ (portOf t port).retry = x.retry ∧
      (portOf t port).resend = x.retry.filter (fun f => decide ((f.fseq + 4096 - fseq) % 4096 < 2048)) ∧ ∀ k, k ≠ port → portOf t k = portOf s k

/-- The states of a port: training starts on an enabled port, ends UP with fresh sequence numbers and the credits of the table when the peer is
another station within 1,000 ns, and DOWN otherwise or when its time is over, with a wait that doubles up to 64 s; an UP port retrains and keeps its
retry buffer, and the eighth time within a second takes it DOWN; a retrain that succeeds is UP again, with its peer and its retry buffer to send again,
and one that fails is DOWN; the peer's down flit takes a port DOWN; Ohmub trains a DOWN port again after its wait; a stalled message is dropped. -/
def Obligations.PortStates : Prop :=
  ∀ (s : State) (port : Nat) (x : Port), portOf s port = x →
    (port < 64 → portEnabled s port = true → x.lstate = .disabled → exec (.portTrainStart port) s = .next (putPort s port { x with lstate := .training })) ∧
    (∀ st pp d, x.lstate = .training →
      (st ≠ s.fab.station → d ≤ 1000 → ∃ t, exec (.portTrainComplete port st pp d) s = .next t ∧ (portOf t port).lstate = .up ∧
        (portOf t port).peerStation = BitVec.ofNat 20 st ∧ (portOf t port).nextFseq = 0 ∧ (portOf t port).expectFseq = 0 ∧ (portOf t port).backoffS = 0 ∧
        ∀ vl, vl < 8 → tgetD (portOf t port).credits vl 0 = laneCredits vl) ∧
      ((st = s.fab.station ∨ 1000 < d) → exec (.portTrainComplete port st pp d) s = .next (goDown s port))) ∧
    (x.lstate = .training → ∃ t, exec (.portTrainTimeout port) s = .next t ∧ (portOf t port).lstate = .down ∧ (portOf t port).retry = [] ∧
      (portOf t port).backoffS = (if x.backoffS = 0 then 1 else min 64 (2 * x.backoffS)) ∧ ∀ k, k ≠ port → portOf t k = portOf s k) ∧
    (x.lstate = .up → (recentRetrains s x).length < 7 → ∃ t, exec (.retrain port) s = .next t ∧ (portOf t port).lstate = .retrain ∧
      (portOf t port).retrains = satInc x.retrains ∧ (portOf t port).retry = x.retry) ∧
    (x.lstate = .up → 7 ≤ (recentRetrains s x).length → ∃ t, exec (.retrain port) s = .next t ∧ (portOf t port).lstate = .down) ∧
    (∀ st pp d, x.lstate = .retrain → st ≠ s.fab.station → d ≤ 1000 → ∃ t, exec (.retrainComplete port ⟨st, pp, d⟩ true) s = .next t ∧
      (portOf t port).lstate = .up ∧ (portOf t port).peerStation = BitVec.ofNat 20 st ∧ (portOf t port).resend = x.retry ∧ (portOf t port).retry = x.retry ∧
      t = { s with fab := t.fab }) ∧
    (∀ hello, x.lstate = .retrain → exec (.retrainComplete port hello false) s = .next (goDown s port)) ∧
    ((x.lstate = .up ∨ x.lstate = .retrain ∨ x.lstate = .training) → exec (.linkDownFlit port) s = .next (goDown s port)) ∧
    (x.lstate = .down → portEnabled s port = true → ∃ t, exec (.portRetryTimer port) s = .next t ∧ (portOf t port).lstate = .training ∧
      t.clk.now = max s.clk.now (x.downSince + x.backoffS * 1000000000)) ∧
    ∀ lane f rest, x.lstate = .up → laneNow s x lane = f :: rest → tgetD x.credits lane 0 = 0 →
      ∃ t n, exec (.flitStallTimeout port lane) s = .next t ∧ t = { s with fab := t.fab } ∧ laneOut (portOf t port) lane = (laneNow s x lane).drop n ∧
        n = ((laneNow s x lane).takeWhile fun f => !f.eom).length + 1

/-! ### Messages of the fabric -/

/-- MESSAGE_FORWARD: the flits of a message that has arrived return their credits on the port that received it. A message for this part is delivered;
one at 15 hops or without a route is discarded and counted (the second told to its source), and any other leaves on the port that the route gives, with
one hop more. A `RED_UP` for this part that finds no reduction memory waits. -/
def Obligations.MessagesAreForwarded : Prop :=
  (∀ (s : State) (h : MsgHdr) (data : List Byte) (x : Arrived), s.fab.arrived.find? (fun x => x.hdr == h && x.data == data) = some x →
    ∃ u, routedCredits s h data = (u, some x) ∧ u = { s with fab := u.fab } ∧ u.fab.arrived = s.fab.arrived.erase x ∧
      tgetD (portOf u x.port).creditsOwed x.vl 0 = tgetD (portOf s x.port).creditsOwed x.vl 0 + x.flits ∧ ∀ k, k ≠ x.port → portOf u k = portOf s k) ∧
  (∀ (s u : State) (h : MsgHdr) (data : List Byte) (o : Option Arrived) (vl : Nat) (m : InMsg), routedCredits s h data = (u, o) →
    vl = o.elim (laneOf h.mtype) (·.vl) →
    m = { hdr := h, data := data, marks := o.elim [] (·.marks), source := o.bind (·.source), die := o.elim 0 fun x => x.port / 16 } →
    (noRedRoom s h data = false → (answersTo s h.dst || answersTo s h.rdst) = true → exec (.messageForward h data) s = .next (deliverHere u m) ∧
      (deliverHere u m).fab.inbox = s.fab.inbox ++ [m]) ∧
    (answersTo s h.dst = false → answersTo s h.rdst = false →
      (h.hops = 15 → exec (.messageForward h data) s = .next { u with fab := { u.fab with hopLimit := satInc s.fab.hopLimit } }) ∧
      (h.hops ≠ 15 → routeMask u h.rdst = [] →
        exec (.messageForward h data) s = .next (unreachTo { u with fab := { u.fab with noRoute := satInc u.fab.noRoute } } h)) ∧
      ∀ p, routeHop u h.rdst h.hops vl none = .port p → ∃ t, exec (.messageForward h data) s = .next t ∧ t = { s with fab := t.fab } ∧
        laneOut (portOf t p) vl = laneOut (portOf u p) vl ++ flitsOf { h with hops := h.hops + 1 } vl data m.marks m.source ∧
        ∀ k, k ≠ p → portOf t k = portOf u k)) ∧
  ∀ (s : State) (h : MsgHdr) (data : List Byte), answersTo s h.dst = true → noRedRoom s h data = true → exec (.messageForward h data) s = .next s

/-- WRITE of a SEND: the first of its messages to arrive brings the checks of the destination, paired with the source that it describes; when they fail the
message is refused with their status and no byte is written, and every later one is refused so too; when they pass, each puts its bytes into the
destination, with its poison, and is acknowledged. WRITE_END: pending bytes of the destination drain, the named pin advances once, when the message
signals, and the message is acknowledged; a second one is acknowledged alone, and that of a refused SEND, or one that names no pin of the job, is
refused. -/
def Obligations.SendsArrive : Prop :=
  (∀ (s u : State) (h : MsgHdr) (src : SendSource) (data : List Byte) (marks : List Nat) (j : Job) (m : InMsg) (st : Nat), Taken s h data j →
    u = takeInbox s h data → m = inMsg s h data marks (some src) → st = destStatus u j (argBits h 95 64) m.source →
    rxFind u j.id h.src (argBits h 63 32) = none →
    (st ≠ 0 → ∃ v r, exec (.write h src data marks) s = .next (nackTo v h 3 st) ∧ v = putRx u r ∧ r.src = h.src ∧ r.refused = st ∧ v.mem = s.mem) ∧
    ∀ o, st = 0 → readOperand u j (argBits h 95 64) = some o →
      ∃ r, exec (.write h src data marks) s = .next (ackTo (putStream (putRx u r) none o (64 * argBits h 31 0) data m.marks) h 3) ∧
        r.src = h.src ∧ r.refused = 0 ∧ r.done = false ∧ r.epoch = h.epoch) ∧
  (∀ (s u : State) (h : MsgHdr) (src : SendSource) (data : List Byte) (marks : List Nat) (j : Job) (r : RxSend), Taken s h data j →
    u = takeInbox s h data → rxFind u j.id h.src (argBits h 63 32) = some r →
    (r.refused ≠ 0 → exec (.write h src data marks) s = .next (nackTo (putRx u r) h 3 r.refused)) ∧
    ∀ o, r.refused = 0 → r.dst = some o →
      exec (.write h src data marks) s =
        .next (ackTo (putStream (putRx u r) none o (64 * argBits h 31 0) data (inMsg s h data marks (some src)).marks) h 3)) ∧
  ∀ (s : State) (h : MsgHdr) (j : Job) (r : RxSend), jobsOk s.jobs = true → jobOf s j.id = some j → Taken s h [] j →
    rxFind (takeInbox s h []) j.id h.src (argBits h 95 64) = some r →
    (r.refused ≠ 0 → exec (.writeEnd h) s = .next (nackTo (takeInbox s h []) h 3 r.refused)) ∧
    (r.refused = 0 → r.done = true → exec (.writeEnd h) s = .next (ackTo (takeInbox s h []) h 3)) ∧
    (r.refused = 0 → r.done = false → bit h.arg.toNat 27 = true → j.pinCount ≤ argBits h 63 44 →
      exec (.writeEnd h) s = .next (nackTo (putRx (takeInbox s h []) { r with refused := adPinRange }) h 3 adPinRange)) ∧
    (r.refused = 0 → r.done = false → (bit h.arg.toNat 27 = true → argBits h 63 44 < j.pinCount) → j.halted = false →
      ∃ u k, exec (.writeEnd h) s = .next (ackTo u h 3) ∧ jobOf u j.id = some k ∧ u = { s with fab := u.fab, jobs := u.jobs, mem := u.mem } ∧
        (∀ p, pinOf k p = if bit h.arg.toNat 27 && p == argBits h 63 44 then pinOf j p + BitVec.ofNat 32 (argBits h 43 28) else pinOf j p) ∧
        (Memory.wf s.mem.bytes = true → Memory.wcbOk s.mem.wcb = true →
          ∀ x, frameRetired s.mem x = false → memByte u.mem x = memByte s.mem x))

/-- An answer frees its transaction, whose entry a waiting message may take. After an ACK a SEND whose every WRITE is acknowledged sends its WRITE_END,
and any other stitch ends if nothing of it is outstanding; a NACK aborts a running stitch with the receiver's status. An UNREACH, or no answer within
2 ms, sends the message again once, and after that the destination is lost. A message held for 2 ms is discarded and counted as stale. -/
def Obligations.AnswersAndTimeouts : Prop :=
  (∀ (s u : State) (h : MsgHdr) (x : Trans), answered (takeInbox s h []) h = some x → u = freeTrans (takeInbox s h []) x →
    (x.sid.bind (actOf u) = none → exec (.ack h) s = .next u) ∧
    ∀ a, x.sid.bind (actOf u) = some a →
      (a.st.opcode ≠ opSend → exec (.ack h) s = .next (groundCheck u a.sid)) ∧
      (a.st.opcode = opSend → a.stage = .running → a.allSent = false → outstanding u a.sid = false → exec (.ack h) s = .next (sendEnd u a)) ∧
      (a.stage = .running → partnerRefusal (takeInbox s h []) h = false →
        exec (.nack h) s = .next (abortGround u a h.src (argBits h 83 76) (msgColl x.hdr)))) ∧
  (∀ (s : State) (h : MsgHdr) (x : Trans), answered (takeInbox s h []) h = some x → exec (.unreach h) s = .next (retryTrans (takeInbox s h []) x)) ∧
  (∀ (s u : State) (die tag p : Nat) (x : Trans), transOf s die tag = some x → x.resent = false → u = advance s (x.injectedAt + 2000000) →
    routeHop u (rdstOf u x.hdr.dst) x.hdr.hops x.vl (some x.firstPort) = .port p →
    ∃ t y, exec (.transactionTimeout die tag) s = .next t ∧ transOf t die tag = some y ∧ y.resent = true ∧ y.firstPort = p ∧ y.hdr.dst = x.hdr.dst ∧
      y.data = x.data ∧ laneOut (portOf t p) x.vl = laneOut (portOf s p) x.vl ++ flitsOf y.hdr x.vl x.data x.marks x.source) ∧
  (∀ (s : State) (die tag : Nat) (x : Trans), transOf s die tag = some x → x.resent = true →
    exec (.transactionTimeout die tag) s = .next (transLost (advance s (x.injectedAt + 2000000)) x)) ∧
  ∀ (s u : State) (k : Nat) (m : HeldMsg), s.fab.held[k]? = some m → u = advance s (m.since + 2000000) →
    exec (.heldMessageTimeout k) s = .next (wakeWaiting
      { u with fab := { s.fab with held := s.fab.held.eraseIdx k, stale := satInc s.fab.stale } } (heldDie m))

/-- RED_UP from a child of a node: its blocks that the node has not heard from that child join the node's, the child's leaf count is kept, and the
message is acknowledged; where there is no reduction memory for them, it waits. RED_DOWN from the parent brings a multicast its data and a reduction its
total; from any other station it is malformed. -/
def Obligations.CollectiveMessages : Prop :=
  (∀ (s u v : State) (h : MsgHdr) (data : List Byte) (given bad : Bool) (j : Job) (n m : RedNode) (a : Active), u = takeInbox s h data → Taken s h data j →
    bad = !(inMsg s h data (markAll given data) none).marks.isEmpty → msgNode u j h = some n → nodeAct u n = some a →
    n.children.idxOf h.src < n.children.length →
    (∀ k, n.size = some k → ∀ c ∈ upContribs (collOp a.st) (argBits h 24 0) data bad, c.1 < k) →
    (overMemory u n (freshContribs a n h data bad) = true → exec (.redUp h data given) s = .next s) ∧
    (overMemory u n (freshContribs a n h data bad) = false →
      m = contribute a { n with childLeaves := tset n.childLeaves (n.children.idxOf h.src) (argBits h 41 25) } (n.children.idxOf h.src) h.src
        (freshContribs a n h data bad) →
      v = ackTo (putNode u m) h 2 → exec (.redUp h data given) s = .next (nodeStep v j ((actOf v a.sid).getD a) m))) ∧
  ∀ (s u : State) (h : MsgHdr) (source : Option SendSource) (data : List Byte) (marks : List Nat) (j : Job) (n : RedNode) (a : Active) (m : InMsg),
    u = takeInbox s h data → Taken s h data j → m = inMsg s h data marks source → msgNode u j h = some n → actOf u n.sid = some a →
    (n.parent = some h.src →
      (a.st.opcode = opMulticast → exec (.redDown h ⟨source, data⟩ marks) s = .next (castArrives u j a n m)) ∧
      (a.st.opcode ≠ opMulticast → exec (.redDown h ⟨source, data⟩ marks) s = .next (downArrives u j a n m))) ∧
    (n.parent ≠ some h.src → exec (.redDown h ⟨source, data⟩ marks) s = .next (addCountsTo u a.sid { malformed := 1 }))

/-- Notices of a station of the job: HALT_NOTICE halts the job here, as for poison or for the station that it names; STEP_REPLAY_REQUEST of the step
in progress asks for a replay. A message that asks for it is acknowledged. ALIAS_MESSAGE adds or overwrites one entry, and none when the table is
full; MGMT goes to the management side. -/
def Obligations.NoticesArrive : Prop :=
  (∀ (s : State) (h : MsgHdr) (j : Job), noticeJob (takeInbox s h []) h = some j →
    (bit h.arg.toNat 0 = true → exec (.haltNotice h) s =
      .next (releaseHeldActs (haltPoison (ackAsked (takeInbox s h []) h) j.id 2 0 0 {} h.src) j.id)) ∧
    (bit h.arg.toNat 0 = false → exec (.haltNotice h) s = .next (haltFabric (ackAsked (takeInbox s h []) h) j.id (argBits h 23 4) none 0)) ∧
    (jobsOk s.jobs = true → j.halted = false → j.step.replayRequested = false → h.epoch = epochOf j →
      ∃ t k, exec (.stepReplayRequest h) s = .next t ∧ jobOf t j.id = some k ∧
        k = { j with step := { j.step with replayRequested := true, replayTag := 0, replayCond := 0 } } ∧ ∀ i, i ≠ j.id → jobOf t i = jobOf s i)) ∧
  (∀ (s : State) (h : MsgHdr) (x y : Nat), (s.fab.aliases.filter fun a => a.1 != x).length < 4096 →
    ∃ t, exec (.aliasMessage h x y) s = .next t ∧ t = { s with fab := t.fab, jobs := t.jobs } ∧
      (t.fab.aliases.find? fun a => a.1 == x) = some (x, y) ∧ ∀ z, z ≠ x → (t.fab.aliases.find? fun a => a.1 == z) = s.fab.aliases.find? fun a => a.1 == z) ∧
  (∀ (s : State) (h : MsgHdr) (x y : Nat), 4096 ≤ (s.fab.aliases.filter fun a => a.1 != x).length →
    ∃ t, exec (.aliasMessage h x y) s = .next t ∧ t.fab.aliases = s.fab.aliases) ∧
  ∀ (s : State) (h : MsgHdr) (data : List Byte), ∃ t, exec (.mgmt h data) s = .next t ∧ t = { s with fab := t.fab, mgmt := t.mgmt } ∧
    t.mgmt.tunnel = s.mgmt.tunnel ++ [(h, data)]

/-- The pair's messages. CONTROL by its kind, acknowledged where it asks for it: a feed tag, an answer, the counts of pairs and the checkpoint cost of a
job from any station; the partner's `UNBIND` ends the pair; acknowledged and lost Journal records, the end of a drain, dropped and poisoned copies count
from the partner alone. MIRROR writes its bytes into a slot, which is not complete then; JOURNAL is taken; both are refused in Park and counted as
foreign from any other station. The gap timer gives the gap up to the newest record held. At the end of a drain its slot is the tensor's, which is
protected again where its records reach the step committed, or the tensor is to be mirrored again. -/
def Obligations.PairMessages : Prop :=
  (∀ (s u : State) (h : MsgHdr), s.pair.partner = some h.src → u = ackAsked (takeInbox s h []) h →
    (∀ tally, ∃ t, exec (.control h (.journalAck tally)) s = .next t ∧ t.pair.unacked = s.pair.unacked.filter (fun r => r.tally != tally) ∧
      t.pair.partnerParked = false ∧ t.jobs = s.jobs) ∧
    (∀ a b, exec (.control h (.journalLoss a b)) s = .next (takeJournalLoss u a b)) ∧
    (∀ a b c, exec (.control h (.drainDone a b c)) s = .next (takeDrainDone u h a b c)) ∧
    (∀ a, exec (.control h (.dropCopies a)) s = .next (takeDrop u h a)) ∧
    (∀ a b c, exec (.control h (.copyPoisoned a b c)) s = .next (takePoisonedCopy u h a b c)) ∧
    (∀ n, ∃ t, exec (.control h (.tensors n)) s = .next t ∧ t.jobs = s.jobs ∧
      t.pair = { s.pair with peerTensors := n, offered := s.pair.offered.map fun o => if o.1 == h.src then (o.1, o.2.1, o.2.2.1, n) else o }) ∧
    (∃ t, exec (.control h .unbind) s = .next t ∧ t.pair.state = 0 ∧ t.pair.partner = s.pair.partner ∧ t.jobs = s.jobs) ∧
    (∀ data bad, s.hub.pstate ≠ 2 → exec (.journal h data bad) s = .next (takeJournal (takeInbox s h data) h
      (inMsg s h data (markAll bad data) none).die data !(inMsg s h data (markAll bad data) none).marks.isEmpty)) ∧
    (∀ data bad, s.hub.pstate = 2 → exec (.journal h data bad) s = .next (nackTo (takeInbox s h data) h (laneOf h.mtype) nackPark) ∧
      exec (.mirror h data bad) s = .next (nackTo (takeInbox s h data) h (laneOf h.mtype) nackPark)) ∧
    ∀ data bad, s.hub.pstate ≠ 2 → ∃ t m, exec (.mirror h data bad) s = .next t ∧ m ∈ t.pair.slots ∧ m.fjk = h.fjk ∧ m.handle = argBits h 95 64 ∧
      m.slot = argBits h 63 63 ∧ m.complete = false ∧
      (argBits h 62 62 = 0 → ∀ i, i < data.length → tget m.master (64 * argBits h 61 32 + i) = data[i]?) ∧
      ∀ q ∈ s.pair.slots, q.fjk ≠ m.fjk ∨ q.handle ≠ m.handle ∨ q.slot ≠ m.slot → q ∈ t.pair.slots) ∧
  (∀ (s u : State) (h : MsgHdr), isPartner s h.src = false → u = ackAsked (takeInbox s h []) h →
    (∀ data bad, ∃ t, exec (.journal h data bad) s = .next t ∧ t.fab.foreign = satInc s.fab.foreign ∧ t.pair = s.pair) ∧
    (∀ data bad, ∃ t, exec (.mirror h data bad) s = .next t ∧ t.fab.foreign = satInc s.fab.foreign ∧ t.pair = s.pair) ∧
    (∀ tally, exec (.control h (.journalAck tally)) s = .next u) ∧ (∀ a b, exec (.control h (.journalLoss a b)) s = .next u) ∧
    (∀ a b c, exec (.control h (.drainDone a b c)) s = .next u) ∧ (∀ a, exec (.control h (.dropCopies a)) s = .next u) ∧
    (∀ a b c, exec (.control h (.copyPoisoned a b c)) s = .next u) ∧
    ∀ n, ∃ t, exec (.control h (.tensors n)) s = .next t ∧ t.pair.peerTensors = s.pair.peerTensors ∧ t.jobs = s.jobs) ∧
  (∀ (s u : State) (h : MsgHdr), u = ackAsked (takeInbox s h []) h →
    (∀ tag f n, exec (.control h (.feedTag tag f n)) s = .next (takeFeedTag u h.src tag f n)) ∧
    (∀ tag n, exec (.control h (.feedAnswer tag n)) s = .next (takeFeedAnswer u h.src tag n)) ∧
    (∀ n, exec (.control h (.checkpointCost n)) s = .next (takeCost u h n)) ∧
    ∀ a b c, exec (.control h (.pairCounts a b c)) s = .next (takePairCounts u h a b c)) ∧
  (∀ (s : State) (l newest : BitVec 16) (r : JRec) (rest : List JRec), s.pair.lastTally = some l → s.pair.heldJournal = r :: rest →
    newest = rest.foldl (fun (b : BitVec 16) q => if (b - l).toNat < (q.tally - l).toNat then q.tally else b) r.tally →
    exec .journalGapTimeout s = .next (giveUpGap (advance s (s.pair.heldSince + 2000000)) l newest)) ∧
  (∀ (s : State) (job handle : Nat) (d : Drain) (j : Job) (p : Protect), jobsOk s.jobs = true → jobOf s job = some j → protOf j handle = some p →
    p.again = false → s.pair.drains.find? (fun d => d.job == job && d.handle == handle) = some d →
    ∃ t k q, exec (.mirrorDrainComplete job handle) s = .next t ∧ (t.pair.drains.all fun x => !(x.job == job && x.handle == handle)) = true ∧
      jobOf t job = some k ∧ protOf k handle = some q ∧ (d.incomplete = true → q = { p with remirror := true }) ∧
      (d.incomplete = false → q = { p with slotStep := some d.step, slotIdx := d.slot, retained := p.retained.filter (fun r => d.step < r.1), protected_ := q.protected_ } ∧
        q.protected_ = (p.protected_ || covered t k q)))

/-! ### The mailbox -/

/-- What an answer leaves: its page shows the status and the data and is free again, `NOTIFY` sends the page's vector, and nothing else changes. -/
def Obligations.AnswerShows : Prop :=
  ∀ (s : State) (p : Nat) (r : Request) (status : Nat) (data : List Byte), ∃ t, answerRequest s p r status data = t ∧ Shows t p r status data ∧
    (pageOf t p).waiting = false ∧ (pageOf t p).req = (pageOf s p).req ∧ (∀ k, k ≠ p → pageOf t k = pageOf s k) ∧
    t = { s with hub := t.hub, out := t.out } ∧ t.hub = { s.hub with pages := t.hub.pages, msixPending := t.hub.msixPending } ∧
    (wantsNotify r = false → t.out = s.out) ∧ (wantsNotify r = true → msixMasked s p = false → t.out = { s.out with msix := s.out.msix ++ [p] })

/-- MB_RING: a page that is not busy is busy from then on, and a request that passes checks 1 to 4 is taken; a ring of a busy page is counted in
`MB_DROP` and changes nothing else. -/
def Obligations.RingTakesRequest : Prop :=
  (∀ (s : State) (p : Nat), linkUp s = true → p < 64 → (pageOf s p).mbState = 1 →
    ∃ t, exec (.mbRing p) s = .next t ∧ pageOf t p = { pageOf s p with mbDrop := satInc (pageOf s p).mbDrop } ∧ t = { s with hub := t.hub } ∧
      t.hub = { s.hub with pages := t.hub.pages } ∧ ∀ k, k ≠ p → pageOf t k = pageOf s k) ∧
  ∀ (s : State) (p : Nat) (l : List Byte) (r : Request), linkUp s = true → p < 64 → (pageOf s p).mbState ≠ 1 → (pageOf s p).lastTally = none →
    l = (List.range 2048).map (fun i => tgetD (pageOf s p).req i 0) → r = parseRequest l → fieldLe l 6 2 ≤ 2016 →
    crc32c (l.take 28 ++ r.payload) = fieldLe l 28 4 → cmdLength r.opcode (pf r 15 8) = some (fieldLe l 6 2) →
    ∃ t q, exec (.mbRing p) s = .next t ∧ (pageOf t p).mbState = 1 ∧ (pageOf t p).taken = some q ∧ q = { r with order := s.hub.ringOrder } ∧
      t = { s with hub := t.hub } ∧ t.hub.ringOrder = s.hub.ringOrder + 1 ∧ ∀ k, k ≠ p → pageOf t k = pageOf s k

/-- From power-on or a warm restart until bring-up completes, and in the return state, every command but IDENTIFY, READ_FEATURES and PROGRESS_QUERY
answers `NOT_READY`, and those three, on a part that boots, are not refused so. A request that a check refuses is answered with that status alone, by
every row of its opcode where its action is none that the command defines.
A command of a job whose restore runs, or that unregisters a tensor whose drain runs, answers `BUSY` alone once its fields are good (the reading of 14
R413 in log entry 22). -/
def Obligations.BringUpRefuses : Prop :=
  (∀ (s : State) (p : Nat) (r : Request), s.hub.phase ≠ 1 →
    (r.opcode ≠ 0x01 → r.opcode ≠ 0x02 → r.opcode ≠ 0x90 → refusal s p r = some mbNotReady) ∧
    (s.hub.bootFailed = false → (r.opcode = 0x01 ∨ r.opcode = 0x02 ∨ r.opcode = 0x90) → refusal s p r ≠ some mbNotReady)) ∧
  (∀ x ∈ mailboxRows, ∀ (s : State) (p st : Nat) (r : Request), nextRequest s p = some r → r.opcode = x.2.1 →
    (actionOfReq r = x.2.2 ∨ actionDefined r = false) → refusal s p r = some st → Answers (x.1 p) s s p r st []) ∧
  (∀ (s : State) (p st : Nat) (r : Request), nextRequest s p = some r → refusal s p r = some st →
    (∀ k, r.opcode = 0xA0 → actionOfReq r = 0 → Answers (.prickingLoad p k) s s p r st []) ∧
    (∀ l, r.opcode = 0x74 → actionOfReq r = 1 → Answers (.restoreLocal ⟨p, l⟩) s s p r st []) ∧
    ∀ i, r.opcode = 0xC0 → actionOfReq r = 1 → Answers (.fwUpdateStage p i) s s p r st []) ∧
  ∀ (s : State) (p op act : Nat) (r : Request) (f : Request → State → Reply), nextRequest s p = some r → r.opcode = op → actionOfReq r = act →
    refusal s p r = none → meetsLong s r = true → (f r s).status ≠ mbBadField → runCmd s p op act f = .next (answerRequest s p r mbBusy [])

/-- A halted job accepts JOB_RESET, JOB_CLOSE, RESTORE with `SRC` 0, PROGRESS_QUERY and UNMAP_WINDOW; every other command of the job from its page
answers `HALTED`. -/
def Obligations.HaltedJobRefuses : Prop :=
  ∀ (s : State) (p : Nat) (r : Request) (j : Job), s.hub.phase = 1 → s.hub.pstate ≠ 2 → scopeOf r = .job → jobOf s r.job = some j → j.page = p →
    isAdmin r = false → j.closing = false → j.halted = true →
    ((r.opcode = 0x12 ∨ r.opcode = 0x11 ∨ (r.opcode = 0x74 ∧ actionOfReq r = 0) ∨ r.opcode = 0x90 ∨ r.opcode = 0x21) →
      r.rsv = false → actionDefined r = true → refusal s p r = none) ∧
    (r.opcode ≠ 0x12 → r.opcode ≠ 0x11 → ¬(r.opcode = 0x74 ∧ actionOfReq r = 0) → r.opcode ≠ 0x90 → r.opcode ≠ 0x21 → refusal s p r = some mbHalted)

/-- IDENTIFY, READ_FEATURES and PROGRESS_QUERY answer with the state, the feature page and the report of an operation. -/
def Obligations.PartIsRead : Prop :=
  (∀ (s : State) (p : Nat) (r : Request), Asked s p 0x01 0 r → ∃ d, Answers (.identify p) s s p r mbOk d ∧ d.length = 64 ∧
    bits (leNat d) 139 138 = s.hub.phase.toNat ∧ bit (leNat d) 141 = s.hub.preserve ∧ bits (leNat d) 143 142 = s.hub.pstate.toNat ∧
    bit (leNat d) 145 = s.hub.hubB ∧ bits (leNat d) 151 146 = s.pwr.slotId.toNat ∧ bits (leNat d) 155 152 = s.pwr.feedTag.toNat) ∧
  (∀ (s : State) (p : Nat) (r : Request), Asked s p 0x02 0 r → ∃ d, Answers (.readFeatures p) s s p r mbOk d ∧ d = slice (featurePage s) 0 512 ∧
    fieldLe d 0 4 = featPanels s ∧ fieldLe d 4 4 = featNibs s) ∧
  ∀ (s : State) (p : Nat) (r : Request) (o : LongOp), Asked s p 0x90 0 r → pf r 63 36 = 0 → 1 ≤ pf r 35 32 → pf r 35 32 ≤ 8 → o = progressOf s r →
    ∃ d, Answers (.progressQuery p) s (draw s) p r mbOk d ∧ d.length = 32 ∧ bits (leNat d) 2 0 = o.state % 8 ∧ bits (leNat d) 255 192 = o.position % 2 ^ 64 ∧
      bits (leNat d) 191 128 = o.total % 2 ^ 64 ∧ bits (leNat d) 127 64 = o.startStroke.toNat

/-- JOB_OPEN makes the job that its request describes and no other, and reads its station list where it is, while no return is being prepared; JOB_RESET
leaves it open, not halted, with pins zero and its queues empty; JOB_CLOSE takes it away with its queues and stitches and has its frames zeroised, once
no started stitch touches a window of it: with one left it waits, and no new command of the job is taken. -/
def Obligations.JobsOpenAndClose : Prop :=
  (∀ (s v : State) (p : Nat) (r : Request) (l : List Nat), Asked s p 0x10 0 r → s.fw.returnStep = 0 →
    v = (stationListAt s r).elim s (fun a => reachRange s a (bits (pf r 367 256) 111 64)) → stationList v r = some l → openFieldsOk r = true →
    l.any (answersTo s) = true → l.Nodup → jobOf s r.job = none → (s.mem.zeroing.all fun z => z.job != some r.job) = true → s.jobs.length < 4096 →
    ∃ u k, Answers (.jobOpen p) s u p r mbOk (leBytes 4 r.job) ∧ jobOf u r.job = some k ∧ k = { freshJob s p r l with check := k.check } ∧
      k.check.openedNs = s.clk.now ∧ (∀ i, i ≠ r.job → jobOf u i = jobOf s i) ∧ u.mem.jobOpened = true ∧ u.acts = s.acts ∧ u.queues = s.queues ∧
      (Memory.wf s.mem.bytes = true → Memory.wcbOk s.mem.wcb = true →
        ∀ x, frameRetired s.mem x = false → memByte u.mem x = memByte s.mem x)) ∧
  (∀ (s : State) (p : Nat) (r : Request) (j : Job), jobsOk s.jobs = true → AskedOf s p 0x12 0 r j →
    ∃ u k, Answers (.jobReset p) s u p r mbOk [] ∧ jobOf u r.job = some k ∧ k.halted = false ∧ k.pins = [] ∧ k.watch = {} ∧ k.ladder = [] ∧ k.blot = {} ∧
      k.committed = j.committed ∧ k.windows = j.windows ∧
      ∀ n q, queueOf u n = some q → q.job = r.job → q.head = q.tail ∧ q.state = .empty) ∧
  (∀ (s : State) (p : Nat) (r : Request) (j : Job), AskedOf s p 0x11 0 r j → stillTouched (stopWork s r.job) r.job = true →
    Waits (.jobClose p) s (startClose (stopWork s r.job) r.job) p) ∧
  ∀ (s : State) (p : Nat) (r : Request) (j : Job), jobsOk s.jobs = true → AskedOf s p 0x11 0 r j → stillTouched (stopWork s r.job) r.job = false →
    ∃ u, Answers (.jobClose p) s u p r mbOk [] ∧ jobOf u r.job = none ∧ (u.queues.all fun q => q.2.job != r.job) = true ∧
      (u.acts.all fun a => a.job != r.job) = true ∧
      u.mem.zeroing = s.mem.zeroing ++ [{ id := s.mem.nextBatch, job := some r.job, ranges := zeroRanges j.windows }]

/-- Windows: MAP_WINDOW grants the lowest free place; UNMAP_WINDOW marks the window and waits; UNMAP_TAKE_EFFECT, once no admitted stitch touches it,
takes it away, answers, and has its frames zeroised or, for a host window, loses the records moved to it. Queues: QUEUE_CREATE makes an empty queue,
QUEUE_DESTROY takes one away. HANDLE_TABLE_SET names the table, and a head that waits is checked again with it. -/
def Obligations.WindowsAndQueues : Prop :=
  (∀ (s : State) (p base : Nat) (r : Request) (j : Job), AskedOf s p 0x20 0 r j → isAdmin r = false → mapFieldsOk s r = true → j.windows.length < 1024 →
    lowestFree (takenRanges s) (regionOf s (pf r 3 0) (pf r 7 5) (pf r 15 8)).1 (regionOf s (pf r 3 0) (pf r 7 5) (pf r 15 8)).2 (pf r 191 128) = some base →
    ∃ w, Answers (.mapWindow p) s (updJob s r.job fun j => { j with windows := j.windows ++ [w] }) p r mbOk (leBytes 12 (w.id + base * 2 ^ 48)) ∧
      w.base = base ∧ w.size = pf r 191 128 ∧ w.kind = pf r 3 0 ∧ w.unmapping = false) ∧
  (∀ (s : State) (p : Nat) (r : Request) (j : Job), AskedOf s p 0x21 0 r j → isAdmin r = false → pf r 31 16 = 0 →
    (j.windows.any fun w => w.id == pf r 15 0 && !w.unmapping) = true →
    Waits (.unmapWindow p) s (updJob s r.job fun j => { j with windows := markUnmap j.windows (pf r 15 0) }) p) ∧
  (∀ (s : State) (job id : Nat) (j : Job) (w : Window), jobsOk s.jobs = true → job ≠ 4096 → jobOf s job = some j →
    j.closing = false → j.windows.find? (fun w => w.id == id && w.unmapping) = some w → (s.acts.any fun a => a.job == job && touches j a w) = false →
    ∃ t k, exec (.unmapTakeEffect job id) s = .next t ∧ jobOf t job = some k ∧ k.windows = j.windows.filter (fun x => x.id != id) ∧
      (∀ p r, waitingPage s 0x21 (fun r => pf r 15 0 == id && (isAdmin r == false) && r.job == job) = some (p, r) → Shows t p r mbOk []) ∧
      (w.kind ≠ 3 → k = { j with windows := k.windows } ∧
        t.mem.zeroing = s.mem.zeroing ++ [{ id := s.mem.nextBatch, job := none, ranges := [(w.base, w.size)] }]) ∧
      (w.kind = 3 → t.mem = s.mem ∧ ∀ r ∈ k.blot.recs, r.loc = .atHost → r.hostAddr < w.hostAddr ∨ w.hostAddr + w.size ≤ r.hostAddr)) ∧
  (∀ (s : State) (p : Nat) (r : Request) (j : Job), AskedOf s p 0x30 0 r j → queueFieldsOk s r = true → s.queues.length < 1048576 →
    ∃ u q, Answers (.queueCreate p) s u p r mbOk (leBytes 4 (freeQueue s)) ∧ queueOf u (freeQueue s) = some q ∧ q.job = r.job ∧ q.ringBase = pf r 79 32 ∧
      q.head = 0 ∧ q.tail = 0 ∧ q.state = .empty ∧ q.step = bit (pay r) 20 ∧ (∀ k, k ≠ freeQueue s → queueOf u k = queueOf s k) ∧ u.jobs = s.jobs) ∧
  (∀ (s : State) (p : Nat) (r : Request) (j : Job) (q : Queue), AskedOf s p 0x31 0 r j → pf r 31 20 = 0 → queueOf s (pf r 19 0) = some q → q.job = r.job →
    (s.acts.any fun a => a.queue == pf r 19 0) = false → (q.step = true → q.head = q.stepBase) →
    Answers (.queueDestroy p) s { s with queues := tdel s.queues (pf r 19 0) } p r mbOk []) ∧
  ∀ (s : State) (p a n : Nat) (r : Request) (j : Job), AskedOf s p 0x40 0 r j → refAt s r (pf r 111 0) = some (a, n) → pf r 127 112 = 0 → n % 8 = 0 →
    8 ≤ n → n ≤ 134217728 → Answers (.handleTableSet p) s (updJob s r.job fun j => { j with handles := some (a, n / 8), tables := j.tables + 1 }) p r mbOk []

/-- The settings. STROKE_SET for the part names the source of the next edge and, unless the part follows marks, a period that changes at an edge ahead;
for a job it names the ring of stroke records. WATCH_SET changes the groups that it names, from the next step on while one is in progress. LADDER_SET
sets the bounds of a range of tags, adds entries to the map or clears it; STASH_POLICY sets the Blotter. -/
def Obligations.SettingsAreSet : Prop :=
  (∀ (s : State) (p at_ : Nat) (r : Request), Asked s p 0x50 0 r → strokeRsv r = false → strokePartOk s r = true →
    at_ = (if pf r 255 192 = 0 then s.clk.stroke.toNat + 16 else pf r 255 192) →
    Answers (.strokeSetPart p) s (setStrokes s r at_) p r mbOk (leBytes 16 (s.clk.stroke.toNat + at_ % 2 ^ 64 * 2 ^ 64)) ∧ (setStrokes s r at_).clk.nextSource = pf r 1 0 ∧
      (setStrokes s r at_).clk.ownPeriodUs = pf r 95 88 ∧ (setStrokes s r at_).clk.periodUs = s.clk.periodUs ∧
      (s.clk.source ≠ 1 → pf r 1 0 ≠ 1 → (setStrokes s r at_).clk.nextPeriodUs = pf r 95 88 ∧ (setStrokes s r at_).clk.changeAt = some (BitVec.ofNat 64 at_))) ∧
  (∀ (s : State) (p : Nat) (r : Request) (j : Job), AskedOf s p 0x50 1 r j → strokeRsv r = false → strokeRingOk j r = true →
    ∃ d, Answers (.strokeSetJob p) s (updJob (draw s) r.job fun j =>
      { j with ring := { j.ring with base := pf r 191 144, depth := pf r 127 96, since := strokeNow s } }) p r mbOk d) ∧
  (∀ (s : State) (p : Nat) (r : Request) (j : Job), AskedOf s p 0x60 0 r j → watchFieldsOk j r = true →
    (j.step.inProgress = false → Answers (.watchSet p) s (putJob s { j with watch := watchApplied j.watch r }) p r mbOk []) ∧
    (j.step.inProgress = true → Answers (.watchSet p) s
      (putJob s { j with step := { j.step with nextWatch := some (watchApplied (j.step.nextWatch.getD j.watch) r) } }) p r mbOk [])) ∧
  (∀ (s : State) (p : Nat) (r : Request) (j k : Job) (f : Option Nat), AskedOf s p 0x61 1 r j → ladderRsv r = false → pf r 27 20 ≤ pf r 19 12 →
    pf r 11 10 ≤ pf r 9 8 → f = (if bit (pay r) 7 then some (pf r 6 5) else none) → (∀ x, f = some x → pf r 11 10 ≤ x ∧ x ≤ pf r 9 8) →
    k = (List.range (pf r 19 12 + 1 - pf r 27 20)).foldl (fun j i => updTag j (pf r 27 20 + i) (boundTag (pf r 11 10) (pf r 9 8) f)) j →
    (j.step.inProgress = true → Answers (.ladderSetLevels p) s (putJob s k) p r mbOk []) ∧
      (j.step.inProgress = false → Answers (.ladderSetLevels p) s (applyLevels (putJob s k) k.id) p r mbOk []) ∧
      ∀ g, pf r 27 20 ≤ g → g ≤ pf r 19 12 → (tagState k g).floor = pf r 11 10 ∧ (tagState k g).ceil = pf r 9 8) ∧
  (∀ (s u : State) (p a n : Nat) (r : Request) (j : Job) (l : List MapEntry), AskedOf s p 0x61 2 r j → ladderRsv r = false →
    refAt s r (pf r 191 80) = some (a, n) → u = reachRange s a n → n % 32 = 0 → (((entriesAt u a n).map parseMapEntry).any fun e => e.isNone) = false →
    l = (((entriesAt u a n).map parseMapEntry).filterMap id).foldl addMapEntry j.ladder → l.length ≤ 65536 →
    Answers (.ladderSetMap p) s (putJob u { j with ladder := l, tables := j.tables + 1 }) p r mbOk []) ∧
  (∀ (s : State) (p : Nat) (r : Request) (j : Job), AskedOf s p 0x61 3 r j → ladderRsv r = false →
    Answers (.ladderSetClear p) s (putJob s { j with ladder := [], tables := j.tables + 1 }) p r mbOk []) ∧
  ∀ (s : State) (p : Nat) (r : Request) (j : Job), AskedOf s p 0x62 0 r j → pf r 90 0 = 0 → blotCfgOk j (blotCfgOf r) = true → j.blot.recs = [] →
    Answers (.stashPolicy p) s (putJob s { j with blot := { cfg := blotCfgOf r } }) p r mbOk []

/-- Registered tensors and checkpoints. PROTECT_POLICY registers all entries of a list, takes one tensor's registration away, or changes the job's
settings. CHECKPOINT asks for a snapshot, which is taken at the next commit, or measures its cost; the end of a snapshot and the record that one is due
are each told to the job once. -/
def Obligations.ProtectionAndCheckpoints : Prop :=
  (∀ (s u : State) (p a n : Nat) (r : Request) (j : Job) (ps : List Protect), AskedOf s p 0x72 1 r j → pf r 6 4 = 0 →
    refAt s r (pf r 255 144) = some (a, n) → u = reachRange s a n → n % 32 = 0 → ((entriesAt u a n).map parseProtect).all (protectOk u j) = true →
    ps = ((entriesAt u a n).map parseProtect).map Prod.fst → ((j.prot ++ ps).map (·.handle)).Nodup → registerRefusal u j ps = none →
    Answers (.protectRegister p) s (tellTensors (putJob u { j with prot := j.prot ++ ps })) p r mbOk (leBytes 4 (j.prot ++ ps).length)) ∧
  (∀ (s : State) (p : Nat) (r : Request) (j : Job), jobsOk s.jobs = true → AskedOf s p 0x72 2 r j → pf r 6 4 = 0 → (protOf j (pf r 143 112)).isSome = true →
    j.step.inProgress = false →
    ∃ u k, Answers (.protectUnregister p) s u p r mbOk (leBytes 4 k.prot.length) ∧ jobOf u r.job = some k ∧
      k = { j with prot := j.prot.filter fun x => x.handle != pf r 143 112 } ∧ u.mem = s.mem ∧ u.acts = s.acts) ∧
  (∀ (s : State) (p : Nat) (r : Request) (j : Job), AskedOf s p 0x72 3 r j → protSettingsOk r = true →
    ∃ u, Answers (.protectSettings p) s u p r mbOk (leBytes 4 j.prot.length) ∧ ∃ c, u = putJob s { j with protCfg := c } ∧
      c.mirrorPct = pf r 47 40 ∧ c.restorePct = pf r 39 32 ∧ c.smallMib = pf r 31 16 ∧ c.rhoHi = pf r 15 7 ∧ c.jMaxSteps = pf r 79 48) ∧
  (∀ (s : State) (p a n : Nat) (r : Request) (j : Job), AskedOf s p 0x73 1 r j → pf r 127 116 = 0 → refAt s r (pf r 111 0) = some (a, n) → imageBytes s j ≤ n →
    Answers (.checkpointSnapshot p) s (putJob s { j with check := { j.check with pending := some (pf r 15 0, pf r 63 16, n), lastSnapshotNs := some s.clk.now, dueSent := false } })
      p r mbOk (leBytes 8 (imageBytes s j))) ∧
  (∀ (s : State) (p x : Nat) (r : Request) (j : Job), AskedOf s p 0x73 2 r j → pf r 127 116 = 0 → j.check.lastSnapshotNs = some x →
    Answers (.checkpointStored p) s (updJob (toStations s j "CHECKPOINT_COST" (s.clk.now - x)) r.job fun k =>
      { k with check := { k.check with costNs := some (s.clk.now - x) } }) p r mbOk (leBytes 8 (imageBytes s j))) ∧
  (∀ (s : State) (job : Nat) (c : Nat × Nat × Nat × Nat) (rest : List (Nat × Nat × Nat × Nat)) (j : Job), jobsOk s.jobs = true → jobOf s job = some j →
    j.check.copying = c :: rest →
    ∃ t k, exec (.snapshotComplete job) s = .next t ∧ jobOf t job = some k ∧ k.check = { j.check with copying := rest } ∧
      k.eqCount = j.eqCount + 1 ∧ k.committed = j.committed ∧ t.acts = s.acts) ∧
  ∀ (s : State) (job : Nat) (j : Job), jobsOk s.jobs = true → jobOf s job = some j → checkpointPassed s j = true → j.check.dueSent = false →
    ∃ t k, exec (.checkpointDue job) s = .next t ∧ jobOf t job = some k ∧ k = { j with eqCount := j.eqCount + 1, check := { j.check with dueSent := true } } ∧
      t.mem = s.mem

/-- The pair and the routes: PAIR_BIND takes frames for the guard region and asks the station for its tag; PAIR_UNBIND ends the pair and has the guard
region zeroised; SPARE_ASSUME answers to the failed station's ID and names its partner; STATION_SET sets the station, in NV too where it says so, and the
enabled ports, which a new ID retrains; ROUTE_LOAD starts a load. -/
def Obligations.PairAndRoutes : Prop :=
  (∀ (s : State) (p : Nat) (r : Request) (frames : List (Nat × Nat)), Asked s p 0x70 0 r → (pageOf s p).waiting = false → bit (pay r) 30 = false →
    answersTo s (pf r 19 0) = false → 1 ≤ pf r 29 20 → pf r 29 20 * 2 ^ 30 ≤ globalEnd s.nibs.grade → pairBusy s = false → s.pair.partner = none →
    guardFrames s (pf r 29 20) = some frames → reachable s (pf r 19 0) = true → offeredTag s (pf r 19 0) = none →
    ∃ u, Waits (.pairBind p) s u p ∧ u.pair.partner = some (pf r 19 0) ∧ u.pair.guardGib = pf r 29 20 ∧ u.pair.frames = frames ∧ u.pair.state = 0 ∧
      u.out.lane1 = s.out.lane1 ++ [(pf r 19 0, "FEED_TAG")] ∧ u.jobs = s.jobs ∧ u.mem = s.mem) ∧
  (∀ (s : State) (p st : Nat) (r : Request), Asked s p 0x71 0 r → s.pair.partner = some st → pairBusy s = false →
    ∃ u, Answers (.pairUnbind p) s u p r mbOk [] ∧ u.pair.partner = none ∧ u.pair.state = 0 ∧ u.pair.frames = [] ∧
      u.mem.zeroing = s.mem.zeroing ++ [{ id := s.mem.nextBatch, job := none, ranges := s.pair.frames }] ∧ u.jobs = s.jobs) ∧
  (∀ (s : State) (p : Nat) (r : Request), Asked s p 0x82 0 r → (pageOf s p).waiting = false → pf r 31 21 = 0 → pf r 19 0 ≠ s.fab.station → s.jobs = [] →
    pairFormed s = false →
    reachable { s with fab := { s.fab with assumed := some (pf r 19 0) }, pair := { s.pair with partner := some (Config.partnerOf (pf r 19 0)), force := bit (pay r) 20, state := 0 } }
      (Config.partnerOf (pf r 19 0)) = true →
    ∃ u, Waits (.spareAssume p) s u p ∧ u.fab.assumed = some (pf r 19 0) ∧ u.pair.partner = some (Config.partnerOf (pf r 19 0)) ∧ u.fab.station = s.fab.station ∧
      u.mem = s.mem) ∧
  (∀ (s : State) (p : Nat) (r : Request), Asked s p 0x80 0 r → pf r 31 21 = 0 → (pf r 19 0 = s.fab.station ∨ s.jobs = []) →
    ∃ u, Answers (.stationSet p) s u p r mbOk [] ∧ u.fab.portEn = BitVec.ofNat 64 (pf r 95 32) ∧ u.fab.station = pf r 19 0 ∧ u.fab.stationSet = true ∧
      (bit (pay r) 20 = false → u.fab.nvStation = s.fab.nvStation) ∧ (bit (pay r) 20 = true → nvReady s = true → u.fab.nvStation = pf r 19 0) ∧
      (∀ k, k < 64 → bit (pf r 95 32) k = false → (portOf u k).lstate = .disabled) ∧
      (pf r 19 0 = s.fab.station → ∀ k, bit (pf r 95 32) k = true → portOf u k = portOf s k) ∧
      (pf r 19 0 ≠ s.fab.station → ∀ k, k < 64 → bit (pf r 95 32) k = true →
        ((portOf s k).lstate = .up → (recentRetrains s (portOf s k)).length < 7 → (portOf u k).lstate = .retrain) ∧
        ((portOf s k).lstate = .down → (portOf u k).lstate = .training)) ∧ u.jobs = s.jobs) ∧
  ∀ (s v : State) (p a n : Nat) (r : Request) (i : RouteImage), Asked s p 0x81 0 r → refAt s r (pf r 111 0) = some (a, n) → opRunning s 7 0 none = false →
    v = reachRange s a n → readRoute v a (BitVec.ofNat 64 (pf r 175 112)) = some i → pf r 191 176 = 0 → n = i.size →
    (bit (rdLe v a 4) 2 = true → rdLe v (a + 4) 4 ≤ 4096) → crc32c (rdBytes v a (n - 4)) = rdLe v (a + n - 4) 4 →
    ∃ u, Answers (.routeLoad p) s u p r mbInProgress [] ∧ u.jobs = s.jobs ∧
      u.fab = { s.fab with pendingRoute := some { i.load with trailer := rdLe v (a + n - 4) 4 } } ∧
      ((opOf u 7 0 none).map fun o => (o.state, o.total)) = some (1, i.entries)

/-- RESTORE: QUERY answers with the steps that can be restored; LOCAL takes the job to its committed step, or to the one whose vote is in doubt here,
with the tensors whose fronts are poisoned rebuilt from what the partner sends; PARTNER and IMAGE start a transfer. -/
def Obligations.RestoresRun : Prop :=
  ∀ (s : State) (p : Nat) (r : Request) (j : Job), jobOf s r.job = some j → restoreRefusal s r = none →
    (Asked s p 0x74 0 r → Answers (.restoreQuery p) s (restoreReply s j mbOk).s p r mbOk (restoreReply s j mbOk).data) ∧
    (∀ (l : List PeerCopy) (bad : List Protect) (t u v : State) (k : Job), Asked s p 0x74 1 r →
      (pf r 79 16 = j.committed ∨ (pf r 79 16 = j.committed + 1 ∧ j.inDoubt = true)) → (j.prot.any (footRetired s j)) = false →
      bad = j.prot.filter (fun x => frontsPoisoned s j x (pf r 79 16)) → (bad.all fun x => partnerReaches s j x (pf r 79 16)) = true →
      t = (if pf r 79 16 = j.committed then s else commitStep s r.job (j.tags.map fun q => (q.1, q.2.level))) →
      rebuildAll t r.job (pf r 79 16) l bad = some u → v = drainLost (restored u r.job (pf r 79 16)) r.job → jobOf v r.job = some k →
      Answers (.restoreLocal ⟨p, l⟩) s (restoreReply v k mbOk).s p r mbOk (restoreReply v k mbOk).data) ∧
    (Asked s p 0x74 2 r → pairFormed s = true → restorable s j = none →
      ∃ u d, Answers (.restorePartner p) s u p r mbInProgress d ∧ ((opOf u 3 0 (some r.job)).map fun o => (o.state, o.arg)) = some (1, [2, pf r 79 16]) ∧
        ((opOf u 2 0 (some r.job)).map fun o => (o.state, o.arg)) = some (1, [2, pf r 79 16]) ∧ u.mem = s.mem ∧ u.jobs = s.jobs) ∧
    ∀ a n, Asked s p 0x74 3 r → refAt s r (pf r 191 80) = some (a, n) → imageBytes s j ≤ n → (j.prot = [] ∨ rdLe s (a + 8) 8 = pf r 79 16) →
      ∃ u d, Answers (.restoreImage p) s u p r mbInProgress d ∧ ((opOf u 3 0 (some r.job)).map fun o => (o.state, o.arg)) = some (1, [3, pf r 79 16, a]) ∧
        u.mem = s.mem ∧ u.jobs = s.jobs

/-- Power states, firmware and returns. POWER_STATE enters Operating, Drowse (at once, or as soon as no stitch is admitted) or Park, ends the wait of
a page for Drowse, sets `PRESERVE`, or restarts Ohmub warm; FW_UPDATE refuses an image or stages it, activates the staged one with a warm restart or
discards it; PRICKING_LOAD keeps a pack for the next edge; RETURN_PREPARE begins a return; a long operation of each kind that this row ends does so.
-/
def Obligations.PowerStatesAndFirmware : Prop :=
  (∀ (s : State) (p : Nat) (r : Request), Asked s p 0xB0 1 r → pf r 3 2 = 0 → pf r 31 8 = 0 →
    (pf r 1 0 = 0 → s.hub.drowsePage = none →
      Answers (.powerStateEnter p) s { s with hub := { s.hub with pstate := 0 } } p r mbOk (leBytes 4 (if s.hub.preserve then 8 else 0))) ∧
    (∀ w k, pf r 1 0 = 0 → s.hub.drowsePage = some w → w ≠ p → (pageOf s w).taken = some k → (pageOf s w).waiting = true → k.opcode = 0xB0 →
      ∃ u, Answers (.powerStateEnter p) s u p r mbOk (powerData u) ∧ u.hub.pstate = 0 ∧ u.hub.drowsePage = none ∧ (pageOf u w).waiting = false) ∧
    (pf r 1 0 = 1 → s.acts = [] → Answers (.powerStateEnter p) s (enterDrowse s) p r mbOk (powerData (enterDrowse s))) ∧
    (pf r 1 0 = 1 → s.acts ≠ [] → s.hub.drowsePage = none → Waits (.powerStateEnter p) s { s with hub := { s.hub with drowsePage := some p } } p) ∧
    (pf r 1 0 = 2 → s.jobs = [] → s.hub.drowsePage = none → Answers (.powerStateEnter p) s (enterPark s) p r mbOk (powerData (enterPark s)))) ∧
  (∀ (s : State) (p : Nat) (r : Request), s.hub.drowsePage = some p → s.acts = [] → (pageOf s p).taken = some r → (pageOf s p).waiting = true → r.opcode = 0xB0 →
    Answers (.drowseEntry p) s (enterDrowse s) p r mbOk (powerData (enterDrowse s))) ∧
  (∀ (s : State) (p : Nat) (r : Request), Asked s p 0xB0 2 r → pf r 3 1 = 0 → pf r 31 8 = 0 →
    ∃ d, Answers (.powerStatePreserve p) s { s with hub := { s.hub with preserve := bit (pay r) 0 } } p r mbOk d) ∧
  (∀ (s : State) (p : Nat) (r : Request), Asked s p 0xB0 3 r → pf r 3 0 = 0 → pf r 31 8 = 0 → s.jobs = [] →
    exec (.powerStateRestart p) s = .next (warmRestart (answerRequest s p r mbOk (powerData s)))) ∧
  (∀ (s : State) (p : Nat) (r : Request) (i : FwImage), Asked s p 0xC0 1 r → pf r 127 116 = 0 → (refAt s r (pf r 111 0)).isSome = true →
    s.fw.staging = false → s.fw.stagingPldm = false →
    (∀ x, imageRefusal s i = some x → Answers (.fwUpdateStage p i) s (refusedImage s i x) p r x []) ∧
    (headerOk i = true → trusted s i.ecdsa i.lms = true → fusesNow s ≤ i.svn →
      ∃ u, Answers (.fwUpdateStage p i) s u p r mbInProgress (leBytes 4 0) ∧ u.fw = (beginStage s i).fw ∧ u.fw.staging = true ∧ u.fw.active = s.fw.active)) ∧
  (∀ (s : State) (p : Nat) (r : Request), Asked s p 0xC0 2 r → pf r 127 116 = 0 → s.jobs = [] → s.fw.staging = false → s.fw.staged.isSome = true →
    exec (.fwUpdateActivate p) s = .next (warmRestart (activateSlot (answerRequest s p r mbOk (leBytes 4 (stagedVersion s)))))) ∧
  (∀ (s : State) (p : Nat) (r : Request), Asked s p 0xC0 3 r → pf r 127 116 = 0 → s.fw.staging = false →
    Answers (.fwUpdateDiscard p) s { s with fw := { s.fw with staged := none } } p r mbOk (leBytes 4 0)) ∧
  (∀ (s : State) (p : Nat) (r : Request) (k : PrickPack), Asked s p 0xA0 0 r → pf r 127 112 = 0 → (refAt s r (pf r 111 0)).isSome = true → packRefusal s k = none →
    Answers (.prickingLoad p k) s { s with fw := { s.fw with nextPack := some k } } p r mbOk (leBytes 4 k.version.toNat)) ∧
  (∀ (s : State) (p : Nat) (r : Request), Asked s p 0xD0 0 r → pf r 31 0 = 0x52455455 → s.jobs = [] → opRunning s 8 0 none = false → s.fw.staging = false →
    ∃ u, Answers (.returnPrepare p) s u p r mbInProgress [] ∧ u.fw = { s.fw with returnStep := 1 } ∧ u.mgmt.sessions = [] ∧
      ((opOf u 8 0 none).map (·.state)) = some 1) ∧
  ∀ (s : State) (kind subject : Nat) (o : LongOp), s.hub.longOps.find? (fun o => o.kind == kind && o.subject == subject && o.state == 1) = some o →
    (kind = 6 → exec (.longOperationEnd kind subject none) s = .next (endOp (refuseContent (finishStage s false) 1) o mbAuthFail)) ∧
    (kind = 6 → nvReady s = true → ∀ l, exec (.longOperationEnd kind subject (some l)) s = .next (endOp (finishStage s true) o mbOk)) ∧
    (kind = 7 → ∀ g, exec (.longOperationEnd kind subject g) s = .next (endRoute s o g.isSome)) ∧
    (kind = 2 → ∀ g, exec (.longOperationEnd kind subject g) s = .next (endReplay s o g.isSome)) ∧
    (kind = 3 → ∀ g, exec (.longOperationEnd kind subject g) s = .next (endTransfer s o g.isSome (g.getD []))) ∧
    (kind = 8 → nvReady s = true → s.hub.phase = 1 → ∀ l, exec (.longOperationEnd kind subject (some l)) s = .next (finishReturn s o))

/-- HBM_REPAIR before the first job: the query writes its report; the three repairs drain what is pending for the banks of their rows, repair the rows in
order while spare rows are left, and answer with how many they repaired. HUB_FAILOVER: Hub B takes over, with a health record; no page stays busy,
every operation in progress has failed with `NOT_READY`, and stitches, queues and memory's bytes stay as they are. -/
def Obligations.RepairAndFailover : Prop :=
  (∀ (s : State) (p a n : Nat) (r : Request), Asked s p 0xE0 1 r → pf r 7 4 = 0 → pf r 15 8 ≤ 240 → s.mem.jobOpened = false →
    refAt s r (pf r 127 16) = some (a, n) → (repairReport s).length ≤ n →
    ∃ d, Answers (.hbmRepairQuery p) s (wrBytes s a (repairReport s)) p r mbOk d ∧ bits (leNat d) 31 0 = s.mem.retired.length % 2 ^ 32 ∧
      bits (leNat d) 63 32 = s.mem.repairLog.length % 2 ^ 32) ∧
  (∀ (s : State) (p : Nat) (r : Request) (hard : Bool) (rows : List Nat) (u : State) (q : Nat × Bool × State), pf r 7 4 = 0 → pf r 15 8 ≤ 240 →
    s.mem.jobOpened = false → (rowsOf r).all (rowEntryOk s) = true → rows = (rowsOf r).map (fun x => x / 2 ^ 34) →
    u = { s with mem := drainIf s.mem fun e => rows.any fun r => r / 16384 == bankKey (place s.nibs.grade e.granule) } → q = repairRows hard rows 0 u →
    (hard = false → Asked s p 0xE0 2 r → ∃ d, Answers (.hbmRepairSoft p) s q.2.2 p r (if q.2.1 then mbOk else mbNoResource) d ∧ bits (leNat d) 31 0 = q.1 % 2 ^ 32) ∧
    (hard = true → Asked s p 0xE0 3 r → ∃ d, Answers (.hbmRepairHard p) s q.2.2 p r (if q.2.1 then mbOk else mbNoResource) d ∧ bits (leNat d) 31 0 = q.1 % 2 ^ 32)) ∧
  (∀ (s : State) (p : Nat) (r : Request) (rows : List Nat) (u : State) (q : Nat × Bool × State), pf r 7 4 = 0 → pf r 15 8 ≤ 240 → s.mem.jobOpened = false →
    rows = (s.mem.repairLog.filter fun x => !x.2).map Prod.fst →
    u = { s with mem := drainIf s.mem fun e => rows.any fun r => r / 16384 == bankKey (place s.nibs.grade e.granule) } → q = repairRows true rows 0 u →
    Asked s p 0xE0 4 r → ∃ d, Answers (.hbmRepairHardLogged p) s q.2.2 p r (if q.2.1 then mbOk else mbNoResource) d ∧ bits (leNat d) 31 0 = q.1 % 2 ^ 32) ∧
  ∀ s : State, s.pwr.hubOn = true → s.hub.hubB = false →
    ∃ t, exec .hubFailover s = .next t ∧ t.hub.hubB = true ∧ t.fw.staging = false ∧ t.acts = s.acts ∧ t.queues = s.queues ∧ t.pair.drains = [] ∧
      t.mem.poison = s.mem.poison ∧ (∀ x, memByte t.mem x = memByte s.mem x) ∧
      (∀ o, o ∈ s.hub.longOps → o.state = 1 →
        ∃ e, e ∈ t.hub.longOps ∧ e.kind = o.kind ∧ e.subject = o.subject ∧ e.job = o.job ∧ e.state = 3 ∧ e.result = mbNotReady) ∧
           (∀ k q, (k, q) ∈ t.hub.pages → tget t.hub.pages k = some q → q.mbState ≠ 1) ∧ t.mgmt.hseq = s.mgmt.hseq + 1

/-! ### The host's registers -/

/-- The doorbells of an open job over a link that is up: a tail within the ring makes stitches available, a resume reads a rejected head afresh or
skips it, a pin addition adds with wrap-around; a pin or a queue that is not the job's is counted in `DB_BAD`. -/
def Obligations.Doorbells : Prop :=
  ∀ (s : State) (job : Nat) (v : Word64) (j : Job), jobsOk s.jobs = true → openJob s job = some j → linkUp s = true →
    (∀ q, queueOf s (bits v.toNat 19 0) = some q → q.job = job → j.halted = false →
      (BitVec.ofNat 32 (bits v.toNat 63 32) - q.head).toNat ≤ 2 ^ q.logSize → (q.tail - q.head).toNat ≤ (BitVec.ofNat 32 (bits v.toNat 63 32) - q.head).toNat →
      ∃ t k, exec (.dbTail job v) s = .next t ∧ queueOf t (bits v.toNat 19 0) = some k ∧ k.tail = BitVec.ofNat 32 (bits v.toNat 63 32) ∧ k.head = q.head ∧
        k.free = q.free ∧ (∀ n, n ≠ bits v.toNat 19 0 → queueOf t n = queueOf s n) ∧ t = { s with mem := t.mem, host := t.host, queues := t.queues }) ∧
    (∀ q, queueOf s (bits v.toNat 19 0) = some q → q.job = job → q.state = .rejected →
      (∃ t k, exec (.qResumeRetry job v) s = .next t ∧ queueOf t (bits v.toNat 19 0) = some k ∧ k = { q with state := settled q } ∧
        t = { s with mem := t.mem, host := t.host, queues := t.queues }) ∧
      ∃ t k, exec (.qResumeSkip job v) s = .next t ∧ queueOf t (bits v.toNat 19 0) = some k ∧ k.head = q.head + 1 ∧ k.tail = q.tail ∧
        k.free = (if q.step then q.free else q.free + 1) ∧ k.state = (if q.head + 1 = q.tail then .empty else .running) ∧
        t = { s with mem := t.mem, host := t.host, queues := t.queues }) ∧
    (bits v.toNat 19 0 < j.pinCount → ∃ t k, exec (.pinAdd job v) s = .next t ∧ t = { s with jobs := t.jobs } ∧ jobOf t job = some k ∧
      (∀ p, pinOf k p = if p = bits v.toNat 19 0 then pinOf j p + BitVec.ofNat 32 (bits v.toNat 47 32) else pinOf j p) ∧ k.dbBad = j.dbBad ∧
      ∀ i, i ≠ job → jobOf t i = jobOf s i) ∧
    (j.pinCount ≤ bits v.toNat 19 0 → ∃ t k, exec (.pinAdd job v) s = .next t ∧ t = { s with jobs := t.jobs } ∧ jobOf t job = some k ∧
      k = { j with dbBad := satInc j.dbBad })

/-- REGISTER_WRITE: a doorbell page does what the doorbells do, a mailbox page takes the bytes in both its areas, a ring register rings, and the BAR0
registers below the mailbox pages ignore the write; both areas of a page read as they hold, and the page of a job that is not open reads as zero.
CONFIGURATION_REQUEST: a read answers the register and changes nothing else; a write gives the register a value, and nothing else of the part but
BAR4's size and offset follows it (log entry 25). -/
def Obligations.RegistersAreWritten : Prop :=
  (∀ (s : State) (job : Nat) (data : List Byte) (j : Job), linkUp s = true → openJob s job = some j →
    exec (.registerWrite 2 (4096 * job + 0x10) data) s = .next (pinWrite s j (leNat data)) ∧
    (data.length = 8 → exec (.registerWrite 2 (4096 * job) data) s = .next (tailWrite s j (leNat data))) ∧
    exec (.registerWrite 2 (4096 * job + 0x08) data) s = .next (resumeWrite s j (leNat data) (bit (leNat data) 32)) ∧
    exec (.registerWrite 2 (4096 * job + 0x18) data) s = .next (pinSelect s j (leNat data))) ∧
  (∀ (s : State) (p o : Nat) (data : List Byte), linkUp s = true → p < 64 → o < 4096 →
    ∃ t, exec (.registerWrite 0 (0x10000 + 4096 * p + o) data) s = .next t ∧ t = { s with hub := t.hub } ∧ t.hub = { s.hub with pages := t.hub.pages } ∧
      (∀ i, tget (pageOf t p).req i = if o ≤ i ∧ i < o + data.length ∧ i < 2048 then data[i - o]? else tget (pageOf s p).req i) ∧
      (∀ i, i < 2048 → (pageOf t p).resp.getD i 0 =
        if o ≤ 2048 + i ∧ 2048 + i < o + data.length then data.getD (2048 + i - o) 0 else (pageOf s p).resp.getD i 0) ∧
      (pageOf t p).mbState = (pageOf s p).mbState ∧ ∀ k, k ≠ p → pageOf t k = pageOf s k) ∧
  (∀ (s : State) (p : Nat), linkUp s = true → p < 64 → exec (.registerWrite 0 (0x50008 + 16 * p) [1]) s = .next (ringPage s p)) ∧
  (∀ (s : State) (o : Nat) (data : List Byte), linkUp s = true → o < 0x10000 → exec (.registerWrite 0 o data) s = .next s) ∧
  (∀ (s : State) (job o : Nat), openJob s job = none → o < 4096 → bar2Read s (4096 * job + o) = 0) ∧
  (∀ (s : State) (p o : Nat), p < 64 → o < 2048 → bar0Read s (0x10000 + 4096 * p + o) = tgetD (pageOf s p).req o 0 ∧
    ((pageOf s p).mbState ≠ 1 → bar0Read s (0x10800 + 4096 * p + o) = (pageOf s p).resp.getD o 0)) ∧
  (∀ (s : State) (register : Nat) (v : Word32), linkUp s = true → exec (.configurationRequest false register v) s =
    .next { s with out := { s.out with cfgData := some (tgetD s.hub.pciCfg register (Config.cfgSpace register)) } }) ∧
  ∀ (s : State) (register : Nat) (v : Word32), linkUp s = true →
    ∃ t, exec (.configurationRequest true register v) s = .next t ∧ t = { s with free := s.free + 1, hub := t.hub } ∧
      t.hub = { s.hub with pciCfg := t.hub.pciCfg, bar4Size := t.hub.bar4Size, bar4Offset := t.hub.bar4Offset } ∧ (tget t.hub.pciCfg register).isSome = true

/-- BAR4: a read inside the windows answers the bytes that stand there, with the mark of poison, and drains what is pending for them, after which every
byte reads as before; a read outside them is answered Unsupported Request. A write reaches the bytes inside windows and no other; a poisoned one
reaches none and is reported. -/
def Obligations.ApertureReadsAndWrites : Prop :=
  (∀ (s : State) (o n a : Nat), linkUp s = true → hbmOn s = true → (List.range n).all (fun i => bar4Byte s (o + i)) = true → a = s.hub.bar4Offset + o →
    ∃ t r, exec (.bar4Read o n) s = .next t ∧ t = { reachRange s a n with out := { s.out with bar4 := some r } } ∧ r.data = rdBytes s a n ∧ r.ur = false ∧
      r.ep = rangePoison s a n ∧ (Memory.wf s.mem.bytes = true → Memory.wcbOk s.mem.wcb = true →
        ∀ x, frameRetired s.mem x = false → memByte t.mem x = memByte s.mem x)) ∧
  (∀ (s : State) (o n i : Nat), linkUp s = true → i < n → bar4Byte s (o + i) = false →
    ∃ t r, exec (.bar4Read o n) s = .next t ∧ t = { s with out := t.out } ∧ t.out.bar4 = some r ∧ r.ur = true ∧ r.data = []) ∧
  (∀ (s : State) (o : Nat) (data : List Byte), linkUp s = true → hbmOn s = true → Memory.wf s.mem.bytes = true → Memory.wcbOk s.mem.wcb = true →
    ∃ t, exec (.bar4Write o data false) s = .next t ∧ t = { s with mem := t.mem } ∧
      ∀ x, frameRetired s.mem x = false → memByte t.mem x =
        if s.hub.bar4Offset + o ≤ x ∧ x < s.hub.bar4Offset + o + data.length ∧ bar4Byte s (x - s.hub.bar4Offset) = true
        then data.getD (x - (s.hub.bar4Offset + o)) 0 else memByte s.mem x) ∧
  ∀ (s : State) (o : Nat) (data : List Byte), linkUp s = true →
    exec (.bar4Write o data true) s = .next { s with out := { s.out with advisory := s.out.advisory + 1 } }

/-! ### Nib faults -/

/-- Equal CRCs end a comparison, and others wait for a third execution. A third CRC decides a share by majority, with the shadow's bytes,
contributions, counts and conditions where the shadow is in it, or halts the job; a loser that repeats its CRC is a permanent fault, and one that does
not a transient. A nib is retired once no stitch includes it, with a health record; a self-test slice with the pack's CRC passes, any other is to be
repeated. -/
def Obligations.NibFaults : Prop :=
  (∀ (s : State) (sid : Sid) (crcs : List (Word32 × Word32)) (a : Active), actOf s sid = some a → a.stage = .comparing → shadowOf s sid = none →
    crcs.length = a.nibs.length → shadowRuns s a = true →
    ((crcs.all fun c => c.1 == c.2) = true →
      exec (.shadowComplete sid crcs) s = .next (endCompare (putShadow s { sid := sid, crcs := crcs, compared := true }) a)) ∧
    ((crcs.all fun c => c.1 == c.2) = false → exec (.shadowComplete sid crcs) s = .next (putShadow s { sid := sid, crcs := crcs, compared := true }))) ∧
  (∀ (s : State) (sid : Sid) (share : Nat) (crc x y : Word32) (w : ShareResult) (a : Active) (h : Shadow), actOf s sid = some a →
    shadowOf s sid = some h → h.crcs[share]? = some (x, y) → x ≠ y → (h.thirds.all fun t => t.1 != share) = true →
    (crc = x → ∃ t g, exec (.thirdExecComplete sid share crc w) s = .next t ∧ shadowOf t sid = some g ∧ g.thirds = h.thirds ++ [(share, crc)] ∧
      t.mem = s.mem ∧ g.losers = h.losers ++ [(share, (shareNib s a share false).1, (shareNib s a share false).2, y)]) ∧
    (crc = y → ∃ t g m, exec (.thirdExecComplete sid share crc w) s = .next t ∧ shadowOf t sid = some g ∧ g.thirds = h.thirds ++ [(share, crc)] ∧
      g.losers = h.losers ++ [(share, (shareNib s a share true).1, (shareNib s a share true).2, x)] ∧
      m = moveContrib (applyWrites (putShadow s g) (some sid) { bytes := w.bytes.foldl (fun t x => tset t x.1 x.2) [] }) a (newContrib a.contrib w.contrib) ∧
      t.mem = (applyWrites (putShadow s g) (some sid) { bytes := w.bytes.foldl (fun t x => tset t x.1 x.2) [] }).mem ∧
      (jobOf t a.job).map (·.grads) = (jobOf m.1 a.job).map (·.grads) ∧ actOf t sid = some (asMajority a w (newContrib a.contrib w.contrib) m.2)) ∧
    (crc ≠ x → crc ≠ y → exec (.thirdExecComplete sid share crc w) s =
      .next (mismatchHalt (shadowRecord s a.job sid a.st.opcode (shareNib s a share true) 3 0) a))) ∧
  (∀ (s u : State) (sid : Sid) (share panel nib : Nat) (crc bad : Word32) (a : Active) (h : Shadow), actOf s sid = some a → shadowOf s sid = some h →
    h.losers.find? (fun l => l.1 == share) = some (share, panel, nib, bad) → u = putShadow s { h with losers := h.losers.filter fun q => q.1 != share } →
    (crc = bad → exec (.loserRepeatComplete sid share crc) s = .next (settleCompare (permanentFault u (panel, nib) 1) sid)) ∧
    (crc ≠ bad → exec (.loserRepeatComplete sid share crc) s = .next (settleCompare (countTransient u (panel, nib) (some a)) sid))) ∧
  (∀ (s : State) (panel nib source : Nat) (jobs : List Nat), s.nibs.retiring.find? (fun r => r.1 == nibKey (panel, nib)) = some (nibKey (panel, nib), source, jobs) →
    (s.acts.all fun a => !a.nibs.contains (panel, nib)) = true →
    ∃ t h, exec (.nibRetireComplete panel nib) s = .next t ∧ nibKey (panel, nib) ∈ t.nibs.retired ∧ (t.nibs.retiring.all fun r => r.1 != nibKey (panel, nib)) = true ∧
      tget t.mgmt.ring s.mgmt.hseq = some h ∧ h.hcode = 0x0401 ∧ h.severity = 2 ∧ t.mem = s.mem ∧ t.acts = s.acts) ∧
  ∀ (s : State) (panel nib k : Nat) (crc : Word32) (p : PrickPack), s.test.running.find? (fun r => r.1 == panel && r.2.1 == nib) = some (panel, nib, k) →
    (s.test.failing.all fun f => !(f.1 == panel && f.2.1 == nib && f.2.2.1 == k)) = true → s.fw.pack = some p → ∀ w, p.slices[k]? = some w →
    ∃ t, exec (.selftestSliceEnd panel nib crc) s = .next t ∧ t.test.running = s.test.running.filter (fun q => q != (panel, nib, k)) ∧
      t.clk.now = max s.clk.now (s.clk.edge + periodNs s / 16) ∧ (crc = w.signature → t.test.failing = s.test.failing) ∧
      (crc ≠ w.signature → t.test.failing = s.test.failing ++ [(panel, nib, k, crc, 0, 0)] ∧ t.test.lastSlice = k) ∧ t.jobs = s.jobs ∧ t.mem = s.mem

/-! ### Management -/

/-- A health record takes the next `HSEQ`, a place in the ring and, when critical, a place on `ALERT_N`, and goes to the event receiver as a
message that carries the record; HEALTH_RESEND sends what is due after one second; HEALTH_ACK acknowledges, and `ALERT_N` follows. -/
def Obligations.HealthRecords : Prop :=
  (∀ (s : State) (i : HealthInfo), s.mgmt.ring.length < 1024 → i.code < 65536 → i.severity < 4 →
    ∃ t h, health s i = t ∧ tget t.mgmt.ring s.mgmt.hseq = some h ∧ h.hseq = s.mgmt.hseq ∧ h.hcode.toNat = i.code ∧ h.severity.toNat = i.severity ∧ h.acked = false ∧
      t.mgmt.hseq = s.mgmt.hseq + 1 ∧ t.mgmt.healthDrop = s.mgmt.healthDrop ∧ (i.severity = 2 → t.pwr.alertLow = true) ∧
      t.out.healthSent = s.out.healthSent ++ (eventOf s h).toList ∧
      t = { s with free := s.free + 1, mgmt := t.mgmt, pwr := t.pwr, out := t.out }) ∧
  (∀ (s : State) (h : Health), s.pwr.hubOn = true → s.mgmt.receiver.isSome = true → openHealth s = [h] → h.sentAt.isSome = true →
    ∃ t, exec .healthResend s = .next t ∧ t.clk.now = max s.clk.now (resendDue h) ∧ t.out.healthSent = s.out.healthSent ++ (eventOf s h).toList ∧
      t = { s with clk := t.clk, mgmt := t.mgmt, out := t.out }) ∧
  ∀ (s : State) (n : Nat), s.pwr.hubOn = true → s.mgmt.receiver.isSome = true →
    ∃ t, exec (.healthAck n) s = .next t ∧ t = { s with mgmt := t.mgmt, pwr := { s.pwr with alertLow := t.pwr.alertLow } } ∧
      tget t.mgmt.ring n = (tget s.mgmt.ring n).map (fun h => { h with acked := true }) ∧ (∀ k, k ≠ n → tget t.mgmt.ring k = tget s.mgmt.ring k) ∧
      t.pwr.alertLow = t.mgmt.ring.any fun h => h.2.severity == 2 && !h.2.acked

/-- The PLDM commands answer on the endpoint that they came by while the Hub domain is on; a command that changes state outside a secured session is
refused, and one that is not listed is not supported. -/
def Obligations.PldmAnswers : Prop :=
  ∀ (s : State) (via : Transport), s.pwr.hubOn = true →
    (∃ x, exec (.getTid via) s = .next (pldmAnswer (draw s) via 0 [x])) ∧
    (∀ k, pldmTypes.contains k = true → ∃ x, exec (.getPldmVersion via k) s = .next (pldmAnswer (draw s) via 0 [x])) ∧
    exec (.getPldmTypes via) s = .next (pldmAnswer s via 0 [0x8000000000000025]) ∧
    (∀ k, pldmTypes.contains k = true → ∃ l, exec (.getPldmCommands via k) s = .next (pldmAnswer (draw s) via 0 l) ∧ l.length = 4) ∧
    (∀ k c, exec (.pldmUnsupported via k c) s = .next (pldmAnswer s via 5 [])) ∧
    (∀ k n, pldmSensor s k = some n → exec (.getSensorReading via k) s = .next (pldmAnswer s via 0 [unsigned 64 (if n = 58 then readingOf s n / 100 else readingOf s n)])) ∧
    (∀ a n, 1 ≤ n → n ≤ 32 → (∀ i, i < n → (mgmtWord { s with free := s.free + i } (a + 8 * i)).isSome = true) →
      exec (.mgmtRead via a n) s = .next (pldmAnswer { s with free := s.free + n } via 0
        ((List.range n).map fun i => (mgmtWord { s with free := s.free + i } (a + 8 * i)).getD 0))) ∧
    (∀ q, secured s via q = true →
      (∀ e, exec (.setEventReceiver via q e) s = .next (pldmAnswer { s with mgmt := { s.mgmt with receiver := some (via, e) } } via 0 [])) ∧
      (s.fw.staging = false → s.fw.stagingPldm = false → ∃ u, exec (.requestUpdate via q 1) s = .next (pldmAnswer u via 0 []) ∧
        u.fw = { s.fw with stagingPldm := true, component := 1, received := 0, staged := none } ∧ u = { s with fw := u.fw }) ∧
      (∀ data, s.fw.stagingPldm = true → s.fw.content = none → exec (.pldmFwTransfer via q data none none) s =
        .next (pldmAnswer { s with fw := { s.fw with received := s.fw.received + data.length } } via 0 [])) ∧
      (∀ k, s.fw.stagingPldm = false → s.fw.staging = false → s.fw.staged = none → s.fw.stagedPack = some k → packRefusal s k = none →
        exec (.activateFirmware via q) s = .next (pldmAnswer { s with fw := { s.fw with nextPack := some k, stagedPack := none } } via 0 [])) ∧
      (s.fw.stagingPldm = false → s.fw.staging = false → s.jobs = [] → s.fw.staged.isSome = true → s.fw.stagedPack = none → exec (.activateFirmware via q) s =
        .next (pldmAnswer (warmRestart (activateSlot s)) via 0 [])) ∧
      (∀ v : Word64, exec (.mgmtWrite via q 0 [v]) s =
        .next (pldmAnswer { s with mgmt := { s.mgmt with wallBase := some ((v.toNat : Int) - (s.clk.now : Int)) } } via 0 [])) ∧
      ∀ (a : Nat) (v : Word64), mgmtWritable a v.toNat = false → exec (.mgmtWrite via q a [v]) s = .next (pldmAnswer s via 2 [])) ∧
    ∀ q, secured s via q = false →
      (∀ e, exec (.setEventReceiver via q e) s = .next (pldmAnswer s via 4 [])) ∧ (∀ k, exec (.requestUpdate via q k) s = .next (pldmAnswer s via 4 [])) ∧
      (∀ d i k, exec (.pldmFwTransfer via q d i k) s = .next (pldmAnswer s via 4 [])) ∧ exec (.activateFirmware via q) s = .next (pldmAnswer s via 4 []) ∧
      ∀ a w, exec (.mgmtWrite via q a w) s = .next (pldmAnswer s via 4 [])

/-- SPDM: version, capabilities and algorithms in that order; the certificate, challenge and measurement answers of a negotiated connection whose keys
stand, signed with the Alias key of the running image; a session is in handshake, then established, then ended. ENTDAA gives the I3C address; a JTAG
instruction outside the return state takes effect or is BYPASS. -/
def Obligations.SpdmAndPorts : Prop :=
  ∀ (s : State) (via : Transport), s.pwr.hubOn = true →
    Says (.getVersion via) s (putSpdm s via { version := true }) via "VERSION" [0x13] ∧
    ((spdmOf s via).version = true → ∃ d, Says (.getCapabilities via) s (draw (putSpdm s via { version := true, capabilities := true })) via "CAPABILITIES" d) ∧
    ((spdmOf s via).capabilities = true → ∀ b, ∃ d, Says (.negotiateAlgorithms via b) s (putSpdm s via { spdmOf s via with algorithms := b }) via "ALGORITHMS" d) ∧
    ((spdmOf s via).algorithms = true → s.fw.keys = true → s.fw.returnFuse = false →
      Says (.getDigests via) s s via "DIGESTS" (Config.sha384 (chain s)) ∧
      (∀ o n, o < (chain s).length → Says (.getCertificate via 0 o n) s s via "CERTIFICATE" (slice (chain s) o n)) ∧
      (∀ n, Says (.challenge via 0 n) s s via "CHALLENGE_AUTH" (aliasSign s n)) ∧
      (∀ i n, 1 ≤ i → i ≤ 5 → Says (.getMeasurements via i n) s s via "MEASUREMENTS" (measurement s i ++ aliasSign s (measurement s i ++ n))) ∧
      ∀ k e, (s.mgmt.sessions.all fun q => q.via != via) = true → ∃ u q d, Says (.keyExchange via k e) s u via "KEY_EXCHANGE_RSP" d ∧
        u.mgmt.sessions = s.mgmt.sessions ++ [q] ∧ q.via = via ∧ q.established = false ∧ q.id % 65536 = k % 65536 ∧
          d = leBytes 4 q.id ++ aliasSign s (leBytes 4 q.id ++ leBytes 8 e.toNat)) ∧
    (∀ n q, sessionOf s via n = some q → q.established = false → ∃ u, Says (.finish via n true) s u via "FINISH_RSP" [] ∧ secured u via (some n) = true) ∧
    (∀ n, secured s via (some n) = true → (∃ u, Says (.endSession via n) s u via "END_SESSION_ACK" [] ∧ secured u via (some n) = false) ∧
      ∃ u, Says (.heartbeat via n) s u via "HEARTBEAT_ACK" [] ∧ (sessionOf u via n).any (fun q => q.lastHeartbeat == s.clk.now) = true ∧ secured u via (some n) = true) ∧
    (∀ a, a < 128 → exec (.entdaa a) s = .next { s with mgmt := { s.mgmt with i3cAddress := some a } }) ∧
    ∀ c, s.hub.phase ≠ 2 → exec (.jtagInstruction c) s = .next { s with mgmt := { s.mgmt with jtagCode := c, jtag := jtagEffect s c } }

/-! ### Power, resets, supply and cooling -/

/-- Power-up in order: the Hub domain starts without jobs, stitches and memory contents, with the fuses, the retired nibs, the station and the
configuration that NV keeps; the straps are latched once; `PWR_EN` or the input's rise starts the rails, `PWR_GOOD` is released, the first rise of
`PERST_N` ends power-up, and bring-up completes, which advances the anti-rollback fuses and resumes a return. The fall of `PWR_EN` takes the rails
down, with every job and the memory contents. -/
def Obligations.PowerComesUp : Prop :=
  (∀ s : State, ∃ t, exec .powerOnReset s = .next t ∧ t.fw.fuses = fusesNow s ∧ t.nibs.retired = s.nibs.retired ∧ t.fab.station = s.fab.nvStation ∧
    t.mgmt.cfg = s.mgmt.cfgNv ∧ t.jobs = [] ∧ t.acts = [] ∧ t.mem.bytes = [] ∧ t.pwr.railsOn = false ∧ t.pwr.strapsLatched = false) ∧
  (∀ (s : State) (a b : Nat), s.pwr.hubOn = true → s.pwr.strapsLatched = false → bootable s (running s) = true →
    ∃ t, exec (.strapLatch a b) s = .next t ∧
      t.pwr = { s.pwr with slotId := BitVec.ofNat 6 a, feedTag := BitVec.ofNat 4 b, strapsLatched := true, pwrGoodLow := !s.pwr.railsOn } ∧
      t.hub.bootFailed = false ∧ t.clk.now = max s.clk.now 1000000 ∧ t.mem = s.mem) ∧
  (∀ (s : State) (mv : Nat), s.pwr.hubOn = true → s.pwr.pwrEn = false → 44000 ≤ mv → mv ≤ 58000 →
    ∃ t, exec (.pwrEnRise mv) s = .next t ∧ t.pwr.pwrEn = true ∧ t.pwr.railsRamping = true ∧ t.pwr.ovLatched = false ∧ t.pwr.faultLow = false ∧ t.pwr.pwrGoodLow = true) ∧
  (∀ (s : State) (mv : Nat), s.pwr.hubOn = true → 44000 ≤ mv → s.pwr.pwrEn = true → s.pwr.railsOn = false → s.pwr.railsRamping = false → s.pwr.ovLatched = false →
    s.pwr.thermtripLow = false → ∃ t, exec (.operatingRangeEntry mv) s = .next t ∧ t.pwr.railsRamping = true ∧ t.pwr.inputMv = mv) ∧
  (∀ s : State, s.pwr.railsRamping = true →
    exec .pwrGoodRelease s = .next { s with pwr := { s.pwr with railsOn := true, railsRamping := false, pwrGoodLow := false } }) ∧
  (∀ s : State, s.pwr.perstN = false → s.pwr.railsOn = true → ∃ t, exec .perstNReset s = .next t ∧
    t = { s with pwr := { s.pwr with perstN := true }, mgmt := { s.mgmt with jtag := t.mgmt.jtag } }) ∧
  (∀ s : State, s.pwr.strapsLatched = true → s.pwr.railsOn = true → s.hub.bootFailed = false → s.hub.phase = 0 →
    ∃ t, exec .bringUpComplete s = .next t ∧ t.hub.phase = 1 ∧ t.fw.bootFailures = 0 ∧ t.jobs = s.jobs ∧ t.mgmt.uartOn = (s.mgmt.cfg.consoleEn == 1) ∧
      (min 64 (running s).svn ≤ fusesNow s → t.pwr = s.pwr ∧ t.fw.fusePending = s.fw.fusePending) ∧
      (fusesNow s < min 64 (running s).svn → nvReady s = true → fusesNow t = min 64 (running s).svn ∧ t.fw.fusePending = none) ∧
      (fusesNow s < min 64 (running s).svn → nvReady s = false → fusesNow t = fusesNow s ∧ t.fw.fusePending = some (min 64 (running s).svn)) ∧
      (s.fw.returnStep ≠ 0 → s.fw.returnFuse = false → t.mgmt.sessions = [] ∧ opRunning t 8 0 none = true)) ∧
  (∀ (s : State) (mv : Nat), s.pwr.hubOn = false → exec (.pwrEnRise mv) s = .next { s with pwr := { s.pwr with pwrEn := true } } ∧
    exec .pwrEnFall s = .next { s with pwr := { s.pwr with pwrEn := false } }) ∧
  ∀ s : State, s.pwr.hubOn = true → s.pwr.pwrEn = true →
    ∃ t, exec .pwrEnFall s = .next t ∧ t.pwr.pwrEn = false ∧ t.pwr.railsOn = false ∧ t.pwr.pwrGoodLow = true ∧ t.jobs = [] ∧ t.mem.bytes = [] ∧ t.hub.phase = startPhase s ∧
      t.fw.fuses = s.fw.fuses

/-- A warm restart leaves Ohmub in its start phase, without sessions, staging windows or admitted stitches. A later `PERST_N`, a poisoned structure of
Ohmub and the watchdog cause one; an image that fails bring-up three times gives way to the other slot. -/
def Obligations.WarmRestarts : Prop :=
  (∀ s : State, ∃ t, warmRestart s = t ∧ t.hub.phase = startPhase s ∧ t.hub.pstate = 0 ∧ t.mgmt.sessions = [] ∧ t.hub.staging = [] ∧
    (s.hub.preserve = false → t.jobs = [] ∧ t.acts = [] ∧ t.mem.bytes = []) ∧
    (s.hub.preserve = true → jobsOk s.jobs = true → t.jobs.map Prod.fst = s.jobs.map Prod.fst) ∧ t.fw.fuses = s.fw.fuses) ∧
  (∀ s : State, s.pwr.perstN = true → exec .perstNReset s =
    .next (warmRestart { s with hub := { s.hub with pciCfg := [], bar4Offset := 0, bar4Size := 0x1000000000, msixTable := [], msixPending := [] } })) ∧
  (∀ s : State, hbmOn s = true → exec .ohmubWarmRestart s = .next (health (warmRestart s) { code := 0x0601, severity := 2 })) ∧
  (∀ s : State, s.pwr.hubOn = true → s.pwr.strapsLatched = true → s.hub.phase ≠ 0 → exec .hubWatchdog s = .next (warmRestart s)) ∧
  (∀ s : State, s.pwr.hubOn = true → s.pwr.strapsLatched = true → s.hub.phase = 0 → s.fw.bootFailures < 2 →
    exec .hubWatchdog s = .next (warmRestart { s with fw := { s.fw with bootFailures := s.fw.bootFailures + 1 } })) ∧
  ∀ s : State, s.pwr.hubOn = true → s.pwr.strapsLatched = true → s.hub.phase = 0 → 2 ≤ s.fw.bootFailures → bootable s (fwSlot s (otherSlot s)) = true →
    exec .hubWatchdog s = .next (warmRestart (fallBack s))

/-- Supply: UV-warn halves the nib clock, meets every NV write that may be under way (log entries 2 and 26) and a sag's end restores it with one record;
no NV write starts while stopped and a retry writes what waited;
a UV-reset resets both domains and leaves its flag; an over-voltage stop takes the rails down with `FAULT_N` low and latched. -/
def Obligations.SupplyEvents : Prop :=
  (∀ (s : State) (mv : Nat), s.pwr.hubOn = true → s.pwr.uvWarn = false →
    ∃ t, exec (.uvWarn mv) s = .next t ∧ t.pwr.uvWarn = true ∧ t.pwr.divSupply = 2 ∧ 2 ≤ t.pwr.divisor ∧ t.pwr.inputMv = mv ∧ nvReady t = false ∧ t.jobs = s.jobs ∧
      t.pwr.nvBusy = [] ∧ t.mem.bytes = s.mem.bytes ∧ (s.pwr.nvBusy = [] → t.mem = s.mem ∧ t.mgmt.cfgNv = s.mgmt.cfgNv ∧ t.fw = s.fw)) ∧
  (∀ (s : State) (us mv : Nat), s.pwr.uvWarn = true →
    ∃ t h, exec (.sag us mv) s = .next t ∧ t.pwr.uvWarn = false ∧ t.pwr.nvStop = false ∧ t.pwr.divSupply = 1 ∧
      t.pwr.divisor = max (max 1 s.pwr.divPair) (max s.pwr.divPower s.pwr.divCooling) ∧
      tget t.mgmt.ring (t.mgmt.hseq - 1) = some h ∧ h.hcode = 0x0801 ∧ t.jobs = s.jobs ∧ t.mem = s.mem) ∧
  (∀ s : State, s.pwr.hubOn = true → s.pwr.uvWarn = true → exec .nvStop s = .next { s with pwr := { s.pwr with nvStop := true } }) ∧
  (∀ s : State, s.pwr.nvStop = true → exec .nvStopClear s = .next { s with pwr := { s.pwr with nvStop := false } }) ∧
  (∀ s : State, s.pwr.hubOn = true → s.pwr.uvWarn = false → s.pwr.nvStop = false → 43500 ≤ s.pwr.inputMv → s.fw.content = none →
    ∃ t, exec .nvWriteRetry s = .next t ∧ t.mgmt.cfgNv = s.mgmt.cfgUnsaved.getD s.mgmt.cfgNv ∧
      t.mgmt.cfgUnsaved = none ∧ t.mgmt.critUnsaved = [] ∧ t.mem.unsaved = [] ∧ t.mem.unlogged = [] ∧ t.fw.fusePending = none ∧
      fusesNow t = max (fusesNow s) (s.fw.fusePending.getD 0) ∧
      t.fab.nvStation = s.fab.stationUnsaved.getD s.fab.nvStation ∧ t.mem.bytes = s.mem.bytes) ∧
  (∀ s : State, s.pwr.hubOn = true → ∃ t, exec .uvReset s = .next t ∧ t.pwr.hubOn = false ∧ t.pwr.railsOn = false ∧ t.pwr.uvResetFlag = true ∧ t.jobs = [] ∧
    t.mem.bytes = [] ∧ t.fw.fuses = fusesNow s) ∧
  ∀ (s : State) (mv : Nat), s.pwr.hubOn = true → ∃ t h, exec (.ovStop mv) s = .next t ∧ t.pwr.railsOn = false ∧ t.pwr.ovLatched = true ∧ t.pwr.faultLow = true ∧
    tget t.mgmt.ring s.mgmt.hseq = some h ∧ h.hcode = 0x0803 ∧ h.severity = 2 ∧ t.jobs = []

/-- Power and heat: imbalance and the power limit halve the nib clock until they clear, the divisor is the largest demanded; a poll keeps each
reading; a trip takes the rails down with `THERMTRIP_N`, a leak halts every job and parks the part, and a panel's reset aborts its stitches and
poisons its Pillows. -/
def Obligations.PowerAndHeat : Prop :=
  (∀ (s : State) (cause : Nat), (setDivisor s cause).pwr.divisor = max (max s.pwr.divSupply s.pwr.divPair) (max s.pwr.divPower s.pwr.divCooling)) ∧
  (∀ (s : State) (low : Nat), s.pwr.hubOn = true → s.pwr.powerCap = false → s.mgmt.ring.length < 1023 →
    ∃ t h, exec (.pairImbalance low) s = .next t ∧ t.pwr.powerCap = true ∧ t.pwr.divPair = 2 ∧ 2 ≤ t.pwr.divisor ∧ tget t.mgmt.ring s.mgmt.hseq = some h ∧ h.hcode = 0x0804 ∧
      t.jobs = s.jobs) ∧
  (∀ s : State, s.pwr.powerCap = true → ∃ t, exec .pairImbalanceClear s = .next t ∧ t.pwr.powerCap = false ∧ t.pwr.divPair = 1 ∧
    t.pwr.divisor = max (max s.pwr.divSupply 1) (max s.pwr.divPower s.pwr.divCooling)) ∧
  (∀ s : State, s.pwr.hubOn = true → s.pwr.divPower = 1 → ∃ t, exec .powerLimit s = .next t ∧ t.pwr.divPower = 2 ∧ 2 ≤ t.pwr.divisor ∧ t.jobs = s.jobs) ∧
  (∀ s : State, s.pwr.divPower = 2 → ∃ t, exec .powerLimitClear s = .next t ∧ t.pwr.divPower = 1 ∧
    t.pwr.divisor = max (max s.pwr.divSupply s.pwr.divPair) (max 1 s.pwr.divCooling)) ∧
  (∀ (s : State) (rs : List Reading), s.pwr.hubOn = true →
    ∃ t, exec (.sensorPoll rs) s = .next t ∧ t.pwr.readings = rs.foldl (fun t r => tset t r.sensor r.value) s.pwr.readings ∧
      t.pwr.divCooling = t.pwr.cooling.foldl (fun d c => max d c.2.1) 1 ∧ t.jobs = s.jobs ∧ t.mem = s.mem) ∧
  (∀ (s : State) (r : Reading), s.pwr.hubOn = true → s.pwr.railsOn = true → r.sensor < 32 → 115 * 8 < r.value →
    ∃ t h, exec (.thermalTrip r) s = .next t ∧ t.pwr.railsOn = false ∧ t.pwr.thermtripLow = true ∧ t.pwr.faultLow = true ∧ tget t.mgmt.ring s.mgmt.hseq = some h ∧
      h.hcode = 0x0821 ∧ t.jobs = []) ∧
  (∀ s : State, jobsOk s.jobs = true → s.pwr.hubOn = true → s.pwr.leakLow = false → s.pwr.railsOn = true → ∃ t, exec .leakDetect s = .next t ∧ t.pwr.leakLow = true ∧ t.pwr.faultLow = true ∧
    t.hub.pstate = 2 ∧ t.acts = [] ∧ t.jobs.map Prod.fst = s.jobs.map Prod.fst) ∧
  (∀ (s : State) (panel : Nat), s.pwr.railsOn = true → s.hub.pstate ≠ 2 → panel < featPanels s →
    ∃ t, exec (.panelReset panel) s = .next t ∧ (t.acts.all fun a => !(a.nibs.any fun n => n.1 == panel)) = true ∧ (tget t.nibs.panelStopped panel).isSome = true ∧
      granulePoisoned t.mem (pillowOf panel 0) = true) ∧
  ∀ (s : State) (panel since : Nat), tget s.nibs.panelStopped panel = some since →
    ∃ t, exec (.panelHeartbeatTimeout panel) s = .next t ∧ t.clk.now = max s.clk.now (since + 5000000) ∧ (∀ n ∈ nibsLive s panel, panel * 160 + n ∈ t.nibs.out) ∧
      t.nibs.panelStopped = tdel s.nibs.panelStopped panel ∧ t.jobs = s.jobs
end

