-- ==== Sys2Proof/Laws/Memory.lean ====
section
/-! SUPPORT. Laws of the tables and of memory: a read after a write, and the canonical form that every memory operation keeps. -/

namespace Sys2Proof.Laws

open Sys2Proof.Machine

/-! ### Tables -/

@[simp] theorem tget_nil {α : Type} (k : Nat) : tget ([] : Tbl α) k = none := rfl

theorem tget_tset {α : Type} (t : Tbl α) (k i : Nat) (v : α) : tget (tset t k v) i = if k = i then some v else tget t i := by
  induction t with
  | nil => simp [tset, tget]
  | cons x r ih =>
    obtain ⟨j, w⟩ := x
    simp only [tset]
    split
    · simp [tget]
    · split
      · next h => subst h; simp only [tget]; split <;> simp_all
      · next h1 h2 => simp only [tget, ih]; split <;> (try split) <;> simp_all

@[simp] theorem tget_tset_self {α : Type} (t : Tbl α) (k : Nat) (v : α) : tget (tset t k v) k = some v := by simp [tget_tset]

theorem tget_tset_ne {α : Type} (t : Tbl α) {k i : Nat} (v : α) (h : k ≠ i) : tget (tset t k v) i = tget t i := by simp [tget_tset, h]

/-- Every key of a table lies above a bound. -/
def Above {α : Type} (n : Nat) (t : Tbl α) : Prop := ∀ c ∈ t, n < c.1

theorem rising_cons {α : Type} (x : Nat × α) (t : Tbl α) : rising (x :: t) = true ↔ Above x.1 t ∧ rising t = true := by
  induction t generalizing x with
  | nil => simp [rising, Above]
  | cons y r ih =>
    have hy := ih y
    simp only [rising, Bool.and_eq_true, decide_eq_true_eq]
    constructor
    · rintro ⟨h1, h2⟩
      refine ⟨?_, h2⟩
      intro c hc
      rcases List.mem_cons.1 hc with rfl | hc
      · exact h1
      · exact lt_trans h1 ((hy.1 h2).1 c hc)
    · rintro ⟨h1, h2⟩
      exact ⟨h1 y (by simp), h2⟩

theorem mem_tset {α : Type} (t : Tbl α) (k : Nat) (v : α) (c : Nat × α) (h : c ∈ tset t k v) : c = (k, v) ∨ c ∈ t := by
  induction t with
  | nil => simpa [tset] using h
  | cons x r ih =>
    obtain ⟨j, w⟩ := x
    simp only [tset] at h
    split at h
    · rcases List.mem_cons.1 h with h | h
      · exact .inl h
      · exact .inr h
    · split at h
      · rcases List.mem_cons.1 h with h | h
        · exact .inl h
        · exact .inr (List.mem_cons_of_mem _ h)
      · rcases List.mem_cons.1 h with h | h
        · exact .inr (by simp [h])
        · rcases ih h with h | h
          · exact .inl h
          · exact .inr (List.mem_cons_of_mem _ h)

theorem rising_tset {α : Type} (t : Tbl α) (k : Nat) (v : α) (h : rising t = true) : rising (tset t k v) = true := by
  induction t with
  | nil => simp [tset, rising]
  | cons x r ih =>
    obtain ⟨j, w⟩ := x
    have hx := (rising_cons _ _).1 h
    simp only [tset]
    split
    · next hk =>
      refine (rising_cons _ _).2 ⟨?_, h⟩
      intro c hc
      rcases List.mem_cons.1 hc with rfl | hc
      · exact hk
      · exact lt_trans hk (hx.1 c hc)
    · split
      · next hk => subst hk; exact (rising_cons _ _).2 hx
      · next h1 h2 =>
        refine (rising_cons _ _).2 ⟨?_, ih hx.2⟩
        intro c hc
        rcases mem_tset _ _ _ _ hc with rfl | hc
        · simp only; omega
        · exact hx.1 c hc

theorem mem_tdel {α : Type} (t : Tbl α) (k : Nat) (c : Nat × α) (h : c ∈ tdel t k) : c ∈ t := by
  induction t with
  | nil => simp [tdel] at h
  | cons x r ih =>
    obtain ⟨j, w⟩ := x
    simp only [tdel] at h
    split at h
    · exact List.mem_cons_of_mem _ h
    · rcases List.mem_cons.1 h with h | h
      · simp [h]
      · exact List.mem_cons_of_mem _ (ih h)

theorem rising_tdel {α : Type} (t : Tbl α) (k : Nat) (h : rising t = true) : rising (tdel t k) = true := by
  induction t with
  | nil => simp [tdel, rising]
  | cons x r ih =>
    obtain ⟨j, w⟩ := x
    have hx := (rising_cons _ _).1 h
    simp only [tdel]
    split
    · exact hx.2
    · exact (rising_cons _ _).2 ⟨fun c hc => hx.1 c (mem_tdel _ _ _ hc), ih hx.2⟩

theorem rising_filter {α : Type} (t : Tbl α) (p : Nat × α → Bool) (h : rising t = true) : rising (t.filter p) = true := by
  induction t with
  | nil => simp [rising]
  | cons x r ih =>
    have hx := (rising_cons _ _).1 h
    simp only [List.filter_cons]
    split
    · exact (rising_cons _ _).2 ⟨fun c hc => hx.1 c (List.mem_of_mem_filter hc), ih hx.2⟩
    · exact ih hx.2

theorem tget_above {α : Type} (t : Tbl α) (k : Nat) (h : Above k t) : tget t k = none := by
  induction t with
  | nil => rfl
  | cons x r ih =>
    obtain ⟨j, w⟩ := x
    have : k < j := h (j, w) (by simp)
    simp only [tget]
    rw [if_neg (by omega)]
    exact ih fun c hc => h c (List.mem_cons_of_mem _ hc)

/-- In a table with rising keys, deleting a key makes it unlisted and leaves every other. -/
theorem tget_tdel {α : Type} (t : Tbl α) (k i : Nat) (h : rising t = true) : tget (tdel t k) i = if k = i then none else tget t i := by
  induction t with
  | nil => simp [tdel]
  | cons x r ih =>
    obtain ⟨j, w⟩ := x
    have hx := (rising_cons _ _).1 h
    simp only [tdel]
    split
    · next hj =>
      subst hj
      split
      · next hi => subst hi; exact tget_above _ _ hx.1
      · next hi => simp [tget, hi]
    · next hj =>
      simp only [tget, ih hx.2]
      split <;> (try split) <;> simp_all

/-! ### Bytes -/

theorem wf_iff (l : List Host.Cell) : Memory.wf l = true ↔ rising l = true ∧ ∀ c ∈ l, c.2 ≠ Mem.unwritten := by
  simp [Memory.wf]

theorem wf_nil : Memory.wf [] = true := rfl

theorem cellSet_wf (l : List Host.Cell) (a : Nat) (b : Byte) (h : Memory.wf l = true) : Memory.wf (cellSet l a b) = true := by
  obtain ⟨h1, h2⟩ := (wf_iff l).1 h
  refine (wf_iff _).2 ?_
  unfold cellSet
  split
  · exact ⟨rising_tdel _ _ h1, fun c hc => h2 c (mem_tdel _ _ _ hc)⟩
  · next hb =>
    refine ⟨rising_tset _ _ _ h1, fun c hc => ?_⟩
    rcases mem_tset _ _ _ _ hc with rfl | hc
    · exact hb
    · exact h2 c hc

/-- A read of a stored byte after a store: the byte stored there, and every other byte as before. -/
theorem cellGet_cellSet (l : List Host.Cell) (a x : Nat) (b : Byte) (h : Memory.wf l = true) :
    cellGet (cellSet l a b) x = if a = x then b else cellGet l x := by
  obtain ⟨h1, -⟩ := (wf_iff l).1 h
  unfold cellGet cellSet tgetD
  split
  · next hb => rw [tget_tdel _ _ _ h1]; split <;> simp_all
  · rw [tget_tset]; split <;> simp

/-! ### Memory operations keep the canonical form -/

/-- An operation on memory keeps the canonical form of the bytes and the form of the pending entries. -/
def MKeeps (m n : Mem) : Prop :=
  (Memory.wf m.bytes = true → Memory.wf n.bytes = true) ∧ (Memory.wcbOk m.wcb = true → Memory.wcbOk n.wcb = true)

theorem MKeeps.refl (m : Mem) : MKeeps m m := ⟨id, id⟩
theorem MKeeps.trans {a b c : Mem} (h : MKeeps a b) (k : MKeeps b c) : MKeeps a c := ⟨k.1 ∘ h.1, k.2 ∘ h.2⟩
/-- An operation that leaves the bytes and the pending entries alone. -/
theorem MKeeps.same {a m n : Mem} (h : MKeeps a m) (e : n.bytes = m.bytes) (w : n.wcb = m.wcb) : MKeeps a n := by unfold MKeeps; rw [e, w]; exact h
theorem MKeeps.plain {a m : Mem} (h : MKeeps a m) {poison reqs openRow rowErrs sparesUsed repairLog unlogged retired unsaved degraded scrub scrubStart scrubStroke zeroing nextBatch jobOpened} :
    MKeeps a (Mem.mk m.bytes poison m.wcb reqs openRow rowErrs sparesUsed repairLog unlogged retired unsaved degraded scrub scrubStart scrubStroke zeroing nextBatch jobOpened) := h
/-- Memory emptied of its bytes and its pending entries. -/
theorem MKeeps.fresh {a : Mem} {poison reqs openRow rowErrs sparesUsed repairLog unlogged retired unsaved degraded scrub scrubStart scrubStroke zeroing nextBatch jobOpened} :
    MKeeps a (Mem.mk [] poison [] reqs openRow rowErrs sparesUsed repairLog unlogged retired unsaved degraded scrub scrubStart scrubStroke zeroing nextBatch jobOpened) :=
  ⟨fun _ => wf_nil, fun _ => rfl⟩
theorem MKeeps.foldl {α : Type} {a : Mem} (f : Mem → α → Mem) (l : List α) {m : Mem} (h : MKeeps a m) (k : ∀ m x, MKeeps a m → MKeeps a (f m x)) :
    MKeeps a (l.foldl f m) := by
  induction l generalizing m with
  | nil => exact h
  | cons x r ih => exact ih (k m x h)
theorem MKeeps.ite {a m n : Mem} {c : Prop} [Decidable c] (h : MKeeps a m) (k : MKeeps a n) : MKeeps a (if c then m else n) := by split <;> assumption

theorem MKeeps.elim {α : Type} {a m : Mem} {o : Option α} {f : α → Mem} (h : MKeeps a m) (k : ∀ x, MKeeps a (f x)) : MKeeps a (o.elim m f) := by
  cases o
  · exact h
  · exact k _

theorem storeByte_keeps {a m : Mem} (h : MKeeps a m) (x : Nat) (b : Byte) : MKeeps a (storeByte m x b) := by
  unfold storeByte
  split
  · exact h
  · exact ⟨fun w => cellSet_wf _ _ _ (h.1 w), h.2⟩
theorem storeBytes_keeps {a m : Mem} (h : MKeeps a m) (ws : List (Nat × Byte)) : MKeeps a (storeBytes m ws) :=
  MKeeps.foldl _ _ h fun _ _ k => storeByte_keeps k _ _
theorem setPoison_keeps {a m : Mem} (h : MKeeps a m) (g : Nat) : MKeeps a (setPoison m g) := h.same rfl rfl
theorem clearPoison_keeps {a m : Mem} (h : MKeeps a m) (g : Nat) : MKeeps a (clearPoison m g) := h.same rfl rfl
theorem drainEntry_keeps {a m : Mem} (h : MKeeps a m) (e : WcbEntry) : MKeeps a (drainEntry m e) := by
  unfold drainEntry
  exact .ite (setPoison_keeps (storeBytes_keeps h _) _) (.ite (clearPoison_keeps (storeBytes_keeps h _) _) (storeBytes_keeps h _))
/-- The form of pending entries is that of some of them. -/
theorem wcbOk_sublist {l k : List WcbEntry} (h : k.Sublist l) (w : Memory.wcbOk l = true) : Memory.wcbOk k = true := by
  simp only [Memory.wcbOk, Bool.and_eq_true, decide_eq_true_eq, List.all_eq_true] at w ⊢
  exact ⟨w.1.sublist (h.map _), fun e m => w.2 e (h.subset m)⟩
theorem drainIf_keeps {a m : Mem} (h : MKeeps a m) (p : WcbEntry → Bool) : MKeeps a (drainIf m p) :=
  ⟨(MKeeps.foldl _ (m.wcb.filter p) h fun _ _ k => drainEntry_keeps k _).1, fun w => wcbOk_sublist List.filter_sublist (h.2 w)⟩
theorem drainRange_keeps {a m : Mem} (h : MKeeps a m) (x n : Nat) : MKeeps a (drainRange m x n) := drainIf_keeps h _

/-- The form of one pending entry. -/
theorem wcbOk_iff (l : List WcbEntry) :
    Memory.wcbOk l = true ↔ (l.map (·.granule)).Nodup ∧ ∀ e ∈ l, rising e.data = true ∧ ∀ c ∈ e.data, c.1 / 64 * 64 = e.granule := by
  simp [Memory.wcbOk]

/-- Bytes put into a table whose keys rise: they still do, and each entry is one of the bytes or was there. -/
theorem merged_form (l : List (Nat × Byte)) (d : Tbl Byte) (h : rising d = true) :
    rising (l.foldl (fun t c => tset t c.1 c.2) d) = true ∧ ∀ c ∈ l.foldl (fun t c => tset t c.1 c.2) d, c ∈ l ∨ c ∈ d := by
  induction l generalizing d with
  | nil => exact ⟨h, fun c m => .inr m⟩
  | cons x r ih =>
    obtain ⟨h1, h2⟩ := ih (tset d x.1 x.2) (rising_tset _ _ _ h)
    refine ⟨h1, fun c m => ?_⟩
    rcases h2 c m with m | m
    · exact .inl (List.mem_cons_of_mem _ m)
    · rcases mem_tset _ _ _ _ m with rfl | m
      · exact .inl (List.mem_cons_self ..)
      · exact .inr m

theorem allocEntry_keeps {a m : Mem} (h : MKeeps a m) (g : Grade) (now gr : Nat) : MKeeps a (allocEntry g now m gr) := by
  unfold allocEntry
  split
  · exact h
  · next hn =>
    have hs : ((fullOldest g m gr).elim m fun e => drainIf m fun x => x.granule == e.granule).wcb.Sublist m.wcb := by
      cases fullOldest g m gr with
      | none => exact List.Sublist.refl _
      | some e => exact List.filter_sublist
    refine (MKeeps.elim h fun e => drainIf_keeps h _ : MKeeps a ((fullOldest g m gr).elim m fun e => drainIf m fun x => x.granule == e.granule)).trans
      (And.intro (fun w => w) fun w => ?_)
    rw [wcbOk_iff] at w ⊢
    simp only [List.map_append, List.map_cons, List.map_nil, List.mem_append, List.mem_singleton]
    refine ⟨List.nodup_append.2 ⟨w.1, by simp, ?_⟩, ?_⟩
    · rintro k hk _ hb rfl
      simp only [List.mem_singleton] at hb
      obtain ⟨e, he, rfl⟩ := List.mem_map.1 hk
      exact hn (List.any_eq_true.2 ⟨e, hs.subset he, by simp [hb]⟩)
    · rintro e (he | rfl)
      · exact w.2 e he
      · exact ⟨rfl, fun _ hc => by cases hc⟩

/-- A write within one granule keeps memory's form. -/
theorem acceptGranule_keeps {a m : Mem} (h : MKeeps a m) (g : Grade) (now : Nat) (sid : Option Sid) (gr : Nat) (data : Tbl Byte) (bad : Bool)
    (hd : ∀ c ∈ data, c.1 / 64 * 64 = gr) : MKeeps a (acceptGranule g now sid m gr data bad) := by
  unfold acceptGranule
  extract_lets m1 m2
  refine drainIf_keeps (m := m2) ((allocEntry_keeps h g now gr).trans (And.intro (fun w => w) fun w => ?_)) _
  show Memory.wcbOk (m1.wcb.map fun e => if e.granule == gr then mergeEntry e data bad sid else e) = true
  rw [wcbOk_iff] at w ⊢
  simp only [List.map_map, List.mem_map]
  have hm : ((fun e : WcbEntry => e.granule) ∘ fun e => if e.granule == gr then mergeEntry e data bad sid else e) = fun e => e.granule := by
    funext e
    simp only [Function.comp]
    split <;> rfl
  refine ⟨by rw [hm]; exact w.1, ?_⟩
  rintro _ ⟨e, he, rfl⟩
  split
  · next hg =>
    obtain ⟨h1, h2⟩ := merged_form data e.data (w.2 e he).1
    refine ⟨h1, fun c hc => ?_⟩
    rcases h2 c hc with hc | hc
    · exact (hd c hc).trans (beq_iff_eq.1 hg).symm
    · exact (w.2 e he).2 c hc
  · exact w.2 e he

theorem commitGranule_keeps {a m : Mem} (h : MKeeps a m) (g : Grade) (now : Nat) (sid : Option Sid) (ws : WriteSet) (k : Nat) :
    MKeeps a (commitGranule g now sid ws m k) := by
  unfold commitGranule
  refine .ite (acceptGranule_keeps h _ _ _ _ _ _ fun c hc => ?_) (drainEntry_keeps h _)
  have := (List.mem_filter.1 hc).2
  simp only [beq_iff_eq] at this
  rw [this]
theorem commitWrites_keeps {a m : Mem} (h : MKeeps a m) (g : Grade) (now : Nat) (sid : Option Sid) (ws : WriteSet) :
    MKeeps a (commitWrites g now sid m ws) := by
  unfold commitWrites
  exact MKeeps.foldl _ _ (MKeeps.foldl _ _ h fun _ _ k => commitGranule_keeps k _ _ _ _ _) fun _ _ k => setPoison_keeps k _
theorem zeroRange_keeps {a m : Mem} (h : MKeeps a m) (x n : Nat) : MKeeps a (zeroRange m x n) := by
  refine ⟨fun w => ?_, (drainRange_keeps h x n).2⟩
  obtain ⟨h1, h2⟩ := (wf_iff _).1 ((drainRange_keeps h x n).1 w)
  exact (wf_iff _).2 ⟨rising_filter _ _ h1, fun c hc => h2 c (List.mem_of_mem_filter hc)⟩

end Sys2Proof.Laws
end

