-- ==== Sys2Proof/Laws/Bytes.lean ====
section
/-! SUPPORT. Reading a byte after memory's operations: stores, draining write-combining entries, and poison marks. -/

namespace Sys2Proof.Laws

open Sys2Proof.Machine

@[simp] theorem storeByte_retired (m : Mem) (a : Nat) (b : Byte) : (storeByte m a b).retired = m.retired := by unfold storeByte; split <;> rfl
@[simp] theorem storeByte_wcb (m : Mem) (a : Nat) (b : Byte) : (storeByte m a b).wcb = m.wcb := by unfold storeByte; split <;> rfl
@[simp] theorem storeBytes_retired (m : Mem) (l : List (Nat × Byte)) : (storeBytes m l).retired = m.retired := by
  induction l generalizing m with
  | nil => rfl
  | cons x r ih => exact (ih (storeByte m x.1 x.2)).trans (storeByte_retired ..)
@[simp] theorem storeBytes_wcb (m : Mem) (l : List (Nat × Byte)) : (storeBytes m l).wcb = m.wcb := by
  induction l generalizing m with
  | nil => rfl
  | cons x r ih => exact (ih (storeByte m x.1 x.2)).trans (storeByte_wcb ..)

theorem frameRetired_congr {m n : Mem} (h : n.retired = m.retired) (a : Nat) : frameRetired n a = frameRetired m a := by unfold frameRetired; rw [h]

/-- A byte after a store of one byte. -/
theorem cellGet_storeByte (m : Mem) (a x : Nat) (b : Byte) (w : Memory.wf m.bytes = true) (h : frameRetired m x = false) :
    cellGet (storeByte m a b).bytes x = if a = x then b else cellGet m.bytes x := by
  unfold storeByte
  split
  · next r =>
    split
    · next e => subst e; rw [h] at r; cases r
    · rfl
  · exact cellGet_cellSet _ _ _ _ w

/-- A byte after a store of bytes at rising addresses. -/
theorem cellGet_storeBytes (m : Mem) (l : List (Nat × Byte)) (x : Nat) (w : Memory.wf m.bytes = true) (hl : rising l = true)
    (h : frameRetired m x = false) : cellGet (storeBytes m l).bytes x = (tget l x).getD (cellGet m.bytes x) := by
  induction l generalizing m with
  | nil => rfl
  | cons c r ih =>
    obtain ⟨ha, hr⟩ := (rising_cons _ _).1 hl
    have hf := frameRetired_congr (storeByte_retired m c.1 c.2) x
    have := ih (storeByte m c.1 c.2) ((storeByte_keeps (MKeeps.refl m) c.1 c.2).1 w) hr (hf.trans h)
    rw [show storeBytes m (c :: r) = storeBytes (storeByte m c.1 c.2) r from rfl, this, cellGet_storeByte m c.1 x c.2 w h]
    simp only [tget]
    split
    · next e => subst e; rw [tget_above _ _ ha]; rfl
    · rfl

@[simp] theorem setPoison_bytes (m : Mem) (g : Nat) : (setPoison m g).bytes = m.bytes := rfl
@[simp] theorem clearPoison_bytes (m : Mem) (g : Nat) : (clearPoison m g).bytes = m.bytes := rfl

theorem drainEntry_bytes (m : Mem) (e : WcbEntry) : (drainEntry m e).bytes = (storeBytes m e.data).bytes := by unfold drainEntry; dsimp only; split <;> (try split) <;> rfl
@[simp] theorem drainEntry_retired (m : Mem) (e : WcbEntry) : (drainEntry m e).retired = m.retired := by
  unfold drainEntry
  dsimp only
  split <;> (try split) <;> exact storeBytes_retired ..

/-- A byte of a granule that no entry of a list belongs to keeps its value when the list drains. -/
theorem drains_other (l : List WcbEntry) (m : Mem) (x : Nat) (w : Memory.wf m.bytes = true) (h : frameRetired m x = false)
    (hl : ∀ e ∈ l, rising e.data = true ∧ ∀ c ∈ e.data, c.1 ≠ x) : cellGet (l.foldl drainEntry m).bytes x = cellGet m.bytes x := by
  induction l generalizing m with
  | nil => rfl
  | cons e r ih =>
    have he := hl e (List.mem_cons_self ..)
    have hn : tget e.data x = none := by
      cases hx : tget e.data x with
      | none => rfl
      | some v =>
        exfalso
        have : ∀ t : Tbl Byte, tget t x = some v → ∃ c ∈ t, c.1 = x := by
          intro t
          induction t with
          | nil => intro q; cases q
          | cons y s ihs =>
            intro q
            simp only [tget] at q
            split at q
            · next e' => exact ⟨y, List.mem_cons_self .., e'⟩
            · obtain ⟨c, hc, e'⟩ := ihs q; exact ⟨c, List.mem_cons_of_mem _ hc, e'⟩
        obtain ⟨c, hc, e'⟩ := this _ hx
        exact he.2 c hc e'
    have := ih (drainEntry m e) ((drainEntry_keeps (MKeeps.refl m) e).1 w) ((frameRetired_congr (drainEntry_retired m e) x).trans h)
      fun q hq => hl q (List.mem_cons_of_mem _ hq)
    rw [List.foldl_cons, this, drainEntry_bytes, cellGet_storeBytes m e.data x w he.1 h, hn]
    rfl

/-- The pending entry of a byte's granule. -/
def pendingOf (m : Mem) (x : Nat) : Option WcbEntry := (m.wcb.filter fun e => e.granule == x / 64 * 64).getLast?

theorem memByte_eq (m : Mem) (x : Nat) (h : frameRetired m x = false) :
    memByte m x = match pendingOf m x with
      | some e => (tget e.data x).getD (cellGet m.bytes x)
      | none => cellGet m.bytes x := by
  unfold memByte pendingOf
  rw [h]
  rfl

/-- Draining entries changes no byte that a reader finds. -/
theorem memByte_drainIf (m : Mem) (p : WcbEntry → Bool) (x : Nat) (w : Memory.wf m.bytes = true) (k : Memory.wcbOk m.wcb = true)
    (h : frameRetired m x = false) : memByte (drainIf m p) x = memByte m x := by
  have hret : ∀ (l : List WcbEntry) (m : Mem), (l.foldl drainEntry m).retired = m.retired := by
    intro l
    induction l with
    | nil => exact fun _ => rfl
    | cons e r ih => exact fun m => (ih _).trans (drainEntry_retired m e)
  have hr : frameRetired (drainIf m p) x = false := (frameRetired_congr (hret _ m) x).trans h
  rw [memByte_eq _ _ hr, memByte_eq _ _ h]
  simp only [Memory.wcbOk, Bool.and_eq_true, decide_eq_true_eq, List.all_eq_true, beq_iff_eq] at k
  obtain ⟨nd, fm⟩ := k
  -- split the entries of the granule
  have other : ∀ l : List WcbEntry, (∀ e ∈ l, e ∈ m.wcb) → (∀ e ∈ l, e.granule ≠ x / 64 * 64) → ∀ n : Mem, Memory.wf n.bytes = true →
      frameRetired n x = false → cellGet (l.foldl drainEntry n).bytes x = cellGet n.bytes x := by
    intro l hm hg n wn hn
    refine drains_other l n x wn hn fun e he => ⟨(fm e (hm e he)).1, fun c hc e' => hg e he ?_⟩
    rw [← (fm e (hm e he)).2 c hc, e']
  cases hp : m.wcb.filter fun e => e.granule == x / 64 * 64 with
  | nil =>
    have none_ : ∀ e ∈ m.wcb, e.granule ≠ x / 64 * 64 := fun e he q => by
      have : e ∈ m.wcb.filter fun e => e.granule == x / 64 * 64 := List.mem_filter.2 ⟨he, by simp [q]⟩
      rw [hp] at this
      cases this
    have h1 : pendingOf m x = none := by unfold pendingOf; rw [hp]; rfl
    have h2 : pendingOf (drainIf m p) x = none := by
      unfold pendingOf
      rw [show (drainIf m p).wcb = m.wcb.filter fun e => !p e from rfl, List.filter_filter,
        List.filter_eq_nil_iff.2 fun e he => by simp [none_ e he]]
      rfl
    rw [h1, h2]
    exact other (m.wcb.filter p) (fun e he => (List.mem_filter.1 he).1) (fun e he => none_ e (List.mem_filter.1 he).1) m w h
  | cons e r =>
    have hem : e ∈ m.wcb ∧ e.granule = x / 64 * 64 := by
      have : e ∈ m.wcb.filter fun e => e.granule == x / 64 * 64 := by rw [hp]; exact List.mem_cons_self ..
      simpa using List.mem_filter.1 this
    obtain ⟨l1, l2, hl⟩ := List.append_of_mem hem.1
    have hne : ∀ q ∈ l1 ++ l2, q.granule ≠ x / 64 * 64 := by
      intro q hq
      rw [hl, List.map_append, List.map_cons] at nd
      have := (List.nodup_middle.1 nd)
      rw [List.nodup_cons, ← List.map_append] at this
      intro e'
      exact this.1 (List.mem_map.2 ⟨q, hq, e'.trans hem.2.symm⟩)
    have hsub : ∀ q ∈ l1 ++ l2, q ∈ m.wcb := fun q hq => by
      rw [hl]
      rcases List.mem_append.1 hq with a | a
      · exact List.mem_append_left _ a
      · exact List.mem_append_right _ (List.mem_cons_of_mem _ a)
    have f1 : ∀ g : WcbEntry → Bool, (l1.filter g).filter (fun e => e.granule == x / 64 * 64) = [] := fun g =>
      List.filter_eq_nil_iff.2 fun q hq => by simp [hne q (List.mem_append_left _ (List.mem_filter.1 hq).1)]
    have f2 : ∀ g : WcbEntry → Bool, (l2.filter g).filter (fun e => e.granule == x / 64 * 64) = [] := fun g =>
      List.filter_eq_nil_iff.2 fun q hq => by simp [hne q (List.mem_append_right _ (List.mem_filter.1 hq).1)]
    have g1 := f1 fun _ => true
    have g2 := f2 fun _ => true
    rw [List.filter_true] at g1 g2
    have h1 : pendingOf m x = some e := by
      unfold pendingOf
      rw [hl, List.filter_append, List.filter_cons, g1, g2]
      simp [hem.2]
    rw [h1]
    by_cases pe : p e = true
    · have h2 : pendingOf (drainIf m p) x = none := by
        unfold pendingOf
        rw [show (drainIf m p).wcb = m.wcb.filter fun e => !p e from rfl, hl, List.filter_append, List.filter_cons]
        simp only [pe, Bool.not_true]
        rw [List.filter_append]
        have := f1 fun e => !p e
        have := f2 fun e => !p e
        simp_all
      rw [h2]
      show cellGet ((m.wcb.filter p).foldl drainEntry m).bytes x = _
      rw [hl, List.filter_append, List.filter_cons, if_pos pe, List.foldl_append, List.foldl_cons]
      have wA : ∀ (l : List WcbEntry) (n : Mem), Memory.wf n.bytes = true → Memory.wf (l.foldl drainEntry n).bytes = true := fun l n wn =>
        (MKeeps.foldl drainEntry l (MKeeps.refl n) fun _ _ k => drainEntry_keeps k _).1 wn
      have A := other (l1.filter p) (fun q hq => hsub q (List.mem_append_left _ (List.mem_filter.1 hq).1))
        (fun q hq => hne q (List.mem_append_left _ (List.mem_filter.1 hq).1)) m w h
      have w1 := wA (l1.filter p) m w
      have r1 := (frameRetired_congr (hret (l1.filter p) m) x).trans h
      have B := cellGet_storeBytes _ e.data x w1 (fm e hem.1).1 r1
      rw [← drainEntry_bytes, A] at B
      refine Eq.trans ?_ B
      exact other (l2.filter p) (fun q hq => hsub q (List.mem_append_right _ (List.mem_filter.1 hq).1))
        (fun q hq => hne q (List.mem_append_right _ (List.mem_filter.1 hq).1)) _
        ((drainEntry_keeps (MKeeps.refl _) e).1 w1) ((frameRetired_congr (drainEntry_retired _ e) x).trans r1)
    · have h2 : pendingOf (drainIf m p) x = some e := by
        unfold pendingOf
        have a := f1 fun e => !p e
        have b := f2 fun e => !p e
        rw [show (drainIf m p).wcb = m.wcb.filter fun e => !p e from rfl, hl, List.filter_append, List.filter_append, a, List.filter_cons]
        rw [if_pos (by simp [pe]), List.filter_cons, b]
        simp [hem.2]
      rw [h2]
      have hc : cellGet (drainIf m p).bytes x = cellGet m.bytes x := by
        show cellGet ((m.wcb.filter p).foldl drainEntry m).bytes x = _
        refine other (m.wcb.filter p) (fun q hq => (List.mem_filter.1 hq).1) (fun q hq e' => ?_) m w h
        have hq' := List.mem_filter.1 hq
        rw [hl] at hq'
        rcases List.mem_append.1 hq'.1 with a | a
        · exact hne q (List.mem_append_left _ a) e'
        · rcases List.mem_cons.1 a with rfl | a
          · exact pe hq'.2
          · exact hne q (List.mem_append_right _ a) e'
      rw [hc]

end Sys2Proof.Laws
end

