-- ==== Sys2Proof/Laws/State.lean ====
section
/-! SUPPORT. What the plain updates of the state leave alone, field by field, and the tables' reads after a write. -/

namespace Sys2Proof.Laws

open Sys2Proof.Machine

/-- Two states whose fields agree are one. -/
theorem state_eq {a b : State} (pending : a.pending = b.pending) (free : a.free = b.free) (clk : a.clk = b.clk) (lag : a.lag = b.lag) (mem : a.mem = b.mem) (host : a.host = b.host) (nibs : a.nibs = b.nibs) (jobs : a.jobs = b.jobs) (queues : a.queues = b.queues) (acts : a.acts = b.acts) (runs : a.runs = b.runs) (fab : a.fab = b.fab) (pair : a.pair = b.pair) (shadows : a.shadows = b.shadows) (test : a.test = b.test) (hub : a.hub = b.hub) (mgmt : a.mgmt = b.mgmt) (fw : a.fw = b.fw) (pwr : a.pwr = b.pwr) (out : a.out = b.out) :
    a = b := by
  cases a
  cases b
  simp only [State.mk.injEq]
  exact ⟨pending, free, clk, lag, mem, host, nibs, jobs, queues, acts, runs, fab, pair, shadows, test, hub, mgmt, fw, pwr, out⟩

@[simp] theorem advance_pending (s : State) (t : Nat) : (advance s t).pending = s.pending := rfl
@[simp] theorem advance_free (s : State) (t : Nat) : (advance s t).free = s.free := rfl
@[simp] theorem advance_lag (s : State) (t : Nat) : (advance s t).lag = s.lag := rfl
@[simp] theorem advance_mem (s : State) (t : Nat) : (advance s t).mem = s.mem := rfl
@[simp] theorem advance_host (s : State) (t : Nat) : (advance s t).host = s.host := rfl
@[simp] theorem advance_nibs (s : State) (t : Nat) : (advance s t).nibs = s.nibs := rfl
@[simp] theorem advance_jobs (s : State) (t : Nat) : (advance s t).jobs = s.jobs := rfl
@[simp] theorem advance_queues (s : State) (t : Nat) : (advance s t).queues = s.queues := rfl
@[simp] theorem advance_acts (s : State) (t : Nat) : (advance s t).acts = s.acts := rfl
@[simp] theorem advance_runs (s : State) (t : Nat) : (advance s t).runs = s.runs := rfl
@[simp] theorem advance_fab (s : State) (t : Nat) : (advance s t).fab = s.fab := rfl
@[simp] theorem advance_pair (s : State) (t : Nat) : (advance s t).pair = s.pair := rfl
@[simp] theorem advance_shadows (s : State) (t : Nat) : (advance s t).shadows = s.shadows := rfl
@[simp] theorem advance_test (s : State) (t : Nat) : (advance s t).test = s.test := rfl
@[simp] theorem advance_hub (s : State) (t : Nat) : (advance s t).hub = s.hub := rfl
@[simp] theorem advance_mgmt (s : State) (t : Nat) : (advance s t).mgmt = s.mgmt := rfl
@[simp] theorem advance_fw (s : State) (t : Nat) : (advance s t).fw = s.fw := rfl
@[simp] theorem advance_pwr (s : State) (t : Nat) : (advance s t).pwr = s.pwr := rfl
@[simp] theorem advance_out (s : State) (t : Nat) : (advance s t).out = s.out := rfl

@[simp] theorem draw_pending (s : State) : (draw s).pending = s.pending := rfl
@[simp] theorem draw_clk (s : State) : (draw s).clk = s.clk := rfl
@[simp] theorem draw_lag (s : State) : (draw s).lag = s.lag := rfl
@[simp] theorem draw_mem (s : State) : (draw s).mem = s.mem := rfl
@[simp] theorem draw_host (s : State) : (draw s).host = s.host := rfl
@[simp] theorem draw_nibs (s : State) : (draw s).nibs = s.nibs := rfl
@[simp] theorem draw_jobs (s : State) : (draw s).jobs = s.jobs := rfl
@[simp] theorem draw_queues (s : State) : (draw s).queues = s.queues := rfl
@[simp] theorem draw_acts (s : State) : (draw s).acts = s.acts := rfl
@[simp] theorem draw_runs (s : State) : (draw s).runs = s.runs := rfl
@[simp] theorem draw_fab (s : State) : (draw s).fab = s.fab := rfl
@[simp] theorem draw_pair (s : State) : (draw s).pair = s.pair := rfl
@[simp] theorem draw_shadows (s : State) : (draw s).shadows = s.shadows := rfl
@[simp] theorem draw_test (s : State) : (draw s).test = s.test := rfl
@[simp] theorem draw_hub (s : State) : (draw s).hub = s.hub := rfl
@[simp] theorem draw_mgmt (s : State) : (draw s).mgmt = s.mgmt := rfl
@[simp] theorem draw_fw (s : State) : (draw s).fw = s.fw := rfl
@[simp] theorem draw_pwr (s : State) : (draw s).pwr = s.pwr := rfl
@[simp] theorem draw_out (s : State) : (draw s).out = s.out := rfl

@[simp] theorem putJob_pending (s : State) (j : Job) : (putJob s j).pending = s.pending := rfl
@[simp] theorem putJob_free (s : State) (j : Job) : (putJob s j).free = s.free := rfl
@[simp] theorem putJob_clk (s : State) (j : Job) : (putJob s j).clk = s.clk := rfl
@[simp] theorem putJob_lag (s : State) (j : Job) : (putJob s j).lag = s.lag := rfl
@[simp] theorem putJob_mem (s : State) (j : Job) : (putJob s j).mem = s.mem := rfl
@[simp] theorem putJob_host (s : State) (j : Job) : (putJob s j).host = s.host := rfl
@[simp] theorem putJob_nibs (s : State) (j : Job) : (putJob s j).nibs = s.nibs := rfl
@[simp] theorem putJob_queues (s : State) (j : Job) : (putJob s j).queues = s.queues := rfl
@[simp] theorem putJob_acts (s : State) (j : Job) : (putJob s j).acts = s.acts := rfl
@[simp] theorem putJob_runs (s : State) (j : Job) : (putJob s j).runs = s.runs := rfl
@[simp] theorem putJob_fab (s : State) (j : Job) : (putJob s j).fab = s.fab := rfl
@[simp] theorem putJob_pair (s : State) (j : Job) : (putJob s j).pair = s.pair := rfl
@[simp] theorem putJob_shadows (s : State) (j : Job) : (putJob s j).shadows = s.shadows := rfl
@[simp] theorem putJob_test (s : State) (j : Job) : (putJob s j).test = s.test := rfl
@[simp] theorem putJob_hub (s : State) (j : Job) : (putJob s j).hub = s.hub := rfl
@[simp] theorem putJob_mgmt (s : State) (j : Job) : (putJob s j).mgmt = s.mgmt := rfl
@[simp] theorem putJob_fw (s : State) (j : Job) : (putJob s j).fw = s.fw := rfl
@[simp] theorem putJob_pwr (s : State) (j : Job) : (putJob s j).pwr = s.pwr := rfl
@[simp] theorem putJob_out (s : State) (j : Job) : (putJob s j).out = s.out := rfl

@[simp] theorem putQueue_pending (s : State) (n : Nat) (q : Queue) : (putQueue s n q).pending = s.pending := rfl
@[simp] theorem putQueue_free (s : State) (n : Nat) (q : Queue) : (putQueue s n q).free = s.free := rfl
@[simp] theorem putQueue_clk (s : State) (n : Nat) (q : Queue) : (putQueue s n q).clk = s.clk := rfl
@[simp] theorem putQueue_lag (s : State) (n : Nat) (q : Queue) : (putQueue s n q).lag = s.lag := rfl
@[simp] theorem putQueue_mem (s : State) (n : Nat) (q : Queue) : (putQueue s n q).mem = s.mem := rfl
@[simp] theorem putQueue_host (s : State) (n : Nat) (q : Queue) : (putQueue s n q).host = s.host := rfl
@[simp] theorem putQueue_nibs (s : State) (n : Nat) (q : Queue) : (putQueue s n q).nibs = s.nibs := rfl
@[simp] theorem putQueue_jobs (s : State) (n : Nat) (q : Queue) : (putQueue s n q).jobs = s.jobs := rfl
@[simp] theorem putQueue_acts (s : State) (n : Nat) (q : Queue) : (putQueue s n q).acts = s.acts := rfl
@[simp] theorem putQueue_runs (s : State) (n : Nat) (q : Queue) : (putQueue s n q).runs = s.runs := rfl
@[simp] theorem putQueue_fab (s : State) (n : Nat) (q : Queue) : (putQueue s n q).fab = s.fab := rfl
@[simp] theorem putQueue_pair (s : State) (n : Nat) (q : Queue) : (putQueue s n q).pair = s.pair := rfl
@[simp] theorem putQueue_shadows (s : State) (n : Nat) (q : Queue) : (putQueue s n q).shadows = s.shadows := rfl
@[simp] theorem putQueue_test (s : State) (n : Nat) (q : Queue) : (putQueue s n q).test = s.test := rfl
@[simp] theorem putQueue_hub (s : State) (n : Nat) (q : Queue) : (putQueue s n q).hub = s.hub := rfl
@[simp] theorem putQueue_mgmt (s : State) (n : Nat) (q : Queue) : (putQueue s n q).mgmt = s.mgmt := rfl
@[simp] theorem putQueue_fw (s : State) (n : Nat) (q : Queue) : (putQueue s n q).fw = s.fw := rfl
@[simp] theorem putQueue_pwr (s : State) (n : Nat) (q : Queue) : (putQueue s n q).pwr = s.pwr := rfl
@[simp] theorem putQueue_out (s : State) (n : Nat) (q : Queue) : (putQueue s n q).out = s.out := rfl

@[simp] theorem putAct_pending (s : State) (a : Active) : (putAct s a).pending = s.pending := rfl
@[simp] theorem putAct_free (s : State) (a : Active) : (putAct s a).free = s.free := rfl
@[simp] theorem putAct_clk (s : State) (a : Active) : (putAct s a).clk = s.clk := rfl
@[simp] theorem putAct_lag (s : State) (a : Active) : (putAct s a).lag = s.lag := rfl
@[simp] theorem putAct_mem (s : State) (a : Active) : (putAct s a).mem = s.mem := rfl
@[simp] theorem putAct_host (s : State) (a : Active) : (putAct s a).host = s.host := rfl
@[simp] theorem putAct_nibs (s : State) (a : Active) : (putAct s a).nibs = s.nibs := rfl
@[simp] theorem putAct_jobs (s : State) (a : Active) : (putAct s a).jobs = s.jobs := rfl
@[simp] theorem putAct_queues (s : State) (a : Active) : (putAct s a).queues = s.queues := rfl
@[simp] theorem putAct_runs (s : State) (a : Active) : (putAct s a).runs = s.runs := rfl
@[simp] theorem putAct_fab (s : State) (a : Active) : (putAct s a).fab = s.fab := rfl
@[simp] theorem putAct_pair (s : State) (a : Active) : (putAct s a).pair = s.pair := rfl
@[simp] theorem putAct_shadows (s : State) (a : Active) : (putAct s a).shadows = s.shadows := rfl
@[simp] theorem putAct_test (s : State) (a : Active) : (putAct s a).test = s.test := rfl
@[simp] theorem putAct_hub (s : State) (a : Active) : (putAct s a).hub = s.hub := rfl
@[simp] theorem putAct_mgmt (s : State) (a : Active) : (putAct s a).mgmt = s.mgmt := rfl
@[simp] theorem putAct_fw (s : State) (a : Active) : (putAct s a).fw = s.fw := rfl
@[simp] theorem putAct_pwr (s : State) (a : Active) : (putAct s a).pwr = s.pwr := rfl
@[simp] theorem putAct_out (s : State) (a : Active) : (putAct s a).out = s.out := rfl

@[simp] theorem dropAct_pending (s : State) (k : Sid) : (dropAct s k).pending = s.pending := rfl
@[simp] theorem dropAct_free (s : State) (k : Sid) : (dropAct s k).free = s.free := rfl
@[simp] theorem dropAct_clk (s : State) (k : Sid) : (dropAct s k).clk = s.clk := rfl
@[simp] theorem dropAct_lag (s : State) (k : Sid) : (dropAct s k).lag = s.lag := rfl
@[simp] theorem dropAct_mem (s : State) (k : Sid) : (dropAct s k).mem = s.mem := rfl
@[simp] theorem dropAct_host (s : State) (k : Sid) : (dropAct s k).host = s.host := rfl
@[simp] theorem dropAct_nibs (s : State) (k : Sid) : (dropAct s k).nibs = s.nibs := rfl
@[simp] theorem dropAct_jobs (s : State) (k : Sid) : (dropAct s k).jobs = s.jobs := rfl
@[simp] theorem dropAct_queues (s : State) (k : Sid) : (dropAct s k).queues = s.queues := rfl
@[simp] theorem dropAct_runs (s : State) (k : Sid) : (dropAct s k).runs = s.runs := rfl
@[simp] theorem dropAct_fab (s : State) (k : Sid) : (dropAct s k).fab = s.fab := rfl
@[simp] theorem dropAct_pair (s : State) (k : Sid) : (dropAct s k).pair = s.pair := rfl
@[simp] theorem dropAct_shadows (s : State) (k : Sid) : (dropAct s k).shadows = s.shadows := rfl
@[simp] theorem dropAct_test (s : State) (k : Sid) : (dropAct s k).test = s.test := rfl
@[simp] theorem dropAct_hub (s : State) (k : Sid) : (dropAct s k).hub = s.hub := rfl
@[simp] theorem dropAct_mgmt (s : State) (k : Sid) : (dropAct s k).mgmt = s.mgmt := rfl
@[simp] theorem dropAct_fw (s : State) (k : Sid) : (dropAct s k).fw = s.fw := rfl
@[simp] theorem dropAct_pwr (s : State) (k : Sid) : (dropAct s k).pwr = s.pwr := rfl
@[simp] theorem dropAct_out (s : State) (k : Sid) : (dropAct s k).out = s.out := rfl

@[simp] theorem putPage_pending (s : State) (p : Nat) (x : Page) : (putPage s p x).pending = s.pending := rfl
@[simp] theorem putPage_free (s : State) (p : Nat) (x : Page) : (putPage s p x).free = s.free := rfl
@[simp] theorem putPage_clk (s : State) (p : Nat) (x : Page) : (putPage s p x).clk = s.clk := rfl
@[simp] theorem putPage_lag (s : State) (p : Nat) (x : Page) : (putPage s p x).lag = s.lag := rfl
@[simp] theorem putPage_mem (s : State) (p : Nat) (x : Page) : (putPage s p x).mem = s.mem := rfl
@[simp] theorem putPage_host (s : State) (p : Nat) (x : Page) : (putPage s p x).host = s.host := rfl
@[simp] theorem putPage_nibs (s : State) (p : Nat) (x : Page) : (putPage s p x).nibs = s.nibs := rfl
@[simp] theorem putPage_jobs (s : State) (p : Nat) (x : Page) : (putPage s p x).jobs = s.jobs := rfl
@[simp] theorem putPage_queues (s : State) (p : Nat) (x : Page) : (putPage s p x).queues = s.queues := rfl
@[simp] theorem putPage_acts (s : State) (p : Nat) (x : Page) : (putPage s p x).acts = s.acts := rfl
@[simp] theorem putPage_runs (s : State) (p : Nat) (x : Page) : (putPage s p x).runs = s.runs := rfl
@[simp] theorem putPage_fab (s : State) (p : Nat) (x : Page) : (putPage s p x).fab = s.fab := rfl
@[simp] theorem putPage_pair (s : State) (p : Nat) (x : Page) : (putPage s p x).pair = s.pair := rfl
@[simp] theorem putPage_shadows (s : State) (p : Nat) (x : Page) : (putPage s p x).shadows = s.shadows := rfl
@[simp] theorem putPage_test (s : State) (p : Nat) (x : Page) : (putPage s p x).test = s.test := rfl
@[simp] theorem putPage_mgmt (s : State) (p : Nat) (x : Page) : (putPage s p x).mgmt = s.mgmt := rfl
@[simp] theorem putPage_fw (s : State) (p : Nat) (x : Page) : (putPage s p x).fw = s.fw := rfl
@[simp] theorem putPage_pwr (s : State) (p : Nat) (x : Page) : (putPage s p x).pwr = s.pwr := rfl
@[simp] theorem putPage_out (s : State) (p : Nat) (x : Page) : (putPage s p x).out = s.out := rfl

@[simp] theorem putOp_pending (s : State) (o : LongOp) : (putOp s o).pending = s.pending := rfl
@[simp] theorem putOp_free (s : State) (o : LongOp) : (putOp s o).free = s.free := rfl
@[simp] theorem putOp_clk (s : State) (o : LongOp) : (putOp s o).clk = s.clk := rfl
@[simp] theorem putOp_lag (s : State) (o : LongOp) : (putOp s o).lag = s.lag := rfl
@[simp] theorem putOp_mem (s : State) (o : LongOp) : (putOp s o).mem = s.mem := rfl
@[simp] theorem putOp_host (s : State) (o : LongOp) : (putOp s o).host = s.host := rfl
@[simp] theorem putOp_nibs (s : State) (o : LongOp) : (putOp s o).nibs = s.nibs := rfl
@[simp] theorem putOp_jobs (s : State) (o : LongOp) : (putOp s o).jobs = s.jobs := rfl
@[simp] theorem putOp_queues (s : State) (o : LongOp) : (putOp s o).queues = s.queues := rfl
@[simp] theorem putOp_acts (s : State) (o : LongOp) : (putOp s o).acts = s.acts := rfl
@[simp] theorem putOp_runs (s : State) (o : LongOp) : (putOp s o).runs = s.runs := rfl
@[simp] theorem putOp_fab (s : State) (o : LongOp) : (putOp s o).fab = s.fab := rfl
@[simp] theorem putOp_pair (s : State) (o : LongOp) : (putOp s o).pair = s.pair := rfl
@[simp] theorem putOp_shadows (s : State) (o : LongOp) : (putOp s o).shadows = s.shadows := rfl
@[simp] theorem putOp_test (s : State) (o : LongOp) : (putOp s o).test = s.test := rfl
@[simp] theorem putOp_mgmt (s : State) (o : LongOp) : (putOp s o).mgmt = s.mgmt := rfl
@[simp] theorem putOp_fw (s : State) (o : LongOp) : (putOp s o).fw = s.fw := rfl
@[simp] theorem putOp_pwr (s : State) (o : LongOp) : (putOp s o).pwr = s.pwr := rfl
@[simp] theorem putOp_out (s : State) (o : LongOp) : (putOp s o).out = s.out := rfl

@[simp] theorem putPort_pending (s : State) (p : Nat) (x : Port) : (putPort s p x).pending = s.pending := rfl
@[simp] theorem putPort_free (s : State) (p : Nat) (x : Port) : (putPort s p x).free = s.free := rfl
@[simp] theorem putPort_clk (s : State) (p : Nat) (x : Port) : (putPort s p x).clk = s.clk := rfl
@[simp] theorem putPort_lag (s : State) (p : Nat) (x : Port) : (putPort s p x).lag = s.lag := rfl
@[simp] theorem putPort_mem (s : State) (p : Nat) (x : Port) : (putPort s p x).mem = s.mem := rfl
@[simp] theorem putPort_host (s : State) (p : Nat) (x : Port) : (putPort s p x).host = s.host := rfl
@[simp] theorem putPort_nibs (s : State) (p : Nat) (x : Port) : (putPort s p x).nibs = s.nibs := rfl
@[simp] theorem putPort_jobs (s : State) (p : Nat) (x : Port) : (putPort s p x).jobs = s.jobs := rfl
@[simp] theorem putPort_queues (s : State) (p : Nat) (x : Port) : (putPort s p x).queues = s.queues := rfl
@[simp] theorem putPort_acts (s : State) (p : Nat) (x : Port) : (putPort s p x).acts = s.acts := rfl
@[simp] theorem putPort_runs (s : State) (p : Nat) (x : Port) : (putPort s p x).runs = s.runs := rfl
@[simp] theorem putPort_pair (s : State) (p : Nat) (x : Port) : (putPort s p x).pair = s.pair := rfl
@[simp] theorem putPort_shadows (s : State) (p : Nat) (x : Port) : (putPort s p x).shadows = s.shadows := rfl
@[simp] theorem putPort_test (s : State) (p : Nat) (x : Port) : (putPort s p x).test = s.test := rfl
@[simp] theorem putPort_hub (s : State) (p : Nat) (x : Port) : (putPort s p x).hub = s.hub := rfl
@[simp] theorem putPort_mgmt (s : State) (p : Nat) (x : Port) : (putPort s p x).mgmt = s.mgmt := rfl
@[simp] theorem putPort_fw (s : State) (p : Nat) (x : Port) : (putPort s p x).fw = s.fw := rfl
@[simp] theorem putPort_pwr (s : State) (p : Nat) (x : Port) : (putPort s p x).pwr = s.pwr := rfl
@[simp] theorem putPort_out (s : State) (p : Nat) (x : Port) : (putPort s p x).out = s.out := rfl

@[simp] theorem takeInbox_pending (s : State) (h : MsgHdr) (l : List Byte) : (takeInbox s h l).pending = s.pending := rfl
@[simp] theorem takeInbox_free (s : State) (h : MsgHdr) (l : List Byte) : (takeInbox s h l).free = s.free := rfl
@[simp] theorem takeInbox_clk (s : State) (h : MsgHdr) (l : List Byte) : (takeInbox s h l).clk = s.clk := rfl
@[simp] theorem takeInbox_lag (s : State) (h : MsgHdr) (l : List Byte) : (takeInbox s h l).lag = s.lag := rfl
@[simp] theorem takeInbox_mem (s : State) (h : MsgHdr) (l : List Byte) : (takeInbox s h l).mem = s.mem := rfl
@[simp] theorem takeInbox_host (s : State) (h : MsgHdr) (l : List Byte) : (takeInbox s h l).host = s.host := rfl
@[simp] theorem takeInbox_nibs (s : State) (h : MsgHdr) (l : List Byte) : (takeInbox s h l).nibs = s.nibs := rfl
@[simp] theorem takeInbox_jobs (s : State) (h : MsgHdr) (l : List Byte) : (takeInbox s h l).jobs = s.jobs := rfl
@[simp] theorem takeInbox_queues (s : State) (h : MsgHdr) (l : List Byte) : (takeInbox s h l).queues = s.queues := rfl
@[simp] theorem takeInbox_acts (s : State) (h : MsgHdr) (l : List Byte) : (takeInbox s h l).acts = s.acts := rfl
@[simp] theorem takeInbox_runs (s : State) (h : MsgHdr) (l : List Byte) : (takeInbox s h l).runs = s.runs := rfl
@[simp] theorem takeInbox_pair (s : State) (h : MsgHdr) (l : List Byte) : (takeInbox s h l).pair = s.pair := rfl
@[simp] theorem takeInbox_shadows (s : State) (h : MsgHdr) (l : List Byte) : (takeInbox s h l).shadows = s.shadows := rfl
@[simp] theorem takeInbox_test (s : State) (h : MsgHdr) (l : List Byte) : (takeInbox s h l).test = s.test := rfl
@[simp] theorem takeInbox_hub (s : State) (h : MsgHdr) (l : List Byte) : (takeInbox s h l).hub = s.hub := rfl
@[simp] theorem takeInbox_mgmt (s : State) (h : MsgHdr) (l : List Byte) : (takeInbox s h l).mgmt = s.mgmt := rfl
@[simp] theorem takeInbox_fw (s : State) (h : MsgHdr) (l : List Byte) : (takeInbox s h l).fw = s.fw := rfl
@[simp] theorem takeInbox_pwr (s : State) (h : MsgHdr) (l : List Byte) : (takeInbox s h l).pwr = s.pwr := rfl
@[simp] theorem takeInbox_out (s : State) (h : MsgHdr) (l : List Byte) : (takeInbox s h l).out = s.out := rfl

@[simp] theorem deliverHere_pending (s : State) (x : InMsg) : (deliverHere s x).pending = s.pending := rfl
@[simp] theorem deliverHere_free (s : State) (x : InMsg) : (deliverHere s x).free = s.free := rfl
@[simp] theorem deliverHere_clk (s : State) (x : InMsg) : (deliverHere s x).clk = s.clk := rfl
@[simp] theorem deliverHere_lag (s : State) (x : InMsg) : (deliverHere s x).lag = s.lag := rfl
@[simp] theorem deliverHere_mem (s : State) (x : InMsg) : (deliverHere s x).mem = s.mem := rfl
@[simp] theorem deliverHere_host (s : State) (x : InMsg) : (deliverHere s x).host = s.host := rfl
@[simp] theorem deliverHere_nibs (s : State) (x : InMsg) : (deliverHere s x).nibs = s.nibs := rfl
@[simp] theorem deliverHere_jobs (s : State) (x : InMsg) : (deliverHere s x).jobs = s.jobs := rfl
@[simp] theorem deliverHere_queues (s : State) (x : InMsg) : (deliverHere s x).queues = s.queues := rfl
@[simp] theorem deliverHere_acts (s : State) (x : InMsg) : (deliverHere s x).acts = s.acts := rfl
@[simp] theorem deliverHere_runs (s : State) (x : InMsg) : (deliverHere s x).runs = s.runs := rfl
@[simp] theorem deliverHere_pair (s : State) (x : InMsg) : (deliverHere s x).pair = s.pair := rfl
@[simp] theorem deliverHere_shadows (s : State) (x : InMsg) : (deliverHere s x).shadows = s.shadows := rfl
@[simp] theorem deliverHere_test (s : State) (x : InMsg) : (deliverHere s x).test = s.test := rfl
@[simp] theorem deliverHere_hub (s : State) (x : InMsg) : (deliverHere s x).hub = s.hub := rfl
@[simp] theorem deliverHere_mgmt (s : State) (x : InMsg) : (deliverHere s x).mgmt = s.mgmt := rfl
@[simp] theorem deliverHere_fw (s : State) (x : InMsg) : (deliverHere s x).fw = s.fw := rfl
@[simp] theorem deliverHere_pwr (s : State) (x : InMsg) : (deliverHere s x).pwr = s.pwr := rfl
@[simp] theorem deliverHere_out (s : State) (x : InMsg) : (deliverHere s x).out = s.out := rfl

@[simp] theorem putRun_pending (s : State) (r : Run) : (putRun s r).pending = s.pending := rfl
@[simp] theorem putRun_free (s : State) (r : Run) : (putRun s r).free = s.free := rfl
@[simp] theorem putRun_clk (s : State) (r : Run) : (putRun s r).clk = s.clk := rfl
@[simp] theorem putRun_lag (s : State) (r : Run) : (putRun s r).lag = s.lag := rfl
@[simp] theorem putRun_mem (s : State) (r : Run) : (putRun s r).mem = s.mem := rfl
@[simp] theorem putRun_host (s : State) (r : Run) : (putRun s r).host = s.host := rfl
@[simp] theorem putRun_nibs (s : State) (r : Run) : (putRun s r).nibs = s.nibs := rfl
@[simp] theorem putRun_jobs (s : State) (r : Run) : (putRun s r).jobs = s.jobs := rfl
@[simp] theorem putRun_queues (s : State) (r : Run) : (putRun s r).queues = s.queues := rfl
@[simp] theorem putRun_acts (s : State) (r : Run) : (putRun s r).acts = s.acts := rfl
@[simp] theorem putRun_fab (s : State) (r : Run) : (putRun s r).fab = s.fab := rfl
@[simp] theorem putRun_pair (s : State) (r : Run) : (putRun s r).pair = s.pair := rfl
@[simp] theorem putRun_shadows (s : State) (r : Run) : (putRun s r).shadows = s.shadows := rfl
@[simp] theorem putRun_test (s : State) (r : Run) : (putRun s r).test = s.test := rfl
@[simp] theorem putRun_hub (s : State) (r : Run) : (putRun s r).hub = s.hub := rfl
@[simp] theorem putRun_mgmt (s : State) (r : Run) : (putRun s r).mgmt = s.mgmt := rfl
@[simp] theorem putRun_fw (s : State) (r : Run) : (putRun s r).fw = s.fw := rfl
@[simp] theorem putRun_pwr (s : State) (r : Run) : (putRun s r).pwr = s.pwr := rfl
@[simp] theorem putRun_out (s : State) (r : Run) : (putRun s r).out = s.out := rfl

@[simp] theorem setAlert_pending (s : State) : (setAlert s).pending = s.pending := rfl
@[simp] theorem setAlert_free (s : State) : (setAlert s).free = s.free := rfl
@[simp] theorem setAlert_clk (s : State) : (setAlert s).clk = s.clk := rfl
@[simp] theorem setAlert_lag (s : State) : (setAlert s).lag = s.lag := rfl
@[simp] theorem setAlert_mem (s : State) : (setAlert s).mem = s.mem := rfl
@[simp] theorem setAlert_host (s : State) : (setAlert s).host = s.host := rfl
@[simp] theorem setAlert_nibs (s : State) : (setAlert s).nibs = s.nibs := rfl
@[simp] theorem setAlert_jobs (s : State) : (setAlert s).jobs = s.jobs := rfl
@[simp] theorem setAlert_queues (s : State) : (setAlert s).queues = s.queues := rfl
@[simp] theorem setAlert_acts (s : State) : (setAlert s).acts = s.acts := rfl
@[simp] theorem setAlert_runs (s : State) : (setAlert s).runs = s.runs := rfl
@[simp] theorem setAlert_fab (s : State) : (setAlert s).fab = s.fab := rfl
@[simp] theorem setAlert_pair (s : State) : (setAlert s).pair = s.pair := rfl
@[simp] theorem setAlert_shadows (s : State) : (setAlert s).shadows = s.shadows := rfl
@[simp] theorem setAlert_test (s : State) : (setAlert s).test = s.test := rfl
@[simp] theorem setAlert_hub (s : State) : (setAlert s).hub = s.hub := rfl
@[simp] theorem setAlert_mgmt (s : State) : (setAlert s).mgmt = s.mgmt := rfl
@[simp] theorem setAlert_fw (s : State) : (setAlert s).fw = s.fw := rfl
@[simp] theorem setAlert_out (s : State) : (setAlert s).out = s.out := rfl

@[simp] theorem startZero_pending (s : State) (j : Option Nat) (l : List (Nat × Nat)) : (startZero s j l).pending = s.pending := rfl
@[simp] theorem startZero_free (s : State) (j : Option Nat) (l : List (Nat × Nat)) : (startZero s j l).free = s.free := rfl
@[simp] theorem startZero_clk (s : State) (j : Option Nat) (l : List (Nat × Nat)) : (startZero s j l).clk = s.clk := rfl
@[simp] theorem startZero_lag (s : State) (j : Option Nat) (l : List (Nat × Nat)) : (startZero s j l).lag = s.lag := rfl
@[simp] theorem startZero_host (s : State) (j : Option Nat) (l : List (Nat × Nat)) : (startZero s j l).host = s.host := rfl
@[simp] theorem startZero_nibs (s : State) (j : Option Nat) (l : List (Nat × Nat)) : (startZero s j l).nibs = s.nibs := rfl
@[simp] theorem startZero_jobs (s : State) (j : Option Nat) (l : List (Nat × Nat)) : (startZero s j l).jobs = s.jobs := rfl
@[simp] theorem startZero_queues (s : State) (j : Option Nat) (l : List (Nat × Nat)) : (startZero s j l).queues = s.queues := rfl
@[simp] theorem startZero_acts (s : State) (j : Option Nat) (l : List (Nat × Nat)) : (startZero s j l).acts = s.acts := rfl
@[simp] theorem startZero_runs (s : State) (j : Option Nat) (l : List (Nat × Nat)) : (startZero s j l).runs = s.runs := rfl
@[simp] theorem startZero_fab (s : State) (j : Option Nat) (l : List (Nat × Nat)) : (startZero s j l).fab = s.fab := rfl
@[simp] theorem startZero_pair (s : State) (j : Option Nat) (l : List (Nat × Nat)) : (startZero s j l).pair = s.pair := rfl
@[simp] theorem startZero_shadows (s : State) (j : Option Nat) (l : List (Nat × Nat)) : (startZero s j l).shadows = s.shadows := rfl
@[simp] theorem startZero_test (s : State) (j : Option Nat) (l : List (Nat × Nat)) : (startZero s j l).test = s.test := rfl
@[simp] theorem startZero_hub (s : State) (j : Option Nat) (l : List (Nat × Nat)) : (startZero s j l).hub = s.hub := rfl
@[simp] theorem startZero_mgmt (s : State) (j : Option Nat) (l : List (Nat × Nat)) : (startZero s j l).mgmt = s.mgmt := rfl
@[simp] theorem startZero_fw (s : State) (j : Option Nat) (l : List (Nat × Nat)) : (startZero s j l).fw = s.fw := rfl
@[simp] theorem startZero_pwr (s : State) (j : Option Nat) (l : List (Nat × Nat)) : (startZero s j l).pwr = s.pwr := rfl
@[simp] theorem startZero_out (s : State) (j : Option Nat) (l : List (Nat × Nat)) : (startZero s j l).out = s.out := rfl

@[simp] theorem wrHost_pending (s : State) (h : Nat) (l : List Byte) : (wrHost s h l).pending = s.pending := rfl
@[simp] theorem wrHost_free (s : State) (h : Nat) (l : List Byte) : (wrHost s h l).free = s.free := rfl
@[simp] theorem wrHost_clk (s : State) (h : Nat) (l : List Byte) : (wrHost s h l).clk = s.clk := rfl
@[simp] theorem wrHost_lag (s : State) (h : Nat) (l : List Byte) : (wrHost s h l).lag = s.lag := rfl
@[simp] theorem wrHost_mem (s : State) (h : Nat) (l : List Byte) : (wrHost s h l).mem = s.mem := rfl
@[simp] theorem wrHost_nibs (s : State) (h : Nat) (l : List Byte) : (wrHost s h l).nibs = s.nibs := rfl
@[simp] theorem wrHost_jobs (s : State) (h : Nat) (l : List Byte) : (wrHost s h l).jobs = s.jobs := rfl
@[simp] theorem wrHost_queues (s : State) (h : Nat) (l : List Byte) : (wrHost s h l).queues = s.queues := rfl
@[simp] theorem wrHost_acts (s : State) (h : Nat) (l : List Byte) : (wrHost s h l).acts = s.acts := rfl
@[simp] theorem wrHost_runs (s : State) (h : Nat) (l : List Byte) : (wrHost s h l).runs = s.runs := rfl
@[simp] theorem wrHost_fab (s : State) (h : Nat) (l : List Byte) : (wrHost s h l).fab = s.fab := rfl
@[simp] theorem wrHost_pair (s : State) (h : Nat) (l : List Byte) : (wrHost s h l).pair = s.pair := rfl
@[simp] theorem wrHost_shadows (s : State) (h : Nat) (l : List Byte) : (wrHost s h l).shadows = s.shadows := rfl
@[simp] theorem wrHost_test (s : State) (h : Nat) (l : List Byte) : (wrHost s h l).test = s.test := rfl
@[simp] theorem wrHost_hub (s : State) (h : Nat) (l : List Byte) : (wrHost s h l).hub = s.hub := rfl
@[simp] theorem wrHost_mgmt (s : State) (h : Nat) (l : List Byte) : (wrHost s h l).mgmt = s.mgmt := rfl
@[simp] theorem wrHost_fw (s : State) (h : Nat) (l : List Byte) : (wrHost s h l).fw = s.fw := rfl
@[simp] theorem wrHost_pwr (s : State) (h : Nat) (l : List Byte) : (wrHost s h l).pwr = s.pwr := rfl
@[simp] theorem wrHost_out (s : State) (h : Nat) (l : List Byte) : (wrHost s h l).out = s.out := rfl

@[simp] theorem enqueue_pending (s : State) (p vl : Nat) (l : List Flit) : (enqueue s p vl l).pending = s.pending := rfl
@[simp] theorem enqueue_free (s : State) (p vl : Nat) (l : List Flit) : (enqueue s p vl l).free = s.free := rfl
@[simp] theorem enqueue_clk (s : State) (p vl : Nat) (l : List Flit) : (enqueue s p vl l).clk = s.clk := rfl
@[simp] theorem enqueue_lag (s : State) (p vl : Nat) (l : List Flit) : (enqueue s p vl l).lag = s.lag := rfl
@[simp] theorem enqueue_mem (s : State) (p vl : Nat) (l : List Flit) : (enqueue s p vl l).mem = s.mem := rfl
@[simp] theorem enqueue_host (s : State) (p vl : Nat) (l : List Flit) : (enqueue s p vl l).host = s.host := rfl
@[simp] theorem enqueue_nibs (s : State) (p vl : Nat) (l : List Flit) : (enqueue s p vl l).nibs = s.nibs := rfl
@[simp] theorem enqueue_jobs (s : State) (p vl : Nat) (l : List Flit) : (enqueue s p vl l).jobs = s.jobs := rfl
@[simp] theorem enqueue_queues (s : State) (p vl : Nat) (l : List Flit) : (enqueue s p vl l).queues = s.queues := rfl
@[simp] theorem enqueue_acts (s : State) (p vl : Nat) (l : List Flit) : (enqueue s p vl l).acts = s.acts := rfl
@[simp] theorem enqueue_runs (s : State) (p vl : Nat) (l : List Flit) : (enqueue s p vl l).runs = s.runs := rfl
@[simp] theorem enqueue_pair (s : State) (p vl : Nat) (l : List Flit) : (enqueue s p vl l).pair = s.pair := rfl
@[simp] theorem enqueue_shadows (s : State) (p vl : Nat) (l : List Flit) : (enqueue s p vl l).shadows = s.shadows := rfl
@[simp] theorem enqueue_test (s : State) (p vl : Nat) (l : List Flit) : (enqueue s p vl l).test = s.test := rfl
@[simp] theorem enqueue_hub (s : State) (p vl : Nat) (l : List Flit) : (enqueue s p vl l).hub = s.hub := rfl
@[simp] theorem enqueue_mgmt (s : State) (p vl : Nat) (l : List Flit) : (enqueue s p vl l).mgmt = s.mgmt := rfl
@[simp] theorem enqueue_fw (s : State) (p vl : Nat) (l : List Flit) : (enqueue s p vl l).fw = s.fw := rfl
@[simp] theorem enqueue_pwr (s : State) (p vl : Nat) (l : List Flit) : (enqueue s p vl l).pwr = s.pwr := rfl
@[simp] theorem enqueue_out (s : State) (p vl : Nat) (l : List Flit) : (enqueue s p vl l).out = s.out := rfl

@[simp] theorem startOp_pending (s : State) (p : Nat) (r : Request) (o : LongOp) : (startOp s p r o).pending = s.pending := rfl
@[simp] theorem startOp_free (s : State) (p : Nat) (r : Request) (o : LongOp) : (startOp s p r o).free = s.free := rfl
@[simp] theorem startOp_clk (s : State) (p : Nat) (r : Request) (o : LongOp) : (startOp s p r o).clk = s.clk := rfl
@[simp] theorem startOp_lag (s : State) (p : Nat) (r : Request) (o : LongOp) : (startOp s p r o).lag = s.lag := rfl
@[simp] theorem startOp_mem (s : State) (p : Nat) (r : Request) (o : LongOp) : (startOp s p r o).mem = s.mem := rfl
@[simp] theorem startOp_host (s : State) (p : Nat) (r : Request) (o : LongOp) : (startOp s p r o).host = s.host := rfl
@[simp] theorem startOp_nibs (s : State) (p : Nat) (r : Request) (o : LongOp) : (startOp s p r o).nibs = s.nibs := rfl
@[simp] theorem startOp_jobs (s : State) (p : Nat) (r : Request) (o : LongOp) : (startOp s p r o).jobs = s.jobs := rfl
@[simp] theorem startOp_queues (s : State) (p : Nat) (r : Request) (o : LongOp) : (startOp s p r o).queues = s.queues := rfl
@[simp] theorem startOp_acts (s : State) (p : Nat) (r : Request) (o : LongOp) : (startOp s p r o).acts = s.acts := rfl
@[simp] theorem startOp_runs (s : State) (p : Nat) (r : Request) (o : LongOp) : (startOp s p r o).runs = s.runs := rfl
@[simp] theorem startOp_fab (s : State) (p : Nat) (r : Request) (o : LongOp) : (startOp s p r o).fab = s.fab := rfl
@[simp] theorem startOp_pair (s : State) (p : Nat) (r : Request) (o : LongOp) : (startOp s p r o).pair = s.pair := rfl
@[simp] theorem startOp_shadows (s : State) (p : Nat) (r : Request) (o : LongOp) : (startOp s p r o).shadows = s.shadows := rfl
@[simp] theorem startOp_test (s : State) (p : Nat) (r : Request) (o : LongOp) : (startOp s p r o).test = s.test := rfl
@[simp] theorem startOp_mgmt (s : State) (p : Nat) (r : Request) (o : LongOp) : (startOp s p r o).mgmt = s.mgmt := rfl
@[simp] theorem startOp_fw (s : State) (p : Nat) (r : Request) (o : LongOp) : (startOp s p r o).fw = s.fw := rfl
@[simp] theorem startOp_pwr (s : State) (p : Nat) (r : Request) (o : LongOp) : (startOp s p r o).pwr = s.pwr := rfl
@[simp] theorem startOp_out (s : State) (p : Nat) (r : Request) (o : LongOp) : (startOp s p r o).out = s.out := rfl

/-! ### Tables -/

theorem mem_of_tget {α : Type} {t : Tbl α} {k : Nat} {v : α} (h : tget t k = some v) : (k, v) ∈ t := by
  induction t with
  | nil => cases h
  | cons x r ih =>
    rw [tget] at h
    split at h
    · next e => cases h; rw [← e]; exact List.mem_cons_self ..
    · exact List.mem_cons_of_mem _ (ih h)
@[simp] theorem jobOf_putJob_self (s : State) (j : Job) : jobOf (putJob s j) j.id = some j := tget_tset_self ..
theorem jobOf_putJob_ne (s : State) (j : Job) (k : Nat) (h : k ≠ j.id) : jobOf (putJob s j) k = jobOf s k := tget_tset_ne _ _ (Ne.symm h)
@[simp] theorem queueOf_putQueue_self (s : State) (n : Nat) (q : Queue) : queueOf (putQueue s n q) n = some q := tget_tset_self ..
theorem queueOf_putQueue_ne (s : State) (n k : Nat) (q : Queue) (h : k ≠ n) : queueOf (putQueue s n q) k = queueOf s k := tget_tset_ne _ _ (Ne.symm h)
@[simp] theorem pageOf_putPage_self (s : State) (p : Nat) (x : Page) : pageOf (putPage s p x) p = x := by
  unfold pageOf putPage tgetD
  rw [tget_tset_self]
  rfl
theorem pageOf_putPage_ne (s : State) (p k : Nat) (x : Page) (h : k ≠ p) : pageOf (putPage s p x) k = pageOf s k := by
  unfold pageOf putPage tgetD
  rw [tget_tset_ne _ _ (Ne.symm h)]
@[simp] theorem portOf_putPort_self (s : State) (p : Nat) (x : Port) : portOf (putPort s p x) p = x := by
  unfold portOf putPort tgetD
  rw [tget_tset_self]
  rfl
theorem portOf_putPort_ne (s : State) (p k : Nat) (x : Port) (h : k ≠ p) : portOf (putPort s p x) k = portOf s k := by
  unfold portOf putPort tgetD
  rw [tget_tset_ne _ _ (Ne.symm h)]

/-- A stitch put back is found under its identifier, if one stood there. -/
theorem actOf_putAct_self (s : State) (a b : Active) (h : actOf s a.sid = some b) : actOf (putAct s a) a.sid = some a := by
  show (s.acts.map _).find? _ = _
  replace h : s.acts.find? (fun x => x.sid == a.sid) = some b := h
  generalize s.acts = l at h ⊢
  induction l with
  | nil => cases h
  | cons x r ih =>
    rw [List.map_cons, List.find?_cons]
    rw [List.find?_cons] at h
    by_cases e : x.sid == a.sid
    · simp [e]
    · simp only [e, Bool.false_eq_true, if_false] at h ⊢
      exact ih h
theorem actOf_putAct_ne (s : State) (a : Active) (k : Sid) (h : k ≠ a.sid) : actOf (putAct s a) k = actOf s k := by
  unfold actOf putAct
  dsimp only
  induction s.acts with
  | nil => rfl
  | cons x r ih =>
    rw [List.map_cons, List.find?_cons, List.find?_cons, ih]
    by_cases e : x.sid == a.sid
    · have ex : x.sid = a.sid := by simpa using e
      have n : (a.sid == k) = false := by simpa using Ne.symm h
      simp [ex, n]
    · simp [e]

end Sys2Proof.Laws
end

