-- ==== Sys2Proof/Laws/Frames.lean ====
section
/-! SUPPORT. What the part's shared operations leave alone, field by field. -/

namespace Sys2Proof.Laws

open Sys2Proof.Machine

/-- A fold keeps what each of its steps keeps. -/
theorem foldl_keep {α β γ : Type} (g : β → γ) (f : β → α → β) (h : ∀ b x, g (f b x) = g b) (l : List α) (b : β) : g (l.foldl f b) = g b := by
  induction l generalizing b with
  | nil => rfl
  | cons x r ih => exact (ih _).trans (h b x)

@[simp] theorem wrBytes_pending (s : State) (a : Nat) (l : List Byte) : (wrBytes s a l).pending = s.pending := by
  unfold wrBytes
  split
  · refine foldl_keep (fun s : State => s.pending) _ (fun b x => ?_) _ _
    split <;> rfl
  · rfl
@[simp] theorem wrBytes_free (s : State) (a : Nat) (l : List Byte) : (wrBytes s a l).free = s.free := by
  unfold wrBytes
  split
  · refine foldl_keep (fun s : State => s.free) _ (fun b x => ?_) _ _
    split <;> rfl
  · rfl
@[simp] theorem wrBytes_clk (s : State) (a : Nat) (l : List Byte) : (wrBytes s a l).clk = s.clk := by
  unfold wrBytes
  split
  · refine foldl_keep (fun s : State => s.clk) _ (fun b x => ?_) _ _
    split <;> rfl
  · rfl
@[simp] theorem wrBytes_lag (s : State) (a : Nat) (l : List Byte) : (wrBytes s a l).lag = s.lag := by
  unfold wrBytes
  split
  · refine foldl_keep (fun s : State => s.lag) _ (fun b x => ?_) _ _
    split <;> rfl
  · rfl
@[simp] theorem wrBytes_nibs (s : State) (a : Nat) (l : List Byte) : (wrBytes s a l).nibs = s.nibs := by
  unfold wrBytes
  split
  · refine foldl_keep (fun s : State => s.nibs) _ (fun b x => ?_) _ _
    split <;> rfl
  · rfl
@[simp] theorem wrBytes_jobs (s : State) (a : Nat) (l : List Byte) : (wrBytes s a l).jobs = s.jobs := by
  unfold wrBytes
  split
  · refine foldl_keep (fun s : State => s.jobs) _ (fun b x => ?_) _ _
    split <;> rfl
  · rfl
@[simp] theorem wrBytes_queues (s : State) (a : Nat) (l : List Byte) : (wrBytes s a l).queues = s.queues := by
  unfold wrBytes
  split
  · refine foldl_keep (fun s : State => s.queues) _ (fun b x => ?_) _ _
    split <;> rfl
  · rfl
@[simp] theorem wrBytes_acts (s : State) (a : Nat) (l : List Byte) : (wrBytes s a l).acts = s.acts := by
  unfold wrBytes
  split
  · refine foldl_keep (fun s : State => s.acts) _ (fun b x => ?_) _ _
    split <;> rfl
  · rfl
@[simp] theorem wrBytes_runs (s : State) (a : Nat) (l : List Byte) : (wrBytes s a l).runs = s.runs := by
  unfold wrBytes
  split
  · refine foldl_keep (fun s : State => s.runs) _ (fun b x => ?_) _ _
    split <;> rfl
  · rfl
@[simp] theorem wrBytes_fab (s : State) (a : Nat) (l : List Byte) : (wrBytes s a l).fab = s.fab := by
  unfold wrBytes
  split
  · refine foldl_keep (fun s : State => s.fab) _ (fun b x => ?_) _ _
    split <;> rfl
  · rfl
@[simp] theorem wrBytes_pair (s : State) (a : Nat) (l : List Byte) : (wrBytes s a l).pair = s.pair := by
  unfold wrBytes
  split
  · refine foldl_keep (fun s : State => s.pair) _ (fun b x => ?_) _ _
    split <;> rfl
  · rfl
@[simp] theorem wrBytes_shadows (s : State) (a : Nat) (l : List Byte) : (wrBytes s a l).shadows = s.shadows := by
  unfold wrBytes
  split
  · refine foldl_keep (fun s : State => s.shadows) _ (fun b x => ?_) _ _
    split <;> rfl
  · rfl
@[simp] theorem wrBytes_test (s : State) (a : Nat) (l : List Byte) : (wrBytes s a l).test = s.test := by
  unfold wrBytes
  split
  · refine foldl_keep (fun s : State => s.test) _ (fun b x => ?_) _ _
    split <;> rfl
  · rfl
@[simp] theorem wrBytes_hub (s : State) (a : Nat) (l : List Byte) : (wrBytes s a l).hub = s.hub := by
  unfold wrBytes
  split
  · refine foldl_keep (fun s : State => s.hub) _ (fun b x => ?_) _ _
    split <;> rfl
  · rfl
@[simp] theorem wrBytes_mgmt (s : State) (a : Nat) (l : List Byte) : (wrBytes s a l).mgmt = s.mgmt := by
  unfold wrBytes
  split
  · refine foldl_keep (fun s : State => s.mgmt) _ (fun b x => ?_) _ _
    split <;> rfl
  · rfl
@[simp] theorem wrBytes_fw (s : State) (a : Nat) (l : List Byte) : (wrBytes s a l).fw = s.fw := by
  unfold wrBytes
  split
  · refine foldl_keep (fun s : State => s.fw) _ (fun b x => ?_) _ _
    split <;> rfl
  · rfl
@[simp] theorem wrBytes_pwr (s : State) (a : Nat) (l : List Byte) : (wrBytes s a l).pwr = s.pwr := by
  unfold wrBytes
  split
  · refine foldl_keep (fun s : State => s.pwr) _ (fun b x => ?_) _ _
    split <;> rfl
  · rfl
@[simp] theorem wrBytes_out (s : State) (a : Nat) (l : List Byte) : (wrBytes s a l).out = s.out := by
  unfold wrBytes
  split
  · refine foldl_keep (fun s : State => s.out) _ (fun b x => ?_) _ _
    split <;> rfl
  · rfl

@[simp] theorem applyWrites_pending (s : State) (o : Option Sid) (w : WriteSet) : (applyWrites s o w).pending = s.pending := by
  unfold applyWrites
  exact foldl_keep (fun s : State => s.pending) _ (fun b x => wrBytes_pending ..) _ _
@[simp] theorem applyWrites_free (s : State) (o : Option Sid) (w : WriteSet) : (applyWrites s o w).free = s.free := by
  unfold applyWrites
  exact foldl_keep (fun s : State => s.free) _ (fun b x => wrBytes_free ..) _ _
@[simp] theorem applyWrites_clk (s : State) (o : Option Sid) (w : WriteSet) : (applyWrites s o w).clk = s.clk := by
  unfold applyWrites
  exact foldl_keep (fun s : State => s.clk) _ (fun b x => wrBytes_clk ..) _ _
@[simp] theorem applyWrites_lag (s : State) (o : Option Sid) (w : WriteSet) : (applyWrites s o w).lag = s.lag := by
  unfold applyWrites
  exact foldl_keep (fun s : State => s.lag) _ (fun b x => wrBytes_lag ..) _ _
@[simp] theorem applyWrites_nibs (s : State) (o : Option Sid) (w : WriteSet) : (applyWrites s o w).nibs = s.nibs := by
  unfold applyWrites
  exact foldl_keep (fun s : State => s.nibs) _ (fun b x => wrBytes_nibs ..) _ _
@[simp] theorem applyWrites_jobs (s : State) (o : Option Sid) (w : WriteSet) : (applyWrites s o w).jobs = s.jobs := by
  unfold applyWrites
  exact foldl_keep (fun s : State => s.jobs) _ (fun b x => wrBytes_jobs ..) _ _
@[simp] theorem applyWrites_queues (s : State) (o : Option Sid) (w : WriteSet) : (applyWrites s o w).queues = s.queues := by
  unfold applyWrites
  exact foldl_keep (fun s : State => s.queues) _ (fun b x => wrBytes_queues ..) _ _
@[simp] theorem applyWrites_acts (s : State) (o : Option Sid) (w : WriteSet) : (applyWrites s o w).acts = s.acts := by
  unfold applyWrites
  exact foldl_keep (fun s : State => s.acts) _ (fun b x => wrBytes_acts ..) _ _
@[simp] theorem applyWrites_runs (s : State) (o : Option Sid) (w : WriteSet) : (applyWrites s o w).runs = s.runs := by
  unfold applyWrites
  exact foldl_keep (fun s : State => s.runs) _ (fun b x => wrBytes_runs ..) _ _
@[simp] theorem applyWrites_fab (s : State) (o : Option Sid) (w : WriteSet) : (applyWrites s o w).fab = s.fab := by
  unfold applyWrites
  exact foldl_keep (fun s : State => s.fab) _ (fun b x => wrBytes_fab ..) _ _
@[simp] theorem applyWrites_pair (s : State) (o : Option Sid) (w : WriteSet) : (applyWrites s o w).pair = s.pair := by
  unfold applyWrites
  exact foldl_keep (fun s : State => s.pair) _ (fun b x => wrBytes_pair ..) _ _
@[simp] theorem applyWrites_shadows (s : State) (o : Option Sid) (w : WriteSet) : (applyWrites s o w).shadows = s.shadows := by
  unfold applyWrites
  exact foldl_keep (fun s : State => s.shadows) _ (fun b x => wrBytes_shadows ..) _ _
@[simp] theorem applyWrites_test (s : State) (o : Option Sid) (w : WriteSet) : (applyWrites s o w).test = s.test := by
  unfold applyWrites
  exact foldl_keep (fun s : State => s.test) _ (fun b x => wrBytes_test ..) _ _
@[simp] theorem applyWrites_hub (s : State) (o : Option Sid) (w : WriteSet) : (applyWrites s o w).hub = s.hub := by
  unfold applyWrites
  exact foldl_keep (fun s : State => s.hub) _ (fun b x => wrBytes_hub ..) _ _
@[simp] theorem applyWrites_mgmt (s : State) (o : Option Sid) (w : WriteSet) : (applyWrites s o w).mgmt = s.mgmt := by
  unfold applyWrites
  exact foldl_keep (fun s : State => s.mgmt) _ (fun b x => wrBytes_mgmt ..) _ _
@[simp] theorem applyWrites_fw (s : State) (o : Option Sid) (w : WriteSet) : (applyWrites s o w).fw = s.fw := by
  unfold applyWrites
  exact foldl_keep (fun s : State => s.fw) _ (fun b x => wrBytes_fw ..) _ _
@[simp] theorem applyWrites_pwr (s : State) (o : Option Sid) (w : WriteSet) : (applyWrites s o w).pwr = s.pwr := by
  unfold applyWrites
  exact foldl_keep (fun s : State => s.pwr) _ (fun b x => wrBytes_pwr ..) _ _
@[simp] theorem applyWrites_out (s : State) (o : Option Sid) (w : WriteSet) : (applyWrites s o w).out = s.out := by
  unfold applyWrites
  exact foldl_keep (fun s : State => s.out) _ (fun b x => wrBytes_out ..) _ _

@[simp] theorem updJob_pending (s : State) (k : Nat) (f : Job → Job) : (updJob s k f).pending = s.pending := by
  unfold updJob
  cases jobOf s k <;> rfl
@[simp] theorem updJob_free (s : State) (k : Nat) (f : Job → Job) : (updJob s k f).free = s.free := by
  unfold updJob
  cases jobOf s k <;> rfl
@[simp] theorem updJob_clk (s : State) (k : Nat) (f : Job → Job) : (updJob s k f).clk = s.clk := by
  unfold updJob
  cases jobOf s k <;> rfl
@[simp] theorem updJob_lag (s : State) (k : Nat) (f : Job → Job) : (updJob s k f).lag = s.lag := by
  unfold updJob
  cases jobOf s k <;> rfl
@[simp] theorem updJob_mem (s : State) (k : Nat) (f : Job → Job) : (updJob s k f).mem = s.mem := by
  unfold updJob
  cases jobOf s k <;> rfl
@[simp] theorem updJob_host (s : State) (k : Nat) (f : Job → Job) : (updJob s k f).host = s.host := by
  unfold updJob
  cases jobOf s k <;> rfl
@[simp] theorem updJob_nibs (s : State) (k : Nat) (f : Job → Job) : (updJob s k f).nibs = s.nibs := by
  unfold updJob
  cases jobOf s k <;> rfl
@[simp] theorem updJob_queues (s : State) (k : Nat) (f : Job → Job) : (updJob s k f).queues = s.queues := by
  unfold updJob
  cases jobOf s k <;> rfl
@[simp] theorem updJob_acts (s : State) (k : Nat) (f : Job → Job) : (updJob s k f).acts = s.acts := by
  unfold updJob
  cases jobOf s k <;> rfl
@[simp] theorem updJob_runs (s : State) (k : Nat) (f : Job → Job) : (updJob s k f).runs = s.runs := by
  unfold updJob
  cases jobOf s k <;> rfl
@[simp] theorem updJob_fab (s : State) (k : Nat) (f : Job → Job) : (updJob s k f).fab = s.fab := by
  unfold updJob
  cases jobOf s k <;> rfl
@[simp] theorem updJob_pair (s : State) (k : Nat) (f : Job → Job) : (updJob s k f).pair = s.pair := by
  unfold updJob
  cases jobOf s k <;> rfl
@[simp] theorem updJob_shadows (s : State) (k : Nat) (f : Job → Job) : (updJob s k f).shadows = s.shadows := by
  unfold updJob
  cases jobOf s k <;> rfl
@[simp] theorem updJob_test (s : State) (k : Nat) (f : Job → Job) : (updJob s k f).test = s.test := by
  unfold updJob
  cases jobOf s k <;> rfl
@[simp] theorem updJob_hub (s : State) (k : Nat) (f : Job → Job) : (updJob s k f).hub = s.hub := by
  unfold updJob
  cases jobOf s k <;> rfl
@[simp] theorem updJob_mgmt (s : State) (k : Nat) (f : Job → Job) : (updJob s k f).mgmt = s.mgmt := by
  unfold updJob
  cases jobOf s k <;> rfl
@[simp] theorem updJob_fw (s : State) (k : Nat) (f : Job → Job) : (updJob s k f).fw = s.fw := by
  unfold updJob
  cases jobOf s k <;> rfl
@[simp] theorem updJob_pwr (s : State) (k : Nat) (f : Job → Job) : (updJob s k f).pwr = s.pwr := by
  unfold updJob
  cases jobOf s k <;> rfl
@[simp] theorem updJob_out (s : State) (k : Nat) (f : Job → Job) : (updJob s k f).out = s.out := by
  unfold updJob
  cases jobOf s k <;> rfl

@[simp] theorem sendMsix_pending (s : State) (v : Nat) : (sendMsix s v).pending = s.pending := by
  unfold sendMsix
  try dsimp only
  (repeat' split) <;> simp
@[simp] theorem sendMsix_free (s : State) (v : Nat) : (sendMsix s v).free = s.free := by
  unfold sendMsix
  try dsimp only
  (repeat' split) <;> simp
@[simp] theorem sendMsix_clk (s : State) (v : Nat) : (sendMsix s v).clk = s.clk := by
  unfold sendMsix
  try dsimp only
  (repeat' split) <;> simp
@[simp] theorem sendMsix_lag (s : State) (v : Nat) : (sendMsix s v).lag = s.lag := by
  unfold sendMsix
  try dsimp only
  (repeat' split) <;> simp
@[simp] theorem sendMsix_mem (s : State) (v : Nat) : (sendMsix s v).mem = s.mem := by
  unfold sendMsix
  try dsimp only
  (repeat' split) <;> simp
@[simp] theorem sendMsix_host (s : State) (v : Nat) : (sendMsix s v).host = s.host := by
  unfold sendMsix
  try dsimp only
  (repeat' split) <;> simp
@[simp] theorem sendMsix_nibs (s : State) (v : Nat) : (sendMsix s v).nibs = s.nibs := by
  unfold sendMsix
  try dsimp only
  (repeat' split) <;> simp
@[simp] theorem sendMsix_jobs (s : State) (v : Nat) : (sendMsix s v).jobs = s.jobs := by
  unfold sendMsix
  try dsimp only
  (repeat' split) <;> simp
@[simp] theorem sendMsix_queues (s : State) (v : Nat) : (sendMsix s v).queues = s.queues := by
  unfold sendMsix
  try dsimp only
  (repeat' split) <;> simp
@[simp] theorem sendMsix_acts (s : State) (v : Nat) : (sendMsix s v).acts = s.acts := by
  unfold sendMsix
  try dsimp only
  (repeat' split) <;> simp
@[simp] theorem sendMsix_runs (s : State) (v : Nat) : (sendMsix s v).runs = s.runs := by
  unfold sendMsix
  try dsimp only
  (repeat' split) <;> simp
@[simp] theorem sendMsix_fab (s : State) (v : Nat) : (sendMsix s v).fab = s.fab := by
  unfold sendMsix
  try dsimp only
  (repeat' split) <;> simp
@[simp] theorem sendMsix_pair (s : State) (v : Nat) : (sendMsix s v).pair = s.pair := by
  unfold sendMsix
  try dsimp only
  (repeat' split) <;> simp
@[simp] theorem sendMsix_shadows (s : State) (v : Nat) : (sendMsix s v).shadows = s.shadows := by
  unfold sendMsix
  try dsimp only
  (repeat' split) <;> simp
@[simp] theorem sendMsix_test (s : State) (v : Nat) : (sendMsix s v).test = s.test := by
  unfold sendMsix
  try dsimp only
  (repeat' split) <;> simp
@[simp] theorem sendMsix_mgmt (s : State) (v : Nat) : (sendMsix s v).mgmt = s.mgmt := by
  unfold sendMsix
  try dsimp only
  (repeat' split) <;> simp
@[simp] theorem sendMsix_fw (s : State) (v : Nat) : (sendMsix s v).fw = s.fw := by
  unfold sendMsix
  try dsimp only
  (repeat' split) <;> simp
@[simp] theorem sendMsix_pwr (s : State) (v : Nat) : (sendMsix s v).pwr = s.pwr := by
  unfold sendMsix
  try dsimp only
  (repeat' split) <;> simp

@[simp] theorem sendVector_pending (s : State) (v : Nat) : (sendVector s v).pending = s.pending := by
  unfold sendVector
  try dsimp only
  (repeat' split) <;> simp
@[simp] theorem sendVector_free (s : State) (v : Nat) : (sendVector s v).free = s.free := by
  unfold sendVector
  try dsimp only
  (repeat' split) <;> simp
@[simp] theorem sendVector_clk (s : State) (v : Nat) : (sendVector s v).clk = s.clk := by
  unfold sendVector
  try dsimp only
  (repeat' split) <;> simp
@[simp] theorem sendVector_lag (s : State) (v : Nat) : (sendVector s v).lag = s.lag := by
  unfold sendVector
  try dsimp only
  (repeat' split) <;> simp
@[simp] theorem sendVector_mem (s : State) (v : Nat) : (sendVector s v).mem = s.mem := by
  unfold sendVector
  try dsimp only
  (repeat' split) <;> simp
@[simp] theorem sendVector_host (s : State) (v : Nat) : (sendVector s v).host = s.host := by
  unfold sendVector
  try dsimp only
  (repeat' split) <;> simp
@[simp] theorem sendVector_nibs (s : State) (v : Nat) : (sendVector s v).nibs = s.nibs := by
  unfold sendVector
  try dsimp only
  (repeat' split) <;> simp
@[simp] theorem sendVector_jobs (s : State) (v : Nat) : (sendVector s v).jobs = s.jobs := by
  unfold sendVector
  try dsimp only
  (repeat' split) <;> simp
@[simp] theorem sendVector_queues (s : State) (v : Nat) : (sendVector s v).queues = s.queues := by
  unfold sendVector
  try dsimp only
  (repeat' split) <;> simp
@[simp] theorem sendVector_acts (s : State) (v : Nat) : (sendVector s v).acts = s.acts := by
  unfold sendVector
  try dsimp only
  (repeat' split) <;> simp
@[simp] theorem sendVector_runs (s : State) (v : Nat) : (sendVector s v).runs = s.runs := by
  unfold sendVector
  try dsimp only
  (repeat' split) <;> simp
@[simp] theorem sendVector_fab (s : State) (v : Nat) : (sendVector s v).fab = s.fab := by
  unfold sendVector
  try dsimp only
  (repeat' split) <;> simp
@[simp] theorem sendVector_pair (s : State) (v : Nat) : (sendVector s v).pair = s.pair := by
  unfold sendVector
  try dsimp only
  (repeat' split) <;> simp
@[simp] theorem sendVector_shadows (s : State) (v : Nat) : (sendVector s v).shadows = s.shadows := by
  unfold sendVector
  try dsimp only
  (repeat' split) <;> simp
@[simp] theorem sendVector_test (s : State) (v : Nat) : (sendVector s v).test = s.test := by
  unfold sendVector
  try dsimp only
  (repeat' split) <;> simp
@[simp] theorem sendVector_mgmt (s : State) (v : Nat) : (sendVector s v).mgmt = s.mgmt := by
  unfold sendVector
  try dsimp only
  (repeat' split) <;> simp
@[simp] theorem sendVector_fw (s : State) (v : Nat) : (sendVector s v).fw = s.fw := by
  unfold sendVector
  try dsimp only
  (repeat' split) <;> simp
@[simp] theorem sendVector_pwr (s : State) (v : Nat) : (sendVector s v).pwr = s.pwr := by
  unfold sendVector
  try dsimp only
  (repeat' split) <;> simp

@[simp] theorem health_pending (s : State) (i : HealthInfo) : (health s i).pending = s.pending := by
  unfold health
  dsimp only
  split <;> simp
@[simp] theorem health_clk (s : State) (i : HealthInfo) : (health s i).clk = s.clk := by
  unfold health
  dsimp only
  split <;> simp
@[simp] theorem health_lag (s : State) (i : HealthInfo) : (health s i).lag = s.lag := by
  unfold health
  dsimp only
  split <;> simp
@[simp] theorem health_mem (s : State) (i : HealthInfo) : (health s i).mem = s.mem := by
  unfold health
  dsimp only
  split <;> simp
@[simp] theorem health_host (s : State) (i : HealthInfo) : (health s i).host = s.host := by
  unfold health
  dsimp only
  split <;> simp
@[simp] theorem health_nibs (s : State) (i : HealthInfo) : (health s i).nibs = s.nibs := by
  unfold health
  dsimp only
  split <;> simp
@[simp] theorem health_jobs (s : State) (i : HealthInfo) : (health s i).jobs = s.jobs := by
  unfold health
  dsimp only
  split <;> simp
@[simp] theorem health_queues (s : State) (i : HealthInfo) : (health s i).queues = s.queues := by
  unfold health
  dsimp only
  split <;> simp
@[simp] theorem health_acts (s : State) (i : HealthInfo) : (health s i).acts = s.acts := by
  unfold health
  dsimp only
  split <;> simp
@[simp] theorem health_runs (s : State) (i : HealthInfo) : (health s i).runs = s.runs := by
  unfold health
  dsimp only
  split <;> simp
@[simp] theorem health_fab (s : State) (i : HealthInfo) : (health s i).fab = s.fab := by
  unfold health
  dsimp only
  split <;> simp
@[simp] theorem health_pair (s : State) (i : HealthInfo) : (health s i).pair = s.pair := by
  unfold health
  dsimp only
  split <;> simp
@[simp] theorem health_shadows (s : State) (i : HealthInfo) : (health s i).shadows = s.shadows := by
  unfold health
  dsimp only
  split <;> simp
@[simp] theorem health_test (s : State) (i : HealthInfo) : (health s i).test = s.test := by
  unfold health
  dsimp only
  split <;> simp
@[simp] theorem health_hub (s : State) (i : HealthInfo) : (health s i).hub = s.hub := by
  unfold health
  dsimp only
  split <;> simp
@[simp] theorem health_fw (s : State) (i : HealthInfo) : (health s i).fw = s.fw := by
  unfold health
  dsimp only
  split <;> simp

@[simp] theorem saveQueue_pending (s : State) (n : Nat) (q : Queue) : (saveQueue s n q).pending = s.pending := by
  unfold saveQueue
  try dsimp only
  (repeat' split) <;> simp
@[simp] theorem saveQueue_free (s : State) (n : Nat) (q : Queue) : (saveQueue s n q).free = s.free := by
  unfold saveQueue
  try dsimp only
  (repeat' split) <;> simp
@[simp] theorem saveQueue_clk (s : State) (n : Nat) (q : Queue) : (saveQueue s n q).clk = s.clk := by
  unfold saveQueue
  try dsimp only
  (repeat' split) <;> simp
@[simp] theorem saveQueue_lag (s : State) (n : Nat) (q : Queue) : (saveQueue s n q).lag = s.lag := by
  unfold saveQueue
  try dsimp only
  (repeat' split) <;> simp
@[simp] theorem saveQueue_nibs (s : State) (n : Nat) (q : Queue) : (saveQueue s n q).nibs = s.nibs := by
  unfold saveQueue
  try dsimp only
  (repeat' split) <;> simp
@[simp] theorem saveQueue_jobs (s : State) (n : Nat) (q : Queue) : (saveQueue s n q).jobs = s.jobs := by
  unfold saveQueue
  try dsimp only
  (repeat' split) <;> simp
@[simp] theorem saveQueue_acts (s : State) (n : Nat) (q : Queue) : (saveQueue s n q).acts = s.acts := by
  unfold saveQueue
  try dsimp only
  (repeat' split) <;> simp
@[simp] theorem saveQueue_runs (s : State) (n : Nat) (q : Queue) : (saveQueue s n q).runs = s.runs := by
  unfold saveQueue
  try dsimp only
  (repeat' split) <;> simp
@[simp] theorem saveQueue_fab (s : State) (n : Nat) (q : Queue) : (saveQueue s n q).fab = s.fab := by
  unfold saveQueue
  try dsimp only
  (repeat' split) <;> simp
@[simp] theorem saveQueue_pair (s : State) (n : Nat) (q : Queue) : (saveQueue s n q).pair = s.pair := by
  unfold saveQueue
  try dsimp only
  (repeat' split) <;> simp
@[simp] theorem saveQueue_shadows (s : State) (n : Nat) (q : Queue) : (saveQueue s n q).shadows = s.shadows := by
  unfold saveQueue
  try dsimp only
  (repeat' split) <;> simp
@[simp] theorem saveQueue_test (s : State) (n : Nat) (q : Queue) : (saveQueue s n q).test = s.test := by
  unfold saveQueue
  try dsimp only
  (repeat' split) <;> simp
@[simp] theorem saveQueue_hub (s : State) (n : Nat) (q : Queue) : (saveQueue s n q).hub = s.hub := by
  unfold saveQueue
  try dsimp only
  (repeat' split) <;> simp
@[simp] theorem saveQueue_mgmt (s : State) (n : Nat) (q : Queue) : (saveQueue s n q).mgmt = s.mgmt := by
  unfold saveQueue
  try dsimp only
  (repeat' split) <;> simp
@[simp] theorem saveQueue_fw (s : State) (n : Nat) (q : Queue) : (saveQueue s n q).fw = s.fw := by
  unfold saveQueue
  try dsimp only
  (repeat' split) <;> simp
@[simp] theorem saveQueue_pwr (s : State) (n : Nat) (q : Queue) : (saveQueue s n q).pwr = s.pwr := by
  unfold saveQueue
  try dsimp only
  (repeat' split) <;> simp
@[simp] theorem saveQueue_out (s : State) (n : Nat) (q : Queue) : (saveQueue s n q).out = s.out := by
  unfold saveQueue
  try dsimp only
  (repeat' split) <;> simp

@[simp] theorem jobEvent_pending (s : State) (k : Nat) (e : Event) : (jobEvent s k e).pending = s.pending := by
  unfold jobEvent
  try dsimp only
  (repeat' split) <;> simp
@[simp] theorem jobEvent_clk (s : State) (k : Nat) (e : Event) : (jobEvent s k e).clk = s.clk := by
  unfold jobEvent
  try dsimp only
  (repeat' split) <;> simp
@[simp] theorem jobEvent_lag (s : State) (k : Nat) (e : Event) : (jobEvent s k e).lag = s.lag := by
  unfold jobEvent
  try dsimp only
  (repeat' split) <;> simp
@[simp] theorem jobEvent_mem (s : State) (k : Nat) (e : Event) : (jobEvent s k e).mem = s.mem := by
  unfold jobEvent
  try dsimp only
  (repeat' split) <;> simp
@[simp] theorem jobEvent_nibs (s : State) (k : Nat) (e : Event) : (jobEvent s k e).nibs = s.nibs := by
  unfold jobEvent
  try dsimp only
  (repeat' split) <;> simp
@[simp] theorem jobEvent_queues (s : State) (k : Nat) (e : Event) : (jobEvent s k e).queues = s.queues := by
  unfold jobEvent
  try dsimp only
  (repeat' split) <;> simp
@[simp] theorem jobEvent_acts (s : State) (k : Nat) (e : Event) : (jobEvent s k e).acts = s.acts := by
  unfold jobEvent
  try dsimp only
  (repeat' split) <;> simp
@[simp] theorem jobEvent_runs (s : State) (k : Nat) (e : Event) : (jobEvent s k e).runs = s.runs := by
  unfold jobEvent
  try dsimp only
  (repeat' split) <;> simp
@[simp] theorem jobEvent_fab (s : State) (k : Nat) (e : Event) : (jobEvent s k e).fab = s.fab := by
  unfold jobEvent
  try dsimp only
  (repeat' split) <;> simp
@[simp] theorem jobEvent_pair (s : State) (k : Nat) (e : Event) : (jobEvent s k e).pair = s.pair := by
  unfold jobEvent
  try dsimp only
  (repeat' split) <;> simp
@[simp] theorem jobEvent_shadows (s : State) (k : Nat) (e : Event) : (jobEvent s k e).shadows = s.shadows := by
  unfold jobEvent
  try dsimp only
  (repeat' split) <;> simp
@[simp] theorem jobEvent_test (s : State) (k : Nat) (e : Event) : (jobEvent s k e).test = s.test := by
  unfold jobEvent
  try dsimp only
  (repeat' split) <;> simp
@[simp] theorem jobEvent_mgmt (s : State) (k : Nat) (e : Event) : (jobEvent s k e).mgmt = s.mgmt := by
  unfold jobEvent
  try dsimp only
  (repeat' split) <;> simp
@[simp] theorem jobEvent_fw (s : State) (k : Nat) (e : Event) : (jobEvent s k e).fw = s.fw := by
  unfold jobEvent
  try dsimp only
  (repeat' split) <;> simp
@[simp] theorem jobEvent_pwr (s : State) (k : Nat) (e : Event) : (jobEvent s k e).pwr = s.pwr := by
  unfold jobEvent
  try dsimp only
  (repeat' split) <;> simp

@[simp] theorem rejectRecord_pending (s : State) (k : Sid) (x : Stitch) (n : Nat) : (rejectRecord s k x n).pending = s.pending := by
  unfold rejectRecord
  try dsimp only
  (repeat' split) <;> simp
@[simp] theorem rejectRecord_free (s : State) (k : Sid) (x : Stitch) (n : Nat) : (rejectRecord s k x n).free = s.free := by
  unfold rejectRecord
  try dsimp only
  (repeat' split) <;> simp
@[simp] theorem rejectRecord_clk (s : State) (k : Sid) (x : Stitch) (n : Nat) : (rejectRecord s k x n).clk = s.clk := by
  unfold rejectRecord
  try dsimp only
  (repeat' split) <;> simp
@[simp] theorem rejectRecord_lag (s : State) (k : Sid) (x : Stitch) (n : Nat) : (rejectRecord s k x n).lag = s.lag := by
  unfold rejectRecord
  try dsimp only
  (repeat' split) <;> simp
@[simp] theorem rejectRecord_nibs (s : State) (k : Sid) (x : Stitch) (n : Nat) : (rejectRecord s k x n).nibs = s.nibs := by
  unfold rejectRecord
  try dsimp only
  (repeat' split) <;> simp
@[simp] theorem rejectRecord_jobs (s : State) (k : Sid) (x : Stitch) (n : Nat) : (rejectRecord s k x n).jobs = s.jobs := by
  unfold rejectRecord
  try dsimp only
  (repeat' split) <;> simp
@[simp] theorem rejectRecord_queues (s : State) (k : Sid) (x : Stitch) (n : Nat) : (rejectRecord s k x n).queues = s.queues := by
  unfold rejectRecord
  try dsimp only
  (repeat' split) <;> simp
@[simp] theorem rejectRecord_acts (s : State) (k : Sid) (x : Stitch) (n : Nat) : (rejectRecord s k x n).acts = s.acts := by
  unfold rejectRecord
  try dsimp only
  (repeat' split) <;> simp
@[simp] theorem rejectRecord_runs (s : State) (k : Sid) (x : Stitch) (n : Nat) : (rejectRecord s k x n).runs = s.runs := by
  unfold rejectRecord
  try dsimp only
  (repeat' split) <;> simp
@[simp] theorem rejectRecord_fab (s : State) (k : Sid) (x : Stitch) (n : Nat) : (rejectRecord s k x n).fab = s.fab := by
  unfold rejectRecord
  try dsimp only
  (repeat' split) <;> simp
@[simp] theorem rejectRecord_pair (s : State) (k : Sid) (x : Stitch) (n : Nat) : (rejectRecord s k x n).pair = s.pair := by
  unfold rejectRecord
  try dsimp only
  (repeat' split) <;> simp
@[simp] theorem rejectRecord_shadows (s : State) (k : Sid) (x : Stitch) (n : Nat) : (rejectRecord s k x n).shadows = s.shadows := by
  unfold rejectRecord
  try dsimp only
  (repeat' split) <;> simp
@[simp] theorem rejectRecord_test (s : State) (k : Sid) (x : Stitch) (n : Nat) : (rejectRecord s k x n).test = s.test := by
  unfold rejectRecord
  try dsimp only
  (repeat' split) <;> simp
@[simp] theorem rejectRecord_hub (s : State) (k : Sid) (x : Stitch) (n : Nat) : (rejectRecord s k x n).hub = s.hub := by
  unfold rejectRecord
  try dsimp only
  (repeat' split) <;> simp
@[simp] theorem rejectRecord_mgmt (s : State) (k : Sid) (x : Stitch) (n : Nat) : (rejectRecord s k x n).mgmt = s.mgmt := by
  unfold rejectRecord
  try dsimp only
  (repeat' split) <;> simp
@[simp] theorem rejectRecord_fw (s : State) (k : Sid) (x : Stitch) (n : Nat) : (rejectRecord s k x n).fw = s.fw := by
  unfold rejectRecord
  try dsimp only
  (repeat' split) <;> simp
@[simp] theorem rejectRecord_pwr (s : State) (k : Sid) (x : Stitch) (n : Nat) : (rejectRecord s k x n).pwr = s.pwr := by
  unfold rejectRecord
  try dsimp only
  (repeat' split) <;> simp
@[simp] theorem rejectRecord_out (s : State) (k : Sid) (x : Stitch) (n : Nat) : (rejectRecord s k x n).out = s.out := by
  unfold rejectRecord
  try dsimp only
  (repeat' split) <;> simp

@[simp] theorem accrue_pending (s : State) (k t : Nat) : (accrue s k t).pending = s.pending := by
  unfold accrue
  try dsimp only
  (repeat' split) <;> simp
@[simp] theorem accrue_free (s : State) (k t : Nat) : (accrue s k t).free = s.free := by
  unfold accrue
  try dsimp only
  (repeat' split) <;> simp
@[simp] theorem accrue_clk (s : State) (k t : Nat) : (accrue s k t).clk = s.clk := by
  unfold accrue
  try dsimp only
  (repeat' split) <;> simp
@[simp] theorem accrue_lag (s : State) (k t : Nat) : (accrue s k t).lag = s.lag := by
  unfold accrue
  try dsimp only
  (repeat' split) <;> simp
@[simp] theorem accrue_mem (s : State) (k t : Nat) : (accrue s k t).mem = s.mem := by
  unfold accrue
  try dsimp only
  (repeat' split) <;> simp
@[simp] theorem accrue_host (s : State) (k t : Nat) : (accrue s k t).host = s.host := by
  unfold accrue
  try dsimp only
  (repeat' split) <;> simp
@[simp] theorem accrue_nibs (s : State) (k t : Nat) : (accrue s k t).nibs = s.nibs := by
  unfold accrue
  try dsimp only
  (repeat' split) <;> simp
@[simp] theorem accrue_queues (s : State) (k t : Nat) : (accrue s k t).queues = s.queues := by
  unfold accrue
  try dsimp only
  (repeat' split) <;> simp
@[simp] theorem accrue_acts (s : State) (k t : Nat) : (accrue s k t).acts = s.acts := by
  unfold accrue
  try dsimp only
  (repeat' split) <;> simp
@[simp] theorem accrue_runs (s : State) (k t : Nat) : (accrue s k t).runs = s.runs := by
  unfold accrue
  try dsimp only
  (repeat' split) <;> simp
@[simp] theorem accrue_fab (s : State) (k t : Nat) : (accrue s k t).fab = s.fab := by
  unfold accrue
  try dsimp only
  (repeat' split) <;> simp
@[simp] theorem accrue_pair (s : State) (k t : Nat) : (accrue s k t).pair = s.pair := by
  unfold accrue
  try dsimp only
  (repeat' split) <;> simp
@[simp] theorem accrue_shadows (s : State) (k t : Nat) : (accrue s k t).shadows = s.shadows := by
  unfold accrue
  try dsimp only
  (repeat' split) <;> simp
@[simp] theorem accrue_test (s : State) (k t : Nat) : (accrue s k t).test = s.test := by
  unfold accrue
  try dsimp only
  (repeat' split) <;> simp
@[simp] theorem accrue_hub (s : State) (k t : Nat) : (accrue s k t).hub = s.hub := by
  unfold accrue
  try dsimp only
  (repeat' split) <;> simp
@[simp] theorem accrue_mgmt (s : State) (k t : Nat) : (accrue s k t).mgmt = s.mgmt := by
  unfold accrue
  try dsimp only
  (repeat' split) <;> simp
@[simp] theorem accrue_fw (s : State) (k t : Nat) : (accrue s k t).fw = s.fw := by
  unfold accrue
  try dsimp only
  (repeat' split) <;> simp
@[simp] theorem accrue_pwr (s : State) (k t : Nat) : (accrue s k t).pwr = s.pwr := by
  unfold accrue
  try dsimp only
  (repeat' split) <;> simp
@[simp] theorem accrue_out (s : State) (k t : Nat) : (accrue s k t).out = s.out := by
  unfold accrue
  try dsimp only
  (repeat' split) <;> simp

@[simp] theorem noteStart_pending (s : State) (a : Active) (t : Nat) : (noteStart s a t).pending = s.pending := by
  unfold noteStart
  split <;> simp
@[simp] theorem noteStart_free (s : State) (a : Active) (t : Nat) : (noteStart s a t).free = s.free := by
  unfold noteStart
  split <;> simp
@[simp] theorem noteStart_clk (s : State) (a : Active) (t : Nat) : (noteStart s a t).clk = s.clk := by
  unfold noteStart
  split <;> simp
@[simp] theorem noteStart_lag (s : State) (a : Active) (t : Nat) : (noteStart s a t).lag = s.lag := by
  unfold noteStart
  split <;> simp
@[simp] theorem noteStart_mem (s : State) (a : Active) (t : Nat) : (noteStart s a t).mem = s.mem := by
  unfold noteStart
  split <;> simp
@[simp] theorem noteStart_host (s : State) (a : Active) (t : Nat) : (noteStart s a t).host = s.host := by
  unfold noteStart
  split <;> simp
@[simp] theorem noteStart_nibs (s : State) (a : Active) (t : Nat) : (noteStart s a t).nibs = s.nibs := by
  unfold noteStart
  split <;> simp
@[simp] theorem noteStart_queues (s : State) (a : Active) (t : Nat) : (noteStart s a t).queues = s.queues := by
  unfold noteStart
  split <;> simp
@[simp] theorem noteStart_acts (s : State) (a : Active) (t : Nat) : (noteStart s a t).acts = s.acts := by
  unfold noteStart
  split <;> simp
@[simp] theorem noteStart_runs (s : State) (a : Active) (t : Nat) : (noteStart s a t).runs = s.runs := by
  unfold noteStart
  split <;> simp
@[simp] theorem noteStart_fab (s : State) (a : Active) (t : Nat) : (noteStart s a t).fab = s.fab := by
  unfold noteStart
  split <;> simp
@[simp] theorem noteStart_pair (s : State) (a : Active) (t : Nat) : (noteStart s a t).pair = s.pair := by
  unfold noteStart
  split <;> simp
@[simp] theorem noteStart_shadows (s : State) (a : Active) (t : Nat) : (noteStart s a t).shadows = s.shadows := by
  unfold noteStart
  split <;> simp
@[simp] theorem noteStart_test (s : State) (a : Active) (t : Nat) : (noteStart s a t).test = s.test := by
  unfold noteStart
  split <;> simp
@[simp] theorem noteStart_hub (s : State) (a : Active) (t : Nat) : (noteStart s a t).hub = s.hub := by
  unfold noteStart
  split <;> simp
@[simp] theorem noteStart_mgmt (s : State) (a : Active) (t : Nat) : (noteStart s a t).mgmt = s.mgmt := by
  unfold noteStart
  split <;> simp
@[simp] theorem noteStart_fw (s : State) (a : Active) (t : Nat) : (noteStart s a t).fw = s.fw := by
  unfold noteStart
  split <;> simp
@[simp] theorem noteStart_pwr (s : State) (a : Active) (t : Nat) : (noteStart s a t).pwr = s.pwr := by
  unfold noteStart
  split <;> simp
@[simp] theorem noteStart_out (s : State) (a : Active) (t : Nat) : (noteStart s a t).out = s.out := by
  unfold noteStart
  split <;> simp

@[simp] theorem startAct_pending (s : State) (a : Active) : (startAct s a).1.pending = s.pending := by
  unfold startAct
  dsimp only
  split <;> simp
@[simp] theorem startAct_free (s : State) (a : Active) : (startAct s a).1.free = s.free := by
  unfold startAct
  dsimp only
  split <;> simp
@[simp] theorem startAct_clk (s : State) (a : Active) : (startAct s a).1.clk = s.clk := by
  unfold startAct
  dsimp only
  split <;> simp
@[simp] theorem startAct_lag (s : State) (a : Active) : (startAct s a).1.lag = s.lag := by
  unfold startAct
  dsimp only
  split <;> simp
@[simp] theorem startAct_mem (s : State) (a : Active) : (startAct s a).1.mem = s.mem := by
  unfold startAct
  dsimp only
  split <;> simp
@[simp] theorem startAct_host (s : State) (a : Active) : (startAct s a).1.host = s.host := by
  unfold startAct
  dsimp only
  split <;> simp
@[simp] theorem startAct_nibs (s : State) (a : Active) : (startAct s a).1.nibs = s.nibs := by
  unfold startAct
  dsimp only
  split <;> simp
@[simp] theorem startAct_queues (s : State) (a : Active) : (startAct s a).1.queues = s.queues := by
  unfold startAct
  dsimp only
  split <;> simp
@[simp] theorem startAct_acts (s : State) (a : Active) : (startAct s a).1.acts = s.acts := by
  unfold startAct
  dsimp only
  split <;> simp
@[simp] theorem startAct_runs (s : State) (a : Active) : (startAct s a).1.runs = s.runs := by
  unfold startAct
  dsimp only
  split <;> simp
@[simp] theorem startAct_fab (s : State) (a : Active) : (startAct s a).1.fab = s.fab := by
  unfold startAct
  dsimp only
  split <;> simp
@[simp] theorem startAct_pair (s : State) (a : Active) : (startAct s a).1.pair = s.pair := by
  unfold startAct
  dsimp only
  split <;> simp
@[simp] theorem startAct_shadows (s : State) (a : Active) : (startAct s a).1.shadows = s.shadows := by
  unfold startAct
  dsimp only
  split <;> simp
@[simp] theorem startAct_test (s : State) (a : Active) : (startAct s a).1.test = s.test := by
  unfold startAct
  dsimp only
  split <;> simp
@[simp] theorem startAct_hub (s : State) (a : Active) : (startAct s a).1.hub = s.hub := by
  unfold startAct
  dsimp only
  split <;> simp
@[simp] theorem startAct_mgmt (s : State) (a : Active) : (startAct s a).1.mgmt = s.mgmt := by
  unfold startAct
  dsimp only
  split <;> simp
@[simp] theorem startAct_fw (s : State) (a : Active) : (startAct s a).1.fw = s.fw := by
  unfold startAct
  dsimp only
  split <;> simp
@[simp] theorem startAct_pwr (s : State) (a : Active) : (startAct s a).1.pwr = s.pwr := by
  unfold startAct
  dsimp only
  split <;> simp
@[simp] theorem startAct_out (s : State) (a : Active) : (startAct s a).1.out = s.out := by
  unfold startAct
  dsimp only
  split <;> simp

@[simp] theorem present_pending (s : State) (p : Nat) (n : Bool) (b : List Byte) : (present s p n b).pending = s.pending := by
  unfold present
  try dsimp only
  (repeat' split) <;> simp
@[simp] theorem present_free (s : State) (p : Nat) (n : Bool) (b : List Byte) : (present s p n b).free = s.free := by
  unfold present
  try dsimp only
  (repeat' split) <;> simp
@[simp] theorem present_clk (s : State) (p : Nat) (n : Bool) (b : List Byte) : (present s p n b).clk = s.clk := by
  unfold present
  try dsimp only
  (repeat' split) <;> simp
@[simp] theorem present_lag (s : State) (p : Nat) (n : Bool) (b : List Byte) : (present s p n b).lag = s.lag := by
  unfold present
  try dsimp only
  (repeat' split) <;> simp
@[simp] theorem present_mem (s : State) (p : Nat) (n : Bool) (b : List Byte) : (present s p n b).mem = s.mem := by
  unfold present
  try dsimp only
  (repeat' split) <;> simp
@[simp] theorem present_host (s : State) (p : Nat) (n : Bool) (b : List Byte) : (present s p n b).host = s.host := by
  unfold present
  try dsimp only
  (repeat' split) <;> simp
@[simp] theorem present_nibs (s : State) (p : Nat) (n : Bool) (b : List Byte) : (present s p n b).nibs = s.nibs := by
  unfold present
  try dsimp only
  (repeat' split) <;> simp
@[simp] theorem present_jobs (s : State) (p : Nat) (n : Bool) (b : List Byte) : (present s p n b).jobs = s.jobs := by
  unfold present
  try dsimp only
  (repeat' split) <;> simp
@[simp] theorem present_queues (s : State) (p : Nat) (n : Bool) (b : List Byte) : (present s p n b).queues = s.queues := by
  unfold present
  try dsimp only
  (repeat' split) <;> simp
@[simp] theorem present_acts (s : State) (p : Nat) (n : Bool) (b : List Byte) : (present s p n b).acts = s.acts := by
  unfold present
  try dsimp only
  (repeat' split) <;> simp
@[simp] theorem present_runs (s : State) (p : Nat) (n : Bool) (b : List Byte) : (present s p n b).runs = s.runs := by
  unfold present
  try dsimp only
  (repeat' split) <;> simp
@[simp] theorem present_fab (s : State) (p : Nat) (n : Bool) (b : List Byte) : (present s p n b).fab = s.fab := by
  unfold present
  try dsimp only
  (repeat' split) <;> simp
@[simp] theorem present_pair (s : State) (p : Nat) (n : Bool) (b : List Byte) : (present s p n b).pair = s.pair := by
  unfold present
  try dsimp only
  (repeat' split) <;> simp
@[simp] theorem present_shadows (s : State) (p : Nat) (n : Bool) (b : List Byte) : (present s p n b).shadows = s.shadows := by
  unfold present
  try dsimp only
  (repeat' split) <;> simp
@[simp] theorem present_test (s : State) (p : Nat) (n : Bool) (b : List Byte) : (present s p n b).test = s.test := by
  unfold present
  try dsimp only
  (repeat' split) <;> simp
@[simp] theorem present_mgmt (s : State) (p : Nat) (n : Bool) (b : List Byte) : (present s p n b).mgmt = s.mgmt := by
  unfold present
  try dsimp only
  (repeat' split) <;> simp
@[simp] theorem present_fw (s : State) (p : Nat) (n : Bool) (b : List Byte) : (present s p n b).fw = s.fw := by
  unfold present
  try dsimp only
  (repeat' split) <;> simp
@[simp] theorem present_pwr (s : State) (p : Nat) (n : Bool) (b : List Byte) : (present s p n b).pwr = s.pwr := by
  unfold present
  try dsimp only
  (repeat' split) <;> simp

@[simp] theorem answerRequest_pending (s : State) (p : Nat) (r : Request) (n : Nat) (b : List Byte) : (answerRequest s p r n b).pending = s.pending := by
  unfold answerRequest
  try dsimp only
  (repeat' split) <;> simp
@[simp] theorem answerRequest_free (s : State) (p : Nat) (r : Request) (n : Nat) (b : List Byte) : (answerRequest s p r n b).free = s.free := by
  unfold answerRequest
  try dsimp only
  (repeat' split) <;> simp
@[simp] theorem answerRequest_clk (s : State) (p : Nat) (r : Request) (n : Nat) (b : List Byte) : (answerRequest s p r n b).clk = s.clk := by
  unfold answerRequest
  try dsimp only
  (repeat' split) <;> simp
@[simp] theorem answerRequest_lag (s : State) (p : Nat) (r : Request) (n : Nat) (b : List Byte) : (answerRequest s p r n b).lag = s.lag := by
  unfold answerRequest
  try dsimp only
  (repeat' split) <;> simp
@[simp] theorem answerRequest_mem (s : State) (p : Nat) (r : Request) (n : Nat) (b : List Byte) : (answerRequest s p r n b).mem = s.mem := by
  unfold answerRequest
  try dsimp only
  (repeat' split) <;> simp
@[simp] theorem answerRequest_host (s : State) (p : Nat) (r : Request) (n : Nat) (b : List Byte) : (answerRequest s p r n b).host = s.host := by
  unfold answerRequest
  try dsimp only
  (repeat' split) <;> simp
@[simp] theorem answerRequest_nibs (s : State) (p : Nat) (r : Request) (n : Nat) (b : List Byte) : (answerRequest s p r n b).nibs = s.nibs := by
  unfold answerRequest
  try dsimp only
  (repeat' split) <;> simp
@[simp] theorem answerRequest_jobs (s : State) (p : Nat) (r : Request) (n : Nat) (b : List Byte) : (answerRequest s p r n b).jobs = s.jobs := by
  unfold answerRequest
  try dsimp only
  (repeat' split) <;> simp
@[simp] theorem answerRequest_queues (s : State) (p : Nat) (r : Request) (n : Nat) (b : List Byte) : (answerRequest s p r n b).queues = s.queues := by
  unfold answerRequest
  try dsimp only
  (repeat' split) <;> simp
@[simp] theorem answerRequest_acts (s : State) (p : Nat) (r : Request) (n : Nat) (b : List Byte) : (answerRequest s p r n b).acts = s.acts := by
  unfold answerRequest
  try dsimp only
  (repeat' split) <;> simp
@[simp] theorem answerRequest_runs (s : State) (p : Nat) (r : Request) (n : Nat) (b : List Byte) : (answerRequest s p r n b).runs = s.runs := by
  unfold answerRequest
  try dsimp only
  (repeat' split) <;> simp
@[simp] theorem answerRequest_fab (s : State) (p : Nat) (r : Request) (n : Nat) (b : List Byte) : (answerRequest s p r n b).fab = s.fab := by
  unfold answerRequest
  try dsimp only
  (repeat' split) <;> simp
@[simp] theorem answerRequest_pair (s : State) (p : Nat) (r : Request) (n : Nat) (b : List Byte) : (answerRequest s p r n b).pair = s.pair := by
  unfold answerRequest
  try dsimp only
  (repeat' split) <;> simp
@[simp] theorem answerRequest_shadows (s : State) (p : Nat) (r : Request) (n : Nat) (b : List Byte) : (answerRequest s p r n b).shadows = s.shadows := by
  unfold answerRequest
  try dsimp only
  (repeat' split) <;> simp
@[simp] theorem answerRequest_test (s : State) (p : Nat) (r : Request) (n : Nat) (b : List Byte) : (answerRequest s p r n b).test = s.test := by
  unfold answerRequest
  try dsimp only
  (repeat' split) <;> simp
@[simp] theorem answerRequest_mgmt (s : State) (p : Nat) (r : Request) (n : Nat) (b : List Byte) : (answerRequest s p r n b).mgmt = s.mgmt := by
  unfold answerRequest
  try dsimp only
  (repeat' split) <;> simp
@[simp] theorem answerRequest_fw (s : State) (p : Nat) (r : Request) (n : Nat) (b : List Byte) : (answerRequest s p r n b).fw = s.fw := by
  unfold answerRequest
  try dsimp only
  (repeat' split) <;> simp
@[simp] theorem answerRequest_pwr (s : State) (p : Nat) (r : Request) (n : Nat) (b : List Byte) : (answerRequest s p r n b).pwr = s.pwr := by
  unfold answerRequest
  try dsimp only
  (repeat' split) <;> simp

@[simp] theorem answerWaiting_pending (s : State) (p op n : Nat) (b : List Byte) : (answerWaiting s p op n b).pending = s.pending := by
  unfold answerWaiting
  try dsimp only
  (repeat' split) <;> simp
@[simp] theorem answerWaiting_free (s : State) (p op n : Nat) (b : List Byte) : (answerWaiting s p op n b).free = s.free := by
  unfold answerWaiting
  try dsimp only
  (repeat' split) <;> simp
@[simp] theorem answerWaiting_clk (s : State) (p op n : Nat) (b : List Byte) : (answerWaiting s p op n b).clk = s.clk := by
  unfold answerWaiting
  try dsimp only
  (repeat' split) <;> simp
@[simp] theorem answerWaiting_lag (s : State) (p op n : Nat) (b : List Byte) : (answerWaiting s p op n b).lag = s.lag := by
  unfold answerWaiting
  try dsimp only
  (repeat' split) <;> simp
@[simp] theorem answerWaiting_mem (s : State) (p op n : Nat) (b : List Byte) : (answerWaiting s p op n b).mem = s.mem := by
  unfold answerWaiting
  try dsimp only
  (repeat' split) <;> simp
@[simp] theorem answerWaiting_host (s : State) (p op n : Nat) (b : List Byte) : (answerWaiting s p op n b).host = s.host := by
  unfold answerWaiting
  try dsimp only
  (repeat' split) <;> simp
@[simp] theorem answerWaiting_nibs (s : State) (p op n : Nat) (b : List Byte) : (answerWaiting s p op n b).nibs = s.nibs := by
  unfold answerWaiting
  try dsimp only
  (repeat' split) <;> simp
@[simp] theorem answerWaiting_jobs (s : State) (p op n : Nat) (b : List Byte) : (answerWaiting s p op n b).jobs = s.jobs := by
  unfold answerWaiting
  try dsimp only
  (repeat' split) <;> simp
@[simp] theorem answerWaiting_queues (s : State) (p op n : Nat) (b : List Byte) : (answerWaiting s p op n b).queues = s.queues := by
  unfold answerWaiting
  try dsimp only
  (repeat' split) <;> simp
@[simp] theorem answerWaiting_acts (s : State) (p op n : Nat) (b : List Byte) : (answerWaiting s p op n b).acts = s.acts := by
  unfold answerWaiting
  try dsimp only
  (repeat' split) <;> simp
@[simp] theorem answerWaiting_runs (s : State) (p op n : Nat) (b : List Byte) : (answerWaiting s p op n b).runs = s.runs := by
  unfold answerWaiting
  try dsimp only
  (repeat' split) <;> simp
@[simp] theorem answerWaiting_fab (s : State) (p op n : Nat) (b : List Byte) : (answerWaiting s p op n b).fab = s.fab := by
  unfold answerWaiting
  try dsimp only
  (repeat' split) <;> simp
@[simp] theorem answerWaiting_pair (s : State) (p op n : Nat) (b : List Byte) : (answerWaiting s p op n b).pair = s.pair := by
  unfold answerWaiting
  try dsimp only
  (repeat' split) <;> simp
@[simp] theorem answerWaiting_shadows (s : State) (p op n : Nat) (b : List Byte) : (answerWaiting s p op n b).shadows = s.shadows := by
  unfold answerWaiting
  try dsimp only
  (repeat' split) <;> simp
@[simp] theorem answerWaiting_test (s : State) (p op n : Nat) (b : List Byte) : (answerWaiting s p op n b).test = s.test := by
  unfold answerWaiting
  try dsimp only
  (repeat' split) <;> simp
@[simp] theorem answerWaiting_mgmt (s : State) (p op n : Nat) (b : List Byte) : (answerWaiting s p op n b).mgmt = s.mgmt := by
  unfold answerWaiting
  try dsimp only
  (repeat' split) <;> simp
@[simp] theorem answerWaiting_fw (s : State) (p op n : Nat) (b : List Byte) : (answerWaiting s p op n b).fw = s.fw := by
  unfold answerWaiting
  try dsimp only
  (repeat' split) <;> simp
@[simp] theorem answerWaiting_pwr (s : State) (p op n : Nat) (b : List Byte) : (answerWaiting s p op n b).pwr = s.pwr := by
  unfold answerWaiting
  try dsimp only
  (repeat' split) <;> simp

@[simp] theorem endOp_pending (s : State) (o : LongOp) (n : Nat) : (endOp s o n).pending = s.pending := by
  unfold endOp
  try dsimp only
  (repeat' split) <;> simp
@[simp] theorem endOp_free (s : State) (o : LongOp) (n : Nat) : (endOp s o n).free = s.free := by
  unfold endOp
  try dsimp only
  (repeat' split) <;> simp
@[simp] theorem endOp_clk (s : State) (o : LongOp) (n : Nat) : (endOp s o n).clk = s.clk := by
  unfold endOp
  try dsimp only
  (repeat' split) <;> simp
@[simp] theorem endOp_lag (s : State) (o : LongOp) (n : Nat) : (endOp s o n).lag = s.lag := by
  unfold endOp
  try dsimp only
  (repeat' split) <;> simp
@[simp] theorem endOp_mem (s : State) (o : LongOp) (n : Nat) : (endOp s o n).mem = s.mem := by
  unfold endOp
  try dsimp only
  (repeat' split) <;> simp
@[simp] theorem endOp_host (s : State) (o : LongOp) (n : Nat) : (endOp s o n).host = s.host := by
  unfold endOp
  try dsimp only
  (repeat' split) <;> simp
@[simp] theorem endOp_nibs (s : State) (o : LongOp) (n : Nat) : (endOp s o n).nibs = s.nibs := by
  unfold endOp
  try dsimp only
  (repeat' split) <;> simp
@[simp] theorem endOp_jobs (s : State) (o : LongOp) (n : Nat) : (endOp s o n).jobs = s.jobs := by
  unfold endOp
  try dsimp only
  (repeat' split) <;> simp
@[simp] theorem endOp_queues (s : State) (o : LongOp) (n : Nat) : (endOp s o n).queues = s.queues := by
  unfold endOp
  try dsimp only
  (repeat' split) <;> simp
@[simp] theorem endOp_acts (s : State) (o : LongOp) (n : Nat) : (endOp s o n).acts = s.acts := by
  unfold endOp
  try dsimp only
  (repeat' split) <;> simp
@[simp] theorem endOp_runs (s : State) (o : LongOp) (n : Nat) : (endOp s o n).runs = s.runs := by
  unfold endOp
  try dsimp only
  (repeat' split) <;> simp
@[simp] theorem endOp_fab (s : State) (o : LongOp) (n : Nat) : (endOp s o n).fab = s.fab := by
  unfold endOp
  try dsimp only
  (repeat' split) <;> simp
@[simp] theorem endOp_pair (s : State) (o : LongOp) (n : Nat) : (endOp s o n).pair = s.pair := by
  unfold endOp
  try dsimp only
  (repeat' split) <;> simp
@[simp] theorem endOp_shadows (s : State) (o : LongOp) (n : Nat) : (endOp s o n).shadows = s.shadows := by
  unfold endOp
  try dsimp only
  (repeat' split) <;> simp
@[simp] theorem endOp_test (s : State) (o : LongOp) (n : Nat) : (endOp s o n).test = s.test := by
  unfold endOp
  try dsimp only
  (repeat' split) <;> simp
@[simp] theorem endOp_mgmt (s : State) (o : LongOp) (n : Nat) : (endOp s o n).mgmt = s.mgmt := by
  unfold endOp
  try dsimp only
  (repeat' split) <;> simp
@[simp] theorem endOp_fw (s : State) (o : LongOp) (n : Nat) : (endOp s o n).fw = s.fw := by
  unfold endOp
  try dsimp only
  (repeat' split) <;> simp
@[simp] theorem endOp_pwr (s : State) (o : LongOp) (n : Nat) : (endOp s o n).pwr = s.pwr := by
  unfold endOp
  try dsimp only
  (repeat' split) <;> simp

@[simp] theorem publish_pending (s : State) (a : Active) (n : Nat) : (publish s a n).pending = s.pending := by
  unfold publish
  try dsimp only
  (repeat' split) <;> simp
@[simp] theorem publish_free (s : State) (a : Active) (n : Nat) : (publish s a n).free = s.free := by
  unfold publish
  try dsimp only
  (repeat' split) <;> simp
@[simp] theorem publish_clk (s : State) (a : Active) (n : Nat) : (publish s a n).clk = s.clk := by
  unfold publish
  try dsimp only
  (repeat' split) <;> simp
@[simp] theorem publish_lag (s : State) (a : Active) (n : Nat) : (publish s a n).lag = s.lag := by
  unfold publish
  try dsimp only
  (repeat' split) <;> simp
@[simp] theorem publish_nibs (s : State) (a : Active) (n : Nat) : (publish s a n).nibs = s.nibs := by
  unfold publish
  try dsimp only
  (repeat' split) <;> simp
@[simp] theorem publish_queues (s : State) (a : Active) (n : Nat) : (publish s a n).queues = s.queues := by
  unfold publish
  try dsimp only
  (repeat' split) <;> simp
@[simp] theorem publish_acts (s : State) (a : Active) (n : Nat) : (publish s a n).acts = s.acts := by
  unfold publish
  try dsimp only
  (repeat' split) <;> simp
@[simp] theorem publish_runs (s : State) (a : Active) (n : Nat) : (publish s a n).runs = s.runs := by
  unfold publish
  try dsimp only
  (repeat' split) <;> simp
@[simp] theorem publish_fab (s : State) (a : Active) (n : Nat) : (publish s a n).fab = s.fab := by
  unfold publish
  try dsimp only
  (repeat' split) <;> simp
@[simp] theorem publish_pair (s : State) (a : Active) (n : Nat) : (publish s a n).pair = s.pair := by
  unfold publish
  try dsimp only
  (repeat' split) <;> simp
@[simp] theorem publish_shadows (s : State) (a : Active) (n : Nat) : (publish s a n).shadows = s.shadows := by
  unfold publish
  try dsimp only
  (repeat' split) <;> simp
@[simp] theorem publish_test (s : State) (a : Active) (n : Nat) : (publish s a n).test = s.test := by
  unfold publish
  try dsimp only
  (repeat' split) <;> simp
@[simp] theorem publish_mgmt (s : State) (a : Active) (n : Nat) : (publish s a n).mgmt = s.mgmt := by
  unfold publish
  try dsimp only
  (repeat' split) <;> simp
@[simp] theorem publish_fw (s : State) (a : Active) (n : Nat) : (publish s a n).fw = s.fw := by
  unfold publish
  try dsimp only
  (repeat' split) <;> simp
@[simp] theorem publish_pwr (s : State) (a : Active) (n : Nat) : (publish s a n).pwr = s.pwr := by
  unfold publish
  try dsimp only
  (repeat' split) <;> simp

@[simp] theorem releaseSlot_pending (s : State) (n : Nat) : (releaseSlot s n).pending = s.pending := by
  unfold releaseSlot
  try dsimp only
  (repeat' split) <;> simp
@[simp] theorem releaseSlot_free (s : State) (n : Nat) : (releaseSlot s n).free = s.free := by
  unfold releaseSlot
  try dsimp only
  (repeat' split) <;> simp
@[simp] theorem releaseSlot_clk (s : State) (n : Nat) : (releaseSlot s n).clk = s.clk := by
  unfold releaseSlot
  try dsimp only
  (repeat' split) <;> simp
@[simp] theorem releaseSlot_lag (s : State) (n : Nat) : (releaseSlot s n).lag = s.lag := by
  unfold releaseSlot
  try dsimp only
  (repeat' split) <;> simp
@[simp] theorem releaseSlot_nibs (s : State) (n : Nat) : (releaseSlot s n).nibs = s.nibs := by
  unfold releaseSlot
  try dsimp only
  (repeat' split) <;> simp
@[simp] theorem releaseSlot_jobs (s : State) (n : Nat) : (releaseSlot s n).jobs = s.jobs := by
  unfold releaseSlot
  try dsimp only
  (repeat' split) <;> simp
@[simp] theorem releaseSlot_acts (s : State) (n : Nat) : (releaseSlot s n).acts = s.acts := by
  unfold releaseSlot
  try dsimp only
  (repeat' split) <;> simp
@[simp] theorem releaseSlot_runs (s : State) (n : Nat) : (releaseSlot s n).runs = s.runs := by
  unfold releaseSlot
  try dsimp only
  (repeat' split) <;> simp
@[simp] theorem releaseSlot_fab (s : State) (n : Nat) : (releaseSlot s n).fab = s.fab := by
  unfold releaseSlot
  try dsimp only
  (repeat' split) <;> simp
@[simp] theorem releaseSlot_pair (s : State) (n : Nat) : (releaseSlot s n).pair = s.pair := by
  unfold releaseSlot
  try dsimp only
  (repeat' split) <;> simp
@[simp] theorem releaseSlot_shadows (s : State) (n : Nat) : (releaseSlot s n).shadows = s.shadows := by
  unfold releaseSlot
  try dsimp only
  (repeat' split) <;> simp
@[simp] theorem releaseSlot_test (s : State) (n : Nat) : (releaseSlot s n).test = s.test := by
  unfold releaseSlot
  try dsimp only
  (repeat' split) <;> simp
@[simp] theorem releaseSlot_hub (s : State) (n : Nat) : (releaseSlot s n).hub = s.hub := by
  unfold releaseSlot
  try dsimp only
  (repeat' split) <;> simp
@[simp] theorem releaseSlot_mgmt (s : State) (n : Nat) : (releaseSlot s n).mgmt = s.mgmt := by
  unfold releaseSlot
  try dsimp only
  (repeat' split) <;> simp
@[simp] theorem releaseSlot_fw (s : State) (n : Nat) : (releaseSlot s n).fw = s.fw := by
  unfold releaseSlot
  try dsimp only
  (repeat' split) <;> simp
@[simp] theorem releaseSlot_pwr (s : State) (n : Nat) : (releaseSlot s n).pwr = s.pwr := by
  unfold releaseSlot
  try dsimp only
  (repeat' split) <;> simp
@[simp] theorem releaseSlot_out (s : State) (n : Nat) : (releaseSlot s n).out = s.out := by
  unfold releaseSlot
  try dsimp only
  (repeat' split) <;> simp

@[simp] theorem keepGrad_pending (s : State) (a : Active) (o : Operand) (l : List Rat) : (keepGrad s a o l).pending = s.pending := by
  unfold keepGrad
  try dsimp only
  (repeat' split) <;> simp
@[simp] theorem keepGrad_free (s : State) (a : Active) (o : Operand) (l : List Rat) : (keepGrad s a o l).free = s.free := by
  unfold keepGrad
  try dsimp only
  (repeat' split) <;> simp
@[simp] theorem keepGrad_clk (s : State) (a : Active) (o : Operand) (l : List Rat) : (keepGrad s a o l).clk = s.clk := by
  unfold keepGrad
  try dsimp only
  (repeat' split) <;> simp
@[simp] theorem keepGrad_lag (s : State) (a : Active) (o : Operand) (l : List Rat) : (keepGrad s a o l).lag = s.lag := by
  unfold keepGrad
  try dsimp only
  (repeat' split) <;> simp
@[simp] theorem keepGrad_mem (s : State) (a : Active) (o : Operand) (l : List Rat) : (keepGrad s a o l).mem = s.mem := by
  unfold keepGrad
  try dsimp only
  (repeat' split) <;> simp
@[simp] theorem keepGrad_host (s : State) (a : Active) (o : Operand) (l : List Rat) : (keepGrad s a o l).host = s.host := by
  unfold keepGrad
  try dsimp only
  (repeat' split) <;> simp
@[simp] theorem keepGrad_nibs (s : State) (a : Active) (o : Operand) (l : List Rat) : (keepGrad s a o l).nibs = s.nibs := by
  unfold keepGrad
  try dsimp only
  (repeat' split) <;> simp
@[simp] theorem keepGrad_queues (s : State) (a : Active) (o : Operand) (l : List Rat) : (keepGrad s a o l).queues = s.queues := by
  unfold keepGrad
  try dsimp only
  (repeat' split) <;> simp
@[simp] theorem keepGrad_acts (s : State) (a : Active) (o : Operand) (l : List Rat) : (keepGrad s a o l).acts = s.acts := by
  unfold keepGrad
  try dsimp only
  (repeat' split) <;> simp
@[simp] theorem keepGrad_runs (s : State) (a : Active) (o : Operand) (l : List Rat) : (keepGrad s a o l).runs = s.runs := by
  unfold keepGrad
  try dsimp only
  (repeat' split) <;> simp
@[simp] theorem keepGrad_fab (s : State) (a : Active) (o : Operand) (l : List Rat) : (keepGrad s a o l).fab = s.fab := by
  unfold keepGrad
  try dsimp only
  (repeat' split) <;> simp
@[simp] theorem keepGrad_pair (s : State) (a : Active) (o : Operand) (l : List Rat) : (keepGrad s a o l).pair = s.pair := by
  unfold keepGrad
  try dsimp only
  (repeat' split) <;> simp
@[simp] theorem keepGrad_shadows (s : State) (a : Active) (o : Operand) (l : List Rat) : (keepGrad s a o l).shadows = s.shadows := by
  unfold keepGrad
  try dsimp only
  (repeat' split) <;> simp
@[simp] theorem keepGrad_test (s : State) (a : Active) (o : Operand) (l : List Rat) : (keepGrad s a o l).test = s.test := by
  unfold keepGrad
  try dsimp only
  (repeat' split) <;> simp
@[simp] theorem keepGrad_hub (s : State) (a : Active) (o : Operand) (l : List Rat) : (keepGrad s a o l).hub = s.hub := by
  unfold keepGrad
  try dsimp only
  (repeat' split) <;> simp
@[simp] theorem keepGrad_mgmt (s : State) (a : Active) (o : Operand) (l : List Rat) : (keepGrad s a o l).mgmt = s.mgmt := by
  unfold keepGrad
  try dsimp only
  (repeat' split) <;> simp
@[simp] theorem keepGrad_fw (s : State) (a : Active) (o : Operand) (l : List Rat) : (keepGrad s a o l).fw = s.fw := by
  unfold keepGrad
  try dsimp only
  (repeat' split) <;> simp
@[simp] theorem keepGrad_pwr (s : State) (a : Active) (o : Operand) (l : List Rat) : (keepGrad s a o l).pwr = s.pwr := by
  unfold keepGrad
  try dsimp only
  (repeat' split) <;> simp
@[simp] theorem keepGrad_out (s : State) (a : Active) (o : Operand) (l : List Rat) : (keepGrad s a o l).out = s.out := by
  unfold keepGrad
  try dsimp only
  (repeat' split) <;> simp

theorem sendOn_pending (s : State) (h : MsgHdr) (v : Nat) (l : List Byte) (q : Option Nat) (p : List Nat) (o : Option SendSource) : (sendOn s h v l q p o).1.pending = s.pending := by
  unfold sendOn
  split <;> rfl
theorem inject_pending (s : State) (m : OutMsg) : (inject s m).1.pending = s.pending := by
  unfold inject
  dsimp only
  split
  · split
    · rfl
    · split <;> exact sendOn_pending ..
  · exact sendOn_pending ..
theorem sendOn_free (s : State) (h : MsgHdr) (v : Nat) (l : List Byte) (q : Option Nat) (p : List Nat) (o : Option SendSource) : (sendOn s h v l q p o).1.free = s.free := by
  unfold sendOn
  split <;> rfl
theorem inject_free (s : State) (m : OutMsg) : (inject s m).1.free = s.free := by
  unfold inject
  dsimp only
  split
  · split
    · rfl
    · split <;> exact sendOn_free ..
  · exact sendOn_free ..
theorem sendOn_clk (s : State) (h : MsgHdr) (v : Nat) (l : List Byte) (q : Option Nat) (p : List Nat) (o : Option SendSource) : (sendOn s h v l q p o).1.clk = s.clk := by
  unfold sendOn
  split <;> rfl
theorem inject_clk (s : State) (m : OutMsg) : (inject s m).1.clk = s.clk := by
  unfold inject
  dsimp only
  split
  · split
    · rfl
    · split <;> exact sendOn_clk ..
  · exact sendOn_clk ..
theorem sendOn_lag (s : State) (h : MsgHdr) (v : Nat) (l : List Byte) (q : Option Nat) (p : List Nat) (o : Option SendSource) : (sendOn s h v l q p o).1.lag = s.lag := by
  unfold sendOn
  split <;> rfl
theorem inject_lag (s : State) (m : OutMsg) : (inject s m).1.lag = s.lag := by
  unfold inject
  dsimp only
  split
  · split
    · rfl
    · split <;> exact sendOn_lag ..
  · exact sendOn_lag ..
theorem sendOn_mem (s : State) (h : MsgHdr) (v : Nat) (l : List Byte) (q : Option Nat) (p : List Nat) (o : Option SendSource) : (sendOn s h v l q p o).1.mem = s.mem := by
  unfold sendOn
  split <;> rfl
theorem inject_mem (s : State) (m : OutMsg) : (inject s m).1.mem = s.mem := by
  unfold inject
  dsimp only
  split
  · split
    · rfl
    · split <;> exact sendOn_mem ..
  · exact sendOn_mem ..
theorem sendOn_host (s : State) (h : MsgHdr) (v : Nat) (l : List Byte) (q : Option Nat) (p : List Nat) (o : Option SendSource) : (sendOn s h v l q p o).1.host = s.host := by
  unfold sendOn
  split <;> rfl
theorem inject_host (s : State) (m : OutMsg) : (inject s m).1.host = s.host := by
  unfold inject
  dsimp only
  split
  · split
    · rfl
    · split <;> exact sendOn_host ..
  · exact sendOn_host ..
theorem sendOn_nibs (s : State) (h : MsgHdr) (v : Nat) (l : List Byte) (q : Option Nat) (p : List Nat) (o : Option SendSource) : (sendOn s h v l q p o).1.nibs = s.nibs := by
  unfold sendOn
  split <;> rfl
theorem inject_nibs (s : State) (m : OutMsg) : (inject s m).1.nibs = s.nibs := by
  unfold inject
  dsimp only
  split
  · split
    · rfl
    · split <;> exact sendOn_nibs ..
  · exact sendOn_nibs ..
theorem sendOn_jobs (s : State) (h : MsgHdr) (v : Nat) (l : List Byte) (q : Option Nat) (p : List Nat) (o : Option SendSource) : (sendOn s h v l q p o).1.jobs = s.jobs := by
  unfold sendOn
  split <;> rfl
theorem inject_jobs (s : State) (m : OutMsg) : (inject s m).1.jobs = s.jobs := by
  unfold inject
  dsimp only
  split
  · split
    · rfl
    · split <;> exact sendOn_jobs ..
  · exact sendOn_jobs ..
theorem sendOn_queues (s : State) (h : MsgHdr) (v : Nat) (l : List Byte) (q : Option Nat) (p : List Nat) (o : Option SendSource) : (sendOn s h v l q p o).1.queues = s.queues := by
  unfold sendOn
  split <;> rfl
theorem inject_queues (s : State) (m : OutMsg) : (inject s m).1.queues = s.queues := by
  unfold inject
  dsimp only
  split
  · split
    · rfl
    · split <;> exact sendOn_queues ..
  · exact sendOn_queues ..
theorem sendOn_acts (s : State) (h : MsgHdr) (v : Nat) (l : List Byte) (q : Option Nat) (p : List Nat) (o : Option SendSource) : (sendOn s h v l q p o).1.acts = s.acts := by
  unfold sendOn
  split <;> rfl
theorem inject_acts (s : State) (m : OutMsg) : (inject s m).1.acts = s.acts := by
  unfold inject
  dsimp only
  split
  · split
    · rfl
    · split <;> exact sendOn_acts ..
  · exact sendOn_acts ..
theorem sendOn_runs (s : State) (h : MsgHdr) (v : Nat) (l : List Byte) (q : Option Nat) (p : List Nat) (o : Option SendSource) : (sendOn s h v l q p o).1.runs = s.runs := by
  unfold sendOn
  split <;> rfl
theorem inject_runs (s : State) (m : OutMsg) : (inject s m).1.runs = s.runs := by
  unfold inject
  dsimp only
  split
  · split
    · rfl
    · split <;> exact sendOn_runs ..
  · exact sendOn_runs ..
theorem sendOn_pair (s : State) (h : MsgHdr) (v : Nat) (l : List Byte) (q : Option Nat) (p : List Nat) (o : Option SendSource) : (sendOn s h v l q p o).1.pair = s.pair := by
  unfold sendOn
  split <;> rfl
theorem inject_pair (s : State) (m : OutMsg) : (inject s m).1.pair = s.pair := by
  unfold inject
  dsimp only
  split
  · split
    · rfl
    · split <;> exact sendOn_pair ..
  · exact sendOn_pair ..
theorem sendOn_shadows (s : State) (h : MsgHdr) (v : Nat) (l : List Byte) (q : Option Nat) (p : List Nat) (o : Option SendSource) : (sendOn s h v l q p o).1.shadows = s.shadows := by
  unfold sendOn
  split <;> rfl
theorem inject_shadows (s : State) (m : OutMsg) : (inject s m).1.shadows = s.shadows := by
  unfold inject
  dsimp only
  split
  · split
    · rfl
    · split <;> exact sendOn_shadows ..
  · exact sendOn_shadows ..
theorem sendOn_test (s : State) (h : MsgHdr) (v : Nat) (l : List Byte) (q : Option Nat) (p : List Nat) (o : Option SendSource) : (sendOn s h v l q p o).1.test = s.test := by
  unfold sendOn
  split <;> rfl
theorem inject_test (s : State) (m : OutMsg) : (inject s m).1.test = s.test := by
  unfold inject
  dsimp only
  split
  · split
    · rfl
    · split <;> exact sendOn_test ..
  · exact sendOn_test ..
theorem sendOn_hub (s : State) (h : MsgHdr) (v : Nat) (l : List Byte) (q : Option Nat) (p : List Nat) (o : Option SendSource) : (sendOn s h v l q p o).1.hub = s.hub := by
  unfold sendOn
  split <;> rfl
theorem inject_hub (s : State) (m : OutMsg) : (inject s m).1.hub = s.hub := by
  unfold inject
  dsimp only
  split
  · split
    · rfl
    · split <;> exact sendOn_hub ..
  · exact sendOn_hub ..
theorem sendOn_mgmt (s : State) (h : MsgHdr) (v : Nat) (l : List Byte) (q : Option Nat) (p : List Nat) (o : Option SendSource) : (sendOn s h v l q p o).1.mgmt = s.mgmt := by
  unfold sendOn
  split <;> rfl
theorem inject_mgmt (s : State) (m : OutMsg) : (inject s m).1.mgmt = s.mgmt := by
  unfold inject
  dsimp only
  split
  · split
    · rfl
    · split <;> exact sendOn_mgmt ..
  · exact sendOn_mgmt ..
theorem sendOn_fw (s : State) (h : MsgHdr) (v : Nat) (l : List Byte) (q : Option Nat) (p : List Nat) (o : Option SendSource) : (sendOn s h v l q p o).1.fw = s.fw := by
  unfold sendOn
  split <;> rfl
theorem inject_fw (s : State) (m : OutMsg) : (inject s m).1.fw = s.fw := by
  unfold inject
  dsimp only
  split
  · split
    · rfl
    · split <;> exact sendOn_fw ..
  · exact sendOn_fw ..
theorem sendOn_pwr (s : State) (h : MsgHdr) (v : Nat) (l : List Byte) (q : Option Nat) (p : List Nat) (o : Option SendSource) : (sendOn s h v l q p o).1.pwr = s.pwr := by
  unfold sendOn
  split <;> rfl
theorem inject_pwr (s : State) (m : OutMsg) : (inject s m).1.pwr = s.pwr := by
  unfold inject
  dsimp only
  split
  · split
    · rfl
    · split <;> exact sendOn_pwr ..
  · exact sendOn_pwr ..
theorem sendOn_out (s : State) (h : MsgHdr) (v : Nat) (l : List Byte) (q : Option Nat) (p : List Nat) (o : Option SendSource) : (sendOn s h v l q p o).1.out = s.out := by
  unfold sendOn
  split <;> rfl
theorem inject_out (s : State) (m : OutMsg) : (inject s m).1.out = s.out := by
  unfold inject
  dsimp only
  split
  · split
    · rfl
    · split <;> exact sendOn_out ..
  · exact sendOn_out ..

@[simp] theorem ctrlTo_pending (s : State) (a b : Nat) (k : Word32) (n : String) (x : Nat) (e : BitVec 16) : (ctrlTo s a b k n x e).pending = s.pending := by
  unfold ctrlTo
  exact (inject_pending _ _).trans rfl
@[simp] theorem ctrlTo_free (s : State) (a b : Nat) (k : Word32) (n : String) (x : Nat) (e : BitVec 16) : (ctrlTo s a b k n x e).free = s.free := by
  unfold ctrlTo
  exact (inject_free _ _).trans rfl
@[simp] theorem ctrlTo_clk (s : State) (a b : Nat) (k : Word32) (n : String) (x : Nat) (e : BitVec 16) : (ctrlTo s a b k n x e).clk = s.clk := by
  unfold ctrlTo
  exact (inject_clk _ _).trans rfl
@[simp] theorem ctrlTo_lag (s : State) (a b : Nat) (k : Word32) (n : String) (x : Nat) (e : BitVec 16) : (ctrlTo s a b k n x e).lag = s.lag := by
  unfold ctrlTo
  exact (inject_lag _ _).trans rfl
@[simp] theorem ctrlTo_mem (s : State) (a b : Nat) (k : Word32) (n : String) (x : Nat) (e : BitVec 16) : (ctrlTo s a b k n x e).mem = s.mem := by
  unfold ctrlTo
  exact (inject_mem _ _).trans rfl
@[simp] theorem ctrlTo_host (s : State) (a b : Nat) (k : Word32) (n : String) (x : Nat) (e : BitVec 16) : (ctrlTo s a b k n x e).host = s.host := by
  unfold ctrlTo
  exact (inject_host _ _).trans rfl
@[simp] theorem ctrlTo_nibs (s : State) (a b : Nat) (k : Word32) (n : String) (x : Nat) (e : BitVec 16) : (ctrlTo s a b k n x e).nibs = s.nibs := by
  unfold ctrlTo
  exact (inject_nibs _ _).trans rfl
@[simp] theorem ctrlTo_jobs (s : State) (a b : Nat) (k : Word32) (n : String) (x : Nat) (e : BitVec 16) : (ctrlTo s a b k n x e).jobs = s.jobs := by
  unfold ctrlTo
  exact (inject_jobs _ _).trans rfl
@[simp] theorem ctrlTo_queues (s : State) (a b : Nat) (k : Word32) (n : String) (x : Nat) (e : BitVec 16) : (ctrlTo s a b k n x e).queues = s.queues := by
  unfold ctrlTo
  exact (inject_queues _ _).trans rfl
@[simp] theorem ctrlTo_acts (s : State) (a b : Nat) (k : Word32) (n : String) (x : Nat) (e : BitVec 16) : (ctrlTo s a b k n x e).acts = s.acts := by
  unfold ctrlTo
  exact (inject_acts _ _).trans rfl
@[simp] theorem ctrlTo_runs (s : State) (a b : Nat) (k : Word32) (n : String) (x : Nat) (e : BitVec 16) : (ctrlTo s a b k n x e).runs = s.runs := by
  unfold ctrlTo
  exact (inject_runs _ _).trans rfl
@[simp] theorem ctrlTo_pair (s : State) (a b : Nat) (k : Word32) (n : String) (x : Nat) (e : BitVec 16) : (ctrlTo s a b k n x e).pair = s.pair := by
  unfold ctrlTo
  exact (inject_pair _ _).trans rfl
@[simp] theorem ctrlTo_shadows (s : State) (a b : Nat) (k : Word32) (n : String) (x : Nat) (e : BitVec 16) : (ctrlTo s a b k n x e).shadows = s.shadows := by
  unfold ctrlTo
  exact (inject_shadows _ _).trans rfl
@[simp] theorem ctrlTo_test (s : State) (a b : Nat) (k : Word32) (n : String) (x : Nat) (e : BitVec 16) : (ctrlTo s a b k n x e).test = s.test := by
  unfold ctrlTo
  exact (inject_test _ _).trans rfl
@[simp] theorem ctrlTo_hub (s : State) (a b : Nat) (k : Word32) (n : String) (x : Nat) (e : BitVec 16) : (ctrlTo s a b k n x e).hub = s.hub := by
  unfold ctrlTo
  exact (inject_hub _ _).trans rfl
@[simp] theorem ctrlTo_mgmt (s : State) (a b : Nat) (k : Word32) (n : String) (x : Nat) (e : BitVec 16) : (ctrlTo s a b k n x e).mgmt = s.mgmt := by
  unfold ctrlTo
  exact (inject_mgmt _ _).trans rfl
@[simp] theorem ctrlTo_fw (s : State) (a b : Nat) (k : Word32) (n : String) (x : Nat) (e : BitVec 16) : (ctrlTo s a b k n x e).fw = s.fw := by
  unfold ctrlTo
  exact (inject_fw _ _).trans rfl
@[simp] theorem ctrlTo_pwr (s : State) (a b : Nat) (k : Word32) (n : String) (x : Nat) (e : BitVec 16) : (ctrlTo s a b k n x e).pwr = s.pwr := by
  unfold ctrlTo
  exact (inject_pwr _ _).trans rfl

@[simp] theorem toStations_pending (s : State) (j : Job) (n : String) (x : Nat) : (toStations s j n x).pending = s.pending := by
  unfold toStations
  exact foldl_keep (fun s : State => s.pending) _ (fun b x => ctrlTo_pending ..) _ _
@[simp] theorem toStations_free (s : State) (j : Job) (n : String) (x : Nat) : (toStations s j n x).free = s.free := by
  unfold toStations
  exact foldl_keep (fun s : State => s.free) _ (fun b x => ctrlTo_free ..) _ _
@[simp] theorem toStations_clk (s : State) (j : Job) (n : String) (x : Nat) : (toStations s j n x).clk = s.clk := by
  unfold toStations
  exact foldl_keep (fun s : State => s.clk) _ (fun b x => ctrlTo_clk ..) _ _
@[simp] theorem toStations_lag (s : State) (j : Job) (n : String) (x : Nat) : (toStations s j n x).lag = s.lag := by
  unfold toStations
  exact foldl_keep (fun s : State => s.lag) _ (fun b x => ctrlTo_lag ..) _ _
@[simp] theorem toStations_mem (s : State) (j : Job) (n : String) (x : Nat) : (toStations s j n x).mem = s.mem := by
  unfold toStations
  exact foldl_keep (fun s : State => s.mem) _ (fun b x => ctrlTo_mem ..) _ _
@[simp] theorem toStations_host (s : State) (j : Job) (n : String) (x : Nat) : (toStations s j n x).host = s.host := by
  unfold toStations
  exact foldl_keep (fun s : State => s.host) _ (fun b x => ctrlTo_host ..) _ _
@[simp] theorem toStations_nibs (s : State) (j : Job) (n : String) (x : Nat) : (toStations s j n x).nibs = s.nibs := by
  unfold toStations
  exact foldl_keep (fun s : State => s.nibs) _ (fun b x => ctrlTo_nibs ..) _ _
@[simp] theorem toStations_jobs (s : State) (j : Job) (n : String) (x : Nat) : (toStations s j n x).jobs = s.jobs := by
  unfold toStations
  exact foldl_keep (fun s : State => s.jobs) _ (fun b x => ctrlTo_jobs ..) _ _
@[simp] theorem toStations_queues (s : State) (j : Job) (n : String) (x : Nat) : (toStations s j n x).queues = s.queues := by
  unfold toStations
  exact foldl_keep (fun s : State => s.queues) _ (fun b x => ctrlTo_queues ..) _ _
@[simp] theorem toStations_acts (s : State) (j : Job) (n : String) (x : Nat) : (toStations s j n x).acts = s.acts := by
  unfold toStations
  exact foldl_keep (fun s : State => s.acts) _ (fun b x => ctrlTo_acts ..) _ _
@[simp] theorem toStations_runs (s : State) (j : Job) (n : String) (x : Nat) : (toStations s j n x).runs = s.runs := by
  unfold toStations
  exact foldl_keep (fun s : State => s.runs) _ (fun b x => ctrlTo_runs ..) _ _
@[simp] theorem toStations_pair (s : State) (j : Job) (n : String) (x : Nat) : (toStations s j n x).pair = s.pair := by
  unfold toStations
  exact foldl_keep (fun s : State => s.pair) _ (fun b x => ctrlTo_pair ..) _ _
@[simp] theorem toStations_shadows (s : State) (j : Job) (n : String) (x : Nat) : (toStations s j n x).shadows = s.shadows := by
  unfold toStations
  exact foldl_keep (fun s : State => s.shadows) _ (fun b x => ctrlTo_shadows ..) _ _
@[simp] theorem toStations_test (s : State) (j : Job) (n : String) (x : Nat) : (toStations s j n x).test = s.test := by
  unfold toStations
  exact foldl_keep (fun s : State => s.test) _ (fun b x => ctrlTo_test ..) _ _
@[simp] theorem toStations_hub (s : State) (j : Job) (n : String) (x : Nat) : (toStations s j n x).hub = s.hub := by
  unfold toStations
  exact foldl_keep (fun s : State => s.hub) _ (fun b x => ctrlTo_hub ..) _ _
@[simp] theorem toStations_mgmt (s : State) (j : Job) (n : String) (x : Nat) : (toStations s j n x).mgmt = s.mgmt := by
  unfold toStations
  exact foldl_keep (fun s : State => s.mgmt) _ (fun b x => ctrlTo_mgmt ..) _ _
@[simp] theorem toStations_fw (s : State) (j : Job) (n : String) (x : Nat) : (toStations s j n x).fw = s.fw := by
  unfold toStations
  exact foldl_keep (fun s : State => s.fw) _ (fun b x => ctrlTo_fw ..) _ _
@[simp] theorem toStations_pwr (s : State) (j : Job) (n : String) (x : Nat) : (toStations s j n x).pwr = s.pwr := by
  unfold toStations
  exact foldl_keep (fun s : State => s.pwr) _ (fun b x => ctrlTo_pwr ..) _ _

@[simp] theorem ackTo_pending (s : State) (h : MsgHdr) (v : Nat) : (ackTo s h v).pending = s.pending := inject_pending ..
@[simp] theorem ackTo_free (s : State) (h : MsgHdr) (v : Nat) : (ackTo s h v).free = s.free := inject_free ..
@[simp] theorem ackTo_clk (s : State) (h : MsgHdr) (v : Nat) : (ackTo s h v).clk = s.clk := inject_clk ..
@[simp] theorem ackTo_lag (s : State) (h : MsgHdr) (v : Nat) : (ackTo s h v).lag = s.lag := inject_lag ..
@[simp] theorem ackTo_mem (s : State) (h : MsgHdr) (v : Nat) : (ackTo s h v).mem = s.mem := inject_mem ..
@[simp] theorem ackTo_host (s : State) (h : MsgHdr) (v : Nat) : (ackTo s h v).host = s.host := inject_host ..
@[simp] theorem ackTo_nibs (s : State) (h : MsgHdr) (v : Nat) : (ackTo s h v).nibs = s.nibs := inject_nibs ..
@[simp] theorem ackTo_jobs (s : State) (h : MsgHdr) (v : Nat) : (ackTo s h v).jobs = s.jobs := inject_jobs ..
@[simp] theorem ackTo_queues (s : State) (h : MsgHdr) (v : Nat) : (ackTo s h v).queues = s.queues := inject_queues ..
@[simp] theorem ackTo_acts (s : State) (h : MsgHdr) (v : Nat) : (ackTo s h v).acts = s.acts := inject_acts ..
@[simp] theorem ackTo_runs (s : State) (h : MsgHdr) (v : Nat) : (ackTo s h v).runs = s.runs := inject_runs ..
@[simp] theorem ackTo_pair (s : State) (h : MsgHdr) (v : Nat) : (ackTo s h v).pair = s.pair := inject_pair ..
@[simp] theorem ackTo_shadows (s : State) (h : MsgHdr) (v : Nat) : (ackTo s h v).shadows = s.shadows := inject_shadows ..
@[simp] theorem ackTo_test (s : State) (h : MsgHdr) (v : Nat) : (ackTo s h v).test = s.test := inject_test ..
@[simp] theorem ackTo_hub (s : State) (h : MsgHdr) (v : Nat) : (ackTo s h v).hub = s.hub := inject_hub ..
@[simp] theorem ackTo_mgmt (s : State) (h : MsgHdr) (v : Nat) : (ackTo s h v).mgmt = s.mgmt := inject_mgmt ..
@[simp] theorem ackTo_fw (s : State) (h : MsgHdr) (v : Nat) : (ackTo s h v).fw = s.fw := inject_fw ..
@[simp] theorem ackTo_pwr (s : State) (h : MsgHdr) (v : Nat) : (ackTo s h v).pwr = s.pwr := inject_pwr ..
@[simp] theorem ackTo_out (s : State) (h : MsgHdr) (v : Nat) : (ackTo s h v).out = s.out := inject_out ..

@[simp] theorem nackTo_pending (s : State) (h : MsgHdr) (v n : Nat) : (nackTo s h v n).pending = s.pending := inject_pending ..
@[simp] theorem nackTo_free (s : State) (h : MsgHdr) (v n : Nat) : (nackTo s h v n).free = s.free := inject_free ..
@[simp] theorem nackTo_clk (s : State) (h : MsgHdr) (v n : Nat) : (nackTo s h v n).clk = s.clk := inject_clk ..
@[simp] theorem nackTo_lag (s : State) (h : MsgHdr) (v n : Nat) : (nackTo s h v n).lag = s.lag := inject_lag ..
@[simp] theorem nackTo_mem (s : State) (h : MsgHdr) (v n : Nat) : (nackTo s h v n).mem = s.mem := inject_mem ..
@[simp] theorem nackTo_host (s : State) (h : MsgHdr) (v n : Nat) : (nackTo s h v n).host = s.host := inject_host ..
@[simp] theorem nackTo_nibs (s : State) (h : MsgHdr) (v n : Nat) : (nackTo s h v n).nibs = s.nibs := inject_nibs ..
@[simp] theorem nackTo_jobs (s : State) (h : MsgHdr) (v n : Nat) : (nackTo s h v n).jobs = s.jobs := inject_jobs ..
@[simp] theorem nackTo_queues (s : State) (h : MsgHdr) (v n : Nat) : (nackTo s h v n).queues = s.queues := inject_queues ..
@[simp] theorem nackTo_acts (s : State) (h : MsgHdr) (v n : Nat) : (nackTo s h v n).acts = s.acts := inject_acts ..
@[simp] theorem nackTo_runs (s : State) (h : MsgHdr) (v n : Nat) : (nackTo s h v n).runs = s.runs := inject_runs ..
@[simp] theorem nackTo_pair (s : State) (h : MsgHdr) (v n : Nat) : (nackTo s h v n).pair = s.pair := inject_pair ..
@[simp] theorem nackTo_shadows (s : State) (h : MsgHdr) (v n : Nat) : (nackTo s h v n).shadows = s.shadows := inject_shadows ..
@[simp] theorem nackTo_test (s : State) (h : MsgHdr) (v n : Nat) : (nackTo s h v n).test = s.test := inject_test ..
@[simp] theorem nackTo_hub (s : State) (h : MsgHdr) (v n : Nat) : (nackTo s h v n).hub = s.hub := inject_hub ..
@[simp] theorem nackTo_mgmt (s : State) (h : MsgHdr) (v n : Nat) : (nackTo s h v n).mgmt = s.mgmt := inject_mgmt ..
@[simp] theorem nackTo_fw (s : State) (h : MsgHdr) (v n : Nat) : (nackTo s h v n).fw = s.fw := inject_fw ..
@[simp] theorem nackTo_pwr (s : State) (h : MsgHdr) (v n : Nat) : (nackTo s h v n).pwr = s.pwr := inject_pwr ..
@[simp] theorem nackTo_out (s : State) (h : MsgHdr) (v n : Nat) : (nackTo s h v n).out = s.out := inject_out ..

@[simp] theorem unreachTo_pending (s : State) (h : MsgHdr) : (unreachTo s h).pending = s.pending := inject_pending ..
@[simp] theorem unreachTo_free (s : State) (h : MsgHdr) : (unreachTo s h).free = s.free := inject_free ..
@[simp] theorem unreachTo_clk (s : State) (h : MsgHdr) : (unreachTo s h).clk = s.clk := inject_clk ..
@[simp] theorem unreachTo_lag (s : State) (h : MsgHdr) : (unreachTo s h).lag = s.lag := inject_lag ..
@[simp] theorem unreachTo_mem (s : State) (h : MsgHdr) : (unreachTo s h).mem = s.mem := inject_mem ..
@[simp] theorem unreachTo_host (s : State) (h : MsgHdr) : (unreachTo s h).host = s.host := inject_host ..
@[simp] theorem unreachTo_nibs (s : State) (h : MsgHdr) : (unreachTo s h).nibs = s.nibs := inject_nibs ..
@[simp] theorem unreachTo_jobs (s : State) (h : MsgHdr) : (unreachTo s h).jobs = s.jobs := inject_jobs ..
@[simp] theorem unreachTo_queues (s : State) (h : MsgHdr) : (unreachTo s h).queues = s.queues := inject_queues ..
@[simp] theorem unreachTo_acts (s : State) (h : MsgHdr) : (unreachTo s h).acts = s.acts := inject_acts ..
@[simp] theorem unreachTo_runs (s : State) (h : MsgHdr) : (unreachTo s h).runs = s.runs := inject_runs ..
@[simp] theorem unreachTo_pair (s : State) (h : MsgHdr) : (unreachTo s h).pair = s.pair := inject_pair ..
@[simp] theorem unreachTo_shadows (s : State) (h : MsgHdr) : (unreachTo s h).shadows = s.shadows := inject_shadows ..
@[simp] theorem unreachTo_test (s : State) (h : MsgHdr) : (unreachTo s h).test = s.test := inject_test ..
@[simp] theorem unreachTo_hub (s : State) (h : MsgHdr) : (unreachTo s h).hub = s.hub := inject_hub ..
@[simp] theorem unreachTo_mgmt (s : State) (h : MsgHdr) : (unreachTo s h).mgmt = s.mgmt := inject_mgmt ..
@[simp] theorem unreachTo_fw (s : State) (h : MsgHdr) : (unreachTo s h).fw = s.fw := inject_fw ..
@[simp] theorem unreachTo_pwr (s : State) (h : MsgHdr) : (unreachTo s h).pwr = s.pwr := inject_pwr ..
@[simp] theorem unreachTo_out (s : State) (h : MsgHdr) : (unreachTo s h).out = s.out := inject_out ..

/-- With no message held for it, an epoch that is reached brings nothing. -/
theorem releaseHeld_none (s : State) (p : HeldMsg → Bool) (h : s.fab.held.filter p = []) : releaseHeld s p = s := by
  have e : (s.fab.held.filter fun m => !p m) = s.fab.held := List.filter_eq_self.2 fun m hm => by
    have := List.filter_eq_nil_iff.1 h m hm
    simpa using this
  unfold releaseHeld
  dsimp only
  rw [h, e]
  rfl

/-- With no message held, an epoch that is reached drops only what was kept to answer the old epoch's repeats. -/
theorem epochReached_none (s : State) (k : Nat) (h : s.fab.held = []) : epochReached s k = { s with fab := (epochReached s k).fab } := by
  unfold epochReached
  split
  · rfl
  · dsimp only
    rw [releaseHeld_none _ _ (by rw [h]; rfl)]

end Sys2Proof.Laws
end

