-- ==== Sys2Proof/Laws/Keep.lean ====
section
/-! SUPPORT. What no operation of the part undoes: the queue of commands, the part's grade, the count of free values drawn, the fuses, the
retired nibs, the form of the job table, and the canonical form of memory. One relation, with one lemma for each way of building a state. -/

namespace Sys2Proof.Laws

open Sys2Proof.Machine

/-- The grade stays and no retired nib comes back. -/
structure NKeeps (a b : Nibs) : Prop where
  grade : b.grade = a.grade
  retired : ∀ k ∈ a.retired, k ∈ b.retired

/-- The anti-rollback fuses do not go back, and the return-lock fuse stays blown. -/
structure WKeeps (a b : Fw) : Prop where
  fuses : a.fuses ≤ b.fuses
  lock : a.returnFuse = true → b.returnFuse = true

theorem mem_ninsert {l : List Nat} {k x : Nat} (h : x ∈ l) : x ∈ ninsert l k := by
  induction l with
  | nil => simp at h
  | cons i r ih =>
    simp only [ninsert]
    split
    · exact List.mem_cons_of_mem _ h
    · split
      · exact h
      · rcases List.mem_cons.1 h with rfl | h
        · simp
        · exact List.mem_cons_of_mem _ (ih h)

/-- A write to NV only adds to the fuses known to be blown. -/
theorem fuses_le (s : State) : s.fw.fuses ≤ fusesNow s := by
  have h : ∀ (l : List (NvItem × Nat)) (n : Nat), n ≤ l.foldl (fun n w => match w.1 with | .fuses k => max n k | _ => n) n := by
    intro l
    induction l with
    | nil => exact fun n => Nat.le_refl n
    | cons w r ih =>
      intro n
      rw [List.foldl_cons]
      refine Nat.le_trans ?_ (ih _)
      split
      · exact Nat.le_max_left _ _
      · exact Nat.le_refl _
  exact h _ _

theorem NKeeps.refl (a : Nibs) : NKeeps a a := ⟨rfl, fun _ h => h⟩
theorem NKeeps.trans {a b c : Nibs} (h : NKeeps a b) (k : NKeeps b c) : NKeeps a c := ⟨k.1.trans h.1, fun x m => k.2 x (h.2 x m)⟩
theorem WKeeps.refl (a : Fw) : WKeeps a a := ⟨Nat.le_refl _, id⟩
theorem WKeeps.trans {a b c : Fw} (h : WKeeps a b) (k : WKeeps b c) : WKeeps a c := ⟨Nat.le_trans h.1 k.1, fun x => k.2 (h.2 x)⟩

/-! ### The job table -/

theorem jobsOk_iff (t : Tbl Job) : jobsOk t = true ↔ rising t = true ∧ ∀ p ∈ t, p.2.id = p.1 := by simp [jobsOk]

theorem rising_map {α : Type} {β : Type} (f : Nat × α → Nat × β) (hf : ∀ p, (f p).1 = p.1) (t : List (Nat × α)) (h : rising t = true) :
    rising (t.map f) = true := by
  induction t with
  | nil => rfl
  | cons a r ih =>
    cases r with
    | nil => rfl
    | cons b q =>
      simp only [List.map_cons, rising, hf, Bool.and_eq_true] at h ⊢
      exact ⟨h.1, ih h.2⟩

theorem jobsOk_put {t : Tbl Job} (h : jobsOk t = true) (j : Job) : jobsOk (tset t j.id j) = true := by
  rw [jobsOk_iff] at h ⊢
  exact ⟨rising_tset _ _ _ h.1, fun p hp => by rcases mem_tset _ _ _ _ hp with rfl | hp; exacts [rfl, h.2 p hp]⟩
theorem jobsOk_del {t : Tbl Job} (h : jobsOk t = true) (k : Nat) : jobsOk (tdel t k) = true := by
  rw [jobsOk_iff] at h ⊢
  exact ⟨rising_tdel _ _ h.1, fun p hp => h.2 p (mem_tdel _ _ _ hp)⟩
theorem jobsOk_map {t : Tbl Job} (h : jobsOk t = true) (f : Nat × Job → Nat × Job) (hf : ∀ p, (f p).1 = p.1 ∧ (f p).2.id = p.2.id) :
    jobsOk (t.map f) = true := by
  rw [jobsOk_iff] at h ⊢
  refine ⟨rising_map f (fun p => (hf p).1) _ h.1, fun p hp => ?_⟩
  obtain ⟨q, hq, rfl⟩ := List.mem_map.1 hp
  exact (hf q).2.trans ((h.2 q hq).trans (hf q).1.symm)

/-- `t` may come from `s` by an operation of the part. -/
structure Keeps (s t : State) : Prop where
  pending : t.pending = s.pending
  free : s.free ≤ t.free
  mem : MKeeps s.mem t.mem
  nibs : NKeeps s.nibs t.nibs
  fw : WKeeps s.fw t.fw
  jobs : jobsOk s.jobs = true → jobsOk t.jobs = true

theorem Keeps.refl (s : State) : Keeps s s := ⟨rfl, Nat.le_refl _, MKeeps.refl _, NKeeps.refl _, WKeeps.refl _, id⟩
theorem Keeps.trans {a b c : State} (h : Keeps a b) (k : Keeps b c) : Keeps a c :=
  ⟨k.1.trans h.1, Nat.le_trans h.2 k.2, h.3.trans k.3, h.4.trans k.4, h.5.trans k.5, k.6 ∘ h.6⟩

/-- A record update that leaves the guarded fields alone. -/
theorem Keeps.plain {s t : State} (h : Keeps s t) {clk lag host queues acts runs fab pair shadows test hub mgmt pwr out} :
    Keeps s (State.mk t.pending t.free clk lag t.mem host t.nibs t.jobs queues acts runs fab pair shadows test hub mgmt t.fw pwr out) :=
  ⟨h.1, h.2, h.3, h.4, h.5, h.6⟩

/-- A record update that changes the job table within its rule. -/
theorem Keeps.tbl {s t : State} {clk lag host jobs queues acts runs fab pair shadows test hub mgmt pwr out} (h : Keeps s t)
    (hj : jobsOk t.jobs = true → jobsOk jobs = true) :
    Keeps s (State.mk t.pending t.free clk lag t.mem host t.nibs jobs queues acts runs fab pair shadows test hub mgmt t.fw pwr out) :=
  ⟨h.1, h.2, h.3, h.4, h.5, hj ∘ h.6⟩

/-- A record update that changes guarded fields within their rules. -/
theorem Keeps.put {s t : State} {clk lag host queues acts runs fab pair shadows test hub mgmt pwr out} {free : Nat} {mem : Mem} {nibs : Nibs} {fw : Fw}
    (h : Keeps s t) (hf : t.free ≤ free) (hm : MKeeps t.mem mem) (hn : NKeeps t.nibs nibs) (hw : WKeeps t.fw fw) :
    Keeps s (State.mk t.pending free clk lag mem host nibs t.jobs queues acts runs fab pair shadows test hub mgmt fw pwr out) :=
  ⟨h.1, Nat.le_trans h.2 hf, h.3.trans hm, h.4.trans hn, h.5.trans hw, h.6⟩

/-- The same for one that changes the job table too. -/
theorem Keeps.putTbl {s t : State} {clk lag host jobs queues acts runs fab pair shadows test hub mgmt pwr out} {free : Nat} {mem : Mem} {nibs : Nibs}
    {fw : Fw} (h : Keeps s t) (hf : t.free ≤ free) (hm : MKeeps t.mem mem) (hn : NKeeps t.nibs nibs) (hw : WKeeps t.fw fw)
    (hj : jobsOk t.jobs = true → jobsOk jobs = true) :
    Keeps s (State.mk t.pending free clk lag mem host nibs jobs queues acts runs fab pair shadows test hub mgmt fw pwr out) :=
  ⟨h.1, Nat.le_trans h.2 hf, h.3.trans hm, h.4.trans hn, h.5.trans hw, hj ∘ h.6⟩

theorem Keeps.ite {s a b : State} {c : Prop} [Decidable c] (h : Keeps s a) (k : Keeps s b) : Keeps s (if c then a else b) := by split <;> assumption
theorem Keeps.elim {α : Type} {s a : State} {o : Option α} {f : α → State} (h : Keeps s a) (k : ∀ x, Keeps s (f x)) : Keeps s (o.elim a f) := by
  cases o
  · exact h
  · exact k _
theorem Keeps.getD {s a : State} {o : Option State} (h : Keeps s a) (k : ∀ x ∈ o, Keeps s x) : Keeps s (o.getD a) := by
  cases o
  · exact h
  · exact k _ rfl
theorem Keeps.foldl {α : Type} {s a : State} {f : State → α → State} {l : List α} (h : Keeps s a) (k : ∀ t x, Keeps s t → Keeps s (f t x)) :
    Keeps s (l.foldl f a) := by
  induction l generalizing a with
  | nil => exact h
  | cons x r ih => exact ih (k a x h)
/-- A fold over a pair whose first part is the state. -/
theorem Keeps.foldlFst {α β : Type} {s : State} {a : State × β} {f : State × β → α → State × β} {l : List α} (h : Keeps s a.1)
    (k : ∀ t x, Keeps s t.1 → Keeps s (f t x).1) : Keeps s (l.foldl f a).1 := by
  induction l generalizing a with
  | nil => exact h
  | cons x r ih => exact ih (k a x h)
theorem Keeps.iteFst {β : Type} {s : State} {a b : State × β} {c : Prop} [Decidable c] (h : Keeps s a.1) (k : Keeps s b.1) :
    Keeps s (if c then a else b).1 := by split <;> assumption
theorem Keeps.elimFst {α β : Type} {s : State} {a : State × β} {o : Option α} {f : α → State × β} (h : Keeps s a.1) (k : ∀ x, Keeps s (f x).1) :
    Keeps s (o.elim a f).1 := by
  cases o
  · exact h
  · exact k _

/-- Every next state of an outcome may come from `s`. -/
def Goes (s : State) (o : Host.Outcome State Fault Refusal) : Prop := ∀ t, o = .next t → Keeps s t

theorem Goes.next {s t : State} (h : Keeps s t) : Goes s (.next t) := by rintro _ ⟨⟩; exact h
theorem Goes.fault {s : State} {r : Fault} : Goes s (.fault r) := by rintro _ ⟨⟩
theorem Goes.refused {s : State} {r : Refusal} : Goes s (.refused r) := by rintro _ ⟨⟩
theorem Goes.elim {α : Type} {s : State} {a : Host.Outcome State Fault Refusal} {o : Option α} {f : α → Host.Outcome State Fault Refusal} (h : Goes s a)
    (k : ∀ x, Goes s (f x)) : Goes s (o.elim a f) := by
  cases o
  · exact h
  · exact k _
theorem Goes.ite {s : State} {a b : Host.Outcome State Fault Refusal} {c : Prop} [Decidable c] (h : Goes s a) (k : Goes s b) :
    Goes s (if c then a else b) := by split <;> assumption

end Sys2Proof.Laws
end

