-- ==== Sys2Proof/Laws/KeepOperands.lean ====
section
/-! SUPPORT. What the operations of Machine/Operands.lean keep (Laws/Keep.lean). -/

namespace Sys2Proof.Laws

open Sys2Proof.Machine

theorem putMem_keeps {s0 s : State} (h : Keeps s0 s) (x1 : Option Sid) (x2 : WriteSet) : Keeps s0 (putMem s x1 x2) := by
  unfold putMem
  refine Keeps.put ?_ (Nat.le_refl _) ?_ (NKeeps.refl _) (WKeeps.refl _)
  · exact h
  · exact commitWrites_keeps (MKeeps.refl _) _ _ _ _

theorem wrBytes_keeps {s0 s : State} (h : Keeps s0 s) (x1 : Nat) (x2 : List Byte) : Keeps s0 (wrBytes s x1 x2) := by
  unfold wrBytes
  refine Keeps.ite ?_ ?_
  · refine Keeps.foldl ?_ (fun _ _ h0 => ?_)
    · exact h
    · first | split | (dsimp +zetaDelta only; split)
      · exact (h0).plain
      · exact h0
  · exact putMem_keeps h _ _

theorem applyWrites_keeps {s0 s : State} (h : Keeps s0 s) (x1 : Option Sid) (x2 : WriteSet) : Keeps s0 (applyWrites s x1 x2) := by
  unfold applyWrites
  try extract_lets
  refine Keeps.foldl ?_ (fun _ _ h0 => ?_)
  · exact putMem_keeps h _ _
  · exact wrBytes_keeps h0 _ _

theorem reachRange_keeps {s0 s : State} (h : Keeps s0 s) (x1 x2 : Nat) : Keeps s0 (reachRange s x1 x2) := by
  unfold reachRange
  refine Keeps.put ?_ (Nat.le_refl _) ?_ (NKeeps.refl _) (WKeeps.refl _)
  · exact h
  · exact drainRange_keeps (MKeeps.refl _) _ _

theorem putJob_keeps {s0 s : State} (h : Keeps s0 s) (x1 : Job) : Keeps s0 (putJob s x1) := by
  unfold putJob
  refine Keeps.tbl ?_ fun k => jobsOk_put k _
  exact h

theorem putQueue_keeps {s0 s : State} (h : Keeps s0 s) (x1 : Nat) (x2 : Queue) : Keeps s0 (putQueue s x1 x2) := by
  unfold putQueue
  exact (h).plain

theorem updJob_keeps {s0 s : State} (h : Keeps s0 s) (j : Nat) (f : Job → Job) : Keeps s0 (updJob s j f) := by
  unfold updJob
  exact .elim h fun _ => putJob_keeps h _

theorem putAct_keeps {s0 s : State} (h : Keeps s0 s) (x1 : Active) : Keeps s0 (putAct s x1) := by
  unfold putAct
  exact (h).plain

theorem dropAct_keeps {s0 s : State} (h : Keeps s0 s) (x1 : Sid) : Keeps s0 (dropAct s x1) := by
  unfold dropAct
  exact (h).plain

end Sys2Proof.Laws
end

