-- ==== Sys2Proof/Laws/KeepOps.lean ====
section
/-! SUPPORT. What the operations of Machine/Ops.lean keep (Laws/Keep.lean). -/

namespace Sys2Proof.Laws

open Sys2Proof.Machine

theorem onlyIf_goes {s0 s t : State} (h : Keeps s0 s) (k : Keeps s0 t) (g : Bool) : Goes s0 (onlyIf g s t) := Goes.next (.ite k h)

theorem advance_keeps {s0 s : State} (h : Keeps s0 s) (x1 : Nat) : Keeps s0 (advance s x1) := by
  unfold advance
  exact (h).plain

theorem draw_keeps {s0 s : State} (h : Keeps s0 s) : Keeps s0 (draw s) := by
  unfold draw
  refine Keeps.put ?_ (Nat.le_add_right _ _) (MKeeps.refl _) (NKeeps.refl _) (WKeeps.refl _)
  exact h

theorem nvWrite_keeps {s0 s : State} (h : Keeps s0 s) (x1 : NvItem) : Keeps s0 (nvWrite s x1) := by
  unfold nvWrite
  exact (h).plain

theorem sendMsix_keeps {s0 s : State} (h : Keeps s0 s) (x1 : Nat) : Keeps s0 (sendMsix s x1) := by
  unfold sendMsix
  refine Keeps.ite ?_ ?_
  · exact (h).plain
  · exact (h).plain

theorem sendVector_keeps {s0 s : State} (h : Keeps s0 s) (x1 : Nat) : Keeps s0 (sendVector s x1) := by
  unfold sendVector
  refine Keeps.ite ?_ ?_
  · exact h
  · exact sendMsix_keeps h _

theorem setAlert_keeps {s0 s : State} (h : Keeps s0 s) : Keeps s0 (setAlert s) := by
  unfold setAlert
  exact (h).plain

theorem health_keeps {s0 s : State} (h : Keeps s0 s) (x1 : HealthInfo) : Keeps s0 (health s x1) := by
  unfold health
  try extract_lets
  exact setAlert_keeps ((draw_keeps (h).plain).plain)

theorem wrHost_keeps {s0 s : State} (h : Keeps s0 s) (x1 : Nat) (x2 : List Byte) : Keeps s0 (wrHost s x1 x2) := by
  unfold wrHost
  exact (h).plain

theorem jobEvent_keeps {s0 s : State} (h : Keeps s0 s) (x1 : Nat) (x2 : Event) : Keeps s0 (jobEvent s x1 x2) := by
  unfold jobEvent
  first | split | (dsimp +zetaDelta only; split)
  · exact h
  · try extract_lets
    exact sendVector_keeps (draw_keeps (putJob_keeps (wrHost_keeps (wrHost_keeps h _ _) _ _) _)) _

theorem saveQueue_keeps {s0 s : State} (h : Keeps s0 s) (x1 : Nat) (x2 : Queue) : Keeps s0 (saveQueue s x1 x2) := by
  unfold saveQueue
  exact wrBytes_keeps (putQueue_keeps h _ _) _ _

theorem rejectRecord_keeps {s0 s : State} (h : Keeps s0 s) (x1 : Sid) (x2 : Stitch) (x3 : Nat) : Keeps s0 (rejectRecord s x1 x2 x3) := by
  unfold rejectRecord
  refine Keeps.ite ?_ ?_
  · exact wrBytes_keeps h _ _
  · exact h

theorem accrue_keeps {s0 s : State} (h : Keeps s0 s) (x1 x2 : Nat) : Keeps s0 (accrue s x1 x2) := by
  unfold accrue
  exact updJob_keeps h _ _

theorem lagReport_keeps {s0 s : State} (h : Keeps s0 s) (x1 : Nat) : Keeps s0 (lagReport s x1) := by
  unfold lagReport
  try extract_lets
  refine health_keeps ?_ _
  refine Keeps.foldl ?_ (fun _ _ h0 => ?_)
  · exact h
  · exact jobEvent_keeps h0 _ _

theorem lagOverrun_keeps {s0 s : State} (h : Keeps s0 s) (x1 : LagStroke) : Keeps s0 (lagOverrun s x1) := by
  unfold lagOverrun
  try extract_lets
  refine Keeps.ite ?_ ?_
  · exact lagReport_keeps (h).plain _
  · exact (h).plain

theorem lagClean_keeps {s0 s : State} (h : Keeps s0 s) (x1 : LagStroke) : Keeps s0 (lagClean s x1) := by
  unfold lagClean
  try extract_lets
  refine Keeps.ite ?_ ?_
  · exact lagReport_keeps (h).plain _
  · exact (h).plain

theorem judge_keeps {s0 s : State} (h : Keeps s0 s) (x1 : LagStroke) : Keeps s0 (judge s x1) := by
  unfold judge
  try extract_lets
  refine Keeps.ite ?_ ?_
  · exact (h).plain
  · refine Keeps.ite ?_ ?_
    · exact lagOverrun_keeps (h).plain _
    · refine Keeps.ite ?_ ?_
      · exact (h).plain
      · exact lagClean_keeps (h).plain _

theorem judgeAll_keeps {s0 s : State} (h : Keeps s0 s) : Keeps s0 (judgeAll s) := by
  unfold judgeAll
  try extract_lets
  refine Keeps.plain ?_
  refine Keeps.foldl ?_ (fun _ _ h0 => ?_)
  · exact (h).plain
  · exact judge_keeps h0 _

theorem noteStart_keeps {s0 s : State} (h : Keeps s0 s) (x1 : Active) (x2 : Nat) : Keeps s0 (noteStart s x1 x2) := by
  unfold noteStart
  refine Keeps.ite ?_ ?_
  · exact h
  · exact updJob_keeps h _ _

theorem publish_keeps {s0 s : State} (h : Keeps s0 s) (x1 : Active) (x2 : Nat) : Keeps s0 (publish s x1 x2) := by
  unfold publish
  try extract_lets
  refine Keeps.ite ?_ ?_
  · refine Keeps.put ?_ (Nat.le_refl _) ?_ (NKeeps.refl _) (WKeeps.refl _)
    · exact h
    · exact drainIf_keeps (MKeeps.refl _) _
  · try extract_lets
    refine Keeps.ite ?_ ?_
    · refine sendVector_keeps ?_ _
      refine Keeps.ite ?_ ?_
      · refine updJob_keeps ?_ _ _
        refine Keeps.ite ?_ ?_
        · refine wrBytes_keeps ?_ _ _
          refine Keeps.put ?_ (Nat.le_refl _) ?_ (NKeeps.refl _) (WKeeps.refl _)
          · exact h
          · exact drainIf_keeps (MKeeps.refl _) _
        · refine Keeps.put ?_ (Nat.le_refl _) ?_ (NKeeps.refl _) (WKeeps.refl _)
          · exact h
          · exact drainIf_keeps (MKeeps.refl _) _
      · refine Keeps.ite ?_ ?_
        · refine wrBytes_keeps ?_ _ _
          refine Keeps.put ?_ (Nat.le_refl _) ?_ (NKeeps.refl _) (WKeeps.refl _)
          · exact h
          · exact drainIf_keeps (MKeeps.refl _) _
        · refine Keeps.put ?_ (Nat.le_refl _) ?_ (NKeeps.refl _) (WKeeps.refl _)
          · exact h
          · exact drainIf_keeps (MKeeps.refl _) _
    · refine Keeps.ite ?_ ?_
      · refine updJob_keeps ?_ _ _
        refine Keeps.ite ?_ ?_
        · refine wrBytes_keeps ?_ _ _
          refine Keeps.put ?_ (Nat.le_refl _) ?_ (NKeeps.refl _) (WKeeps.refl _)
          · exact h
          · exact drainIf_keeps (MKeeps.refl _) _
        · refine Keeps.put ?_ (Nat.le_refl _) ?_ (NKeeps.refl _) (WKeeps.refl _)
          · exact h
          · exact drainIf_keeps (MKeeps.refl _) _
      · refine Keeps.ite ?_ ?_
        · refine wrBytes_keeps ?_ _ _
          refine Keeps.put ?_ (Nat.le_refl _) ?_ (NKeeps.refl _) (WKeeps.refl _)
          · exact h
          · exact drainIf_keeps (MKeeps.refl _) _
        · refine Keeps.put ?_ (Nat.le_refl _) ?_ (NKeeps.refl _) (WKeeps.refl _)
          · exact h
          · exact drainIf_keeps (MKeeps.refl _) _

theorem releaseSlot_keeps {s0 s : State} (h : Keeps s0 s) (x1 : Nat) : Keeps s0 (releaseSlot s x1) := by
  unfold releaseSlot
  first | split | (dsimp +zetaDelta only; split)
  · exact h
  · refine Keeps.ite ?_ ?_
    · exact h
    · exact saveQueue_keeps h _ _

theorem completeWith_keeps {s0 s : State} (h : Keeps s0 s) (x1 : Active) (x2 : Nat) : Keeps s0 (completeWith s x1 x2) := by
  unfold completeWith
  try extract_lets
  refine judgeAll_keeps ?_
  refine Keeps.ite ?_ ?_
  · try extract_lets
    refine Keeps.plain ?_
    refine dropAct_keeps ?_ _
    refine updJob_keeps ?_ _ _
    refine Keeps.ite ?_ ?_
    · refine Keeps.plain ?_
      refine Keeps.ite ?_ ?_
      · refine updJob_keeps ?_ _ _
        refine Keeps.put ?_ (Nat.le_refl _) (MKeeps.refl _) (by first | exact ⟨rfl, fun _ h => h⟩ | exact ⟨rfl, fun _ => mem_ninsert⟩) (WKeeps.refl _)
        exact publish_keeps (accrue_keeps h _ _) _ _
      · refine Keeps.plain ?_
        refine updJob_keeps ?_ _ _
        refine Keeps.put ?_ (Nat.le_refl _) (MKeeps.refl _) (by first | exact ⟨rfl, fun _ h => h⟩ | exact ⟨rfl, fun _ => mem_ninsert⟩) (WKeeps.refl _)
        exact publish_keeps (accrue_keeps h _ _) _ _
    · refine Keeps.ite ?_ ?_
      · refine updJob_keeps ?_ _ _
        refine Keeps.put ?_ (Nat.le_refl _) (MKeeps.refl _) (by first | exact ⟨rfl, fun _ h => h⟩ | exact ⟨rfl, fun _ => mem_ninsert⟩) (WKeeps.refl _)
        exact publish_keeps (accrue_keeps h _ _) _ _
      · refine Keeps.plain ?_
        refine updJob_keeps ?_ _ _
        refine Keeps.put ?_ (Nat.le_refl _) (MKeeps.refl _) (by first | exact ⟨rfl, fun _ h => h⟩ | exact ⟨rfl, fun _ => mem_ninsert⟩) (WKeeps.refl _)
        exact publish_keeps (accrue_keeps h _ _) _ _
  · refine releaseSlot_keeps ?_ _
    try extract_lets
    refine Keeps.plain ?_
    refine dropAct_keeps ?_ _
    refine updJob_keeps ?_ _ _
    refine Keeps.ite ?_ ?_
    · refine Keeps.plain ?_
      refine Keeps.ite ?_ ?_
      · refine updJob_keeps ?_ _ _
        refine Keeps.put ?_ (Nat.le_refl _) (MKeeps.refl _) (by first | exact ⟨rfl, fun _ h => h⟩ | exact ⟨rfl, fun _ => mem_ninsert⟩) (WKeeps.refl _)
        exact publish_keeps (accrue_keeps h _ _) _ _
      · refine Keeps.plain ?_
        refine updJob_keeps ?_ _ _
        refine Keeps.put ?_ (Nat.le_refl _) (MKeeps.refl _) (by first | exact ⟨rfl, fun _ h => h⟩ | exact ⟨rfl, fun _ => mem_ninsert⟩) (WKeeps.refl _)
        exact publish_keeps (accrue_keeps h _ _) _ _
    · refine Keeps.ite ?_ ?_
      · refine updJob_keeps ?_ _ _
        refine Keeps.put ?_ (Nat.le_refl _) (MKeeps.refl _) (by first | exact ⟨rfl, fun _ h => h⟩ | exact ⟨rfl, fun _ => mem_ninsert⟩) (WKeeps.refl _)
        exact publish_keeps (accrue_keeps h _ _) _ _
      · refine Keeps.plain ?_
        refine updJob_keeps ?_ _ _
        refine Keeps.put ?_ (Nat.le_refl _) (MKeeps.refl _) (by first | exact ⟨rfl, fun _ h => h⟩ | exact ⟨rfl, fun _ => mem_ninsert⟩) (WKeeps.refl _)
        exact publish_keeps (accrue_keeps h _ _) _ _

theorem complete_keeps {s0 s : State} (h : Keeps s0 s) (x1 : Active) : Keeps s0 (complete s x1) := by
  unfold complete
  exact completeWith_keeps h _ _

theorem haltQueue_keeps {s0 s : State} (h : Keeps s0 s) (x1 : Nat) (x2 : Queue) : Keeps s0 (haltQueue s x1 x2) := by
  unfold haltQueue
  try extract_lets
  refine saveQueue_keeps ?_ _ _
  refine Keeps.ite ?_ ?_
  · exact rejectRecord_keeps h _ _ _
  · exact h

theorem haltJob_keeps {s0 s : State} (h : Keeps s0 s) (x1 : Nat) : Keeps s0 (haltJob s x1) := by
  unfold haltJob
  first | split | (dsimp +zetaDelta only; split)
  · exact h
  · refine Keeps.ite ?_ ?_
    · exact h
    · refine Keeps.foldl ?_ (fun _ _ h0 => ?_)
      · exact putJob_keeps h _
      · exact haltQueue_keeps h0 _ _

theorem abortUnstarted_keeps {s0 s : State} (h : Keeps s0 s) (x1 : Active → Bool) : Keeps s0 (abortUnstarted s x1) := by
  unfold abortUnstarted
  try extract_lets
  refine Keeps.foldl ?_ (fun _ _ h0 => ?_)
  · exact (h).plain
  · exact completeWith_keeps h0 _ _

theorem haltPoison_keeps {s0 s : State} (h : Keeps s0 s) (x1 x2 : Nat) (x3 : Sid) (x4 : Nat) (x5 : UnitRef) (x6 : Nat) : Keeps s0 (haltPoison s x1 x2 x3 x4 x5 x6) := by
  unfold haltPoison
  first | split | (dsimp +zetaDelta only; split)
  · exact h
  · refine Keeps.ite ?_ ?_
    · exact h
    · try extract_lets
      exact jobEvent_keeps (abortUnstarted_keeps (haltJob_keeps h _) _) _ _

end Sys2Proof.Laws
end

