-- ==== Sys2Proof/Laws/KeepQuantiser.lean ====
section
/-! SUPPORT. What the operations of Machine/Quantiser.lean keep (Laws/Keep.lean). -/

namespace Sys2Proof.Laws

open Sys2Proof.Machine

theorem endStream_keeps {s0 s : State} (h : Keeps s0 s) (x1 : StreamUse) : Keeps s0 (endStream s x1) := by
  unfold endStream
  exact (h).plain

theorem suspendStream_keeps {s0 s : State} (h : Keeps s0 s) (x1 : List Nat) (x2 : Stream) : Keeps s0 (suspendStream s x1 x2) := by
  unfold suspendStream
  try extract_lets
  exact (endStream_keeps h _).plain

end Sys2Proof.Laws
end

