-- ==== Sys2Proof/Laws/KeepStart.lean ====
section
/-! SUPPORT. What the operations of Machine/Start.lean keep (Laws/Keep.lean). -/

namespace Sys2Proof.Laws

open Sys2Proof.Machine

theorem startAct_keeps {s0 s : State} (h : Keeps s0 s) (x1 : Active) : Keeps s0 (startAct s x1).1 := by
  unfold startAct
  try extract_lets
  refine noteStart_keeps ?_ _ _
  refine Keeps.ite ?_ ?_
  · exact updJob_keeps (accrue_keeps h _ _) _ _
  · exact accrue_keeps h _ _

theorem takeBobbins_keeps {s0 s : State} (h : Keeps s0 s) (x1 : Active) : Keeps s0 (takeBobbins s x1) := by
  unfold takeBobbins
  try extract_lets
  refine Keeps.ite ?_ ?_
  · exact h
  · try extract_lets
    exact putAct_keeps (startAct_keeps h _) _

theorem keepGrad_keeps {s0 s : State} (h : Keeps s0 s) (x1 : Active) (x2 : Operand) (x3 : List Rat) : Keeps s0 (keepGrad s x1 x2 x3) := by
  unfold keepGrad
  refine Keeps.ite ?_ ?_
  · exact updJob_keeps h _ _
  · exact h

theorem finishExec_keeps {s0 s : State} (h : Keeps s0 s) (x1 : Active) (x2 : Done) : Keeps s0 (finishExec s x1 x2) := by
  unfold finishExec
  try extract_lets
  refine putAct_keeps ?_ _
  refine Keeps.elim ?_ (fun _ => ?_)
  · exact applyWrites_keeps (startAct_keeps h _) _ _
  · exact keepGrad_keeps (applyWrites_keeps (startAct_keeps h _) _ _) _ _ _

theorem storeOutput_keeps {s0 s : State} (h : Keeps s0 s) (x1 : Active) (x2 : Operand) (x3 : Produced) (x4 : WriteSet) : Keeps s0 (storeOutput s x1 x2 x3 x4).1 := by
  unfold storeOutput
  refine Keeps.iteFst ?_ ?_
  · exact h
  · try extract_lets
    first | split | (dsimp +zetaDelta only; split)
    · exact h
    · first | split | (dsimp +zetaDelta only; split)
      · exact h
      · try extract_lets
        exact putJob_keeps h _

theorem finishOutput_keeps {s0 s : State} (h : Keeps s0 s) (x1 : Active) (x2 : Operand) (x3 : Produced) (x4 : Done) : Keeps s0 (finishOutput s x1 x2 x3 x4) := by
  unfold finishOutput
  try extract_lets
  exact finishExec_keeps (storeOutput_keeps h _ _ _ _) _ _

theorem reachDesc_keeps {s0 s : State} (h : Keeps s0 s) (x1 : Desc) : Keeps s0 (reachDesc s x1) := by
  unfold reachDesc
  exact reachRange_keeps h _ _

theorem reachOperand_keeps {s0 s : State} (h : Keeps s0 s) (x1 : Job) (x2 : Operand) : Keeps s0 (reachOperand s x1 x2) := by
  unfold reachOperand
  refine Keeps.ite ?_ ?_
  · refine Keeps.foldl ?_ (fun _ _ h0 => ?_)
    · refine Keeps.elim ?_ (fun _ => ?_)
      · exact h
      · exact reachRange_keeps h _ _
    · exact reachDesc_keeps h0 _
  · refine Keeps.foldl ?_ (fun _ _ h0 => ?_)
    · exact reachDesc_keeps h _
    · exact reachDesc_keeps h0 _

theorem reachReads_keeps {s0 s : State} (h : Keeps s0 s) (x1 : Job) (x2 : Active) : Keeps s0 (reachReads s x1 x2) := by
  unfold reachReads
  try extract_lets
  refine Keeps.elim ?_ (fun _ => ?_)
  · refine Keeps.foldl ?_ (fun _ _ h0 => ?_)
    · exact h
    · refine Keeps.elim ?_ (fun _ => ?_)
      · exact h0
      · exact reachOperand_keeps h0 _ _
  · refine Keeps.foldl ?_ (fun _ _ h0 => ?_)
    · refine Keeps.ite ?_ ?_
      · refine reachDesc_keeps ?_ _
        refine Keeps.foldl ?_ (fun _ _ h0 => ?_)
        · exact h
        · refine Keeps.elim ?_ (fun _ => ?_)
          · exact h0
          · exact reachOperand_keeps h0 _ _
      · refine Keeps.foldl ?_ (fun _ _ h0 => ?_)
        · exact h
        · refine Keeps.elim ?_ (fun _ => ?_)
          · exact h0
          · exact reachOperand_keeps h0 _ _
    · exact reachDesc_keeps h0 _

theorem runAct_keeps {s0 s : State} (h : Keeps s0 s) (sid : Sid) (op : Nat) (f : State → Job → Active → State)
    (k : ∀ t j a, Keeps s0 t → Keeps s0 (f t j a)) : Goes s0 (runAct s sid op f) := by
  unfold runAct
  split
  · exact Goes.next h
  · split
    · exact Goes.next h
    · exact Goes.next (.ite h (.ite (k _ _ _ (reachReads_keeps h _ _)) (.ite (takeBobbins_keeps h _) h)))

end Sys2Proof.Laws
end

