-- ==== Sys2Proof/Laws/KeepFabric.lean ====
section
/-! SUPPORT. What the operations of Machine/Fabric.lean keep (Laws/Keep.lean). -/

namespace Sys2Proof.Laws

open Sys2Proof.Machine

theorem putPort_keeps {s0 s : State} (h : Keeps s0 s) (x1 : Nat) (x2 : Port) : Keeps s0 (putPort s x1 x2) := by
  unfold putPort
  exact (h).plain

theorem enqueue_keeps {s0 s : State} (h : Keeps s0 s) (x1 x2 : Nat) (x3 : List Flit) : Keeps s0 (enqueue s x1 x2 x3) := by
  unfold enqueue
  try extract_lets
  exact putPort_keeps h _ _

theorem deliverHere_keeps {s0 s : State} (h : Keeps s0 s) (x1 : InMsg) : Keeps s0 (deliverHere s x1) := by
  unfold deliverHere
  exact (h).plain

theorem sendOn_keeps {s0 s : State} (h : Keeps s0 s) (x1 : MsgHdr) (x2 : Nat) (x3 : List Byte) (x4 : Option Nat) (x5 : (List Nat)) (x6 : (Option SendSource)) : Keeps s0 (sendOn s x1 x2 x3 x4 x5 x6).1 := by
  unfold sendOn
  first | split | (dsimp +zetaDelta only; split)
  · exact deliverHere_keeps h _
  · exact (h).plain
  · exact (h).plain
  · exact enqueue_keeps h _ _ _

theorem inject_keeps {s0 s : State} (h : Keeps s0 s) (x1 : OutMsg) : Keeps s0 (inject s x1).1 := by
  unfold inject
  refine Keeps.iteFst ?_ ?_
  · try extract_lets
    refine Keeps.iteFst ?_ ?_
    · exact (h).plain
    · try extract_lets
      first | split | (dsimp +zetaDelta only; split)
      · exact sendOn_keeps h _ _ _ _ _ _
      · try extract_lets
        exact (sendOn_keeps h _ _ _ _ _ _).plain
  · try extract_lets
    exact sendOn_keeps h _ _ _ _ _ _

theorem injectAll_keeps {s0 s : State} (h : Keeps s0 s) (x1 : List OutMsg) : Keeps s0 (injectAll s x1).1 := by
  unfold injectAll
  refine Keeps.foldlFst ?_ (fun _ _ h0 => ?_)
  · exact h
  · try extract_lets
    exact inject_keeps h0 _

theorem ctrlTo_keeps {s0 s : State} (h : Keeps s0 s) (x1 x2 : Nat) (x3 : Word32) (x4 : String) (x5 : Nat) (x6 : (BitVec 16)) : Keeps s0 (ctrlTo s x1 x2 x3 x4 x5 x6) := by
  unfold ctrlTo
  try extract_lets
  exact inject_keeps (h).plain _

theorem toStations_keeps {s0 s : State} (h : Keeps s0 s) (x1 : Job) (x2 : String) (x3 : Nat) : Keeps s0 (toStations s x1 x2 x3) := by
  unfold toStations
  refine Keeps.foldl ?_ (fun _ _ h0 => ?_)
  · exact h
  · exact ctrlTo_keeps h0 _ _ _ _ _ _

theorem ackTo_keeps {s0 s : State} (h : Keeps s0 s) (x1 : MsgHdr) (x2 : Nat) : Keeps s0 (ackTo s x1 x2) := by
  unfold ackTo
  exact inject_keeps h _

theorem ackAsked_keeps {s0 s : State} (h : Keeps s0 s) (x1 : MsgHdr) : Keeps s0 (ackAsked s x1) := by
  unfold ackAsked
  refine Keeps.ite ?_ ?_
  · exact ackTo_keeps h _ _
  · exact h

theorem nackTo_keeps {s0 s : State} (h : Keeps s0 s) (x1 : MsgHdr) (x2 x3 : Nat) : Keeps s0 (nackTo s x1 x2 x3) := by
  unfold nackTo
  exact inject_keeps h _

theorem tellTensors_keeps {s0 s : State} (h : Keeps s0 s) : Keeps s0 (tellTensors s) := by
  unfold tellTensors
  refine Keeps.elim ?_ (fun _ => ?_)
  · exact h
  · exact ctrlTo_keeps h _ _ _ _ _ _

theorem tellPairs_keeps {s0 s : State} (h : Keeps s0 s) (x1 : Nat) : Keeps s0 (tellPairs s x1) := by
  unfold tellPairs
  try extract_lets
  refine Keeps.elim ?_ (fun _ => ?_)
  · exact updJob_keeps h _ _
  · exact toStations_keeps (updJob_keeps h _ _) _ _ _

theorem unreachTo_keeps {s0 s : State} (h : Keeps s0 s) (x1 : MsgHdr) : Keeps s0 (unreachTo s x1) := by
  unfold unreachTo
  exact inject_keeps h _

theorem takeInbox_keeps {s0 s : State} (h : Keeps s0 s) (x1 : MsgHdr) (x2 : List Byte) : Keeps s0 (takeInbox s x1 x2) := by
  unfold takeInbox
  exact (h).plain

theorem holdMsg_keeps {s0 s : State} (h : Keeps s0 s) (x1 : InMsg) : Keeps s0 (holdMsg s x1) := by
  unfold holdMsg
  exact (h).plain

theorem notNow_keeps {s0 s : State} (h : Keeps s0 s) (x1 : InMsg) (x2 : Verdict) : Keeps s0 (notNow s x1 x2) := by
  unfold notNow
  first | split | (dsimp +zetaDelta only; split)
  · exact (h).plain
  · exact ackTo_keeps (h).plain _ _
  · exact holdMsg_keeps h _
  · exact h

theorem loseRecords_keeps {s0 s : State} (h : Keeps s0 s) (x1 : Nat) (x2 : Job → BlotRec → Bool) : Keeps s0 (loseRecords s x1 x2) := by
  unfold loseRecords
  first | split | (dsimp +zetaDelta only; split)
  · exact h
  · try extract_lets
    refine Keeps.foldl ?_ (fun _ _ h0 => ?_)
    · exact putJob_keeps h _
    · exact jobEvent_keeps h0 _ _

theorem losePeer_keeps {s0 s : State} (h : Keeps s0 s) (x1 : Nat) : Keeps s0 (losePeer s x1) := by
  unfold losePeer
  try extract_lets
  refine Keeps.foldl ?_ (fun _ _ h0 => ?_)
  · exact h
  · exact updJob_keeps (loseRecords_keeps h0 _ _) _ _

theorem losePartner_keeps {s0 s : State} (h : Keeps s0 s) (x1 : Nat) : Keeps s0 (losePartner s x1) := by
  unfold losePartner
  refine Keeps.ite ?_ ?_
  · exact h
  · try extract_lets
    refine health_keeps ?_ _
    refine Keeps.foldl ?_ (fun _ _ h0 => ?_)
    · exact (h).plain
    · refine Keeps.ite ?_ ?_
      · exact h0
      · try extract_lets
        exact jobEvent_keeps (putJob_keeps h0 _) _ _

theorem haltFabric_keeps {s0 s : State} (h : Keeps s0 s) (x1 x2 : Nat) (x3 : Option Sid) (x4 : Nat) : Keeps s0 (haltFabric s x1 x2 x3 x4) := by
  unfold haltFabric
  first | split | (dsimp +zetaDelta only; split)
  · exact h
  · try extract_lets
    refine Keeps.ite ?_ ?_
    · refine Keeps.elim ?_ (fun _ => ?_)
      · exact losePeer_keeps (losePartner_keeps h _) _
      · exact completeWith_keeps (losePeer_keeps (losePartner_keeps h _) _) _ _
    · try extract_lets
      refine jobEvent_keeps ?_ _ _
      refine updJob_keeps ?_ _ _
      refine haltJob_keeps ?_ _
      refine Keeps.elim ?_ (fun _ => ?_)
      · exact losePeer_keeps (losePartner_keeps h _) _
      · exact completeWith_keeps (losePeer_keeps (losePartner_keeps h _) _) _ _

theorem stationLost_keeps {s0 s : State} (h : Keeps s0 s) (x1 x2 : Nat) (x3 : Option Sid) (x4 : Nat) : Keeps s0 (stationLost s x1 x2 x3 x4) := by
  unfold stationLost
  try extract_lets
  refine Keeps.ite ?_ ?_
  · refine Keeps.elim ?_ (fun _ => ?_)
    · exact haltFabric_keeps h _ _ _ _
    · exact toStations_keeps (haltFabric_keeps h _ _ _ _) _ _ _
  · exact haltFabric_keeps h _ _ _ _

theorem wakeOne_keeps {s0 s : State} (h : Keeps s0 s) (x1 : Nat) : Keeps s0 (wakeOne s x1) := by
  unfold wakeOne
  first | split | (dsimp +zetaDelta only; split)
  · exact h
  · refine Keeps.ite ?_ ?_
    · exact h
    · try extract_lets
      first | split | (dsimp +zetaDelta only; split)
      · refine Keeps.elim ?_ (fun _ => ?_)
        · exact sendOn_keeps (h).plain _ _ _ _ _ _
        · exact stationLost_keeps (sendOn_keeps (h).plain _ _ _ _ _ _) _ _ _ _
      · try extract_lets
        exact (sendOn_keeps (h).plain _ _ _ _ _ _).plain

theorem wakeWaiting_keeps {s0 s : State} (h : Keeps s0 s) (x1 : Nat) : Keeps s0 (wakeWaiting s x1) := by
  unfold wakeWaiting
  refine Keeps.foldl ?_ (fun _ _ h0 => ?_)
  · exact h
  · exact wakeOne_keeps h0 _

theorem releaseHeld_keeps {s0 s : State} (h : Keeps s0 s) (x1 : HeldMsg → Bool) : Keeps s0 (releaseHeld s x1) := by
  unfold releaseHeld
  try extract_lets
  refine Keeps.ite ?_ ?_
  · refine Keeps.foldl ?_ (fun _ _ h0 => ?_)
    · exact (h).plain
    · exact deliverHere_keeps h0 _
  · refine Keeps.foldl ?_ (fun _ _ h0 => ?_)
    · refine Keeps.foldl ?_ (fun _ _ h0 => ?_)
      · exact (h).plain
      · exact deliverHere_keeps h0 _
    · exact wakeWaiting_keeps h0 _

theorem epochReached_keeps {s0 s : State} (h : Keeps s0 s) (x1 : Nat) : Keeps s0 (epochReached s x1) := by
  unfold epochReached
  first | split | (dsimp +zetaDelta only; split)
  · exact h
  · try extract_lets
    exact (releaseHeld_keeps h _).plain

end Sys2Proof.Laws
end

