-- ==== Sys2Proof/Laws/KeepProtect.lean ====
section
/-! SUPPORT. What the operations of Machine/Protect.lean keep (Laws/Keep.lean). -/

namespace Sys2Proof.Laws

open Sys2Proof.Machine

theorem protectRecord_keeps {s0 s : State} (h : Keeps s0 s) (x1 : Job) (x2 x3 : Nat) : Keeps s0 (protectRecord s x1 x2 x3) := by
  unfold protectRecord
  exact jobEvent_keeps h _ _

theorem unprotect_keeps {s0 s : State} (h : Keeps s0 s) (x1 x2 : Nat) : Keeps s0 (unprotect s x1 x2) := by
  unfold unprotect
  first | split | (dsimp +zetaDelta only; split)
  · exact h
  · refine Keeps.ite ?_ ?_
    · try extract_lets
      exact protectRecord_keeps (putJob_keeps h _) _ _ _
    · exact h

theorem sendJournal_keeps {s0 s : State} (h : Keeps s0 s) (x1 : Job) (x2 : JRec) : Keeps s0 (sendJournal s x1 x2) := by
  unfold sendJournal
  refine Keeps.elim ?_ (fun _ => ?_)
  · exact h
  · exact injectAll_keeps h _

theorem journalWrite_keeps {s0 s : State} (h : Keeps s0 s) (x1 : Nat) (x2 : JRec) : Keeps s0 (journalWrite s x1 x2) := by
  unfold journalWrite
  first | split | (dsimp +zetaDelta only; split)
  · exact h
  · refine Keeps.ite ?_ ?_
    · exact h
    · try extract_lets
      exact sendJournal_keeps (putJob_keeps (h).plain _) _ _

theorem startDrain_keeps {s0 s : State} (h : Keeps s0 s) (x1 x2 : Nat) (x3 : Bool) : Keeps s0 (startDrain s x1 x2 x3) := by
  unfold startDrain
  first | split | (dsimp +zetaDelta only; split)
  · first | split | (dsimp +zetaDelta only; split)
    · refine Keeps.ite ?_ ?_
      · exact updJob_keeps h _ _
      · try extract_lets
        refine Keeps.ite ?_ ?_
        · refine protectRecord_keeps ?_ _ _ _
          refine Keeps.plain ?_
          refine injectAll_keeps ?_ _
          refine Keeps.foldl ?_ (fun _ _ h0 => ?_)
          · exact updJob_keeps h _ _
          · exact reachDesc_keeps h0 _
        · refine Keeps.plain ?_
          refine injectAll_keeps ?_ _
          refine Keeps.foldl ?_ (fun _ _ h0 => ?_)
          · exact updJob_keeps h _ _
          · exact reachDesc_keeps h0 _
    · exact h
  · exact h

theorem startDrains_keeps {s0 s : State} (h : Keeps s0 s) (x1 : Nat) : Keeps s0 (startDrains s x1) := by
  unfold startDrains
  first | split | (dsimp +zetaDelta only; split)
  · exact h
  · refine Keeps.ite ?_ ?_
    · exact h
    · try extract_lets
      refine Keeps.foldlFst ?_ (fun _ _ h0 => ?_)
      · refine Keeps.foldlFst ?_ (fun _ _ h0 => ?_)
        · exact h
        · exact startDrain_keeps h0 _ _ _
      · try extract_lets
        refine Keeps.iteFst ?_ ?_
        · exact h0
        · exact startDrain_keeps h0 _ _ _

end Sys2Proof.Laws
end

