-- ==== Sys2Proof/Laws/KeepSteps.lean ====
section
/-! SUPPORT. What the operations of Machine/Steps.lean keep (Laws/Keep.lean). -/

namespace Sys2Proof.Laws

open Sys2Proof.Machine

theorem watchEvent_keeps {s0 s : State} (h : Keeps s0 s) (x1 : Nat) (x2 : WatchInfo) : Keeps s0 (watchEvent s x1 x2) := by
  unfold watchEvent
  first | split | (dsimp +zetaDelta only; split)
  · exact h
  · exact jobEvent_keeps h _ _

theorem flushWatch_keeps {s0 s : State} (h : Keeps s0 s) (x1 : Nat) (x2 : WatchRec → Bool) (x3 : (Job → Nat → Nat)) : Keeps s0 (flushWatch s x1 x2 x3) := by
  unfold flushWatch
  first | split | (dsimp +zetaDelta only; split)
  · exact h
  · refine Keeps.foldl ?_ (fun _ _ h0 => ?_)
    · exact putJob_keeps h _
    · exact watchEvent_keeps h0 _ _

theorem setLevel_keeps {s0 s : State} (h : Keeps s0 s) (x1 x2 x3 x4 : Nat) (x5 : Bool) : Keeps s0 (setLevel s x1 x2 x3 x4 x5) := by
  unfold setLevel
  first | split | (dsimp +zetaDelta only; split)
  · exact h
  · try extract_lets
    refine Keeps.ite ?_ ?_
    · exact putJob_keeps h _
    · exact watchEvent_keeps (putJob_keeps h _) _ _

theorem applyLevels_keeps {s0 s : State} (h : Keeps s0 s) (x1 : Nat) : Keeps s0 (applyLevels s x1) := by
  unfold applyLevels
  first | split | (dsimp +zetaDelta only; split)
  · exact h
  · refine Keeps.foldl ?_ (fun _ _ h0 => ?_)
    · exact h
    · exact setLevel_keeps h0 _ _ _ _ _

theorem occurAll_keeps {s0 s : State} (h : Keeps s0 s) (x1 : Active) (x2 : List (Nat × Nat)) (x3 : Nat → Nat) : Keeps s0 (occurAll s x1 x2 x3).1 := by
  unfold occurAll
  first | split | (dsimp +zetaDelta only; split)
  · exact h
  · try extract_lets
    refine Keeps.ite ?_ ?_
    · exact putJob_keeps h _
    · exact applyLevels_keeps (putJob_keeps h _) _

theorem recomputeScale_keeps {s0 s : State} (h : Keeps s0 s) (x1 : Operand) (x2 : List Rat) : Keeps s0 (recomputeScale s x1 x2).1 := by
  unfold recomputeScale
  first | split | (dsimp +zetaDelta only; split)
  · exact h
  · refine Keeps.foldlFst ?_ (fun _ _ h0 => ?_)
    · exact h
    · refine Keeps.iteFst ?_ ?_
      · exact h0
      · try extract_lets
        exact wrBytes_keeps h0 _ _

theorem recomputeOf_keeps {s0 s : State} (h : Keeps s0 s) (x1 : Active) : Keeps s0 (recomputeOf s x1).1 := by
  unfold recomputeOf
  refine Keeps.elimFst ?_ (fun _ => ?_)
  · exact h
  · exact recomputeScale_keeps h _ _

theorem recomputeGrads_keeps {s0 s : State} (h : Keeps s0 s) (x1 x2 : Nat) : Keeps s0 (recomputeGrads s x1 x2).1 := by
  unfold recomputeGrads
  first | split | (dsimp +zetaDelta only; split)
  · exact h
  · try extract_lets
    refine updJob_keeps ?_ _ _
    refine Keeps.foldlFst ?_ (fun _ _ h0 => ?_)
    · exact h
    · try extract_lets
      exact recomputeScale_keeps h0 _ _

theorem flushOwn_keeps {s0 s : State} (h : Keeps s0 s) (x1 : Active) : Keeps s0 (flushOwn s x1) := by
  unfold flushOwn
  exact flushWatch_keeps h _ _ _

theorem leaveWith_keeps {s0 s : State} (h : Keeps s0 s) (x1 : Active) (x2 : Nat) : Keeps s0 (leaveWith s x1 x2) := by
  unfold leaveWith
  try extract_lets
  refine Keeps.ite ?_ ?_
  · exact completeWith_keeps h _ _
  · exact flushOwn_keeps (completeWith_keeps h _ _) _

theorem leaveMuted_keeps {s0 s : State} (h : Keeps s0 s) (x1 : Active) : Keeps s0 (leaveMuted s x1) := by
  unfold leaveMuted
  exact leaveWith_keeps h _ _

theorem releaseAct_keeps {s0 s : State} (h : Keeps s0 s) (x1 : Active) : Keeps s0 (releaseAct s x1) := by
  unfold releaseAct
  try extract_lets
  refine Keeps.ite ?_ ?_
  · refine Keeps.ite ?_ ?_
    · refine updJob_keeps ?_ _ _
      refine Keeps.ite ?_ ?_
      · refine watchEvent_keeps ?_ _ _
        refine completeWith_keeps ?_ _ _
        refine Keeps.ite ?_ ?_
        · exact haltJob_keeps h _
        · exact h
      · refine completeWith_keeps ?_ _ _
        refine Keeps.ite ?_ ?_
        · exact haltJob_keeps h _
        · exact h
    · refine Keeps.ite ?_ ?_
      · refine watchEvent_keeps ?_ _ _
        refine completeWith_keeps ?_ _ _
        refine Keeps.ite ?_ ?_
        · exact haltJob_keeps h _
        · exact h
      · refine completeWith_keeps ?_ _ _
        refine Keeps.ite ?_ ?_
        · exact haltJob_keeps h _
        · exact h
  · refine flushOwn_keeps ?_ _
    refine Keeps.ite ?_ ?_
    · refine updJob_keeps ?_ _ _
      refine Keeps.ite ?_ ?_
      · refine watchEvent_keeps ?_ _ _
        refine completeWith_keeps ?_ _ _
        refine Keeps.ite ?_ ?_
        · exact haltJob_keeps h _
        · exact h
      · refine completeWith_keeps ?_ _ _
        refine Keeps.ite ?_ ?_
        · exact haltJob_keeps h _
        · exact h
    · refine Keeps.ite ?_ ?_
      · refine watchEvent_keeps ?_ _ _
        refine completeWith_keeps ?_ _ _
        refine Keeps.ite ?_ ?_
        · exact haltJob_keeps h _
        · exact h
      · refine completeWith_keeps ?_ _ _
        refine Keeps.ite ?_ ?_
        · exact haltJob_keeps h _
        · exact h

theorem releaseHeldActs_keeps {s0 s : State} (h : Keeps s0 s) (x1 : Nat) : Keeps s0 (releaseHeldActs s x1) := by
  unfold releaseHeldActs
  try extract_lets
  refine Keeps.foldl ?_ (fun _ _ h0 => ?_)
  · exact h
  · exact leaveMuted_keeps h0 _

theorem consumePoison_keeps {s0 s : State} (h : Keeps s0 s) (x1 : Active) : Keeps s0 (consumePoison s x1) := by
  unfold consumePoison
  try extract_lets
  refine Keeps.ite ?_ ?_
  · refine Keeps.elim ?_ (fun _ => ?_)
    · exact releaseHeldActs_keeps (leaveWith_keeps (haltPoison_keeps h _ _ _ _ _ _) _ _) _
    · exact toStations_keeps (releaseHeldActs_keeps (leaveWith_keeps (haltPoison_keeps h _ _ _ _ _ _) _ _) _) _ _ _
  · exact releaseHeldActs_keeps (leaveWith_keeps (haltPoison_keeps h _ _ _ _ _ _) _ _) _

theorem requestReplay_keeps {s0 s : State} (h : Keeps s0 s) (x1 x2 x3 : Nat) : Keeps s0 (requestReplay s x1 x2 x3) := by
  unfold requestReplay
  first | split | (dsimp +zetaDelta only; split)
  · exact h
  · refine Keeps.ite ?_ ?_
    · exact h
    · try extract_lets
      exact toStations_keeps (putJob_keeps h _) _ _ _

theorem rescaleHeld_keeps {s0 s : State} (h : Keeps s0 s) (x1 : Nat) (x2 : List Active) : Keeps s0 (rescaleHeld s x1 x2) := by
  unfold rescaleHeld
  refine Keeps.foldl ?_ (fun _ _ h0 => ?_)
  · exact h
  · try extract_lets
    refine updJob_keeps ?_ _ _
    refine Keeps.iteFst ?_ ?_
    · exact recomputeGrads_keeps (recomputeOf_keeps h0 _) _ _
    · exact recomputeOf_keeps h0 _

theorem finishRewind_keeps {s0 s : State} (h : Keeps s0 s) (x1 : Nat) : Keeps s0 (finishRewind s x1) := by
  unfold finishRewind
  first | split | (dsimp +zetaDelta only; split)
  · exact h
  · try extract_lets
    refine epochReached_keeps ?_ _
    refine Keeps.foldl ?_ (fun _ _ h0 => ?_)
    · refine Keeps.plain ?_
      refine updJob_keeps ?_ _ _
      refine Keeps.foldl ?_ (fun _ _ h0 => ?_)
      · exact updJob_keeps (rescaleHeld_keeps (putJob_keeps h _) _ _) _ _
      · exact completeWith_keeps h0 _ _
    · refine Keeps.ite ?_ ?_
      · try extract_lets
        exact saveQueue_keeps h0 _ _
      · exact h0

theorem startStepReplay_keeps {s0 s : State} (h : Keeps s0 s) (x1 : Nat) : Keeps s0 (startStepReplay s x1) := by
  unfold startStepReplay
  first | split | (dsimp +zetaDelta only; split)
  · exact h
  · try extract_lets
    refine Keeps.ite ?_ ?_
    · refine Keeps.foldl ?_ (fun _ _ h0 => ?_)
      · refine Keeps.plain ?_
        refine Keeps.foldl ?_ (fun _ _ h0 => ?_)
        · exact updJob_keeps (applyLevels_keeps (flushWatch_keeps (watchEvent_keeps (putJob_keeps h _) _ _) _ _ _) _) _ _
        · refine Keeps.ite ?_ ?_
          · exact saveQueue_keeps h0 _ _
          · exact h0
      · exact completeWith_keeps h0 _ _
    · refine finishRewind_keeps ?_ _
      refine Keeps.foldl ?_ (fun _ _ h0 => ?_)
      · refine Keeps.plain ?_
        refine Keeps.foldl ?_ (fun _ _ h0 => ?_)
        · exact updJob_keeps (applyLevels_keeps (flushWatch_keeps (watchEvent_keeps (putJob_keeps h _) _ _) _ _ _) _) _ _
        · refine Keeps.ite ?_ ?_
          · exact saveQueue_keeps h0 _ _
          · exact h0
      · exact completeWith_keeps h0 _ _

theorem endDiscarded_keeps {s0 s : State} (h : Keeps s0 s) (x1 : Active) : Keeps s0 (endDiscarded s x1) := by
  unfold endDiscarded
  try extract_lets
  refine Keeps.ite ?_ ?_
  · exact finishRewind_keeps (completeWith_keeps h _ _) _
  · exact completeWith_keeps h _ _

theorem writeNorms_keeps {s0 s : State} (h : Keeps s0 s) (x1 : Job) (x2 : Nat → Nat) : Keeps s0 (writeNorms s x1 x2) := by
  unfold writeNorms
  refine Keeps.ite ?_ ?_
  · exact h
  · try extract_lets
    refine Keeps.foldl ?_ (fun _ _ h0 => ?_)
    · exact h
    · try extract_lets
      refine Keeps.ite ?_ ?_
      · exact draw_keeps (wrBytes_keeps h0 _ _)
      · exact wrBytes_keeps h0 _ _

theorem releaseSteps_keeps {s0 s : State} (h : Keeps s0 s) (x1 : Nat) : Keeps s0 (releaseSteps s x1) := by
  unfold releaseSteps
  refine Keeps.foldl ?_ (fun _ _ h0 => ?_)
  · exact h
  · refine Keeps.ite ?_ ?_
    · exact saveQueue_keeps h0 _ _
    · exact h0

theorem commitTag_keeps {s0 s : State} (h : Keeps s0 s) (x1 x2 x3 : Nat) : Keeps s0 (commitTag s x1 x2 x3) := by
  unfold commitTag
  first | split | (dsimp +zetaDelta only; split)
  · exact h
  · try extract_lets
    refine Keeps.ite ?_ ?_
    · exact setLevel_keeps h _ _ _ _ _
    · exact updJob_keeps (setLevel_keeps h _ _ _ _ _) _ _

theorem exchangeCounts_keeps {s0 s : State} (h : Keeps s0 s) (x1 : Job) : Keeps s0 (exchangeCounts s x1) := by
  unfold exchangeCounts
  refine Keeps.ite ?_ ?_
  · exact tellPairs_keeps h _
  · exact h

theorem pauseSnapshot_keeps {s0 s : State} (h : Keeps s0 s) (x1 : Job) (x2 : Nat) : Keeps s0 (pauseSnapshot s x1 x2) := by
  unfold pauseSnapshot
  try extract_lets
  exact suspendStream_keeps (draw_keeps h) _ _

theorem startSnapshot_keeps {s0 s : State} (h : Keeps s0 s) (x1 : Nat) : Keeps s0 (startSnapshot s x1) := by
  unfold startSnapshot
  first | split | (dsimp +zetaDelta only; split)
  · exact h
  · try extract_lets
    refine Keeps.elim ?_ (fun _ => ?_)
    · refine Keeps.elim ?_ (fun _ => ?_)
      · exact h
      · exact pauseSnapshot_keeps h _ _
    · refine updJob_keeps ?_ _ _
      refine Keeps.elim ?_ (fun _ => ?_)
      · exact h
      · exact pauseSnapshot_keeps h _ _

theorem commitStep_keeps {s0 s : State} (h : Keeps s0 s) (x1 : Nat) (x2 : List (Nat × Nat)) : Keeps s0 (commitStep s x1 x2) := by
  unfold commitStep
  first | split | (dsimp +zetaDelta only; split)
  · exact h
  · try extract_lets
    refine epochReached_keeps ?_ _
    refine Keeps.elim ?_ (fun _ => ?_)
    · refine startSnapshot_keeps ?_ _
      refine startDrains_keeps ?_ _
      refine updJob_keeps ?_ _ _
      refine updJob_keeps ?_ _ _
      refine Keeps.elim ?_ (fun _ => ?_)
      · refine releaseSteps_keeps ?_ _
        refine updJob_keeps ?_ _ _
        refine Keeps.foldl ?_ (fun _ _ h0 => ?_)
        · exact updJob_keeps (flushWatch_keeps (writeNorms_keeps h _ _) _ _ _) _ _
        · exact commitTag_keeps h0 _ _ _
      · refine completeWith_keeps ?_ _ _
        refine releaseSteps_keeps ?_ _
        refine updJob_keeps ?_ _ _
        refine Keeps.foldl ?_ (fun _ _ h0 => ?_)
        · exact updJob_keeps (flushWatch_keeps (writeNorms_keeps h _ _) _ _ _) _ _
        · exact commitTag_keeps h0 _ _ _
    · refine exchangeCounts_keeps ?_ _
      refine startSnapshot_keeps ?_ _
      refine startDrains_keeps ?_ _
      refine updJob_keeps ?_ _ _
      refine updJob_keeps ?_ _ _
      refine Keeps.elim ?_ (fun _ => ?_)
      · refine releaseSteps_keeps ?_ _
        refine updJob_keeps ?_ _ _
        refine Keeps.foldl ?_ (fun _ _ h0 => ?_)
        · exact updJob_keeps (flushWatch_keeps (writeNorms_keeps h _ _) _ _ _) _ _
        · exact commitTag_keeps h0 _ _ _
      · refine completeWith_keeps ?_ _ _
        refine releaseSteps_keeps ?_ _
        refine updJob_keeps ?_ _ _
        refine Keeps.foldl ?_ (fun _ _ h0 => ?_)
        · exact updJob_keeps (flushWatch_keeps (writeNorms_keeps h _ _) _ _ _) _ _
        · exact commitTag_keeps h0 _ _ _

end Sys2Proof.Laws
end

