-- ==== Sys2Proof/Laws/KeepBlotter.lean ====
section
/-! SUPPORT. What the operations of Machine/Blotter.lean keep (Laws/Keep.lean). -/

namespace Sys2Proof.Laws

open Sys2Proof.Machine

theorem compactAt_keeps {s0 s : State} (h : Keeps s0 s) (x1 : Nat) (x2 : Loc) : Keeps s0 (compactAt s x1 x2) := by
  unfold compactAt
  first | split | (dsimp +zetaDelta only; split)
  · exact h
  · try extract_lets
    exact putMem_keeps (putJob_keeps h _) _ _

theorem placeAt_keeps {s0 s : State} (h : Keeps s0 s) (job : Nat) (l : Loc) (n : Nat) (r : State × Nat) (hr : placeAt s job l n = some r) : Keeps s0 r.1 := by
  unfold placeAt at hr
  split at hr
  · cases hr
  · extract_lets a gap at hr
    split at hr
    · cases hr
    · split at hr
      · cases hr; exact h
      · obtain ⟨k, -, hk⟩ := Option.bind_eq_some_iff.1 hr
        obtain ⟨x, -, rfl⟩ := Option.map_eq_some_iff.1 hk
        exact compactAt_keeps h _ _

theorem continueMoves_keeps {s0 s : State} (h : Keeps s0 s) (x1 : Nat) : Keeps s0 (continueMoves s x1) := by
  unfold continueMoves
  exact updJob_keeps h _ _

theorem stashEvent_keeps {s0 s : State} (h : Keeps s0 s) (x1 : Job) (x2 x3 x4 x5 : Nat) : Keeps s0 (stashEvent s x1 x2 x3 x4 x5) := by
  unfold stashEvent
  exact jobEvent_keeps h _ _

theorem applyPolicy_keeps {s0 s : State} (h : Keeps s0 s) (x1 : Job) (x2 : Nat) : Keeps s0 (applyPolicy s x1 x2) := by
  unfold applyPolicy
  refine Keeps.ite ?_ ?_
  · exact h
  · first | split | (dsimp +zetaDelta only; split)
    · exact h
    · try extract_lets
      refine updJob_keeps ?_ _ _
      refine Keeps.ite ?_ ?_
      · exact h
      · exact stashEvent_keeps (putJob_keeps h _) _ _ _ _ _

theorem ringRoom_keeps {s0 s : State} (h : Keeps s0 s) (job n f : Nat) (r : State × Nat) (hr : ringRoom s job n f = some r) : Keeps s0 r.1 := by
  induction f generalizing s with
  | zero => exact placeAt_keeps h _ _ _ _ hr
  | succ f ih =>
    unfold ringRoom at hr
    split at hr
    · next hp => cases hr; exact placeAt_keeps h _ _ _ _ hp
    · cases hr
    · split at hr
      · cases hr
      · split at hr
        · cases hr
        · exact ih (putJob_keeps (wrBytes_keeps h _ _) _) hr

theorem reserve_keeps {s0 s : State} (h : Keeps s0 s) (job need : Nat) : Keeps s0 (reserve s job need).1 := by
  unfold reserve
  split
  · exact h
  · extract_lets c u
    have hu : Keeps s0 u := applyPolicy_keeps h _ _
    refine Keeps.iteFst h ?_
    split
    · exact hu
    · refine Keeps.iteFst (Keeps.iteFst hu ?_) ?_
      · split
        · next hp => exact ringRoom_keeps hu _ _ _ _ hp
        · exact hu
      · split
        · next hp => exact placeAt_keeps hu _ _ _ _ hp
        · exact Keeps.iteFst hu hu

theorem addRecord_keeps {s0 s : State} (h : Keeps s0 s) (x1 : Active) (x2 : Operand) (x3 : Nat) (x4 : Loc) : Keeps s0 (addRecord s x1 x2 x3 x4) := by
  unfold addRecord
  exact updJob_keeps h _ _

theorem haltStash_keeps {s0 s : State} (h : Keeps s0 s) (x1 : Nat) : Keeps s0 (haltStash s x1) := by
  unfold haltStash
  first | split | (dsimp +zetaDelta only; split)
  · exact h
  · exact stashEvent_keeps (haltJob_keeps h _) _ _ _ _ _

theorem startRecalls_keeps {s0 s : State} (h : Keeps s0 s) (x1 : Active) : Keeps s0 (startRecalls s x1) := by
  unfold startRecalls
  try extract_lets
  exact updJob_keeps h _ _

theorem execStashMoveComplete_keeps {s0 s : State} (h : Keeps s0 s) (x0 x1 : Nat) : Goes s0 (execStashMoveComplete x0 x1 s) := by
  unfold execStashMoveComplete
  first | split | (dsimp +zetaDelta only; split)
  · exact Goes.next (h)
  · first | split | (dsimp +zetaDelta only; split)
    · exact Goes.next (h)
    · try extract_lets
      refine Goes.next ?_
      refine continueMoves_keeps ?_ _
      refine Keeps.ite ?_ ?_
      · exact wrHost_keeps (reachRange_keeps (putJob_keeps h _) _ _) _ _
      · exact reachRange_keeps (putJob_keeps h _) _ _

theorem execStashRecallComplete_keeps {s0 s : State} (h : Keeps s0 s) (job handle : Nat) : Goes s0 (execStashRecallComplete job handle s) := by
  unfold execStashRecallComplete
  split
  · exact Goes.next h
  · split
    · exact Goes.next h
    · dsimp only
      split
      · exact Goes.next h
      · next t a l hp =>
        have ht : Keeps s0 t := by
          split at hp
          · next hq => cases hp; exact placeAt_keeps h _ _ _ _ hq
          · obtain ⟨q, hq, e⟩ := Option.map_eq_some_iff.1 hp
            cases e
            exact ringRoom_keeps h _ _ _ _ hq
        exact Goes.next (putMem_keeps (updJob_keeps ht _ _) _ _)

theorem execStashFree_keeps {s0 s : State} (h : Keeps s0 s) (x0 : Sid) : Goes s0 (execStashFree x0 s) := by
  unfold execStashFree
  first | split | (dsimp +zetaDelta only; split)
  · exact Goes.next (h)
  · try extract_lets
    refine Goes.ite ?_ ?_
    · try extract_lets
      exact Goes.next (updJob_keeps (finishExec_keeps h _ _) _ _)
    · exact Goes.next (h)

end Sys2Proof.Laws
end

