-- ==== Sys2Proof/Laws/KeepProduct.lean ====
section
/-! SUPPORT. What the operations of Machine/Product.lean keep (Laws/Keep.lean). -/

namespace Sys2Proof.Laws

open Sys2Proof.Machine

theorem gradExec_keeps {s0 s : State} (h : Keeps s0 s) (x1 : Job) (x2 : Active) (x3 : Plan) (x4 : List Readout) : Keeps s0 (gradExec s x1 x2 x3 x4) := by
  unfold gradExec
  first | split | (dsimp +zetaDelta only; split)
  · exact h
  · try extract_lets
    refine Keeps.ite ?_ ?_
    · refine Keeps.elim ?_ (fun _ => ?_)
      · exact finishExec_keeps (putAct_keeps (putJob_keeps h _) _) _ _
      · exact putAct_keeps (finishExec_keeps (putAct_keeps (putJob_keeps h _) _) _ _) _
    · exact finishExec_keeps (putAct_keeps (putJob_keeps h _) _) _ _

theorem productExec_keeps {s0 s : State} (h : Keeps s0 s) (x1 : Job) (x2 : Active) : Keeps s0 (productExec s x1 x2) := by
  unfold productExec
  first | split | (dsimp +zetaDelta only; split)
  · exact h
  · try extract_lets
    refine Keeps.ite ?_ ?_
    · exact gradExec_keeps h _ _ _ _
    · try extract_lets
      refine Keeps.ite ?_ ?_
      · try extract_lets
        exact putAct_keeps (startAct_keeps h _) _
      · first | split | (dsimp +zetaDelta only; split)
        · exact h
        · try extract_lets
          exact finishOutput_keeps h _ _ _ _

theorem execMatmul_keeps {s0 s : State} (h : Keeps s0 s) (x0 : Sid) : Goes s0 (execMatmul x0 s) := by
  unfold execMatmul
  refine runAct_keeps ?_ _ _ _ (fun _ _ _ hf => ?_)
  · exact h
  · beta_reduce
    exact productExec_keeps hf _ _

theorem execGatherMm_keeps {s0 s : State} (h : Keeps s0 s) (x0 : Sid) : Goes s0 (execGatherMm x0 s) := by
  unfold execGatherMm
  refine runAct_keeps ?_ _ _ _ (fun _ _ _ hf => ?_)
  · exact h
  · beta_reduce
    exact productExec_keeps hf _ _

theorem routeExec_keeps {s0 s : State} (h : Keeps s0 s) (x1 : Job) (x2 : Active) : Keeps s0 (routeExec s x1 x2) := by
  unfold routeExec
  first | split | (dsimp +zetaDelta only; split)
  · try extract_lets
    exact finishExec_keeps h _ _
  · exact h

theorem execRoute_keeps {s0 s : State} (h : Keeps s0 s) (x0 : Sid) : Goes s0 (execRoute x0 s) := by
  unfold execRoute
  refine runAct_keeps ?_ _ _ _ (fun _ _ _ hf => ?_)
  · exact h
  · beta_reduce
    exact routeExec_keeps hf _ _

theorem execTileQueuePush_keeps {s0 s : State} (h : Keeps s0 s) (x0 : Sid) (x1 : Nat) : Goes s0 (execTileQueuePush x0 x1 s) := by
  unfold execTileQueuePush
  first | split | (dsimp +zetaDelta only; split)
  · exact Goes.next (h)
  · try extract_lets
    first | split | (dsimp +zetaDelta only; split)
    · exact Goes.next (h)
    · refine Goes.ite ?_ ?_
      · try extract_lets
        exact Goes.next (putAct_keeps h _)
      · exact Goes.next (h)

end Sys2Proof.Laws
end

