-- ==== Sys2Proof/Laws/KeepConvert.lean ====
section
/-! SUPPORT. What the operations of Machine/Convert.lean keep (Laws/Keep.lean). -/

namespace Sys2Proof.Laws

open Sys2Proof.Machine

theorem convertExec_keeps {s0 s : State} (h : Keeps s0 s) (x1 : Job) (x2 : Active) : Keeps s0 (convertExec s x1 x2) := by
  unfold convertExec
  first | split | (dsimp +zetaDelta only; split)
  · try extract_lets
    exact finishOutput_keeps h _ _ _ _
  · exact h

theorem execConvert_keeps {s0 s : State} (h : Keeps s0 s) (x0 : Sid) : Goes s0 (execConvert x0 s) := by
  unfold execConvert
  refine runAct_keeps ?_ _ _ _ (fun _ _ _ hf => ?_)
  · exact h
  · beta_reduce
    exact convertExec_keeps hf _ _

theorem derivExec_keeps {s0 s : State} (h : Keeps s0 s) (x1 : Job) (x2 : Active) : Keeps s0 (derivExec s x1 x2) := by
  unfold derivExec
  first | split | (dsimp +zetaDelta only; split)
  · try extract_lets
    exact finishOutput_keeps h _ _ _ _
  · exact h

theorem execDeriv_keeps {s0 s : State} (h : Keeps s0 s) (x0 : Sid) : Goes s0 (execDeriv x0 s) := by
  unfold execDeriv
  refine runAct_keeps ?_ _ _ _ (fun _ _ _ hf => ?_)
  · exact h
  · beta_reduce
    exact derivExec_keeps hf _ _

theorem checkExec_keeps {s0 s : State} (h : Keeps s0 s) (x1 : Job) (x2 : Active) : Keeps s0 (checkExec s x1 x2) := by
  unfold checkExec
  first | split | (dsimp +zetaDelta only; split)
  · try extract_lets
    refine Keeps.ite ?_ ?_
    · exact finishExec_keeps h _ _
    · refine Keeps.ite ?_ ?_
      · exact finishExec_keeps h _ _
      · try extract_lets
        exact finishExec_keeps h _ _
  · exact h

theorem execCheck_keeps {s0 s : State} (h : Keeps s0 s) (x0 : Sid) : Goes s0 (execCheck x0 s) := by
  unfold execCheck
  refine runAct_keeps ?_ _ _ _ (fun _ _ _ hf => ?_)
  · exact h
  · beta_reduce
    exact checkExec_keeps hf _ _

end Sys2Proof.Laws
end

