-- ==== Sys2Proof/Laws/KeepScript.lean ====
section
/-! SUPPORT. What the operations of Machine/Script.lean keep (Laws/Keep.lean). -/

namespace Sys2Proof.Laws

open Sys2Proof.Machine

theorem putRun_keeps {s0 s : State} (h : Keeps s0 s) (x1 : Run) : Keeps s0 (putRun s x1) := by
  unfold putRun
  exact (h).plain

theorem finishScript_keeps {s0 s : State} (h : Keeps s0 s) (x1 : Active) : Keeps s0 (finishScript s x1) := by
  unfold finishScript
  try extract_lets
  first | split | (dsimp +zetaDelta only; split)
  · try extract_lets
    exact finishOutput_keeps (h).plain _ _ _ _
  · exact finishExec_keeps (h).plain _ _

theorem afterRun_keeps {s0 s : State} (h : Keeps s0 s) (x1 : Active) (x2 : Run) : Keeps s0 (afterRun s x1 x2) := by
  unfold afterRun
  try extract_lets
  refine Keeps.ite ?_ ?_
  · exact putRun_keeps h _
  · try extract_lets
    refine Keeps.ite ?_ ?_
    · exact finishScript_keeps (putAct_keeps (putRun_keeps h _) _) _
    · exact putAct_keeps (putRun_keeps h _) _

theorem reachLoads_keeps {s0 s : State} (h : Keeps s0 s) (x1 : Job) (x2 : Active) (x3 : VeWord) : Keeps s0 (reachLoads s x1 x2 x3) := by
  unfold reachLoads
  try extract_lets
  refine Keeps.ite ?_ ?_
  · refine Keeps.elim ?_ (fun _ => ?_)
    · exact h
    · exact reachOperand_keeps h _ _
  · exact h

theorem veApply_keeps {s0 : State} {e : VeEnv} (h : Keeps s0 e.s) (r : Run) (x : VeRes) : Keeps s0 (veApply e r x) := by
  have h1 : Keeps s0 (if x.draws then { e.s with free := e.s.free + 4096 } else e.s) :=
    .ite (Keeps.put h (Nat.le_add_right _ _) (MKeeps.refl _) (NKeeps.refl _) (WKeeps.refl _)) h
  have h2 : Keeps s0 (if x.popped then e.prod.elim (if x.draws then { e.s with free := e.s.free + 4096 } else e.s) fun p =>
      putAct (if x.draws then { e.s with free := e.s.free + 4096 } else e.s)
        { p with tiles := tadj p.tiles r.index {} fun t => { t with queue := t.queue.drop 1 } }
      else (if x.draws then { e.s with free := e.s.free + 4096 } else e.s)) := .ite (.elim h1 fun _ => putAct_keeps h1 _) h1
  unfold veApply
  cases x.fault with
  | some c => exact afterRun_keeps h2 _ _
  | none => exact afterRun_keeps h2 _ _

theorem veRow_keeps {s0 s : State} (h : Keeps s0 s) (sid : Sid) (n op : Nat) (f : VeEnv → Run → Option VeRes) : Goes s0 (veRow sid n op s f) := by
  unfold veRow
  split
  · split
    · exact Goes.next h
    · extract_lets w u e
      split
      · split
        · exact Goes.next h
        · exact Goes.next (veApply_keeps (e := e) (reachLoads_keeps h _ _ _) _ _)
      · exact Goes.next h
  · exact Goes.next h

end Sys2Proof.Laws
end

