-- ==== Sys2Proof/Laws/KeepAdmission.lean ====
section
/-! SUPPORT. What the operations of Machine/Admission.lean keep (Laws/Keep.lean). -/

namespace Sys2Proof.Laws

open Sys2Proof.Machine

theorem rejectHead_keeps {s0 s : State} (h : Keeps s0 s) (x1 : Nat) (x2 : Queue) (x3 : Reject) : Keeps s0 (rejectHead s x1 x2 x3) := by
  unfold rejectHead
  try extract_lets
  exact jobEvent_keeps (saveQueue_keeps (rejectRecord_keeps h _ _ _) _ _) _ _

theorem poisonHead_keeps {s0 s : State} (h : Keeps s0 s) (x1 : Nat) (x2 : Queue) : Keeps s0 (poisonHead s x1 x2) := by
  unfold poisonHead
  try extract_lets
  exact consumePoison_keeps (saveQueue_keeps (h).plain _ _) _

theorem waitHead_keeps {s0 s : State} (h : Keeps s0 s) (x1 : Nat) (x2 : Queue) : Keeps s0 (waitHead s x1 x2) := by
  unfold waitHead
  refine Keeps.ite ?_ ?_
  · exact putQueue_keeps h _ _
  · exact saveQueue_keeps h _ _

theorem reserveFor_keeps {s0 s : State} (h : Keeps s0 s) (a : Active) : Keeps s0 (reserveFor s a).1 := by
  unfold reserveFor
  split
  · exact h
  · refine Keeps.iteFst h (Keeps.iteFst h ?_)
    split
    all_goals
      rename_i heq
      have h1 := reserve_keeps h a.job (recordMax ‹_›)
      rw [heq] at h1
    · exact addRecord_keeps h1 _ _ _ _
    · exact h1
    · exact h1
    · exact h1

theorem enterAct_keeps {s0 s : State} (h : Keeps s0 s) (x1 : Active) : Keeps s0 (enterAct s x1) := by
  unfold enterAct
  try extract_lets
  refine Keeps.ite ?_ ?_
  · exact complete_keeps (startRecalls_keeps (updJob_keeps (h).plain _ _) _) _
  · exact startRecalls_keeps (updJob_keeps (h).plain _ _) _

theorem accountPlan_keeps {s0 s : State} (h : Keeps s0 s) (x1 x2 x3 x4 : Nat) : Keeps s0 (accountPlan s x1 x2 x3 x4) := by
  unfold accountPlan
  try extract_lets
  exact updJob_keeps h _ _

theorem admitPlanned_keeps {s0 s : State} (h : Keeps s0 s) (x1 : Nat) (x2 : Queue) (x3 : Active) (x4 : Option Active) : Keeps s0 (admitPlanned s x1 x2 x3 x4) := by
  unfold admitPlanned
  try extract_lets
  refine Keeps.ite ?_ ?_
  · first | split | (dsimp +zetaDelta only; split)
    · exact waitHead_keeps h _ _
    · try extract_lets
      exact enterAct_keeps (saveQueue_keeps (h).plain _ _) _
  · refine Keeps.ite ?_ ?_
    · refine Keeps.elim ?_ (fun _ => ?_)
      · exact enterAct_keeps (saveQueue_keeps h _ _) _
      · exact enterAct_keeps (enterAct_keeps (saveQueue_keeps h _ _) _) _
    · first | split | (dsimp +zetaDelta only; split)
      · exact waitHead_keeps h _ _
      · try extract_lets
        refine Keeps.elim ?_ (fun _ => ?_)
        · refine enterAct_keeps ?_ _
          refine saveQueue_keeps ?_ _ _
          refine Keeps.ite ?_ ?_
          · refine Keeps.ite ?_ ?_
            · refine Keeps.put ?_ (Nat.le_refl _) (MKeeps.refl _) (by first | exact ⟨rfl, fun _ h => h⟩ | exact ⟨rfl, fun _ => mem_ninsert⟩) (WKeeps.refl _)
              refine accountPlan_keeps ?_ _ _ _ _
              refine Keeps.put ?_ (Nat.le_refl _) (MKeeps.refl _) (by first | exact ⟨rfl, fun _ h => h⟩ | exact ⟨rfl, fun _ => mem_ninsert⟩) (WKeeps.refl _)
              exact h
            · refine accountPlan_keeps ?_ _ _ _ _
              refine Keeps.put ?_ (Nat.le_refl _) (MKeeps.refl _) (by first | exact ⟨rfl, fun _ h => h⟩ | exact ⟨rfl, fun _ => mem_ninsert⟩) (WKeeps.refl _)
              exact h
          · refine Keeps.plain ?_
            refine Keeps.ite ?_ ?_
            · refine Keeps.put ?_ (Nat.le_refl _) (MKeeps.refl _) (by first | exact ⟨rfl, fun _ h => h⟩ | exact ⟨rfl, fun _ => mem_ninsert⟩) (WKeeps.refl _)
              refine accountPlan_keeps ?_ _ _ _ _
              refine Keeps.put ?_ (Nat.le_refl _) (MKeeps.refl _) (by first | exact ⟨rfl, fun _ h => h⟩ | exact ⟨rfl, fun _ => mem_ninsert⟩) (WKeeps.refl _)
              exact h
            · refine accountPlan_keeps ?_ _ _ _ _
              refine Keeps.put ?_ (Nat.le_refl _) (MKeeps.refl _) (by first | exact ⟨rfl, fun _ h => h⟩ | exact ⟨rfl, fun _ => mem_ninsert⟩) (WKeeps.refl _)
              exact h
        · refine enterAct_keeps ?_ _
          refine Keeps.ite ?_ ?_
          · refine enterAct_keeps ?_ _
            refine saveQueue_keeps ?_ _ _
            refine Keeps.ite ?_ ?_
            · refine Keeps.ite ?_ ?_
              · refine Keeps.put ?_ (Nat.le_refl _) (MKeeps.refl _) (by first | exact ⟨rfl, fun _ h => h⟩ | exact ⟨rfl, fun _ => mem_ninsert⟩) (WKeeps.refl _)
                refine accountPlan_keeps ?_ _ _ _ _
                refine Keeps.put ?_ (Nat.le_refl _) (MKeeps.refl _) (by first | exact ⟨rfl, fun _ h => h⟩ | exact ⟨rfl, fun _ => mem_ninsert⟩) (WKeeps.refl _)
                exact h
              · refine accountPlan_keeps ?_ _ _ _ _
                refine Keeps.put ?_ (Nat.le_refl _) (MKeeps.refl _) (by first | exact ⟨rfl, fun _ h => h⟩ | exact ⟨rfl, fun _ => mem_ninsert⟩) (WKeeps.refl _)
                exact h
            · refine Keeps.plain ?_
              refine Keeps.ite ?_ ?_
              · refine Keeps.put ?_ (Nat.le_refl _) (MKeeps.refl _) (by first | exact ⟨rfl, fun _ h => h⟩ | exact ⟨rfl, fun _ => mem_ninsert⟩) (WKeeps.refl _)
                refine accountPlan_keeps ?_ _ _ _ _
                refine Keeps.put ?_ (Nat.le_refl _) (MKeeps.refl _) (by first | exact ⟨rfl, fun _ h => h⟩ | exact ⟨rfl, fun _ => mem_ninsert⟩) (WKeeps.refl _)
                exact h
              · refine accountPlan_keeps ?_ _ _ _ _
                refine Keeps.put ?_ (Nat.le_refl _) (MKeeps.refl _) (by first | exact ⟨rfl, fun _ h => h⟩ | exact ⟨rfl, fun _ => mem_ninsert⟩) (WKeeps.refl _)
                exact h
          · refine Keeps.plain ?_
            refine enterAct_keeps ?_ _
            refine saveQueue_keeps ?_ _ _
            refine Keeps.ite ?_ ?_
            · refine Keeps.ite ?_ ?_
              · refine Keeps.put ?_ (Nat.le_refl _) (MKeeps.refl _) (by first | exact ⟨rfl, fun _ h => h⟩ | exact ⟨rfl, fun _ => mem_ninsert⟩) (WKeeps.refl _)
                refine accountPlan_keeps ?_ _ _ _ _
                refine Keeps.put ?_ (Nat.le_refl _) (MKeeps.refl _) (by first | exact ⟨rfl, fun _ h => h⟩ | exact ⟨rfl, fun _ => mem_ninsert⟩) (WKeeps.refl _)
                exact h
              · refine accountPlan_keeps ?_ _ _ _ _
                refine Keeps.put ?_ (Nat.le_refl _) (MKeeps.refl _) (by first | exact ⟨rfl, fun _ h => h⟩ | exact ⟨rfl, fun _ => mem_ninsert⟩) (WKeeps.refl _)
                exact h
            · refine Keeps.plain ?_
              refine Keeps.ite ?_ ?_
              · refine Keeps.put ?_ (Nat.le_refl _) (MKeeps.refl _) (by first | exact ⟨rfl, fun _ h => h⟩ | exact ⟨rfl, fun _ => mem_ninsert⟩) (WKeeps.refl _)
                refine accountPlan_keeps ?_ _ _ _ _
                refine Keeps.put ?_ (Nat.le_refl _) (MKeeps.refl _) (by first | exact ⟨rfl, fun _ h => h⟩ | exact ⟨rfl, fun _ => mem_ninsert⟩) (WKeeps.refl _)
                exact h
              · refine accountPlan_keeps ?_ _ _ _ _
                refine Keeps.put ?_ (Nat.le_refl _) (MKeeps.refl _) (by first | exact ⟨rfl, fun _ h => h⟩ | exact ⟨rfl, fun _ => mem_ninsert⟩) (WKeeps.refl _)
                exact h

theorem admitChecked_keeps {s0 s : State} (h : Keeps s0 s) (qn : Nat) (a : Active) (b : Option Active) : Keeps s0 (admitChecked s qn a b) := by
  unfold admitChecked
  extract_lets w
  have h1 := reserveFor_keeps h w
  split
  all_goals
    rename_i heq
    rw [heq] at h1
  · exact .elim h1 fun _ => admitPlanned_keeps h1 _ _ _ _
  · exact .elim h1 fun _ => waitHead_keeps h1 _ _
  · extract_lets
    have h2 := fun q : Queue => rejectHead_keeps h1 qn q { status := adStashFull, handle := w.out.elim 0 (·.desc.handle), place := 4 }
    exact .ite (haltStash_keeps (.elim h1 h2) _) (.elim h1 h2)

theorem admitHead_keeps {s0 s : State} (h : Keeps s0 s) (x1 : Job) (x2 : Nat) (x3 : Queue) : Keeps s0 (admitHead s x1 x2 x3) := by
  unfold admitHead
  try extract_lets
  first | split | (dsimp +zetaDelta only; split)
  · exact poisonHead_keeps h _ _
  · exact rejectHead_keeps h _ _ _
  · refine Keeps.ite ?_ ?_
    · exact admitChecked_keeps h _ _ _
    · first | split | (dsimp +zetaDelta only; split)
      · exact poisonHead_keeps h _ _
      · exact rejectHead_keeps h _ _ _
      · exact admitChecked_keeps h _ _ _

theorem dropReservation_keeps {s0 s : State} (h : Keeps s0 s) (x1 : Active) : Keeps s0 (dropReservation s x1) := by
  unfold dropReservation
  exact updJob_keeps h _ _

theorem reachSlot_keeps {s0 s : State} (h : Keeps s0 s) (x1 : Job) (x2 : Queue) (x3 : Nat) : Keeps s0 (reachSlot s x1 x2 x3) := by
  unfold reachSlot
  try extract_lets
  refine Keeps.ite ?_ ?_
  · refine Keeps.elim ?_ (fun _ => ?_)
    · refine Keeps.ite ?_ ?_
      · refine Keeps.elim ?_ (fun _ => ?_)
        · refine Keeps.foldl ?_ (fun _ _ h0 => ?_)
          · exact reachRange_keeps h _ _
          · refine Keeps.elim ?_ (fun _ => ?_)
            · exact h0
            · refine Keeps.elim ?_ (fun _ => ?_)
              · exact reachRange_keeps h0 _ _
              · exact reachRange_keeps (reachRange_keeps h0 _ _) _ _
        · refine reachDesc_keeps ?_ _
          refine Keeps.foldl ?_ (fun _ _ h0 => ?_)
          · exact reachRange_keeps h _ _
          · refine Keeps.elim ?_ (fun _ => ?_)
            · exact h0
            · refine Keeps.elim ?_ (fun _ => ?_)
              · exact reachRange_keeps h0 _ _
              · exact reachRange_keeps (reachRange_keeps h0 _ _) _ _
      · refine Keeps.foldl ?_ (fun _ _ h0 => ?_)
        · exact reachRange_keeps h _ _
        · refine Keeps.elim ?_ (fun _ => ?_)
          · exact h0
          · refine Keeps.elim ?_ (fun _ => ?_)
            · exact reachRange_keeps h0 _ _
            · exact reachRange_keeps (reachRange_keeps h0 _ _) _ _
    · refine reachDesc_keeps ?_ _
      refine Keeps.ite ?_ ?_
      · refine Keeps.elim ?_ (fun _ => ?_)
        · refine Keeps.foldl ?_ (fun _ _ h0 => ?_)
          · exact reachRange_keeps h _ _
          · refine Keeps.elim ?_ (fun _ => ?_)
            · exact h0
            · refine Keeps.elim ?_ (fun _ => ?_)
              · exact reachRange_keeps h0 _ _
              · exact reachRange_keeps (reachRange_keeps h0 _ _) _ _
        · refine reachDesc_keeps ?_ _
          refine Keeps.foldl ?_ (fun _ _ h0 => ?_)
          · exact reachRange_keeps h _ _
          · refine Keeps.elim ?_ (fun _ => ?_)
            · exact h0
            · refine Keeps.elim ?_ (fun _ => ?_)
              · exact reachRange_keeps h0 _ _
              · exact reachRange_keeps (reachRange_keeps h0 _ _) _ _
      · refine Keeps.foldl ?_ (fun _ _ h0 => ?_)
        · exact reachRange_keeps h _ _
        · refine Keeps.elim ?_ (fun _ => ?_)
          · exact h0
          · refine Keeps.elim ?_ (fun _ => ?_)
            · exact reachRange_keeps h0 _ _
            · exact reachRange_keeps (reachRange_keeps h0 _ _) _ _
  · refine Keeps.ite ?_ ?_
    · refine Keeps.elim ?_ (fun _ => ?_)
      · refine Keeps.foldl ?_ (fun _ _ h0 => ?_)
        · exact reachRange_keeps h _ _
        · refine Keeps.elim ?_ (fun _ => ?_)
          · exact h0
          · refine Keeps.elim ?_ (fun _ => ?_)
            · exact reachRange_keeps h0 _ _
            · exact reachRange_keeps (reachRange_keeps h0 _ _) _ _
      · refine reachDesc_keeps ?_ _
        refine Keeps.foldl ?_ (fun _ _ h0 => ?_)
        · exact reachRange_keeps h _ _
        · refine Keeps.elim ?_ (fun _ => ?_)
          · exact h0
          · refine Keeps.elim ?_ (fun _ => ?_)
            · exact reachRange_keeps h0 _ _
            · exact reachRange_keeps (reachRange_keeps h0 _ _) _ _
    · refine Keeps.foldl ?_ (fun _ _ h0 => ?_)
      · exact reachRange_keeps h _ _
      · refine Keeps.elim ?_ (fun _ => ?_)
        · exact h0
        · refine Keeps.elim ?_ (fun _ => ?_)
          · exact reachRange_keeps h0 _ _
          · exact reachRange_keeps (reachRange_keeps h0 _ _) _ _

theorem reachHead_keeps {s0 s : State} (h : Keeps s0 s) (x1 : Job) (x2 : Queue) : Keeps s0 (reachHead s x1 x2) := by
  unfold reachHead
  try extract_lets
  refine Keeps.ite ?_ ?_
  · exact reachSlot_keeps (reachSlot_keeps h _ _ _) _ _ _
  · exact reachSlot_keeps h _ _ _

theorem admitPassed_keeps {s0 s : State} (h : Keeps s0 s) (x1 : Job) (x2 : Nat) (x3 : Queue) (x4 : Active) : Keeps s0 (admitPassed s x1 x2 x3 x4) := by
  unfold admitPassed
  refine Keeps.ite ?_ ?_
  · exact admitChecked_keeps h _ _ _
  · try extract_lets
    first | split | (dsimp +zetaDelta only; split)
    · refine Keeps.elim ?_ (fun _ => ?_)
      · exact dropReservation_keeps h _
      · exact dropReservation_keeps (dropReservation_keeps h _) _
    · refine admitHead_keeps ?_ _ _ _
      refine Keeps.elim ?_ (fun _ => ?_)
      · exact dropReservation_keeps h _
      · exact dropReservation_keeps (dropReservation_keeps h _) _

theorem execStitchAdmit_keeps {s0 s : State} (h : Keeps s0 s) (x0 : Nat) : Goes s0 (execStitchAdmit x0 s) := by
  unfold execStitchAdmit
  first | split | (dsimp +zetaDelta only; split)
  · exact Goes.next (h)
  · first | split | (dsimp +zetaDelta only; split)
    · exact Goes.next (h)
    · refine Goes.ite ?_ ?_
      · exact Goes.next (h)
      · refine Goes.ite ?_ ?_
        · exact Goes.next (waitHead_keeps h _ _)
        · first | split | (dsimp +zetaDelta only; split)
          · exact Goes.next (admitPassed_keeps h _ _ _ _)
          · try extract_lets
            refine Goes.next ?_
            refine Keeps.ite ?_ ?_
            · exact admitHead_keeps (reachHead_keeps h _ _) _ _ _
            · exact waitHead_keeps h _ _

theorem replanHeads_keeps {s0 s : State} (h : Keeps s0 s) : Keeps s0 (replanHeads s) := by
  unfold replanHeads
  refine Keeps.ite ?_ ?_
  · exact h
  · refine Keeps.foldl ?_ (fun _ _ h0 => ?_)
    · exact h
    · first | split | (dsimp +zetaDelta only; split)
      · exact h0
      · first | split | (dsimp +zetaDelta only; split)
        · refine Keeps.ite ?_ ?_
          · exact admitPassed_keeps h0 _ _ _ _
          · exact h0
        · exact h0

theorem afterEnds_keeps {s0 t : State} (h : Keeps s0 t) (s : State) : Keeps s0 (afterEnds t s) := by
  unfold afterEnds
  have h1 := Keeps.foldl (f := fun t (j : Nat × Job) => continueMoves t j.1) (l := t.jobs.filter fun j => j.2.blot.inForce.isSome) h fun _ _ k =>
    continueMoves_keeps k _
  exact .ite h1 (replanHeads_keeps h1)

theorem execNop_keeps {s0 s : State} (h : Keeps s0 s) (x0 : Sid) : Goes s0 (execNop x0 s) := by
  unfold execNop
  first | split | (dsimp +zetaDelta only; split)
  · exact Goes.next (h)
  · refine onlyIf_goes ?_ ?_ _
    · exact h
    · exact complete_keeps h _

theorem reserveAll_keeps {s0 s : State} (h : Keeps s0 s) (l : List Active) : Keeps s0 (reserveAll s l).1 := by
  induction l generalizing s with
  | nil => exact h
  | cons a l ih =>
    have h1 := reserveFor_keeps h a
    unfold reserveAll
    split
    · next heq => rw [heq] at h1; exact ih h1
    · exact h1

theorem execStashRecompute_keeps {s0 s : State} (h : Keeps s0 s) (sid : Sid) : Goes s0 (execStashRecompute sid s) := by
  have hr : ∀ l u c, reserveAll s l = (u, c) → Keeps s0 u := fun l u c e => by have := reserveAll_keeps h l; rw [e] at this; exact this
  unfold execStashRecompute
  split
  · exact Goes.next h
  · split
    · exact Goes.next h
    · dsimp only
      split
      · exact Goes.next h
      · refine Goes.ite (Goes.next h) ?_
        split
        · next e => exact Goes.next (hr _ _ _ e)
        · next e => exact Goes.next (haltStash_keeps (hr _ _ _ e) _)
        · next e => exact Goes.next (stashEvent_keeps (hr _ _ _ e) _ _ _ _ _).plain

end Sys2Proof.Laws
end

