-- ==== Sys2Proof/Laws/KeepLinks.lean ====
section
/-! SUPPORT. What the operations of Machine/Links.lean keep (Laws/Keep.lean). -/

namespace Sys2Proof.Laws

open Sys2Proof.Machine

theorem goDown_keeps {s0 s : State} (h : Keeps s0 s) (x1 : Nat) : Keeps s0 (goDown s x1) := by
  unfold goDown
  try extract_lets
  refine health_keeps ?_ _
  refine putPort_keeps ?_ _ _
  refine Keeps.ite ?_ ?_
  · exact (h).plain
  · exact h

theorem disablePort_keeps {s0 s : State} (h : Keeps s0 s) (x1 : Nat) : Keeps s0 (disablePort s x1) := by
  unfold disablePort
  refine Keeps.ite ?_ ?_
  · exact h
  · try extract_lets
    exact putPort_keeps (goDown_keeps h _) _ _

theorem goUp_keeps {s0 s : State} (h : Keeps s0 s) (x1 x2 x3 x4 : Nat) : Keeps s0 (goUp s x1 x2 x3 x4) := by
  unfold goUp
  try extract_lets
  refine Keeps.ite ?_ ?_
  · exact putPort_keeps h _ _
  · exact health_keeps (putPort_keeps h _ _) _

theorem execPortTrainStart_keeps {s0 s : State} (h : Keeps s0 s) (x0 : Nat) : Goes s0 (execPortTrainStart x0 s) := by
  unfold execPortTrainStart
  refine onlyIf_goes ?_ ?_ _
  · exact h
  · exact putPort_keeps h _ _

theorem execPortTrainComplete_keeps {s0 s : State} (h : Keeps s0 s) (x0 x1 x2 x3 : Nat) : Goes s0 (execPortTrainComplete x0 x1 x2 x3 s) := by
  unfold execPortTrainComplete
  refine onlyIf_goes ?_ ?_ _
  · exact h
  · refine Keeps.ite ?_ ?_
    · exact goUp_keeps h _ _ _ _
    · exact goDown_keeps h _

theorem execPortTrainTimeout_keeps {s0 s : State} (h : Keeps s0 s) (x0 : Nat) : Goes s0 (execPortTrainTimeout x0 s) := by
  unfold execPortTrainTimeout
  refine onlyIf_goes ?_ ?_ _
  · exact h
  · exact goDown_keeps h _

theorem enterRetrain_keeps {s0 s : State} (h : Keeps s0 s) (x1 : Nat) : Keeps s0 (enterRetrain s x1) := by
  unfold enterRetrain
  try extract_lets
  refine Keeps.ite ?_ ?_
  · exact goDown_keeps (putPort_keeps h _ _) _
  · exact putPort_keeps h _ _

theorem execRetrain_keeps {s0 s : State} (h : Keeps s0 s) (x0 : Nat) : Goes s0 (execRetrain x0 s) := by
  unfold execRetrain
  refine onlyIf_goes ?_ ?_ _
  · exact h
  · exact enterRetrain_keeps h _

theorem execRetrainComplete_keeps {s0 s : State} (h : Keeps s0 s) (x0 : Nat) (x1 : Hello) (x2 : Bool) : Goes s0 (execRetrainComplete x0 x1 x2 s) := by
  unfold execRetrainComplete
  try extract_lets
  refine onlyIf_goes ?_ ?_ _
  · exact h
  · refine Keeps.ite ?_ ?_
    · exact putPort_keeps h _ _
    · exact goDown_keeps h _

theorem execLinkDownFlit_keeps {s0 s : State} (h : Keeps s0 s) (x0 : Nat) : Goes s0 (execLinkDownFlit x0 s) := by
  unfold execLinkDownFlit
  try extract_lets
  refine onlyIf_goes ?_ ?_ _
  · exact h
  · exact goDown_keeps h _

theorem execPortRetryTimer_keeps {s0 s : State} (h : Keeps s0 s) (x0 : Nat) : Goes s0 (execPortRetryTimer x0 s) := by
  unfold execPortRetryTimer
  try extract_lets
  refine onlyIf_goes ?_ ?_ _
  · exact h
  · exact putPort_keeps (advance_keeps h _) _ _

theorem bucketTake_keeps {s0 s : State} (h : Keeps s0 s) (x1 : Nat) (x2 : Flit) : Keeps s0 (bucketTake s x1 x2) := by
  unfold bucketTake
  refine Keeps.ite ?_ ?_
  · exact (h).plain
  · exact h

theorem emitFlit_keeps {s0 s : State} (h : Keeps s0 s) (x1 : Nat) (x2 : Port) (x3 : Flit) : Keeps s0 (emitFlit s x1 x2 x3) := by
  unfold emitFlit
  try extract_lets
  exact (putPort_keeps h _ _).plain

theorem sentAgain_keeps {s0 s : State} (h : Keeps s0 s) (x1 x2 : Nat) : Keeps s0 (sentAgain s x1 x2) := by
  unfold sentAgain
  try extract_lets
  refine Keeps.ite ?_ ?_
  · exact enterRetrain_keeps (putPort_keeps h _ _) _
  · exact putPort_keeps h _ _

theorem execFlitSend_keeps {s0 s : State} (h : Keeps s0 s) (x0 : Nat) : Goes s0 (execFlitSend x0 s) := by
  unfold execFlitSend
  try extract_lets
  refine Goes.ite ?_ ?_
  · exact Goes.next (h)
  · refine Goes.next ?_
    first | split | (dsimp +zetaDelta only; split)
    · exact emitFlit_keeps h _ _ _
    · refine Keeps.ite ?_ ?_
      · exact emitFlit_keeps h _ _ _
      · first | split | (dsimp +zetaDelta only; split)
        · exact sentAgain_keeps (emitFlit_keeps h _ _ _) _ _
        · first | split | (dsimp +zetaDelta only; split)
          · exact emitFlit_keeps h _ _ _
          · first | split | (dsimp +zetaDelta only; split)
            · exact h
            · try extract_lets
              exact sentAgain_keeps (emitFlit_keeps (bucketTake_keeps h _ _) _ _ _) _ _

theorem execNak_keeps {s0 s : State} (h : Keeps s0 s) (x0 x1 : Nat) : Goes s0 (execNak x0 x1 s) := by
  unfold execNak
  try extract_lets
  refine onlyIf_goes ?_ ?_ _
  · exact h
  · exact putPort_keeps h _ _

theorem joinFlit_keeps {s0 s : State} (h : Keeps s0 s) (x1 : Nat) (x2 : Port) (x3 : Flit) : Keeps s0 (joinFlit s x1 x2 x3) := by
  unfold joinFlit
  try extract_lets
  refine Keeps.ite ?_ ?_
  · exact putPort_keeps h _ _
  · refine Keeps.ite ?_ ?_
    · try extract_lets
      exact (putPort_keeps h _ _).plain
    · exact putPort_keeps h _ _

theorem dataFlit_keeps {s0 s : State} (h : Keeps s0 s) (x1 : Nat) (x2 : Port) (x3 : Flit) : Keeps s0 (dataFlit s x1 x2 x3) := by
  unfold dataFlit
  refine Keeps.ite ?_ ?_
  · try extract_lets
    refine Keeps.ite ?_ ?_
    · exact putPort_keeps (h).plain _ _
    · exact joinFlit_keeps h _ _ _
  · refine Keeps.ite ?_ ?_
    · exact putPort_keeps h _ _
    · exact putPort_keeps h _ _

theorem uncorrectable_keeps {s0 s : State} (h : Keeps s0 s) (x1 x2 : Nat) : Keeps s0 (uncorrectable s x1 x2) := by
  unfold uncorrectable
  try extract_lets
  refine Keeps.ite ?_ ?_
  · exact enterRetrain_keeps (putPort_keeps h _ _) _
  · exact putPort_keeps h _ _

theorem goodFlit_keeps {s0 s : State} (h : Keeps s0 s) (x1 : Nat) (x2 : Flit) : Keeps s0 (goodFlit s x1 x2) := by
  unfold goodFlit
  try extract_lets
  first | split | (dsimp +zetaDelta only; split)
  · exact dataFlit_keeps h _ _ _
  · exact putPort_keeps h _ _
  · exact goDown_keeps (putPort_keeps h _ _) _
  · exact putPort_keeps h _ _

theorem execFlitReceive_keeps {s0 s : State} (h : Keeps s0 s) (x0 : Nat) (x1 : Flit) (x2 : Fec) : Goes s0 (execFlitReceive x0 x1 x2 s) := by
  unfold execFlitReceive
  try extract_lets
  refine Goes.ite ?_ ?_
  · exact Goes.next (h)
  · try extract_lets
    refine Goes.next ?_
    refine Keeps.ite ?_ ?_
    · refine uncorrectable_keeps ?_ _ _
      refine Keeps.ite ?_ ?_
      · exact putPort_keeps h _ _
      · exact goodFlit_keeps h _ _
    · refine Keeps.ite ?_ ?_
      · exact putPort_keeps h _ _
      · exact goodFlit_keeps h _ _

theorem execFlitStallTimeout_keeps {s0 s : State} (h : Keeps s0 s) (x0 x1 : Nat) : Goes s0 (execFlitStallTimeout x0 x1 s) := by
  unfold execFlitStallTimeout
  try extract_lets
  refine onlyIf_goes ?_ ?_ _
  · exact h
  · exact putPort_keeps h _ _

end Sys2Proof.Laws
end

