-- ==== Sys2Proof/Laws/KeepMoves.lean ====
section
/-! SUPPORT. What the operations of Machine/Moves.lean keep (Laws/Keep.lean). -/

namespace Sys2Proof.Laws

open Sys2Proof.Machine

theorem finishMove_keeps {s0 s : State} (h : Keeps s0 s) (x1 : Active) (x2 : Operand) (x3 : Produced) (x4 : WriteSet) (x5 : Nat) : Keeps s0 (finishMove s x1 x2 x3 x4 x5) := by
  unfold finishMove
  exact finishOutput_keeps h _ _ _ _

theorem turned_keeps {s0 s : State} (h : Keeps s0 s) (a : Active) (v : View) (d : Desc) : Keeps s0 (turned s a v d) := by
  unfold turned
  extract_lets
  refine Keeps.ite h (Keeps.put h (Nat.le_refl _) (MKeeps.refl _) ?_ (WKeeps.refl _))
  have hl : ∀ (g : Nibs → (List Word32 × Nat) → Nibs), (∀ n x, (g n x).grade = n.grade ∧ (g n x).retired = n.retired) →
      ∀ (l : List (List Word32 × Nat)) n, NKeeps s.nibs n → NKeeps s.nibs (l.foldl g n) := by
    intro g hg l
    induction l with
    | nil => exact fun n k => k
    | cons x r ih => exact fun n k => ih _ ⟨(hg n x).1.trans k.1, fun y m => (hg n x).2 ▸ k.2 y m⟩
  refine hl _ ?_ _ _ (NKeeps.refl _)
  exact fun _ _ => ⟨rfl, rfl⟩

theorem copyExec_keeps {s0 s : State} (h : Keeps s0 s) (x1 : Job) (x2 : Active) : Keeps s0 (copyExec s x1 x2) := by
  unfold copyExec
  first | split | (dsimp +zetaDelta only; split)
  · try extract_lets
    exact turned_keeps (finishMove_keeps h _ _ _ _ _) _ _ _
  · exact h

theorem execCopy_keeps {s0 s : State} (h : Keeps s0 s) (x0 : Sid) : Goes s0 (execCopy x0 s) := by
  unfold execCopy
  refine runAct_keeps ?_ _ _ _ (fun _ _ _ hf => ?_)
  · exact h
  · beta_reduce
    exact copyExec_keeps hf _ _

theorem execFetch_keeps {s0 s : State} (h : Keeps s0 s) (x0 : Sid) : Goes s0 (execFetch x0 s) := by
  unfold execFetch
  refine runAct_keeps ?_ _ _ _ (fun _ _ _ hf => ?_)
  · exact h
  · beta_reduce
    exact copyExec_keeps hf _ _

theorem gatherExec_keeps {s0 s : State} (h : Keeps s0 s) (x1 : Job) (x2 : Active) : Keeps s0 (gatherExec s x1 x2) := by
  unfold gatherExec
  first | split | (dsimp +zetaDelta only; split)
  · try extract_lets
    exact finishMove_keeps h _ _ _ _ _
  · exact h

theorem execGather_keeps {s0 s : State} (h : Keeps s0 s) (x0 : Sid) : Goes s0 (execGather x0 s) := by
  unfold execGather
  refine runAct_keeps ?_ _ _ _ (fun _ _ _ hf => ?_)
  · exact h
  · beta_reduce
    exact gatherExec_keeps hf _ _

theorem scatterExec_keeps {s0 s : State} (h : Keeps s0 s) (x1 : Job) (x2 : Active) : Keeps s0 (scatterExec s x1 x2) := by
  unfold scatterExec
  first | split | (dsimp +zetaDelta only; split)
  · try extract_lets
    exact finishMove_keeps h _ _ _ _ _
  · exact h

theorem execScatter_keeps {s0 s : State} (h : Keeps s0 s) (x0 : Sid) : Goes s0 (execScatter x0 s) := by
  unfold execScatter
  refine runAct_keeps ?_ _ _ _ (fun _ _ _ hf => ?_)
  · exact h
  · beta_reduce
    exact scatterExec_keeps hf _ _

end Sys2Proof.Laws
end

