-- ==== Sys2Proof/Laws/KeepWatch.lean ====
section
/-! SUPPORT. What the operations of Machine/Watch.lean keep (Laws/Keep.lean). -/

namespace Sys2Proof.Laws

open Sys2Proof.Machine

theorem settleGroup_keeps {s0 s : State} (h : Keeps s0 s) (x1 : Active) : Keeps s0 (settleGroup s x1) := by
  unfold settleGroup
  try extract_lets
  refine Keeps.ite ?_ ?_
  · refine Keeps.foldl ?_ (fun _ _ h0 => ?_)
    · exact h
    · refine Keeps.elim ?_ (fun _ => ?_)
      · exact h0
      · exact releaseAct_keeps h0 _
  · exact h

theorem evaluateAct_keeps {s0 s : State} (h : Keeps s0 s) (x1 : Job) (x2 : Active) : Keeps s0 (evaluateAct s x1 x2) := by
  unfold evaluateAct
  try extract_lets
  refine Keeps.ite ?_ ?_
  · exact putAct_keeps h _
  · try extract_lets
    exact settleGroup_keeps (putAct_keeps h _) _

theorem endRecompute_keeps {s0 s : State} (h : Keeps s0 s) (x1 : Active) : Keeps s0 (endRecompute s x1) := by
  unfold endRecompute
  try extract_lets
  refine Keeps.put ?_ (Nat.le_refl _) (MKeeps.refl _) (by first | exact ⟨rfl, fun _ h => h⟩ | exact ⟨rfl, fun _ => mem_ninsert⟩) (WKeeps.refl _)
  refine updJob_keeps ?_ _ _
  try extract_lets
  exact (dropAct_keeps h _).plain

theorem endAct_keeps {s0 s : State} (h : Keeps s0 s) (x1 : Active) : Keeps s0 (endAct s x1) := by
  unfold endAct
  first | split | (dsimp +zetaDelta only; split)
  · exact completeWith_keeps h _ _
  · refine Keeps.ite ?_ ?_
    · exact putAct_keeps h _
    · refine Keeps.ite ?_ ?_
      · exact endDiscarded_keeps h _
      · refine Keeps.ite ?_ ?_
        · exact endRecompute_keeps h _
        · refine Keeps.ite ?_ ?_
          · exact consumePoison_keeps h _
          · refine Keeps.ite ?_ ?_
            · exact leaveMuted_keeps h _
            · refine Keeps.ite ?_ ?_
              · exact releaseAct_keeps h _
              · refine Keeps.ite ?_ ?_
                · exact putAct_keeps h _
                · exact evaluateAct_keeps h _ _

theorem execStitchComplete_keeps {s0 s : State} (h : Keeps s0 s) (x0 : Sid) (x1 : Nat) : Goes s0 (execStitchComplete x0 x1 s) := by
  unfold execStitchComplete
  first | split | (dsimp +zetaDelta only; split)
  · exact Goes.next (h)
  · refine Goes.ite ?_ ?_
    · exact Goes.next (h)
    · refine Goes.next ?_
      try extract_lets
      exact afterEnds_keeps (endAct_keeps (advance_keeps h _) _) _

theorem holdAcc_keeps {s0 s : State} (h : Keeps s0 s) (x1 : Active) : Keeps s0 (holdAcc s x1).1 := by
  unfold holdAcc
  refine Keeps.iteFst ?_ ?_
  · exact updJob_keeps h _ _
  · exact h

theorem countOccurrences_keeps {s0 s : State} (h : Keeps s0 s) (x1 : Active) (x2 : Response) : Keeps s0 (countOccurrences s x1 x2).1 := by
  unfold countOccurrences
  try extract_lets
  exact occurAll_keeps h _ _ _

theorem enterHeld_keeps {s0 s : State} (h : Keeps s0 s) (x1 : Active) (x2 : Response) : Keeps s0 (enterHeld s x1 x2).1 := by
  unfold enterHeld
  first | split | (dsimp +zetaDelta only; split)
  · exact holdAcc_keeps h _
  · exact holdAcc_keeps h _
  · exact h

theorem applyResponse_keeps {s0 s : State} (h : Keeps s0 s) (x1 : Active) (x2 : Response) : Keeps s0 (applyResponse s x1 x2).1 := by
  unfold applyResponse
  try extract_lets
  first | split | (dsimp +zetaDelta only; split)
  · exact enterHeld_keeps h _ _
  · exact enterHeld_keeps h _ _
  · exact requestReplay_keeps (enterHeld_keeps h _ _) _ _ _
  · exact enterHeld_keeps h _ _
  · exact enterHeld_keeps h _ _

theorem execWatchResponse_keeps {s0 s : State} (h : Keeps s0 s) (x0 : Sid) : Goes s0 (execWatchResponse x0 s) := by
  unfold execWatchResponse
  first | split | (dsimp +zetaDelta only; split)
  · exact Goes.next (h)
  · first | split | (dsimp +zetaDelta only; split)
    · exact Goes.next (h)
    · try extract_lets
      refine Goes.ite ?_ ?_
      · exact Goes.next (h)
      · refine Goes.ite ?_ ?_
        · exact Goes.next (afterEnds_keeps (leaveMuted_keeps h _) _)
        · try extract_lets
          exact Goes.next (afterEnds_keeps (settleGroup_keeps (putAct_keeps (applyResponse_keeps (countOccurrences_keeps h _ _) _ _) _) _) _)

theorem newScales_keeps {s0 s : State} (h : Keeps s0 s) (x1 : Active) : Keeps s0 (newScales s x1) := by
  unfold newScales
  try extract_lets
  refine Keeps.ite ?_ ?_
  · refine recomputeGrads_keeps ?_ _ _
    refine Keeps.ite ?_ ?_
    · exact recomputeOf_keeps h _
    · exact h
  · refine Keeps.ite ?_ ?_
    · exact recomputeOf_keeps h _
    · exact h

theorem execStitchGroupReplay_keeps {s0 s : State} (h : Keeps s0 s) (x0 : Sid) : Goes s0 (execStitchGroupReplay x0 s) := by
  unfold execStitchGroupReplay
  first | split | (dsimp +zetaDelta only; split)
  · exact Goes.next (h)
  · try extract_lets
    refine Goes.ite ?_ ?_
    · exact Goes.next (h)
    · try extract_lets
      refine Goes.next ?_
      refine Keeps.plain ?_
      refine Keeps.foldl ?_ (fun _ _ h0 => ?_)
      · exact h
      · exact newScales_keeps h0 _

theorem replayOutcome_keeps {s0 s : State} (h : Keeps s0 s) (x1 : Job) (x2 : Active) : Keeps s0 (replayOutcome s x1 x2) := by
  unfold replayOutcome
  try extract_lets
  refine Keeps.ite ?_ ?_
  · exact releaseAct_keeps h _
  · try extract_lets
    first | split | (dsimp +zetaDelta only; split)
    · exact putAct_keeps (applyResponse_keeps (countOccurrences_keeps h _ _) _ _) _
    · exact releaseAct_keeps (applyResponse_keeps (countOccurrences_keeps h _ _) _ _) _

theorem execStitchGroupReplayDone_keeps {s0 s : State} (h : Keeps s0 s) (x0 : Sid) : Goes s0 (execStitchGroupReplayDone x0 s) := by
  unfold execStitchGroupReplayDone
  first | split | (dsimp +zetaDelta only; split)
  · exact Goes.next (h)
  · try extract_lets
    refine Goes.ite ?_ ?_
    · exact Goes.next (h)
    · refine Goes.ite ?_ ?_
      · refine Goes.next ?_
        refine Keeps.foldl ?_ (fun _ _ h0 => ?_)
        · exact h
        · exact putAct_keeps h0 _
      · refine Goes.next ?_
        refine afterEnds_keeps ?_ _
        refine Keeps.foldl ?_ (fun _ _ h0 => ?_)
        · exact h
        · first | split | (dsimp +zetaDelta only; split)
          · refine Keeps.ite ?_ ?_
            · exact consumePoison_keeps h0 _
            · refine Keeps.ite ?_ ?_
              · exact endDiscarded_keeps h0 _
              · refine Keeps.ite ?_ ?_
                · exact leaveMuted_keeps h0 _
                · refine Keeps.ite ?_ ?_
                  · exact releaseAct_keeps h0 _
                  · exact replayOutcome_keeps h0 _ _
          · exact h0

theorem execStepReplay_keeps {s0 s : State} (h : Keeps s0 s) (x0 : Nat) : Goes s0 (execStepReplay x0 s) := by
  unfold execStepReplay
  first | split | (dsimp +zetaDelta only; split)
  · exact Goes.next (h)
  · refine onlyIf_goes ?_ ?_ _
    · exact h
    · exact startStepReplay_keeps h _

end Sys2Proof.Laws
end

