-- ==== Sys2Proof/Laws/KeepGround.lean ====
section
/-! SUPPORT. What the operations of Machine/Ground.lean keep (Laws/Keep.lean). -/

namespace Sys2Proof.Laws

open Sys2Proof.Machine

theorem putStream_keeps {s0 s : State} (h : Keeps s0 s) (x1 : Option Sid) (x2 : Operand) (x3 : Nat) (x4 : List Byte) (x5 : List Nat) : Keeps s0 (putStream s x1 x2 x3 x4 x5) := by
  unfold putStream
  try extract_lets
  exact applyWrites_keeps h _ _

theorem startGround_keeps {s0 s : State} (h : Keeps s0 s) (x1 : Active) : Keeps s0 (startGround s x1).1 := by
  unfold startGround
  try extract_lets
  exact putAct_keeps (startAct_keeps h _) _

theorem groundEnd_keeps {s0 s : State} (h : Keeps s0 s) (x1 : Active) : Keeps s0 (groundEnd s x1) := by
  unfold groundEnd
  exact putAct_keeps h _

theorem groundCheck_keeps {s0 s : State} (h : Keeps s0 s) (x1 : Sid) : Keeps s0 (groundCheck s x1) := by
  unfold groundCheck
  first | split | (dsimp +zetaDelta only; split)
  · exact h
  · refine Keeps.ite ?_ ?_
    · exact groundEnd_keeps h _
    · exact h

theorem groundSent_keeps {s0 s : State} (h : Keeps s0 s) (x1 : Sid) : Keeps s0 (groundSent s x1) := by
  unfold groundSent
  first | split | (dsimp +zetaDelta only; split)
  · exact h
  · exact groundCheck_keeps (putAct_keeps h _) _

theorem injectFor_keeps {s0 s : State} (h : Keeps s0 s) (x1 : Nat) (x2 : Sid) (x3 : Nat) (x4 : List OutMsg) : Keeps s0 (injectFor s x1 x2 x3 x4) := by
  unfold injectFor
  try extract_lets
  first | split | (dsimp +zetaDelta only; split)
  · exact injectAll_keeps h _
  · exact stationLost_keeps (injectAll_keeps h _) _ _ _ _

theorem abortGround_keeps {s0 s : State} (h : Keeps s0 s) (x1 : Active) (x2 x3 x4 : Nat) : Keeps s0 (abortGround s x1 x2 x3 x4) := by
  unfold abortGround
  try extract_lets
  refine jobEvent_keeps ?_ _ _
  refine Keeps.ite ?_ ?_
  · exact endDiscarded_keeps h _
  · exact completeWith_keeps h _ _

theorem execGroundInject_keeps {s0 s : State} (h : Keeps s0 s) (x0 : Sid) : Goes s0 (execGroundInject x0 s) := by
  unfold execGroundInject
  first | split | (dsimp +zetaDelta only; split)
  · exact Goes.next (h)
  · refine onlyIf_goes ?_ ?_ _
    · exact h
    · exact putAct_keeps (advance_keeps h _) _

theorem runGround_keeps {s0 s : State} (h : Keeps s0 s) (sid : Sid) (op : Nat) (f : State → Job → Active → State)
    (k : ∀ t j a, Keeps s0 t → Keeps s0 (f t j a)) : Goes s0 (runGround s sid op f) :=
  .ite (runAct_keeps h _ _ _ k) (Goes.next h)

end Sys2Proof.Laws
end

