-- ==== Sys2Proof/Laws/KeepUpdate.lean ====
section
/-! SUPPORT. What the operations of Machine/Update.lean keep (Laws/Keep.lean). -/

namespace Sys2Proof.Laws

open Sys2Proof.Machine

theorem updateExec_keeps {s0 s : State} (h : Keeps s0 s) (x1 : Job) (x2 : Active) : Keeps s0 (updateExec s x1 x2) := by
  unfold updateExec
  first | split | (dsimp +zetaDelta only; split)
  · try extract_lets
    refine Keeps.ite ?_ ?_
    · exact finishExec_keeps h _ _
    · refine Keeps.ite ?_ ?_
      · try extract_lets
        exact putAct_keeps (startAct_keeps h _) _
      · try extract_lets
        first | split | (dsimp +zetaDelta only; split)
        · refine Keeps.ite ?_ ?_
          · refine draw_keeps ?_
            first | split | (dsimp +zetaDelta only; split)
            · refine updJob_keeps ?_ _ _
              first | split | (dsimp +zetaDelta only; split)
              · exact finishExec_keeps h _ _
              · exact finishOutput_keeps h _ _ _ _
            · refine Keeps.ite ?_ ?_
              · refine updJob_keeps ?_ _ _
                first | split | (dsimp +zetaDelta only; split)
                · exact finishExec_keeps h _ _
                · exact finishOutput_keeps h _ _ _ _
              · try extract_lets
                refine journalWrite_keeps ?_ _ _
                refine updJob_keeps ?_ _ _
                refine updJob_keeps ?_ _ _
                first | split | (dsimp +zetaDelta only; split)
                · exact finishExec_keeps h _ _
                · exact finishOutput_keeps h _ _ _ _
          · first | split | (dsimp +zetaDelta only; split)
            · refine updJob_keeps ?_ _ _
              first | split | (dsimp +zetaDelta only; split)
              · exact finishExec_keeps h _ _
              · exact finishOutput_keeps h _ _ _ _
            · refine Keeps.ite ?_ ?_
              · refine updJob_keeps ?_ _ _
                first | split | (dsimp +zetaDelta only; split)
                · exact finishExec_keeps h _ _
                · exact finishOutput_keeps h _ _ _ _
              · try extract_lets
                refine journalWrite_keeps ?_ _ _
                refine updJob_keeps ?_ _ _
                refine updJob_keeps ?_ _ _
                first | split | (dsimp +zetaDelta only; split)
                · exact finishExec_keeps h _ _
                · exact finishOutput_keeps h _ _ _ _
        · refine Keeps.elim ?_ (fun _ => ?_)
          · refine Keeps.ite ?_ ?_
            · refine draw_keeps ?_
              first | split | (dsimp +zetaDelta only; split)
              · refine updJob_keeps ?_ _ _
                first | split | (dsimp +zetaDelta only; split)
                · exact finishExec_keeps h _ _
                · exact finishOutput_keeps h _ _ _ _
              · refine Keeps.ite ?_ ?_
                · refine updJob_keeps ?_ _ _
                  first | split | (dsimp +zetaDelta only; split)
                  · exact finishExec_keeps h _ _
                  · exact finishOutput_keeps h _ _ _ _
                · try extract_lets
                  refine journalWrite_keeps ?_ _ _
                  refine updJob_keeps ?_ _ _
                  refine updJob_keeps ?_ _ _
                  first | split | (dsimp +zetaDelta only; split)
                  · exact finishExec_keeps h _ _
                  · exact finishOutput_keeps h _ _ _ _
            · first | split | (dsimp +zetaDelta only; split)
              · refine updJob_keeps ?_ _ _
                first | split | (dsimp +zetaDelta only; split)
                · exact finishExec_keeps h _ _
                · exact finishOutput_keeps h _ _ _ _
              · refine Keeps.ite ?_ ?_
                · refine updJob_keeps ?_ _ _
                  first | split | (dsimp +zetaDelta only; split)
                  · exact finishExec_keeps h _ _
                  · exact finishOutput_keeps h _ _ _ _
                · try extract_lets
                  refine journalWrite_keeps ?_ _ _
                  refine updJob_keeps ?_ _ _
                  refine updJob_keeps ?_ _ _
                  first | split | (dsimp +zetaDelta only; split)
                  · exact finishExec_keeps h _ _
                  · exact finishOutput_keeps h _ _ _ _
          · refine putAct_keeps ?_ _
            refine Keeps.ite ?_ ?_
            · refine draw_keeps ?_
              first | split | (dsimp +zetaDelta only; split)
              · refine updJob_keeps ?_ _ _
                first | split | (dsimp +zetaDelta only; split)
                · exact finishExec_keeps h _ _
                · exact finishOutput_keeps h _ _ _ _
              · refine Keeps.ite ?_ ?_
                · refine updJob_keeps ?_ _ _
                  first | split | (dsimp +zetaDelta only; split)
                  · exact finishExec_keeps h _ _
                  · exact finishOutput_keeps h _ _ _ _
                · try extract_lets
                  refine journalWrite_keeps ?_ _ _
                  refine updJob_keeps ?_ _ _
                  refine updJob_keeps ?_ _ _
                  first | split | (dsimp +zetaDelta only; split)
                  · exact finishExec_keeps h _ _
                  · exact finishOutput_keeps h _ _ _ _
            · first | split | (dsimp +zetaDelta only; split)
              · refine updJob_keeps ?_ _ _
                first | split | (dsimp +zetaDelta only; split)
                · exact finishExec_keeps h _ _
                · exact finishOutput_keeps h _ _ _ _
              · refine Keeps.ite ?_ ?_
                · refine updJob_keeps ?_ _ _
                  first | split | (dsimp +zetaDelta only; split)
                  · exact finishExec_keeps h _ _
                  · exact finishOutput_keeps h _ _ _ _
                · try extract_lets
                  refine journalWrite_keeps ?_ _ _
                  refine updJob_keeps ?_ _ _
                  refine updJob_keeps ?_ _ _
                  first | split | (dsimp +zetaDelta only; split)
                  · exact finishExec_keeps h _ _
                  · exact finishOutput_keeps h _ _ _ _
  · exact h

theorem liftDrain_keeps {s0 s : State} (h : Keeps s0 s) (x1 : Active) : Keeps s0 (liftDrain s x1) := by
  unfold liftDrain
  first | split | (dsimp +zetaDelta only; split)
  · try extract_lets
    refine Keeps.ite ?_ ?_
    · try extract_lets
      exact protectRecord_keeps (putJob_keeps (h).plain _) _ _ _
    · exact h
  · exact h

theorem execUpdate_keeps {s0 s : State} (h : Keeps s0 s) (x0 : Sid) : Goes s0 (execUpdate x0 s) := by
  unfold execUpdate
  first | split | (dsimp +zetaDelta only; split)
  · exact Goes.next (h)
  · refine Goes.ite ?_ ?_
    · exact Goes.next (liftDrain_keeps h _)
    · refine runAct_keeps ?_ _ _ _ (fun _ _ _ hf => ?_)
      · exact h
      · beta_reduce
        exact updateExec_keeps hf _ _

theorem execCommit_keeps {s0 s : State} (h : Keeps s0 s) (x0 : Sid) : Goes s0 (execCommit x0 s) := by
  unfold execCommit
  first | split | (dsimp +zetaDelta only; split)
  · exact Goes.next (h)
  · refine Goes.ite ?_ ?_
    · try extract_lets
      exact Goes.next (putAct_keeps (noteStart_keeps (updJob_keeps h _ _) _ _) _)
    · exact Goes.next (h)

theorem execCommitVoteSend_keeps {s0 s : State} (h : Keeps s0 s) (x0 : Nat) : Goes s0 (execCommitVoteSend x0 s) := by
  unfold execCommitVoteSend
  first | split | (dsimp +zetaDelta only; split)
  · exact Goes.next (h)
  · refine Goes.ite ?_ ?_
    · try extract_lets
      exact Goes.next (toStations_keeps ((putJob_keeps h _).plain) _ _ _)
    · exact Goes.next (h)

theorem execCommitVoteResult_keeps {s0 s : State} (h : Keeps s0 s) (x0 : Nat) (x1 : Vote) : Goes s0 (execCommitVoteResult x0 x1 s) := by
  unfold execCommitVoteResult
  first | split | (dsimp +zetaDelta only; split)
  · exact Goes.next (h)
  · refine Goes.ite ?_ ?_
    · exact Goes.next (h)
    · refine Goes.ite ?_ ?_
      · exact Goes.next (abortUnstarted_keeps (haltJob_keeps h _) _)
      · refine Goes.ite ?_ ?_
        · try extract_lets
          exact Goes.next (startStepReplay_keeps (putJob_keeps h _) _)
        · refine Goes.ite ?_ ?_
          · exact Goes.next (h)
          · exact Goes.next (commitStep_keeps h _ _)

end Sys2Proof.Laws
end

