-- ==== Sys2Proof/Laws/KeepCollect.lean ====
section
/-! SUPPORT. What the operations of Machine/Collect.lean keep (Laws/Keep.lean). -/

namespace Sys2Proof.Laws

open Sys2Proof.Machine

theorem putNode_keeps {s0 s : State} (h : Keeps s0 s) (x1 : RedNode) : Keeps s0 (putNode s x1) := by
  unfold putNode
  exact (h).plain

theorem deliverGrad_keeps {s0 s : State} (h : Keeps s0 s) (x1 : Job) (x2 : Active) (x3 : Operand) (x4 : RedNode) : Keeps s0 (deliverGrad s x1 x2 x3 x4) := by
  unfold deliverGrad
  try extract_lets
  refine Keeps.ite ?_ ?_
  · refine Keeps.elim ?_ (fun _ => ?_)
    · exact finishExec_keeps (putAct_keeps (putJob_keeps h _) _) _ _
    · exact putAct_keeps (finishExec_keeps (putAct_keeps (putJob_keeps h _) _) _ _) _
  · exact finishExec_keeps (putAct_keeps (putJob_keeps h _) _) _ _

theorem deliverRed_keeps {s0 s : State} (h : Keeps s0 s) (x1 : Active) (x2 : RedNode) : Keeps s0 (deliverRed s x1 x2) := by
  unfold deliverRed
  first | split | (dsimp +zetaDelta only; split)
  · try extract_lets
    refine Keeps.elim ?_ (fun _ => ?_)
    · refine Keeps.ite ?_ ?_
      · exact deliverGrad_keeps h _ _ _ _
      · try extract_lets
        exact finishOutput_keeps h _ _ _ _
    · refine groundSent_keeps ?_ _
      refine putAct_keeps ?_ _
      refine Keeps.ite ?_ ?_
      · exact deliverGrad_keeps h _ _ _ _
      · try extract_lets
        exact finishOutput_keeps h _ _ _ _
  · exact groundSent_keeps h _

theorem addCountsTo_keeps {s0 s : State} (h : Keeps s0 s) (x1 : Sid) (x2 : Counts) : Keeps s0 (addCountsTo s x1 x2) := by
  unfold addCountsTo
  refine Keeps.elim ?_ (fun _ => ?_)
  · exact h
  · exact putAct_keeps h _

theorem deliverRoot_keeps {s0 s : State} (h : Keeps s0 s) (x1 : Job) (x2 : Active) (x3 : RedNode) : Keeps s0 (deliverRoot s x1 x2 x3) := by
  unfold deliverRoot
  try extract_lets
  refine Keeps.ite ?_ ?_
  · exact deliverRed_keeps h _ _
  · try extract_lets
    refine Keeps.elim ?_ (fun _ => ?_)
    · exact injectFor_keeps (putNode_keeps (addCountsTo_keeps h _ _) _) _ _ _ _
    · exact deliverRed_keeps (injectFor_keeps (putNode_keeps (addCountsTo_keeps h _ _) _) _ _ _ _) _ _

theorem differRecord_keeps {s0 s : State} (h : Keeps s0 s) (x1 : Active) (x2 x3 : Nat) : Keeps s0 (differRecord s x1 x2 x3) := by
  unfold differRecord
  exact jobEvent_keeps h _ _

theorem nodeStep_keeps {s0 s : State} (h : Keeps s0 s) (x1 : Job) (x2 : Active) (x3 : RedNode) : Keeps s0 (nodeStep s x1 x2 x3) := by
  unfold nodeStep
  try extract_lets
  first | split | (dsimp +zetaDelta only; split)
  · refine Keeps.ite ?_ ?_
    · refine Keeps.elim ?_ (fun _ => ?_)
      · refine addCountsTo_keeps ?_ _ _
        refine putNode_keeps ?_ _
        refine Keeps.foldl ?_ (fun _ _ h0 => ?_)
        · exact h
        · refine Keeps.elim ?_ (fun _ => ?_)
          · exact h0
          · exact differRecord_keeps h0 _ _ _
      · refine deliverRoot_keeps ?_ _ _ _
        refine addCountsTo_keeps ?_ _ _
        refine putNode_keeps ?_ _
        refine Keeps.foldl ?_ (fun _ _ h0 => ?_)
        · exact h
        · refine Keeps.elim ?_ (fun _ => ?_)
          · exact h0
          · exact differRecord_keeps h0 _ _ _
    · refine addCountsTo_keeps ?_ _ _
      refine putNode_keeps ?_ _
      refine Keeps.foldl ?_ (fun _ _ h0 => ?_)
      · exact h
      · refine Keeps.elim ?_ (fun _ => ?_)
        · exact h0
        · exact differRecord_keeps h0 _ _ _
  · try extract_lets
    refine Keeps.ite ?_ ?_
    · refine groundSent_keeps ?_ _
      refine injectFor_keeps ?_ _ _ _ _
      refine addCountsTo_keeps ?_ _ _
      refine addCountsTo_keeps ?_ _ _
      refine putNode_keeps ?_ _
      refine Keeps.foldl ?_ (fun _ _ h0 => ?_)
      · exact h
      · refine Keeps.elim ?_ (fun _ => ?_)
        · exact h0
        · exact differRecord_keeps h0 _ _ _
    · refine injectFor_keeps ?_ _ _ _ _
      refine addCountsTo_keeps ?_ _ _
      refine addCountsTo_keeps ?_ _ _
      refine putNode_keeps ?_ _
      refine Keeps.foldl ?_ (fun _ _ h0 => ?_)
      · exact h
      · refine Keeps.elim ?_ (fun _ => ?_)
        · exact h0
        · exact differRecord_keeps h0 _ _ _

theorem releaseFor_keeps {s0 s : State} (h : Keeps s0 s) (x1 : Job) (x2 : RedNode) : Keeps s0 (releaseFor s x1 x2) := by
  unfold releaseFor
  exact releaseHeld_keeps h _

theorem reduceExec_keeps {s0 s : State} (h : Keeps s0 s) (x1 : Job) (x2 : Active) : Keeps s0 (reduceExec s x1 x2) := by
  unfold reduceExec
  try extract_lets
  first | split | (dsimp +zetaDelta only; split)
  · refine Keeps.ite ?_ ?_
    · refine Keeps.ite ?_ ?_
      · exact deliverRed_keeps (putAct_keeps (startGround_keeps h _) _) _ _
      · exact putAct_keeps (startGround_keeps h _) _
    · exact groundSent_keeps (putAct_keeps (startGround_keeps h _) _) _
  · try extract_lets
    refine releaseFor_keeps ?_ _ _
    refine Keeps.elim ?_ (fun _ => ?_)
    · refine putNode_keeps ?_ _
      refine Keeps.ite ?_ ?_
      · refine Keeps.elim ?_ (fun _ => ?_)
        · refine addCountsTo_keeps ?_ _ _
          try extract_lets
          exact (putAct_keeps (startGround_keeps h _) _).plain
        · refine putAct_keeps ?_ _
          refine addCountsTo_keeps ?_ _ _
          try extract_lets
          exact (putAct_keeps (startGround_keeps h _) _).plain
      · refine addCountsTo_keeps ?_ _ _
        try extract_lets
        exact (putAct_keeps (startGround_keeps h _) _).plain
    · refine nodeStep_keeps ?_ _ _ _
      refine putNode_keeps ?_ _
      refine Keeps.ite ?_ ?_
      · refine Keeps.elim ?_ (fun _ => ?_)
        · refine addCountsTo_keeps ?_ _ _
          try extract_lets
          exact (putAct_keeps (startGround_keeps h _) _).plain
        · refine putAct_keeps ?_ _
          refine addCountsTo_keeps ?_ _ _
          try extract_lets
          exact (putAct_keeps (startGround_keeps h _) _).plain
      · refine addCountsTo_keeps ?_ _ _
        try extract_lets
        exact (putAct_keeps (startGround_keeps h _) _).plain

theorem execReduce_keeps {s0 s : State} (h : Keeps s0 s) (x0 : Sid) : Goes s0 (execReduce x0 s) := by
  unfold execReduce
  refine runGround_keeps ?_ _ _ _ (fun _ _ _ hf => ?_)
  · exact h
  · beta_reduce
    exact reduceExec_keeps hf _ _

theorem execRedUp_keeps {s0 s : State} (h : Keeps s0 s) (x0 : MsgHdr) (x1 : List Byte) (x2 : Bool) : Goes s0 (execRedUp x0 x1 x2 s) := by
  unfold execRedUp
  try extract_lets
  first | split | (dsimp +zetaDelta only; split)
  · first | split | (dsimp +zetaDelta only; split)
    · exact Goes.next (holdMsg_keeps (takeInbox_keeps h _ _) _)
    · first | split | (dsimp +zetaDelta only; split)
      · exact Goes.next (ackTo_keeps (takeInbox_keeps h _ _) _ _)
      · try extract_lets
        refine Goes.ite ?_ ?_
        · exact Goes.next (addCountsTo_keeps (takeInbox_keeps h _ _) _ _)
        · refine Goes.ite ?_ ?_
          · exact Goes.next (h)
          · try extract_lets
            exact Goes.next (nodeStep_keeps (ackTo_keeps (putNode_keeps (takeInbox_keeps h _ _) _) _ _) _ _ _)
  · exact Goes.next (notNow_keeps (takeInbox_keeps h _ _) _ _)

theorem multicastExec_keeps {s0 s : State} (h : Keeps s0 s) (x1 : Job) (x2 : Active) : Keeps s0 (multicastExec s x1 x2) := by
  unfold multicastExec
  try extract_lets
  first | split | (dsimp +zetaDelta only; split)
  · try extract_lets
    refine groundSent_keeps ?_ _
    refine injectFor_keeps ?_ _ _ _ _
    refine Keeps.elim ?_ (fun _ => ?_)
    · refine finishMove_keeps ?_ _ _ _ _ _
      refine putAct_keeps ?_ _
      refine Keeps.ite ?_ ?_
      · exact startGround_keeps h _
      · try extract_lets
        exact (startGround_keeps h _).plain
    · refine putAct_keeps ?_ _
      refine finishMove_keeps ?_ _ _ _ _ _
      refine putAct_keeps ?_ _
      refine Keeps.ite ?_ ?_
      · exact startGround_keeps h _
      · try extract_lets
        exact (startGround_keeps h _).plain
  · refine Keeps.ite ?_ ?_
    · refine groundSent_keeps ?_ _
      refine Keeps.ite ?_ ?_
      · exact startGround_keeps h _
      · try extract_lets
        exact (startGround_keeps h _).plain
    · refine releaseFor_keeps ?_ _ _
      refine Keeps.ite ?_ ?_
      · exact startGround_keeps h _
      · try extract_lets
        exact (startGround_keeps h _).plain
  · refine Keeps.ite ?_ ?_
    · exact startGround_keeps h _
    · try extract_lets
      exact (startGround_keeps h _).plain

theorem execMulticast_keeps {s0 s : State} (h : Keeps s0 s) (x0 : Sid) : Goes s0 (execMulticast x0 s) := by
  unfold execMulticast
  refine runGround_keeps ?_ _ _ _ (fun _ _ _ hf => ?_)
  · exact h
  · beta_reduce
    exact multicastExec_keeps hf _ _

theorem castArrives_keeps {s0 s : State} (h : Keeps s0 s) (x1 : Job) (x2 : Active) (x3 : RedNode) (x4 : InMsg) : Keeps s0 (castArrives s x1 x2 x3 x4) := by
  unfold castArrives
  try extract_lets
  first | split | (dsimp +zetaDelta only; split)
  · exact ackTo_keeps h _ _
  · try extract_lets
    refine Keeps.ite ?_ ?_
    · exact abortGround_keeps (nackTo_keeps h _ _ _) _ _ _ _
    · refine Keeps.ite ?_ ?_
      · exact ackTo_keeps h _ _
      · try extract_lets
        refine Keeps.ite ?_ ?_
        · exact groundSent_keeps (ackTo_keeps (injectFor_keeps (putAct_keeps (putNode_keeps (putStream_keeps h _ _ _ _ _) _) _) _ _ _ _) _ _) _
        · exact ackTo_keeps (injectFor_keeps (putAct_keeps (putNode_keeps (putStream_keeps h _ _ _ _ _) _) _) _ _ _ _) _ _

theorem downArrives_keeps {s0 s : State} (h : Keeps s0 s) (x1 : Job) (x2 : Active) (x3 : RedNode) (x4 : InMsg) : Keeps s0 (downArrives s x1 x2 x3 x4) := by
  unfold downArrives
  try extract_lets
  refine Keeps.ite ?_ ?_
  · refine Keeps.elim ?_ (fun _ => ?_)
    · exact ackTo_keeps (injectFor_keeps (putNode_keeps h _) _ _ _ _) _ _
    · exact deliverRed_keeps (ackTo_keeps (injectFor_keeps (putNode_keeps h _) _ _ _ _) _ _) _ _
  · exact ackTo_keeps (injectFor_keeps (putNode_keeps h _) _ _ _ _) _ _

theorem execRedDown_keeps {s0 s : State} (h : Keeps s0 s) (x0 : MsgHdr) (x1 : DownBody) (x2 : List Nat) : Goes s0 (execRedDown x0 x1 x2 s) := by
  unfold execRedDown
  try extract_lets
  first | split | (dsimp +zetaDelta only; split)
  · first | split | (dsimp +zetaDelta only; split)
    · exact Goes.next (holdMsg_keeps (takeInbox_keeps h _ _) _)
    · first | split | (dsimp +zetaDelta only; split)
      · exact Goes.next (ackTo_keeps (takeInbox_keeps h _ _) _ _)
      · refine Goes.ite ?_ ?_
        · exact Goes.next (addCountsTo_keeps (takeInbox_keeps h _ _) _ _)
        · refine Goes.next ?_
          refine Keeps.ite ?_ ?_
          · exact castArrives_keeps (takeInbox_keeps h _ _) _ _ _ _
          · exact downArrives_keeps (takeInbox_keeps h _ _) _ _ _ _
  · exact Goes.next (notNow_keeps (takeInbox_keeps h _ _) _ _)

end Sys2Proof.Laws
end

