-- ==== Sys2Proof/Laws/KeepController.lean ====
section
/-! SUPPORT. What the operations of Machine/Controller.lean keep (Laws/Keep.lean). -/

namespace Sys2Proof.Laws

open Sys2Proof.Machine

theorem rmwFound_keeps {s0 s : Mem} (h : MKeeps s0 s) (x1 : WcbEntry) (x2 : ReadOutcome) : MKeeps s0 (rmwFound s x1 x2) := by
  unfold rmwFound
  refine MKeeps.ite ?_ ?_
  · exact setPoison_keeps h _
  · exact h

theorem execWcbWrite_keeps {s0 s : State} (h : Keeps s0 s) (x0 : Piece) (x1 : Sid) (x2 : ReadOutcome) : Goes s0 (execWcbWrite x0 x1 x2 s) := by
  unfold execWcbWrite
  extract_lets g a l gr m1 m2
  refine Goes.ite Goes.fault ?_
  unfold onlyIf
  refine Goes.next ?_
  split
  · next hg =>
    simp only [Bool.and_eq_true, decide_eq_true_eq] at hg
    refine Keeps.put h (Nat.le_refl _) ?_ (NKeeps.refl _) (WKeeps.refl _)
    have hm : MKeeps s.mem m1 := acceptGranule_keeps (MKeeps.refl _) _ _ _ _ _ _ fun c hc => by
      simp only [bytesAt, List.mem_map, List.mem_range] at hc
      obtain ⟨i, hi, rfl⟩ := hc
      show (a + i) / 64 * 64 = a / 64 * 64
      omega
    exact MKeeps.elim hm fun _ => rmwFound_keeps hm _ _
  · exact h

theorem execWcbHoldTimeout_keeps {s0 s : State} (h : Keeps s0 s) (x0 : HeldGranule) : Goes s0 (execWcbHoldTimeout x0 s) := by
  unfold execWcbHoldTimeout
  first | split | (dsimp +zetaDelta only; split)
  · exact Goes.next (h)
  · refine Goes.next ?_
    try extract_lets
    refine Keeps.put ?_ (Nat.le_refl _) ?_ (NKeeps.refl _) (WKeeps.refl _)
    · exact advance_keeps h _
    · exact rmwFound_keeps (drainIf_keeps (MKeeps.refl _) _) _ _

theorem issueReq_keeps {s0 s : State} (h : Keeps s0 s) (x1 : MemReq) : Keeps s0 (issueReq s x1) := by
  unfold issueReq
  refine Keeps.put ?_ (Nat.le_refl _) ?_ (NKeeps.refl _) (WKeeps.refl _)
  · exact h
  · try extract_lets
    refine MKeeps.plain ?_
    exact MKeeps.refl _

theorem endReq_keeps {s0 s : State} (h : Keeps s0 s) (x1 : MemReq) : Keeps s0 (endReq s x1) := by
  unfold endReq
  try extract_lets
  refine Keeps.put ?_ (Nat.le_refl _) ?_ (NKeeps.refl _) (WKeeps.refl _)
  · exact h
  · try extract_lets
    refine MKeeps.plain ?_
    exact MKeeps.refl _

theorem execRequestPromote_keeps {s0 s : State} (h : Keeps s0 s) (x0 x1 : Nat) : Goes s0 (execRequestPromote x0 x1 s) := by
  unfold execRequestPromote
  refine Goes.ite ?_ ?_
  · exact Goes.fault
  · try extract_lets
    refine Goes.next ?_
    refine Keeps.put ?_ (Nat.le_refl _) ?_ (NKeeps.refl _) (WKeeps.refl _)
    · refine Keeps.ite ?_ ?_
      · exact advance_keeps h _
      · exact issueReq_keeps (advance_keeps h _) _
    · try extract_lets
      refine MKeeps.plain ?_
      exact MKeeps.refl _

theorem memoryEvent_keeps {s0 s : State} (h : Keeps s0 s) (x1 x2 x3 : Nat) : Keeps s0 (memoryEvent s x1 x2 x3) := by
  unfold memoryEvent
  try extract_lets
  refine Keeps.elim ?_ (fun _ => ?_)
  · exact h
  · exact jobEvent_keeps h _ _

theorem checkDegraded_keeps {s0 s : State} (h : Keeps s0 s) (x1 : Nat) : Keeps s0 (checkDegraded s x1) := by
  unfold checkDegraded
  try extract_lets
  refine Keeps.ite ?_ ?_
  · exact h
  · refine health_keeps ?_ _
    refine Keeps.put ?_ (Nat.le_refl _) ?_ (NKeeps.refl _) (WKeeps.refl _)
    · exact h
    · try extract_lets
      refine MKeeps.plain ?_
      exact MKeeps.refl _

theorem retireFrame_keeps {s0 s : State} (h : Keeps s0 s) (x1 : Nat) : Keeps s0 (retireFrame s x1) := by
  unfold retireFrame
  refine Keeps.ite ?_ ?_
  · exact h
  · try extract_lets
    refine checkDegraded_keeps ?_ _
    refine memoryEvent_keeps ?_ _ _ _
    refine health_keeps ?_ _
    refine Keeps.ite ?_ ?_
    · refine nvWrite_keeps ?_ _
      refine Keeps.put ?_ (Nat.le_refl _) ?_ (NKeeps.refl _) (WKeeps.refl _)
      · exact h
      · refine MKeeps.plain ?_
        exact zeroRange_keeps (MKeeps.refl _) _ _
    · refine Keeps.put ?_ (Nat.le_refl _) ?_ (NKeeps.refl _) (WKeeps.refl _)
      · exact h
      · refine MKeeps.plain ?_
        exact zeroRange_keeps (MKeeps.refl _) _ _

theorem repairRow_keeps {s0 s : State} (h : Keeps s0 s) (x1 : Nat) (x2 : Bool) : Keeps s0 (repairRow s x1 x2) := by
  unfold repairRow
  try extract_lets
  refine Keeps.ite ?_ ?_
  · refine nvWrite_keeps ?_ _
    refine Keeps.put ?_ (Nat.le_refl _) ?_ (NKeeps.refl _) (WKeeps.refl _)
    · exact h
    · refine MKeeps.plain ?_
      exact MKeeps.refl _
  · refine Keeps.put ?_ (Nat.le_refl _) ?_ (NKeeps.refl _) (WKeeps.refl _)
    · exact h
    · refine MKeeps.plain ?_
      exact MKeeps.refl _

theorem poisonGranule_keeps {s0 s : Mem} (h : MKeeps s0 s) (x1 : Nat) : MKeeps s0 (poisonGranule s x1) := by
  unfold poisonGranule
  exact setPoison_keeps (zeroRange_keeps h _ _) _

theorem poisonRow_keeps {s0 s : Mem} (h : MKeeps s0 s) (x1 : Nat) (x2 : List Nat) : MKeeps s0 (poisonRow s x1 x2) := by
  unfold poisonRow
  refine MKeeps.foldl _ _ ?_ (fun _ _ h0 => ?_)
  · exact h
  · exact poisonGranule_keeps h0 _

theorem failRow_keeps {s0 s : State} (h : Keeps s0 s) (x1 : Nat) (x2 : List Nat) : Keeps s0 (failRow s x1 x2) := by
  unfold failRow
  try extract_lets
  refine Keeps.ite ?_ ?_
  · refine retireFrame_keeps ?_ _
    refine Keeps.put ?_ (Nat.le_refl _) ?_ (NKeeps.refl _) (WKeeps.refl _)
    · exact h
    · exact poisonRow_keeps (drainIf_keeps (MKeeps.refl _) _) _ _
  · refine repairRow_keeps ?_ _ _
    refine Keeps.put ?_ (Nat.le_refl _) ?_ (NKeeps.refl _) (WKeeps.refl _)
    · exact h
    · exact poisonRow_keeps (drainIf_keeps (MKeeps.refl _) _) _ _

theorem countCorrected_keeps {s0 s : State} (h : Keeps s0 s) (x1 : Nat) (x2 : List Nat) : Keeps s0 (countCorrected s x1 x2) := by
  unfold countCorrected
  try extract_lets
  refine Keeps.ite ?_ ?_
  · refine failRow_keeps ?_ _ _
    refine Keeps.put ?_ (Nat.le_refl _) ?_ (NKeeps.refl _) (WKeeps.refl _)
    · exact h
    · try extract_lets
      refine MKeeps.plain ?_
      exact MKeeps.refl _
  · refine Keeps.put ?_ (Nat.le_refl _) ?_ (NKeeps.refl _) (WKeeps.refl _)
    · exact h
    · try extract_lets
      refine MKeeps.plain ?_
      exact MKeeps.refl _

theorem granuleRead_keeps {s0 s : State} (h : Keeps s0 s) (a : Nat) (o : ReadOutcome) (bad : List Nat) : Keeps s0 (granuleRead s a o bad) := by
  unfold granuleRead
  dsimp only
  have ht : Keeps s0 { s with mem := drainIf s.mem fun e => e.granule == a } :=
    Keeps.put h (Nat.le_refl _) (drainIf_keeps (MKeeps.refl _) _) (NKeeps.refl _) (WKeeps.refl _)
  have put : ∀ m, MKeeps (drainIf s.mem fun e => e.granule == a) m → Keeps s0 { s with mem := m } := fun m k =>
    Keeps.put h (Nat.le_refl _) ((drainIf_keeps (MKeeps.refl _) _).trans k) (NKeeps.refl _) (WKeeps.refl _)
  split
  · exact ht
  · exact .ite ht (countCorrected_keeps ht _ _)
  · exact put _ (rmwFound_keeps (MKeeps.refl _) _ _)
  · have hu := put _ (poisonGranule_keeps (MKeeps.refl _) a)
    exact .ite hu (failRow_keeps hu _ _)

theorem readServed_keeps {s0 s : State} (h : Keeps s0 s) (x1 : Nat) (x2 : ReadOutcome) (x3 : List Nat) : Keeps s0 (readServed s x1 x2 x3) := by
  unfold readServed
  try extract_lets
  exact (granuleRead_keeps h _ _ _).plain

theorem ownCopyRead_keeps {s0 s : State} (h : Keeps s0 s) (x1 x2 : Nat) (x3 : Bool) : Keeps s0 (ownCopyRead s x1 x2 x3) := by
  unfold ownCopyRead
  refine Keeps.ite ?_ ?_
  · exact (h).plain
  · first | split | (dsimp +zetaDelta only; split)
    · refine Keeps.put ?_ (Nat.le_refl _) ?_ (NKeeps.refl _) (WKeeps.refl _)
      · exact h
      · exact clearPoison_keeps (zeroRange_keeps (MKeeps.refl _) _ _) _
    · exact h

theorem tellPoisoned_keeps {s0 s : State} (h : Keeps s0 s) (x1 : Word32) (x2 : Nat) (x3 : Option Nat) (x4 : Nat) : Keeps s0 (tellPoisoned s x1 x2 x3 x4) := by
  unfold tellPoisoned
  exact ctrlTo_keeps h _ _ _ _ _ _

theorem copyHit_keeps {s0 s : State} (h : Keeps s0 s) : Keeps s0 (copyHit s) := by
  unfold copyHit
  try extract_lets
  first | split | (dsimp +zetaDelta only; split)
  · exact tellPoisoned_keeps ((draw_keeps h).plain) _ _ _ _
  · exact tellPoisoned_keeps ((draw_keeps h).plain) _ _ _ _
  · exact draw_keeps h

theorem guardCheck_keeps {s0 t : State} (h : Keeps s0 t) (s : State) : Keeps s0 (guardCheck t s) := Keeps.foldl h fun _ _ k => copyHit_keeps k

theorem granuleGiven_keeps {s0 s : State} (h : Keeps s0 s) (x1 : Nat) (x2 : Found) (x3 : Reader) : Keeps s0 (granuleGiven s x1 x2 x3) := by
  unfold granuleGiven
  try extract_lets
  first | split | (dsimp +zetaDelta only; split)
  · exact ownCopyRead_keeps (guardCheck_keeps (readServed_keeps h _ _ _) _) _ _ _
  · exact guardCheck_keeps (readServed_keeps h _ _ _) _

theorem execHbmGranuleRead_keeps {s0 s : State} (h : Keeps s0 s) (x0 : Nat) (x1 : Found) (x2 : Reader) : Goes s0 (execHbmGranuleRead x0 x1 x2 s) := by
  unfold execHbmGranuleRead
  refine Goes.ite ?_ ?_
  · exact Goes.fault
  · refine Goes.ite ?_ ?_
    · exact Goes.next (h)
    · refine Goes.ite ?_ ?_
      · exact Goes.next (granuleGiven_keeps h _ _ _)
      · try extract_lets
        first | split | (dsimp +zetaDelta only; split)
        · refine Goes.next ?_
          refine Keeps.ite ?_ ?_
          · exact h
          · exact issueReq_keeps h _
        · refine Goes.next ?_
          refine Keeps.ite ?_ ?_
          · refine granuleGiven_keeps ?_ _ _ _
            refine endReq_keeps ?_ _
            refine Keeps.ite ?_ ?_
            · exact h
            · exact issueReq_keeps h _
          · refine Keeps.ite ?_ ?_
            · exact h
            · exact issueReq_keeps h _

theorem scrubNext_keeps {s0 s : State} (h : Keeps s0 s) (x1 : Nat) : Keeps s0 (scrubNext s x1) := by
  unfold scrubNext
  try extract_lets
  refine Keeps.ite ?_ ?_
  · refine Keeps.put ?_ (Nat.le_refl _) ?_ (NKeeps.refl _) (WKeeps.refl _)
    · exact h
    · try extract_lets
      refine MKeeps.plain ?_
      exact MKeeps.refl _
  · refine Keeps.put ?_ (Nat.le_refl _) ?_ (NKeeps.refl _) (WKeeps.refl _)
    · exact h
    · try extract_lets
      refine MKeeps.plain ?_
      exact MKeeps.refl _

theorem scrubServed_keeps {s0 s : State} (h : Keeps s0 s) (x1 : Nat) (x2 : Found) : Keeps s0 (scrubServed s x1 x2) := by
  unfold scrubServed
  try extract_lets
  refine scrubNext_keeps ?_ _
  refine Keeps.ite ?_ ?_
  · try extract_lets
    refine Keeps.ite ?_ ?_
    · refine failRow_keeps ?_ _ _
      refine memoryEvent_keeps ?_ _ _ _
      refine Keeps.put ?_ (Nat.le_refl _) ?_ (NKeeps.refl _) (WKeeps.refl _)
      · exact h
      · exact poisonGranule_keeps (drainIf_keeps (MKeeps.refl _) _) _
    · refine retireFrame_keeps ?_ _
      refine Keeps.put ?_ (Nat.le_refl _) ?_ (NKeeps.refl _) (WKeeps.refl _)
      · exact h
      · exact poisonGranule_keeps (drainIf_keeps (MKeeps.refl _) _) _
  · exact granuleRead_keeps h _ _ _

theorem execScrubRead_keeps {s0 s : State} (h : Keeps s0 s) (x0 : Found) : Goes s0 (execScrubRead x0 s) := by
  unfold execScrubRead
  try extract_lets
  first | split | (dsimp +zetaDelta only; split)
  · exact Goes.next (h)
  · refine onlyIf_goes ?_ ?_ _
    · exact h
    · refine Keeps.ite ?_ ?_
      · refine guardCheck_keeps ?_ _
        refine scrubServed_keeps ?_ _ _
        refine endReq_keeps ?_ _
        refine Keeps.ite ?_ ?_
        · refine Keeps.put ?_ (Nat.le_refl _) ?_ (NKeeps.refl _) (WKeeps.refl _)
          · exact h
          · try extract_lets
            refine MKeeps.plain ?_
            exact MKeeps.refl _
        · refine issueReq_keeps ?_ _
          refine Keeps.put ?_ (Nat.le_refl _) ?_ (NKeeps.refl _) (WKeeps.refl _)
          · exact h
          · try extract_lets
            refine MKeeps.plain ?_
            exact MKeeps.refl _
      · refine Keeps.ite ?_ ?_
        · refine Keeps.put ?_ (Nat.le_refl _) ?_ (NKeeps.refl _) (WKeeps.refl _)
          · exact h
          · try extract_lets
            refine MKeeps.plain ?_
            exact MKeeps.refl _
        · refine issueReq_keeps ?_ _
          refine Keeps.put ?_ (Nat.le_refl _) ?_ (NKeeps.refl _) (WKeeps.refl _)
          · exact h
          · try extract_lets
            refine MKeeps.plain ?_
            exact MKeeps.refl _

theorem execAtomicopRequest_keeps {s0 s : State} (h : Keeps s0 s) (x0 : Nat) : Goes s0 (execAtomicopRequest x0 s) := by
  unfold execAtomicopRequest
  exact Goes.next ((h).plain)

end Sys2Proof.Laws
end

