-- ==== Sys2Proof/Laws/KeepStrokes.lean ====
section
/-! SUPPORT. What the operations of Machine/Strokes.lean keep (Laws/Keep.lean). -/

namespace Sys2Proof.Laws

open Sys2Proof.Machine

theorem raiseLoss_keeps {s0 s : State} (h : Keeps s0 s) (x1 : Nat) : Keeps s0 (raiseLoss s x1) := by
  unfold raiseLoss
  try extract_lets
  refine Keeps.ite ?_ ?_
  · exact (h).plain
  · exact health_keeps (h).plain _

theorem startSlice_keeps {s0 s : State} (h : Keeps s0 s) (x1 : Nat) : Keeps s0 (startSlice s x1) := by
  unfold startSlice
  first | split | (dsimp +zetaDelta only; split)
  · exact h
  · refine Keeps.ite ?_ ?_
    · exact h
    · try extract_lets
      refine Keeps.put ?_ (Nat.le_refl _) (MKeeps.refl _) (by first | exact ⟨rfl, fun _ h => h⟩ | exact ⟨rfl, fun _ => mem_ninsert⟩) (WKeeps.refl _)
      exact h

theorem endSweep_keeps {s0 s : State} (h : Keeps s0 s) : Keeps s0 (endSweep s) := by
  unfold endSweep
  try extract_lets
  refine Keeps.ite ?_ ?_
  · exact (h).plain
  · exact h

theorem selfTest_keeps {s0 s : State} (h : Keeps s0 s) : Keeps s0 (selfTest s) := by
  unfold selfTest
  refine Keeps.ite ?_ ?_
  · exact h
  · refine Keeps.foldl ?_ (fun _ _ h0 => ?_)
    · exact endSweep_keeps h
    · exact startSlice_keeps h0 _

theorem endStroke_keeps {s0 s : State} (h : Keeps s0 s) (x1 x2 x3 : Nat) : Keeps s0 (endStroke s x1 x2 x3) := by
  unfold endStroke
  first | split | (dsimp +zetaDelta only; split)
  · exact h
  · try extract_lets
    refine updJob_keeps ?_ _ _
    refine Keeps.ite ?_ ?_
    · exact h
    · exact wrBytes_keeps h _ _

theorem applyRoute_keeps {s0 s : State} (h : Keeps s0 s) : Keeps s0 (applyRoute s) := by
  unfold applyRoute
  first | split | (dsimp +zetaDelta only; split)
  · exact h
  · refine Keeps.ite ?_ ?_
    · exact (h).plain
    · exact h

theorem applyPack_keeps {s0 s : State} (h : Keeps s0 s) : Keeps s0 (applyPack s) := by
  unfold applyPack
  first | split | (dsimp +zetaDelta only; split)
  · exact h
  · refine Keeps.put ?_ (Nat.le_refl _) (MKeeps.refl _) (NKeeps.refl _) (by first | exact ⟨Nat.le_refl _, id⟩ | exact ⟨Nat.le_max_left _ _, id⟩ | exact ⟨Nat.le_add_right _ _, id⟩ | exact ⟨Nat.le_refl _, fun _ => rfl⟩)
    exact h

theorem sendMarks_keeps {s0 s : State} (h : Keeps s0 s) : Keeps s0 (sendMarks s) := by
  unfold sendMarks
  refine Keeps.foldl ?_ (fun _ _ h0 => ?_)
  · exact h
  · try extract_lets
    exact enqueue_keeps (putPort_keeps (h0).plain _ _) _ _ _

theorem enterHoldover_keeps {s0 s : State} (h : Keeps s0 s) : Keeps s0 (enterHoldover s) := by
  unfold enterHoldover
  refine Keeps.ite ?_ ?_
  · exact h
  · exact (h).plain

theorem checkHoldover_keeps {s0 s : State} (h : Keeps s0 s) : Keeps s0 (checkHoldover s) := by
  unfold checkHoldover
  refine Keeps.ite ?_ ?_
  · exact enterHoldover_keeps h
  · exact h

theorem closeStroke_keeps {s0 s : State} (h : Keeps s0 s) (x1 : Nat) : Keeps s0 (closeStroke s x1) := by
  unfold closeStroke
  try extract_lets
  refine applyPack_keeps ?_
  refine applyRoute_keeps ?_
  refine Keeps.foldl ?_ (fun _ _ h0 => ?_)
  · refine judgeAll_keeps ?_
    refine Keeps.ite ?_ ?_
    · refine Keeps.plain ?_
      refine Keeps.foldl ?_ (fun _ _ h0 => ?_)
      · exact h
      · exact accrue_keeps h0 _ _
    · refine Keeps.plain ?_
      refine Keeps.plain ?_
      refine Keeps.foldl ?_ (fun _ _ h0 => ?_)
      · exact h
      · exact accrue_keeps h0 _ _
  · exact endStroke_keeps h0 _ _ _

theorem openStroke_keeps {s0 s : State} (h : Keeps s0 s) : Keeps s0 (openStroke s) := by
  unfold openStroke
  exact replanHeads_keeps (selfTest_keeps (sendMarks_keeps (checkHoldover_keeps h)))

theorem takeEdge_keeps {s0 s : State} (h : Keeps s0 s) (x1 : Nat) : Keeps s0 (takeEdge s x1) := by
  unfold takeEdge
  exact openStroke_keeps (closeStroke_keeps h _)

theorem execStrokeEdge_keeps {s0 s : State} (h : Keeps s0 s) : Goes s0 (execStrokeEdge s) := by
  unfold execStrokeEdge
  refine onlyIf_goes ?_ ?_ _
  · exact h
  · exact takeEdge_keeps h _

theorem cutStroke_keeps {s0 s : State} (h : Keeps s0 s) : Keeps s0 (cutStroke s) := by
  unfold cutStroke
  exact (h).plain

theorem renumber_keeps {s0 s : State} (h : Keeps s0 s) (x1 : Nat) : Keeps s0 (renumber s x1) := by
  unfold renumber
  try extract_lets
  refine Keeps.tbl ?_ fun k => jobsOk_map k _ fun _ => ⟨rfl, by first | rfl | (dsimp +zetaDelta only; split <;> rfl)⟩
  exact h

theorem resync_keeps {s0 s : State} (h : Keeps s0 s) (x1 x2 : Nat) (x3 : Clock → Clock) : Keeps s0 (resync s x1 x2 x3) := by
  unfold resync
  try extract_lets
  refine Keeps.ite ?_ ?_
  · refine openStroke_keeps ?_
    try extract_lets
    refine Keeps.plain ?_
    refine renumber_keeps ?_ _
    refine closeStroke_keeps ?_ _
    refine Keeps.ite ?_ ?_
    · exact cutStroke_keeps h
    · exact h
  · try extract_lets
    refine Keeps.plain ?_
    refine renumber_keeps ?_ _
    refine Keeps.plain ?_
    refine Keeps.ite ?_ ?_
    · exact cutStroke_keeps h
    · exact h

theorem missMark_keeps {s0 s : State} (h : Keeps s0 s) (x1 : Nat) : Keeps s0 (missMark s x1) := by
  unfold missMark
  try extract_lets
  refine checkHoldover_keeps ?_
  refine Keeps.ite ?_ ?_
  · exact goDown_keeps (putPort_keeps h _ _) _
  · exact putPort_keeps h _ _

theorem execStrokeMarkMissed_keeps {s0 s : State} (h : Keeps s0 s) (x0 : Nat) : Goes s0 (execStrokeMarkMissed x0 s) := by
  unfold execStrokeMarkMissed
  refine onlyIf_goes ?_ ?_ _
  · exact h
  · exact missMark_keeps h _

theorem followMark_keeps {s0 s : State} (h : Keeps s0 s) (x1 : Nat) (x2 : Mark) (x3 : Nat) : Keeps s0 (followMark s x1 x2 x3) := by
  unfold followMark
  try extract_lets
  refine Keeps.ite ?_ ?_
  · exact (h).plain
  · exact resync_keeps h _ _ _

theorem execStrokeMarkReceive_keeps {s0 s : State} (h : Keeps s0 s) (x0 : Nat) (x1 : Mark) (x2 : Word32) (x3 : Nat) : Goes s0 (execStrokeMarkReceive x0 x1 x2 x3 s) := by
  unfold execStrokeMarkReceive
  try extract_lets
  refine Goes.ite ?_ ?_
  · exact Goes.next (h)
  · try extract_lets
    refine Goes.ite ?_ ?_
    · exact Goes.next (missMark_keeps (advance_keeps h _) _)
    · refine Goes.ite ?_ ?_
      · exact Goes.next (advance_keeps h _)
      · try extract_lets
        refine Goes.next ?_
        refine Keeps.ite ?_ ?_
        · refine followMark_keeps ?_ _ _ _
          refine Keeps.ite ?_ ?_
          · refine Keeps.ite ?_ ?_
            · exact raiseLoss_keeps (putPort_keeps (advance_keeps h _) _ _) _
            · exact putPort_keeps (advance_keeps h _) _ _
          · refine missMark_keeps ?_ _
            refine Keeps.ite ?_ ?_
            · exact raiseLoss_keeps (putPort_keeps (advance_keeps h _) _ _) _
            · exact putPort_keeps (advance_keeps h _) _ _
        · refine Keeps.ite ?_ ?_
          · refine Keeps.ite ?_ ?_
            · exact raiseLoss_keeps (putPort_keeps (advance_keeps h _) _ _) _
            · exact putPort_keeps (advance_keeps h _) _ _
          · refine missMark_keeps ?_ _
            refine Keeps.ite ?_ ?_
            · exact raiseLoss_keeps (putPort_keeps (advance_keeps h _) _ _) _
            · exact putPort_keeps (advance_keeps h _) _ _

theorem execHoldoverTimeout_keeps {s0 s : State} (h : Keeps s0 s) : Goes s0 (execHoldoverTimeout s) := by
  unfold execHoldoverTimeout
  try extract_lets
  refine onlyIf_goes ?_ ?_ _
  · exact h
  · exact health_keeps (advance_keeps h _) _

theorem missRef_keeps {s0 s : State} (h : Keeps s0 s) (x1 : Nat) : Keeps s0 (missRef s x1) := by
  unfold missRef
  try extract_lets
  refine Keeps.ite ?_ ?_
  · exact enterHoldover_keeps (h).plain
  · exact (h).plain

theorem execStrokeRefEdge_keeps {s0 s : State} (h : Keeps s0 s) (x0 : Nat) : Goes s0 (execStrokeRefEdge x0 s) := by
  unfold execStrokeRefEdge
  refine Goes.ite ?_ ?_
  · exact Goes.next (h)
  · try extract_lets
    refine Goes.ite ?_ ?_
    · exact Goes.next (takeEdge_keeps (h).plain _)
    · refine Goes.ite ?_ ?_
      · exact Goes.next (((h).plain).plain)
      · refine Goes.ite ?_ ?_
        · exact Goes.next (resync_keeps h _ _ _)
        · try extract_lets
          refine Goes.next ?_
          refine missRef_keeps ?_ _
          refine takeEdge_keeps ?_ _
          refine Keeps.ite ?_ ?_
          · exact cutStroke_keeps h
          · exact h

theorem execStrokeRefMissing_keeps {s0 s : State} (h : Keeps s0 s) : Goes s0 (execStrokeRefMissing s) := by
  unfold execStrokeRefMissing
  refine onlyIf_goes ?_ ?_ _
  · exact h
  · exact missRef_keeps (takeEdge_keeps h _) _

end Sys2Proof.Laws
end

