-- ==== Sys2Proof/Laws/KeepMailbox.lean ====
section
/-! SUPPORT. What the operations of Machine/Mailbox.lean keep (Laws/Keep.lean). -/

namespace Sys2Proof.Laws

open Sys2Proof.Machine

theorem putPage_keeps {s0 s : State} (h : Keeps s0 s) (x1 : Nat) (x2 : Page) : Keeps s0 (putPage s x1 x2) := by
  unfold putPage
  exact (h).plain

theorem present_keeps {s0 s : State} (h : Keeps s0 s) (x1 : Nat) (x2 : Bool) (x3 : List Byte) : Keeps s0 (present s x1 x2 x3) := by
  unfold present
  try extract_lets
  refine Keeps.ite ?_ ?_
  · exact sendMsix_keeps (putPage_keeps h _ _) _
  · exact putPage_keeps h _ _

theorem answerRequest_keeps {s0 s : State} (h : Keeps s0 s) (x1 : Nat) (x2 : Request) (x3 : Nat) (x4 : List Byte) : Keeps s0 (answerRequest s x1 x2 x3 x4) := by
  unfold answerRequest
  try extract_lets
  exact present_keeps (putPage_keeps h _ _) _ _ _

theorem pageChecked_keeps {s0 s : State} (h : Keeps s0 s) (x1 : Nat) (x2 : List Byte) : Keeps s0 (pageChecked s x1 x2) := by
  unfold pageChecked
  exact putPage_keeps h _ _

theorem readRequest_keeps {s0 s : State} (h : Keeps s0 s) (x1 : Nat) : Keeps s0 (readRequest s x1) := by
  unfold readRequest
  try extract_lets
  refine Keeps.ite ?_ ?_
  · refine Keeps.ite ?_ ?_
    · exact present_keeps (pageChecked_keeps h _ _) _ _ _
    · try extract_lets
      first | split | (dsimp +zetaDelta only; split)
      · refine answerRequest_keeps ?_ _ _ _ _
        refine Keeps.ite ?_ ?_
        · exact raiseLoss_keeps (pageChecked_keeps h _ _) _
        · exact pageChecked_keeps h _ _
      · refine Keeps.ite ?_ ?_
        · refine answerRequest_keeps ?_ _ _ _ _
          refine Keeps.ite ?_ ?_
          · exact raiseLoss_keeps (pageChecked_keeps h _ _) _
          · exact pageChecked_keeps h _ _
        · try extract_lets
          refine Keeps.plain ?_
          refine putPage_keeps ?_ _ _
          refine Keeps.ite ?_ ?_
          · exact raiseLoss_keeps (pageChecked_keeps h _ _) _
          · exact pageChecked_keeps h _ _
  · exact present_keeps (pageChecked_keeps h _ _) _ _ _

theorem ringPage_keeps {s0 s : State} (h : Keeps s0 s) (x1 : Nat) : Keeps s0 (ringPage s x1) := by
  unfold ringPage
  try extract_lets
  refine Keeps.ite ?_ ?_
  · exact putPage_keeps h _ _
  · exact readRequest_keeps (putPage_keeps h _ _) _

theorem execMbRing_keeps {s0 s : State} (h : Keeps s0 s) (x0 : Nat) : Goes s0 (execMbRing x0 s) := by
  unfold execMbRing
  refine onlyIf_goes ?_ ?_ _
  · exact h
  · exact ringPage_keeps h _

theorem Keeps.iteR {s : State} {a b : Reply} {c : Prop} [Decidable c] (h : Keeps s a.s) (k : Keeps s b.s) : Keeps s (if c then a else b).s := by split <;> assumption

theorem Keeps.elimR {α : Type} {s : State} {a : Reply} {o : Option α} {f : α → Reply} (h : Keeps s a.s) (k : ∀ x, Keeps s (f x).s) : Keeps s (o.elim a f).s := by
  cases o
  · exact h
  · exact k _

theorem ok_keeps {s0 s : State} (h : Keeps s0 s) : Keeps s0 (ok s).s := h

theorem okNat_keeps {s0 s : State} (h : Keeps s0 s) (x1 x2 : Nat) : Keeps s0 (okNat s x1 x2).s := by
  unfold okNat
  exact h

theorem fail_keeps {s0 s : State} (h : Keeps s0 s) (x1 : Nat) : Keeps s0 (fail s x1).s := by
  unfold fail
  exact h

theorem orBusy_keeps {s0 s : State} (h : Keeps s0 s) (r : Request) {q : Reply} (k : Keeps s0 q.s) : Keeps s0 (orBusy s r q).s :=
  .iteR (fail_keeps h _) k

theorem orBusy_free {s : State} {r : Request} (h : meetsLong s r = false) (q : Reply) : orBusy s r q = q := by
  simp [orBusy, h]

theorem runCmd_keeps {s0 s : State} (h : Keeps s0 s) (p op act : Nat) (f : Request → State → Reply) (k : ∀ r, Keeps s0 (f r s).s) :
    Goes s0 (runCmd s p op act f) := by
  unfold runCmd
  split
  · exact Goes.next h
  · refine .ite (Goes.next h) ?_
    split
    · exact Goes.next (answerRequest_keeps h _ _ _ _)
    · exact Goes.next (.ite (putPage_keeps (orBusy_keeps h _ (k _)) _ _) (answerRequest_keeps (orBusy_keeps h _ (k _)) _ _ _ _))

theorem runJobCmd_keeps {s0 s : State} (h : Keeps s0 s) (p op act : Nat) (f : Request → Job → State → Reply) (k : ∀ r j, Keeps s0 (f r j s).s) :
    Goes s0 (runJobCmd s p op act f) :=
  runCmd_keeps h _ _ _ _ fun _ => .elimR (fail_keeps h _) fun _ => k _ _

theorem answerWaiting_keeps {s0 s : State} (h : Keeps s0 s) (x1 x2 x3 : Nat) (x4 : List Byte) : Keeps s0 (answerWaiting s x1 x2 x3 x4) := by
  unfold answerWaiting
  first | split | (dsimp +zetaDelta only; split)
  · exact h
  · refine Keeps.ite ?_ ?_
    · exact answerRequest_keeps h _ _ _ _
    · exact h

theorem startZero_keeps {s0 s : State} (h : Keeps s0 s) (x1 : Option Nat) (x2 : List (Nat × Nat)) : Keeps s0 (startZero s x1 x2) := by
  unfold startZero
  refine Keeps.put ?_ (Nat.le_refl _) ?_ (NKeeps.refl _) (WKeeps.refl _)
  · exact h
  · try extract_lets
    refine MKeeps.plain ?_
    exact MKeeps.refl _

theorem putOp_keeps {s0 s : State} (h : Keeps s0 s) (x1 : LongOp) : Keeps s0 (putOp s x1) := by
  unfold putOp
  exact (h).plain

theorem startOp_keeps {s0 s : State} (h : Keeps s0 s) (x1 : Nat) (x2 : Request) (x3 : LongOp) : Keeps s0 (startOp s x1 x2 x3) := by
  unfold startOp
  exact putOp_keeps h _

theorem endOp_keeps {s0 s : State} (h : Keeps s0 s) (x1 : LongOp) (x2 : Nat) : Keeps s0 (endOp s x1 x2) := by
  unfold endOp
  try extract_lets
  refine Keeps.ite ?_ ?_
  · exact sendMsix_keeps (putOp_keeps h _) _
  · exact putOp_keeps h _

end Sys2Proof.Laws
end

