-- ==== Sys2Proof/Laws/KeepMessages.lean ====
section
/-! SUPPORT. What the operations of Machine/Messages.lean keep (Laws/Keep.lean). -/

namespace Sys2Proof.Laws

open Sys2Proof.Machine

theorem sendExec_keeps {s0 s : State} (h : Keeps s0 s) (x1 : Job) (x2 : Active) : Keeps s0 (sendExec s x1 x2) := by
  unfold sendExec
  first | split | (dsimp +zetaDelta only; split)
  · exact h
  · try extract_lets
    exact injectFor_keeps (putAct_keeps (startGround_keeps h _) _) _ _ _ _

theorem execSend_keeps {s0 s : State} (h : Keeps s0 s) (x0 : Sid) : Goes s0 (execSend x0 s) := by
  unfold execSend
  refine runGround_keeps ?_ _ _ _ (fun _ _ _ hf => ?_)
  · exact h
  · beta_reduce
    exact sendExec_keeps hf _ _

theorem sendEnd_keeps {s0 s : State} (h : Keeps s0 s) (x1 : Active) : Keeps s0 (sendEnd s x1) := by
  unfold sendEnd
  first | split | (dsimp +zetaDelta only; split)
  · exact h
  · try extract_lets
    exact injectFor_keeps (putAct_keeps h _) _ _ _ _

theorem putRx_keeps {s0 s : State} (h : Keeps s0 s) (x1 : RxSend) : Keeps s0 (putRx s x1) := by
  unfold putRx
  exact (h).plain

theorem execWrite_keeps {s0 s : State} (h : Keeps s0 s) (x0 : MsgHdr) (x1 : SendSource) (x2 : List Byte) (x3 : List Nat) : Goes s0 (execWrite x0 x1 x2 x3 s) := by
  unfold execWrite
  try extract_lets
  first | split | (dsimp +zetaDelta only; split)
  · try extract_lets
    refine Goes.ite ?_ ?_
    · exact Goes.next (nackTo_keeps (putRx_keeps (takeInbox_keeps h _ _) _) _ _ _)
    · refine Goes.next ?_
      refine ackTo_keeps ?_ _ _
      refine Keeps.elim ?_ (fun _ => ?_)
      · exact putRx_keeps (takeInbox_keeps h _ _) _
      · exact putStream_keeps (putRx_keeps (takeInbox_keeps h _ _) _) _ _ _ _ _
  · exact Goes.next (notNow_keeps (takeInbox_keeps h _ _) _ _)

theorem execWriteEnd_keeps {s0 s : State} (h : Keeps s0 s) (x0 : MsgHdr) : Goes s0 (execWriteEnd x0 s) := by
  unfold execWriteEnd
  try extract_lets
  first | split | (dsimp +zetaDelta only; split)
  · first | split | (dsimp +zetaDelta only; split)
    · exact Goes.next (ackTo_keeps (takeInbox_keeps h _ _) _ _)
    · try extract_lets
      refine Goes.ite ?_ ?_
      · exact Goes.next (nackTo_keeps (takeInbox_keeps h _ _) _ _ _)
      · refine Goes.ite ?_ ?_
        · exact Goes.next (ackTo_keeps (takeInbox_keeps h _ _) _ _)
        · refine Goes.ite ?_ ?_
          · exact Goes.next (nackTo_keeps (putRx_keeps (takeInbox_keeps h _ _) _) _ _ _)
          · try extract_lets
            refine Goes.next ?_
            refine ackTo_keeps ?_ _ _
            refine Keeps.ite ?_ ?_
            · refine updJob_keeps ?_ _ _
              refine putRx_keeps ?_ _
              refine Keeps.elim ?_ (fun _ => ?_)
              · exact takeInbox_keeps h _ _
              · exact reachOperand_keeps (takeInbox_keeps h _ _) _ _
            · refine putRx_keeps ?_ _
              refine Keeps.elim ?_ (fun _ => ?_)
              · exact takeInbox_keeps h _ _
              · exact reachOperand_keeps (takeInbox_keeps h _ _) _ _
  · exact Goes.next (notNow_keeps (takeInbox_keeps h _ _) _ _)

theorem freeTrans_keeps {s0 s : State} (h : Keeps s0 s) (x1 : Trans) : Keeps s0 (freeTrans s x1) := by
  unfold freeTrans
  exact wakeWaiting_keeps (h).plain _

theorem execAck_keeps {s0 s : State} (h : Keeps s0 s) (x0 : MsgHdr) : Goes s0 (execAck x0 s) := by
  unfold execAck
  try extract_lets
  first | split | (dsimp +zetaDelta only; split)
  · exact Goes.next (takeInbox_keeps h _ _)
  · try extract_lets
    first | split | (dsimp +zetaDelta only; split)
    · exact Goes.next (freeTrans_keeps (takeInbox_keeps h _ _) _)
    · refine Goes.ite ?_ ?_
      · exact Goes.next (sendEnd_keeps (freeTrans_keeps (takeInbox_keeps h _ _) _) _)
      · exact Goes.next (groundCheck_keeps (freeTrans_keeps (takeInbox_keeps h _ _) _) _)

theorem partnerParks_keeps {s0 s : State} (h : Keeps s0 s) (x1 : Nat) : Keeps s0 (partnerParks s x1) := by
  unfold partnerParks
  refine Keeps.ite ?_ ?_
  · exact h
  · try extract_lets
    refine Keeps.foldl ?_ (fun _ _ h0 => ?_)
    · exact (h).plain
    · refine Keeps.ite ?_ ?_
      · exact h0
      · exact jobEvent_keeps (putJob_keeps h0 _) _ _

theorem partnerNack_keeps {s0 s : State} (h : Keeps s0 s) (x1 : MsgHdr) : Keeps s0 (partnerNack s x1) := by
  unfold partnerNack
  refine Keeps.ite ?_ ?_
  · refine Keeps.foldl ?_ (fun _ _ h0 => ?_)
    · exact h
    · refine Keeps.elim ?_ (fun _ => ?_)
      · exact h0
      · exact sendJournal_keeps h0 _ _
  · exact partnerParks_keeps h _

theorem execNack_keeps {s0 s : State} (h : Keeps s0 s) (x0 : MsgHdr) : Goes s0 (execNack x0 s) := by
  unfold execNack
  try extract_lets
  refine Goes.ite ?_ ?_
  · exact Goes.next (partnerNack_keeps (takeInbox_keeps h _ _) _)
  · first | split | (dsimp +zetaDelta only; split)
    · exact Goes.next (takeInbox_keeps h _ _)
    · try extract_lets
      refine Goes.next ?_
      refine Keeps.elim ?_ (fun _ => ?_)
      · exact freeTrans_keeps (takeInbox_keeps h _ _) _
      · refine Keeps.ite ?_ ?_
        · exact abortGround_keeps (freeTrans_keeps (takeInbox_keeps h _ _) _) _ _ _ _
        · exact freeTrans_keeps (takeInbox_keeps h _ _) _

theorem transLost_keeps {s0 s : State} (h : Keeps s0 s) (x1 : Trans) : Keeps s0 (transLost s x1) := by
  unfold transLost
  try extract_lets
  refine Keeps.elim ?_ (fun _ => ?_)
  · exact freeTrans_keeps h _
  · exact stationLost_keeps (freeTrans_keeps h _) _ _ _ _

theorem retryTrans_keeps {s0 s : State} (h : Keeps s0 s) (x1 : Trans) : Keeps s0 (retryTrans s x1) := by
  unfold retryTrans
  refine Keeps.ite ?_ ?_
  · exact transLost_keeps h _
  · try extract_lets
    first | split | (dsimp +zetaDelta only; split)
    · exact transLost_keeps (sendOn_keeps h _ _ _ _ _ _) _
    · try extract_lets
      exact (sendOn_keeps h _ _ _ _ _ _).plain

theorem execUnreach_keeps {s0 s : State} (h : Keeps s0 s) (x0 : MsgHdr) : Goes s0 (execUnreach x0 s) := by
  unfold execUnreach
  try extract_lets
  refine Goes.next ?_
  refine Keeps.elim ?_ (fun _ => ?_)
  · exact takeInbox_keeps h _ _
  · exact retryTrans_keeps (takeInbox_keeps h _ _) _

theorem execTransactionTimeout_keeps {s0 s : State} (h : Keeps s0 s) (x0 x1 : Nat) : Goes s0 (execTransactionTimeout x0 x1 s) := by
  unfold execTransactionTimeout
  first | split | (dsimp +zetaDelta only; split)
  · exact Goes.next (h)
  · exact Goes.next (retryTrans_keeps (advance_keeps h _) _)

theorem execHeldMessageTimeout_keeps {s0 s : State} (h : Keeps s0 s) (x0 : Nat) : Goes s0 (execHeldMessageTimeout x0 s) := by
  unfold execHeldMessageTimeout
  first | split | (dsimp +zetaDelta only; split)
  · exact Goes.next (h)
  · try extract_lets
    exact Goes.next (wakeWaiting_keeps ((advance_keeps h _).plain) _)

theorem routedCredits_keeps {s0 s : State} (h : Keeps s0 s) (x1 : MsgHdr) (x2 : List Byte) : Keeps s0 (routedCredits s x1 x2).1 := by
  unfold routedCredits
  first | split | (dsimp +zetaDelta only; split)
  · exact h
  · try extract_lets
    exact putPort_keeps (h).plain _ _

theorem execMessageForward_keeps {s0 s : State} (h : Keeps s0 s) (x0 : MsgHdr) (x1 : List Byte) : Goes s0 (execMessageForward x0 x1 s) := by
  unfold execMessageForward
  refine Goes.ite ?_ ?_
  · exact Goes.next (h)
  · try extract_lets
    refine Goes.ite ?_ ?_
    · exact Goes.next (deliverHere_keeps (routedCredits_keeps h _ _) _)
    · first | split | (dsimp +zetaDelta only; split)
      · exact Goes.next (deliverHere_keeps (routedCredits_keeps h _ _) _)
      · exact Goes.next ((routedCredits_keeps h _ _).plain)
      · exact Goes.next (unreachTo_keeps ((routedCredits_keeps h _ _).plain) _)
      · exact Goes.next (enqueue_keeps (routedCredits_keeps h _ _) _ _ _)

theorem execAliasMessage_keeps {s0 s : State} (h : Keeps s0 s) (x0 : MsgHdr) (x1 x2 : Nat) : Goes s0 (execAliasMessage x0 x1 x2 s) := by
  unfold execAliasMessage
  try extract_lets
  refine Goes.ite ?_ ?_
  · exact Goes.next (health_keeps (ackAsked_keeps (takeInbox_keeps h _ _) _) _)
  · try extract_lets
    refine Goes.next ?_
    refine Keeps.tbl ?_ fun k => jobsOk_map k _ fun _ => ⟨rfl, by first | rfl | (dsimp +zetaDelta only; split <;> rfl)⟩
    exact ackAsked_keeps (takeInbox_keeps h _ _) _

theorem execMgmt_keeps {s0 s : State} (h : Keeps s0 s) (x0 : MsgHdr) (x1 : List Byte) : Goes s0 (execMgmt x0 x1 s) := by
  unfold execMgmt
  try extract_lets
  exact Goes.next ((takeInbox_keeps h _ _).plain)

theorem execHaltNotice_keeps {s0 s : State} (h : Keeps s0 s) (x0 : MsgHdr) : Goes s0 (execHaltNotice x0 s) := by
  unfold execHaltNotice
  try extract_lets
  first | split | (dsimp +zetaDelta only; split)
  · exact Goes.next (ackAsked_keeps (takeInbox_keeps h _ _) _)
  · refine Goes.ite ?_ ?_
    · exact Goes.next (releaseHeldActs_keeps (haltPoison_keeps (ackAsked_keeps (takeInbox_keeps h _ _) _) _ _ _ _ _ _) _)
    · exact Goes.next (haltFabric_keeps (ackAsked_keeps (takeInbox_keeps h _ _) _) _ _ _ _)

theorem execStepReplayRequest_keeps {s0 s : State} (h : Keeps s0 s) (x0 : MsgHdr) : Goes s0 (execStepReplayRequest x0 s) := by
  unfold execStepReplayRequest
  try extract_lets
  first | split | (dsimp +zetaDelta only; split)
  · exact Goes.next (takeInbox_keeps h _ _)
  · refine onlyIf_goes ?_ ?_ _
    · exact takeInbox_keeps h _ _
    · exact putJob_keeps (takeInbox_keeps h _ _) _

end Sys2Proof.Laws
end

