-- ==== Sys2Proof/Laws/KeepJobs.lean ====
section
/-! SUPPORT. What the operations of Machine/Jobs.lean keep (Laws/Keep.lean). -/

namespace Sys2Proof.Laws

open Sys2Proof.Machine

theorem execIdentify_keeps {s0 s : State} (h : Keeps s0 s) (x0 : Nat) : Goes s0 (execIdentify x0 s) := by
  unfold execIdentify
  refine runCmd_keeps ?_ _ _ _ _ (fun _ => ?_)
  · exact h
  · beta_reduce
    exact okNat_keeps h _ _

theorem execReadFeatures_keeps {s0 s : State} (h : Keeps s0 s) (x0 : Nat) : Goes s0 (execReadFeatures x0 s) := by
  unfold execReadFeatures
  refine runCmd_keeps ?_ _ _ _ _ (fun _ => ?_)
  · exact h
  · beta_reduce
    exact h

theorem sendAliases_keeps {s0 s : State} (h : Keeps s0 s) (x1 : Job) : Keeps s0 (sendAliases s x1) := by
  unfold sendAliases
  refine Keeps.elim ?_ (fun _ => ?_)
  · exact h
  · refine Keeps.foldl ?_ (fun _ _ h0 => ?_)
    · exact h
    · exact ctrlTo_keeps h0 _ _ _ _ _ _

theorem execJobOpen_keeps {s0 s : State} (h : Keeps s0 s) (x0 : Nat) : Goes s0 (execJobOpen x0 s) := by
  unfold execJobOpen
  refine runCmd_keeps ?_ _ _ _ _ (fun _ => ?_)
  · exact h
  · beta_reduce
    try extract_lets
    first | split | (dsimp +zetaDelta only; split)
    · refine fail_keeps ?_ _
      refine Keeps.elim ?_ (fun _ => ?_)
      · exact h
      · exact reachRange_keeps h _ _
    · refine Keeps.iteR ?_ ?_
      · refine fail_keeps ?_ _
        refine Keeps.elim ?_ (fun _ => ?_)
        · exact h
        · exact reachRange_keeps h _ _
      · refine Keeps.iteR ?_ ?_
        · refine fail_keeps ?_ _
          refine Keeps.elim ?_ (fun _ => ?_)
          · exact h
          · exact reachRange_keeps h _ _
        · refine Keeps.iteR ?_ ?_
          · refine fail_keeps ?_ _
            refine Keeps.elim ?_ (fun _ => ?_)
            · exact h
            · exact reachRange_keeps h _ _
          · refine Keeps.iteR ?_ ?_
            · refine fail_keeps ?_ _
              refine Keeps.elim ?_ (fun _ => ?_)
              · exact h
              · exact reachRange_keeps h _ _
            · try extract_lets
              refine okNat_keeps ?_ _ _
              refine tellPairs_keeps ?_ _
              refine sendAliases_keeps ?_ _
              refine wrHost_keeps ?_ _ _
              refine putJob_keeps ?_ _
              refine Keeps.put ?_ (Nat.le_refl _) ?_ (NKeeps.refl _) (WKeeps.refl _)
              · refine Keeps.elim ?_ (fun _ => ?_)
                · exact h
                · exact reachRange_keeps h _ _
              · try extract_lets
                refine MKeeps.plain ?_
                exact MKeeps.refl _

theorem defaultStrokes_keeps {s0 s : State} (h : Keeps s0 s) : Keeps s0 (defaultStrokes s) := by
  unfold defaultStrokes
  exact (h).plain

theorem stopWork_keeps {s0 s : State} (h : Keeps s0 s) (x1 : Nat) : Keeps s0 (stopWork s x1) := by
  unfold stopWork
  try extract_lets
  refine updJob_keeps ?_ _ _
  refine Keeps.foldl ?_ (fun _ _ h0 => ?_)
  · exact (releaseHeldActs_keeps (abortUnstarted_keeps h _) _).plain
  · exact saveQueue_keeps h0 _ _

theorem defaultSettings_keeps {s0 s : State} (h : Keeps s0 s) (x1 : Nat) : Keeps s0 (defaultSettings s x1) := by
  unfold defaultSettings
  try extract_lets
  refine Keeps.ite ?_ ?_
  · exact defaultStrokes_keeps (updJob_keeps h _ _)
  · exact updJob_keeps h _ _

theorem execJobReset_keeps {s0 s : State} (h : Keeps s0 s) (x0 : Nat) : Goes s0 (execJobReset x0 s) := by
  unfold execJobReset
  refine runJobCmd_keeps ?_ _ _ _ _ (fun _ _ => ?_)
  · exact h
  · beta_reduce
    try extract_lets
    exact ok_keeps (epochReached_keeps (updJob_keeps (defaultSettings_keeps (stopWork_keeps h _) _) _ _) _)

theorem dropAtPartner_keeps {s0 s : State} (h : Keeps s0 s) (x1 : Job) (x2 : Option Nat) : Keeps s0 (dropAtPartner s x1 x2) := by
  unfold dropAtPartner
  first | split | (dsimp +zetaDelta only; split)
  · exact h
  · refine Keeps.ite ?_ ?_
    · exact h
    · exact ctrlTo_keeps h _ _ _ _ _ _

theorem forgetJob_keeps {s0 s : State} (h : Keeps s0 s) (x1 : Job) : Keeps s0 (forgetJob s x1) := by
  unfold forgetJob
  try extract_lets
  refine Keeps.tbl ?_ fun k => jobsOk_del k _
  exact h

theorem execZeroiseComplete_keeps {s0 s : State} (h : Keeps s0 s) (x0 : Nat) : Goes s0 (execZeroiseComplete x0 s) := by
  unfold execZeroiseComplete
  first | split | (dsimp +zetaDelta only; split)
  · exact Goes.next (h)
  · try extract_lets
    refine Goes.next ?_
    refine Keeps.put ?_ (Nat.le_refl _) ?_ (NKeeps.refl _) (WKeeps.refl _)
    · exact h
    · refine MKeeps.plain ?_
      refine MKeeps.foldl _ _ ?_ (fun _ _ h0 => ?_)
      · exact MKeeps.refl _
      · exact zeroRange_keeps h0 _ _

theorem execMapWindow_keeps {s0 s : State} (h : Keeps s0 s) (x0 : Nat) : Goes s0 (execMapWindow x0 s) := by
  unfold execMapWindow
  refine runCmd_keeps ?_ _ _ _ _ (fun _ => ?_)
  · exact h
  · beta_reduce
    try extract_lets
    refine Keeps.iteR ?_ ?_
    · exact fail_keeps h _
    · refine Keeps.iteR ?_ ?_
      · exact fail_keeps h _
      · try extract_lets
        first | split | (dsimp +zetaDelta only; split)
        · exact fail_keeps h _
        · try extract_lets
          refine okNat_keeps ?_ _ _
          refine Keeps.ite ?_ ?_
          · exact (h).plain
          · exact updJob_keeps h _ _

theorem execUnmapWindow_keeps {s0 s : State} (h : Keeps s0 s) (x0 : Nat) : Goes s0 (execUnmapWindow x0 s) := by
  unfold execUnmapWindow
  refine runCmd_keeps ?_ _ _ _ _ (fun _ => ?_)
  · exact h
  · beta_reduce
    try extract_lets
    refine Keeps.iteR ?_ ?_
    · exact fail_keeps h _
    · refine Keeps.iteR ?_ ?_
      · exact (h).plain
      · exact updJob_keeps h _ _

theorem loseWindow_keeps {s0 s : State} (h : Keeps s0 s) (x1 : Nat) (x2 : Window) : Keeps s0 (loseWindow s x1 x2) := by
  unfold loseWindow
  try extract_lets
  exact updJob_keeps (loseRecords_keeps h _ _) _ _

theorem answerUnmaps_keeps {s0 s : State} (h : Keeps s0 s) (x1 : Nat) : Keeps s0 (answerUnmaps s x1) := by
  unfold answerUnmaps
  refine Keeps.foldl ?_ (fun _ _ h0 => ?_)
  · exact h
  · try extract_lets
    refine Keeps.ite ?_ ?_
    · refine Keeps.elim ?_ (fun _ => ?_)
      · exact h0
      · exact answerRequest_keeps h0 _ _ _ _
    · exact h0

theorem closeJob_keeps {s0 s : State} (h : Keeps s0 s) (x1 : Nat) : Keeps s0 (closeJob s x1) := by
  unfold closeJob
  first | split | (dsimp +zetaDelta only; split)
  · exact h
  · try extract_lets
    refine startZero_keeps ?_ _ _
    refine Keeps.ite ?_ ?_
    · refine answerUnmaps_keeps ?_ _
      refine forgetJob_keeps ?_ _
      refine dropAtPartner_keeps ?_ _ _
      refine Keeps.foldl ?_ (fun _ _ h0 => ?_)
      · exact (h).plain
      · exact completeWith_keeps h0 _ _
    · refine tellTensors_keeps ?_
      refine answerUnmaps_keeps ?_ _
      refine forgetJob_keeps ?_ _
      refine dropAtPartner_keeps ?_ _ _
      refine Keeps.foldl ?_ (fun _ _ h0 => ?_)
      · exact (h).plain
      · exact completeWith_keeps h0 _ _

theorem startClose_keeps {s0 s : State} (h : Keeps s0 s) (x1 : Nat) : Keeps s0 (startClose s x1) := by
  unfold startClose
  exact updJob_keeps h _ _

theorem execJobClose_keeps {s0 s : State} (h : Keeps s0 s) (x0 : Nat) : Goes s0 (execJobClose x0 s) := by
  unfold execJobClose
  refine runJobCmd_keeps ?_ _ _ _ _ (fun _ _ => ?_)
  · exact h
  · beta_reduce
    try extract_lets
    refine Keeps.iteR ?_ ?_
    · exact startClose_keeps (stopWork_keeps h _) _
    · exact ok_keeps (closeJob_keeps (stopWork_keeps h _) _)

theorem windowGone_keeps {s0 s : State} (h : Keeps s0 s) (x1 : Nat) : Keeps s0 (windowGone s x1) := by
  unfold windowGone
  refine Keeps.ite ?_ ?_
  · try extract_lets
    refine Keeps.elim ?_ (fun _ => ?_)
    · exact closeJob_keeps h _
    · exact answerRequest_keeps (closeJob_keeps h _) _ _ _ _
  · exact h

theorem execUnmapTakeEffect_keeps {s0 s : State} (h : Keeps s0 s) (x0 x1 : Nat) : Goes s0 (execUnmapTakeEffect x0 x1 s) := by
  unfold execUnmapTakeEffect
  try extract_lets
  first | split | (dsimp +zetaDelta only; split)
  · exact Goes.next (h)
  · refine Goes.ite ?_ ?_
    · exact Goes.next (h)
    · try extract_lets
      refine Goes.next ?_
      refine Keeps.ite ?_ ?_
      · refine Keeps.elim ?_ (fun _ => ?_)
        · refine Keeps.ite ?_ ?_
          · refine Keeps.ite ?_ ?_
            · refine Keeps.ite ?_ ?_
              · exact (h).plain
              · exact updJob_keeps h _ _
            · refine loseWindow_keeps ?_ _ _
              refine Keeps.ite ?_ ?_
              · exact (h).plain
              · exact updJob_keeps h _ _
          · refine startZero_keeps ?_ _ _
            refine Keeps.ite ?_ ?_
            · exact (h).plain
            · exact updJob_keeps h _ _
        · refine answerRequest_keeps ?_ _ _ _ _
          refine Keeps.ite ?_ ?_
          · refine Keeps.ite ?_ ?_
            · refine Keeps.ite ?_ ?_
              · exact (h).plain
              · exact updJob_keeps h _ _
            · refine loseWindow_keeps ?_ _ _
              refine Keeps.ite ?_ ?_
              · exact (h).plain
              · exact updJob_keeps h _ _
          · refine startZero_keeps ?_ _ _
            refine Keeps.ite ?_ ?_
            · exact (h).plain
            · exact updJob_keeps h _ _
      · refine windowGone_keeps ?_ _
        refine Keeps.elim ?_ (fun _ => ?_)
        · refine Keeps.ite ?_ ?_
          · refine Keeps.ite ?_ ?_
            · refine Keeps.ite ?_ ?_
              · exact (h).plain
              · exact updJob_keeps h _ _
            · refine loseWindow_keeps ?_ _ _
              refine Keeps.ite ?_ ?_
              · exact (h).plain
              · exact updJob_keeps h _ _
          · refine startZero_keeps ?_ _ _
            refine Keeps.ite ?_ ?_
            · exact (h).plain
            · exact updJob_keeps h _ _
        · refine answerRequest_keeps ?_ _ _ _ _
          refine Keeps.ite ?_ ?_
          · refine Keeps.ite ?_ ?_
            · refine Keeps.ite ?_ ?_
              · exact (h).plain
              · exact updJob_keeps h _ _
            · refine loseWindow_keeps ?_ _ _
              refine Keeps.ite ?_ ?_
              · exact (h).plain
              · exact updJob_keeps h _ _
          · refine startZero_keeps ?_ _ _
            refine Keeps.ite ?_ ?_
            · exact (h).plain
            · exact updJob_keeps h _ _

theorem execQueueCreate_keeps {s0 s : State} (h : Keeps s0 s) (x0 : Nat) : Goes s0 (execQueueCreate x0 s) := by
  unfold execQueueCreate
  refine runJobCmd_keeps ?_ _ _ _ _ (fun _ _ => ?_)
  · exact h
  · beta_reduce
    refine Keeps.iteR ?_ ?_
    · exact fail_keeps h _
    · refine Keeps.iteR ?_ ?_
      · exact fail_keeps h _
      · try extract_lets
        exact okNat_keeps (saveQueue_keeps h _ _) _ _

theorem execQueueDestroy_keeps {s0 s : State} (h : Keeps s0 s) (x0 : Nat) : Goes s0 (execQueueDestroy x0 s) := by
  unfold execQueueDestroy
  refine runJobCmd_keeps ?_ _ _ _ _ (fun _ _ => ?_)
  · exact h
  · beta_reduce
    try extract_lets
    first | split | (dsimp +zetaDelta only; split)
    · exact fail_keeps h _
    · refine Keeps.iteR ?_ ?_
      · exact fail_keeps h _
      · refine Keeps.iteR ?_ ?_
        · exact fail_keeps h _
        · exact ok_keeps (h).plain

theorem execHandleTableSet_keeps {s0 s : State} (h : Keeps s0 s) (x0 : Nat) : Goes s0 (execHandleTableSet x0 s) := by
  unfold execHandleTableSet
  refine runJobCmd_keeps ?_ _ _ _ _ (fun _ _ => ?_)
  · exact h
  · beta_reduce
    first | split | (dsimp +zetaDelta only; split)
    · exact fail_keeps h _
    · refine Keeps.iteR ?_ ?_
      · exact fail_keeps h _
      · exact ok_keeps (updJob_keeps h _ _)

theorem execProgressQuery_keeps {s0 s : State} (h : Keeps s0 s) (x0 : Nat) : Goes s0 (execProgressQuery x0 s) := by
  unfold execProgressQuery
  refine runCmd_keeps ?_ _ _ _ _ (fun _ => ?_)
  · exact h
  · beta_reduce
    refine Keeps.iteR ?_ ?_
    · exact fail_keeps h _
    · try extract_lets
      exact okNat_keeps (draw_keeps h) _ _

theorem undoWaiting_keeps {s0 s : State} (h : Keeps s0 s) (x1 : Request) : Keeps s0 (undoWaiting s x1) := by
  unfold undoWaiting
  refine Keeps.ite ?_ ?_
  · try extract_lets
    refine Keeps.ite ?_ ?_
    · exact (h).plain
    · exact updJob_keeps h _ _
  · refine Keeps.ite ?_ ?_
    · exact (h).plain
    · refine Keeps.ite ?_ ?_
      · exact updJob_keeps h _ _
      · refine Keeps.ite ?_ ?_
        · exact (h).plain
        · exact h

theorem idlePage_keeps {s0 s : State} (h : Keeps s0 s) (x1 : Nat) : Keeps s0 (idlePage s x1) := by
  unfold idlePage
  try extract_lets
  refine Keeps.ite ?_ ?_
  · exact h
  · try extract_lets
    refine putPage_keeps ?_ _ _
    refine Keeps.ite ?_ ?_
    · refine Keeps.elim ?_ (fun _ => ?_)
      · exact h
      · exact undoWaiting_keeps h _
    · exact h

theorem failDrain_keeps {s0 s : State} (h : Keeps s0 s) (x1 : Drain) : Keeps s0 (failDrain s x1) := by
  unfold failDrain
  try extract_lets
  exact endOp_keeps (updJob_keeps h _ _) _ _

theorem failOps_keeps {s0 s : State} (h : Keeps s0 s) : Keeps s0 (failOps s) := by
  unfold failOps
  try extract_lets
  refine Keeps.put ?_ (Nat.le_refl _) ?_ (NKeeps.refl _) (by first | exact ⟨Nat.le_refl _, id⟩ | exact ⟨Nat.le_max_left _ _, id⟩ | exact ⟨Nat.le_add_right _ _, id⟩ | exact ⟨Nat.le_refl _, fun _ => rfl⟩)
  · refine Keeps.foldl ?_ (fun _ _ h0 => ?_)
    · refine Keeps.foldl ?_ (fun _ _ h0 => ?_)
      · exact h
      · exact endOp_keeps h0 _ _
    · exact failDrain_keeps h0 _
  · try extract_lets
    refine MKeeps.plain ?_
    exact MKeeps.refl _

theorem execHubFailover_keeps {s0 s : State} (h : Keeps s0 s) : Goes s0 (execHubFailover s) := by
  unfold execHubFailover
  try extract_lets
  refine onlyIf_goes ?_ ?_ _
  · exact h
  · refine health_keeps ?_ _
    refine Keeps.plain ?_
    refine failOps_keeps ?_
    refine Keeps.foldl ?_ (fun _ _ h0 => ?_)
    · exact h
    · exact idlePage_keeps h0 _

end Sys2Proof.Laws
end

