-- ==== Sys2Proof/Laws/KeepHostLink.lean ====
section
/-! SUPPORT. What the operations of Machine/HostLink.lean keep (Laws/Keep.lean). -/

namespace Sys2Proof.Laws

open Sys2Proof.Machine

theorem doorbell_keeps {s0 s : State} (h : Keeps s0 s) (job : Nat) (f : Job → State) (k : ∀ j, Keeps s0 (f j)) : Goes s0 (doorbell s job f) := by
  unfold doorbell
  split
  · exact Goes.next h
  · exact onlyIf_goes h (k _) _

theorem badDoorbell_keeps {s0 s : State} (h : Keeps s0 s) (x1 : Job) : Keeps s0 (badDoorbell s x1) := by
  unfold badDoorbell
  exact putJob_keeps h _

theorem tailWrite_keeps {s0 s : State} (h : Keeps s0 s) (x1 : Job) (x2 : Nat) : Keeps s0 (tailWrite s x1 x2) := by
  unfold tailWrite
  try extract_lets
  first | split | (dsimp +zetaDelta only; split)
  · exact badDoorbell_keeps h _
  · try extract_lets
    refine Keeps.ite ?_ ?_
    · exact saveQueue_keeps h _ _
    · try extract_lets
      exact saveQueue_keeps h _ _

theorem execDbTail_keeps {s0 s : State} (h : Keeps s0 s) (x0 : Nat) (x1 : Word64) : Goes s0 (execDbTail x0 x1 s) := by
  unfold execDbTail
  refine doorbell_keeps ?_ _ _ (fun _ => ?_)
  · exact h
  · beta_reduce
    exact tailWrite_keeps h _ _

theorem resumeWrite_keeps {s0 s : State} (h : Keeps s0 s) (x1 : Job) (x2 : Nat) (x3 : Bool) : Keeps s0 (resumeWrite s x1 x2 x3) := by
  unfold resumeWrite
  try extract_lets
  first | split | (dsimp +zetaDelta only; split)
  · exact badDoorbell_keeps h _
  · refine Keeps.ite ?_ ?_
    · exact h
    · refine Keeps.ite ?_ ?_
      · try extract_lets
        exact saveQueue_keeps h _ _
      · exact saveQueue_keeps h _ _

theorem execQResumeRetry_keeps {s0 s : State} (h : Keeps s0 s) (x0 : Nat) (x1 : Word64) : Goes s0 (execQResumeRetry x0 x1 s) := by
  unfold execQResumeRetry
  refine doorbell_keeps ?_ _ _ (fun _ => ?_)
  · exact h
  · beta_reduce
    exact resumeWrite_keeps h _ _ _

theorem execQResumeSkip_keeps {s0 s : State} (h : Keeps s0 s) (x0 : Nat) (x1 : Word64) : Goes s0 (execQResumeSkip x0 x1 s) := by
  unfold execQResumeSkip
  refine doorbell_keeps ?_ _ _ (fun _ => ?_)
  · exact h
  · beta_reduce
    exact resumeWrite_keeps h _ _ _

theorem pinWrite_keeps {s0 s : State} (h : Keeps s0 s) (x1 : Job) (x2 : Nat) : Keeps s0 (pinWrite s x1 x2) := by
  unfold pinWrite
  refine Keeps.ite ?_ ?_
  · exact badDoorbell_keeps h _
  · exact putJob_keeps h _

theorem execPinAdd_keeps {s0 s : State} (h : Keeps s0 s) (x0 : Nat) (x1 : Word64) : Goes s0 (execPinAdd x0 x1 s) := by
  unfold execPinAdd
  refine doorbell_keeps ?_ _ _ (fun _ => ?_)
  · exact h
  · beta_reduce
    exact pinWrite_keeps h _ _

theorem pinSelect_keeps {s0 s : State} (h : Keeps s0 s) (x1 : Job) (x2 : Nat) : Keeps s0 (pinSelect s x1 x2) := by
  unfold pinSelect
  refine Keeps.ite ?_ ?_
  · exact badDoorbell_keeps h _
  · exact putJob_keeps h _

theorem pageWrite_keeps {s0 s : State} (h : Keeps s0 s) (x1 : Nat) (x2 : List Byte) : Keeps s0 (pageWrite s x1 x2) := by
  unfold pageWrite
  first | split | (dsimp +zetaDelta only; split)
  · exact h
  · try extract_lets
    refine Keeps.ite ?_ ?_
    · refine Keeps.ite ?_ ?_
      · exact tailWrite_keeps h _ _
      · exact h
    · refine Keeps.ite ?_ ?_
      · exact resumeWrite_keeps h _ _ _
      · refine Keeps.ite ?_ ?_
        · exact pinWrite_keeps h _ _
        · refine Keeps.ite ?_ ?_
          · exact pinSelect_keeps h _ _
          · exact h

theorem requestWrite_keeps {s0 s : State} (h : Keeps s0 s) (x1 x2 : Nat) (x3 : List Byte) : Keeps s0 (requestWrite s x1 x2 x3) := by
  unfold requestWrite
  try extract_lets
  exact putPage_keeps h _ _

theorem releasePending_keeps {s0 s : State} (h : Keeps s0 s) : Keeps s0 (releasePending s) := by
  unfold releasePending
  refine Keeps.foldl ?_ (fun _ _ h0 => ?_)
  · exact h
  · exact sendMsix_keeps (h0).plain _

theorem msixWrite_keeps {s0 s : State} (h : Keeps s0 s) (x1 : Nat) (x2 : List Byte) : Keeps s0 (msixWrite s x1 x2) := by
  unfold msixWrite
  exact releasePending_keeps (h).plain

theorem bar0Write_keeps {s0 s : State} (h : Keeps s0 s) (x1 : Nat) (x2 : List Byte) : Keeps s0 (bar0Write s x1 x2) := by
  unfold bar0Write
  refine Keeps.ite ?_ ?_
  · exact requestWrite_keeps h _ _ _
  · refine Keeps.ite ?_ ?_
    · refine Keeps.ite ?_ ?_
      · exact ringPage_keeps h _
      · exact h
    · refine Keeps.ite ?_ ?_
      · exact (h).plain
      · refine Keeps.ite ?_ ?_
        · exact msixWrite_keeps h _ _
        · exact h

theorem execRegisterWrite_keeps {s0 s : State} (h : Keeps s0 s) (x0 x1 : Nat) (x2 : List Byte) : Goes s0 (execRegisterWrite x0 x1 x2 s) := by
  unfold execRegisterWrite
  refine onlyIf_goes ?_ ?_ _
  · exact h
  · refine Keeps.ite ?_ ?_
    · exact bar0Write_keeps h _ _
    · refine Keeps.ite ?_ ?_
      · exact pageWrite_keeps h _ _
      · exact h

theorem execBar4Read_keeps {s0 s : State} (h : Keeps s0 s) (x0 x1 : Nat) : Goes s0 (execBar4Read x0 x1 s) := by
  unfold execBar4Read
  try extract_lets
  refine onlyIf_goes ?_ ?_ _
  · exact h
  · refine Keeps.plain ?_
    refine Keeps.ite ?_ ?_
    · exact reachRange_keeps h _ _
    · exact h

theorem execBar4Write_keeps {s0 s : State} (h : Keeps s0 s) (x0 : Nat) (x1 : List Byte) (x2 : Bool) : Goes s0 (execBar4Write x0 x1 x2 s) := by
  unfold execBar4Write
  try extract_lets
  refine onlyIf_goes ?_ ?_ _
  · exact h
  · refine Keeps.ite ?_ ?_
    · exact (h).plain
    · refine Keeps.ite ?_ ?_
      · exact putMem_keeps h _ _
      · exact h

theorem execConfigurationRequest_keeps {s0 s : State} (h : Keeps s0 s) (x0 : Bool) (x1 : Nat) (x2 : Word32) : Goes s0 (execConfigurationRequest x0 x1 x2 s) := by
  unfold execConfigurationRequest
  try extract_lets
  refine onlyIf_goes ?_ ?_ _
  · exact h
  · refine Keeps.ite ?_ ?_
    · try extract_lets
      exact draw_keeps (h).plain
    · exact (h).plain

end Sys2Proof.Laws
end

