-- ==== Sys2Proof/Laws/KeepRouting.lean ====
section
/-! SUPPORT. What the operations of Machine/Routing.lean keep (Laws/Keep.lean). -/

namespace Sys2Proof.Laws

open Sys2Proof.Machine

theorem setPorts_keeps {s0 s : State} (h : Keeps s0 s) (x1 : Nat) : Keeps s0 (setPorts s x1) := by
  unfold setPorts
  try extract_lets
  refine Keeps.foldl ?_ (fun _ _ h0 => ?_)
  · exact (h).plain
  · exact disablePort_keeps h0 _

theorem retrainPort_keeps {s0 s : State} (h : Keeps s0 s) (x1 : Nat) : Keeps s0 (retrainPort s x1) := by
  unfold retrainPort
  first | split | (dsimp +zetaDelta only; split)
  · exact enterRetrain_keeps h _
  · exact putPort_keeps h _ _
  · exact h

theorem execStationSet_keeps {s0 s : State} (h : Keeps s0 s) (x0 : Nat) : Goes s0 (execStationSet x0 s) := by
  unfold execStationSet
  refine runCmd_keeps ?_ _ _ _ _ (fun _ => ?_)
  · exact h
  · beta_reduce
    try extract_lets
    refine Keeps.iteR ?_ ?_
    · exact fail_keeps h _
    · refine Keeps.iteR ?_ ?_
      · exact fail_keeps h _
      · try extract_lets
        refine ok_keeps ?_
        refine Keeps.ite ?_ ?_
        · refine Keeps.ite ?_ ?_
          · refine Keeps.foldl ?_ (fun _ _ h0 => ?_)
            · exact setPorts_keeps (h).plain _
            · exact retrainPort_keeps h0 _
          · exact setPorts_keeps (h).plain _
        · refine Keeps.ite ?_ ?_
          · refine nvWrite_keeps ?_ _
            refine Keeps.plain ?_
            refine Keeps.ite ?_ ?_
            · refine Keeps.foldl ?_ (fun _ _ h0 => ?_)
              · exact setPorts_keeps (h).plain _
              · exact retrainPort_keeps h0 _
            · exact setPorts_keeps (h).plain _
          · refine Keeps.plain ?_
            refine Keeps.ite ?_ ?_
            · refine Keeps.foldl ?_ (fun _ _ h0 => ?_)
              · exact setPorts_keeps (h).plain _
              · exact retrainPort_keeps h0 _
            · exact setPorts_keeps (h).plain _

theorem execRouteLoad_keeps {s0 s : State} (h : Keeps s0 s) (x0 : Nat) : Goes s0 (execRouteLoad x0 s) := by
  unfold execRouteLoad
  refine runCmd_keeps ?_ _ _ _ _ (fun _ => ?_)
  · exact h
  · beta_reduce
    first | split | (dsimp +zetaDelta only; split)
    · exact fail_keeps h _
    · try extract_lets
      first | split | (dsimp +zetaDelta only; split)
      · exact fail_keeps (reachRange_keeps h _ _) _
      · refine Keeps.iteR ?_ ?_
        · exact fail_keeps (reachRange_keeps h _ _) _
        · refine Keeps.iteR ?_ ?_
          · exact fail_keeps (reachRange_keeps h _ _) _
          · refine Keeps.iteR ?_ ?_
            · exact fail_keeps (reachRange_keeps h _ _) _
            · refine Keeps.iteR ?_ ?_
              · exact fail_keeps (reachRange_keeps h _ _) _
              · try extract_lets
                exact startOp_keeps (suspendStream_keeps ((reachRange_keeps h _ _).plain) _ _) _ _ _

theorem endRoute_keeps {s0 s : State} (h : Keeps s0 s) (x1 : LongOp) (x2 : Bool) : Keeps s0 (endRoute s x1 x2) := by
  unfold endRoute
  try extract_lets
  refine Keeps.ite ?_ ?_
  · exact endOp_keeps ((endStream_keeps h _).plain) _ _
  · exact endOp_keeps ((endStream_keeps h _).plain) _ _

end Sys2Proof.Laws
end

