-- ==== Sys2Proof/Laws/KeepShadows.lean ====
section
/-! SUPPORT. What the operations of Machine/Shadows.lean keep (Laws/Keep.lean). -/

namespace Sys2Proof.Laws

open Sys2Proof.Machine

theorem shadowRecord_keeps {s0 s : State} (h : Keeps s0 s) (x1 : Nat) (x2 : Sid) (x3 : Nat) (x4 : Nat × Nat) (x5 x6 : Nat) : Keeps s0 (shadowRecord s x1 x2 x3 x4 x5 x6) := by
  unfold shadowRecord
  refine Keeps.elim ?_ (fun _ => ?_)
  · exact h
  · exact jobEvent_keeps h _ _

theorem retireNib_keeps {s0 s : State} (h : Keeps s0 s) (x1 : Nat × Nat) (x2 : Nat) : Keeps s0 (retireNib s x1 x2) := by
  unfold retireNib
  try extract_lets
  refine Keeps.ite ?_ ?_
  · exact h
  · refine Keeps.put ?_ (Nat.le_refl _) (MKeeps.refl _) (by first | exact ⟨rfl, fun _ h => h⟩ | exact ⟨rfl, fun _ => mem_ninsert⟩) (WKeeps.refl _)
    exact h

theorem permanentFault_keeps {s0 s : State} (h : Keeps s0 s) (x1 : Nat × Nat) (x2 : Nat) : Keeps s0 (permanentFault s x1 x2) := by
  unfold permanentFault
  refine Keeps.ite ?_ ?_
  · exact retireNib_keeps h _ _
  · exact health_keeps h _

theorem countTransient_keeps {s0 s : State} (h : Keeps s0 s) (x1 : Nat × Nat) (x2 : Option Active) : Keeps s0 (countTransient s x1 x2) := by
  unfold countTransient
  try extract_lets
  refine Keeps.ite ?_ ?_
  · refine permanentFault_keeps ?_ _ _
    first | split | (dsimp +zetaDelta only; split)
    · exact shadowRecord_keeps (h).plain _ _ _ _ _ _
    · exact health_keeps (h).plain _
  · first | split | (dsimp +zetaDelta only; split)
    · exact shadowRecord_keeps (h).plain _ _ _ _ _ _
    · exact health_keeps (h).plain _

theorem putShadow_keeps {s0 s : State} (h : Keeps s0 s) (x1 : Shadow) : Keeps s0 (putShadow s x1) := by
  unfold putShadow
  exact (h).plain

theorem endCompare_keeps {s0 s : State} (h : Keeps s0 s) (x1 : Active) : Keeps s0 (endCompare s x1) := by
  unfold endCompare
  try extract_lets
  first | split | (dsimp +zetaDelta only; split)
  · exact completeWith_keeps (h).plain _ _
  · refine Keeps.ite ?_ ?_
    · exact endDiscarded_keeps (h).plain _
    · refine Keeps.ite ?_ ?_
      · exact endRecompute_keeps (h).plain _
      · refine Keeps.ite ?_ ?_
        · exact leaveMuted_keeps (h).plain _
        · try extract_lets
          first | split | (dsimp +zetaDelta only; split)
          · exact settleGroup_keeps (putAct_keeps (h).plain _) _
          · exact putAct_keeps (h).plain _
          · exact evaluateAct_keeps (h).plain _ _

theorem mismatchHalt_keeps {s0 s : State} (h : Keeps s0 s) (x1 : Active) : Keeps s0 (mismatchHalt s x1) := by
  unfold mismatchHalt
  try extract_lets
  refine Keeps.ite ?_ ?_
  · refine Keeps.elim ?_ (fun _ => ?_)
    · exact releaseHeldActs_keeps (completeWith_keeps (abortUnstarted_keeps (haltJob_keeps h _) _) _ _) _
    · exact toStations_keeps (releaseHeldActs_keeps (completeWith_keeps (abortUnstarted_keeps (haltJob_keeps h _) _) _ _) _) _ _ _
  · exact releaseHeldActs_keeps (completeWith_keeps (abortUnstarted_keeps (haltJob_keeps h _) _) _ _) _

theorem settleCompare_keeps {s0 s : State} (h : Keeps s0 s) (x1 : Sid) : Keeps s0 (settleCompare s x1) := by
  unfold settleCompare
  first | split | (dsimp +zetaDelta only; split)
  · refine Keeps.ite ?_ ?_
    · exact endCompare_keeps h _
    · exact h
  · exact h

theorem execShadowComplete_keeps {s0 s : State} (h : Keeps s0 s) (x0 : Sid) (x1 : List (Word32 × Word32)) : Goes s0 (execShadowComplete x0 x1 s) := by
  unfold execShadowComplete
  first | split | (dsimp +zetaDelta only; split)
  · exact Goes.next (h)
  · refine onlyIf_goes ?_ ?_ _
    · exact h
    · exact settleCompare_keeps (putShadow_keeps h _) _

theorem moveContrib_keeps {s0 s : State} (h : Keeps s0 s) (x1 : Active) (x2 : List Int) : Keeps s0 (moveContrib s x1 x2).1 := by
  unfold moveContrib
  first | split | (dsimp +zetaDelta only; split)
  · try extract_lets
    exact putJob_keeps h _
  · exact h

theorem execThirdExecComplete_keeps {s0 s : State} (h : Keeps s0 s) (x0 : Sid) (x1 : Nat) (x2 : Word32) (x3 : ShareResult) : Goes s0 (execThirdExecComplete x0 x1 x2 x3 s) := by
  unfold execThirdExecComplete
  first | split | (dsimp +zetaDelta only; split)
  · refine Goes.ite ?_ ?_
    · exact Goes.next (h)
    · try extract_lets
      refine Goes.ite ?_ ?_
      · try extract_lets
        exact Goes.next (shadowRecord_keeps (putShadow_keeps h _) _ _ _ _ _ _)
      · refine Goes.ite ?_ ?_
        · try extract_lets
          exact Goes.next (shadowRecord_keeps (putAct_keeps (moveContrib_keeps (applyWrites_keeps (putShadow_keeps h _) _ _) _ _) _) _ _ _ _ _ _)
        · try extract_lets
          exact Goes.next (mismatchHalt_keeps (shadowRecord_keeps h _ _ _ _ _ _) _)
  · exact Goes.next (h)

theorem execLoserRepeatComplete_keeps {s0 s : State} (h : Keeps s0 s) (x0 : Sid) (x1 : Nat) (x2 : Word32) : Goes s0 (execLoserRepeatComplete x0 x1 x2 s) := by
  unfold execLoserRepeatComplete
  first | split | (dsimp +zetaDelta only; split)
  · first | split | (dsimp +zetaDelta only; split)
    · exact Goes.next (h)
    · try extract_lets
      refine Goes.next ?_
      refine settleCompare_keeps ?_ _
      refine Keeps.ite ?_ ?_
      · exact permanentFault_keeps (putShadow_keeps h _) _ _
      · exact countTransient_keeps (putShadow_keeps h _) _ _
  · exact Goes.next (h)

theorem execNibRetireComplete_keeps {s0 s : State} (h : Keeps s0 s) (x0 x1 : Nat) : Goes s0 (execNibRetireComplete x0 x1 s) := by
  unfold execNibRetireComplete
  try extract_lets
  first | split | (dsimp +zetaDelta only; split)
  · exact Goes.next (h)
  · refine Goes.ite ?_ ?_
    · exact Goes.next (h)
    · try extract_lets
      refine Goes.next ?_
      refine Keeps.foldl ?_ (fun _ _ h0 => ?_)
      · refine health_keeps ?_ _
        refine Keeps.putTbl ?_ (Nat.le_refl _) (MKeeps.refl _) (by first | exact ⟨rfl, fun _ h => h⟩ | exact ⟨rfl, fun _ => mem_ninsert⟩) (WKeeps.refl _) fun k => jobsOk_map k _ fun _ => ⟨rfl, by first | rfl | (dsimp +zetaDelta only; split <;> rfl)⟩
        exact h
      · exact shadowRecord_keeps h0 _ _ _ _ _ _

theorem repeatEnds_keeps {s0 s : State} (h : Keeps s0 s) (x1 : Nat × Nat × Nat × Word32 × Nat × Nat) (x2 : Word32) : Keeps s0 (repeatEnds s x1 x2) := by
  unfold repeatEnds
  try extract_lets
  refine Keeps.ite ?_ ?_
  · exact (h).plain
  · try extract_lets
    refine Keeps.ite ?_ ?_
    · exact permanentFault_keeps (h).plain _ _
    · exact countTransient_keeps (h).plain _ _

theorem execSelftestSliceEnd_keeps {s0 s : State} (h : Keeps s0 s) (x0 x1 : Nat) (x2 : Word32) : Goes s0 (execSelftestSliceEnd x0 x1 x2 s) := by
  unfold execSelftestSliceEnd
  first | split | (dsimp +zetaDelta only; split)
  · exact Goes.next (h)
  · try extract_lets
    first | split | (dsimp +zetaDelta only; split)
    · exact Goes.next (repeatEnds_keeps (advance_keeps (h).plain _) _ _)
    · try extract_lets
      refine Goes.next ?_
      refine Keeps.ite ?_ ?_
      · exact advance_keeps (h).plain _
      · exact (advance_keeps (h).plain _).plain

end Sys2Proof.Laws
end

