-- ==== Sys2Proof/Laws/KeepResets.lean ====
section
/-! SUPPORT. What the operations of Machine/Resets.lean keep (Laws/Keep.lean). -/

namespace Sys2Proof.Laws

open Sys2Proof.Machine

theorem setDivisor_keeps {s0 s : State} (h : Keeps s0 s) (x1 : Nat) : Keeps s0 (setDivisor s x1) := by
  unfold setDivisor
  try extract_lets
  refine Keeps.ite ?_ ?_
  · exact h
  · exact health_keeps (h).plain _

theorem fallBack_keeps {s0 s : State} (h : Keeps s0 s) : Keeps s0 (fallBack s) := by
  unfold fallBack
  try extract_lets
  refine health_keeps ?_ _
  refine Keeps.put ?_ (Nat.le_refl _) (MKeeps.refl _) (NKeeps.refl _) (by first | exact ⟨Nat.le_refl _, id⟩ | exact ⟨Nat.le_max_left _ _, id⟩ | exact ⟨Nat.le_add_right _ _, id⟩ | exact ⟨Nat.le_refl _, fun _ => rfl⟩)
  exact h

theorem bootCheck_keeps {s0 s : State} (h : Keeps s0 s) : Keeps s0 (bootCheck s) := by
  unfold bootCheck
  try extract_lets
  refine Keeps.ite ?_ ?_
  · exact (h).plain
  · refine Keeps.ite ?_ ?_
    · exact fallBack_keeps (h).plain
    · exact (h).plain

theorem setPerst_keeps {s0 s : State} (h : Keeps s0 s) (x1 : Bool) : Keeps s0 (setPerst s x1) := by
  unfold setPerst
  try extract_lets
  exact ((h).plain).plain

theorem freshMem_keeps {s0 s : Mem} (h : MKeeps s0 s) : MKeeps s0 (freshMem s) := by
  unfold freshMem
  exact MKeeps.fresh

theorem mainReset_keeps {s0 s : State} (h : Keeps s0 s) : Keeps s0 (mainReset s) := by
  unfold mainReset
  refine Keeps.putTbl ?_ (Nat.le_refl _) ?_ (by first | exact ⟨rfl, fun _ h => h⟩ | exact ⟨rfl, fun _ => mem_ninsert⟩) (by first | exact ⟨Nat.le_refl _, id⟩ | exact ⟨Nat.le_max_left _ _, id⟩ | exact ⟨Nat.le_add_right _ _, id⟩ | exact ⟨Nat.le_refl _, fun _ => rfl⟩) fun _ => rfl
  · exact h
  · exact freshMem_keeps (MKeeps.refl _)

theorem railsOff_keeps {s0 s : State} (h : Keeps s0 s) : Keeps s0 (railsOff s) := by
  unfold railsOff
  try extract_lets
  exact (setPerst_keeps (mainReset_keeps h) _).plain

theorem railsRamp_keeps {s0 s : State} (h : Keeps s0 s) : Keeps s0 (railsRamp s) := by
  unfold railsRamp
  try extract_lets
  exact (setPerst_keeps (mainReset_keeps h) _).plain

theorem powerOnState_keeps {s0 s : State} (h : Keeps s0 s) : Keeps s0 (powerOnState s) :=
  Keeps.putTbl h (Nat.le_refl _) MKeeps.fresh ⟨rfl, fun _ k => k⟩ ⟨fuses_le s, id⟩ fun _ => rfl

theorem keepHalted_keeps {s0 s : State} (h : Keeps s0 s) (x1 : Nat) : Keeps s0 (keepHalted s x1) := by
  unfold keepHalted
  try extract_lets
  refine updJob_keeps ?_ _ _
  refine Keeps.foldl ?_ (fun _ _ h0 => ?_)
  · refine Keeps.foldl ?_ (fun _ _ h0 => ?_)
    · exact abortUnstarted_keeps (haltJob_keeps h _) _
    · exact completeWith_keeps h0 _ _
  · refine Keeps.ite ?_ ?_
    · exact h0
    · exact saveQueue_keeps h0 _ _

theorem preserveJobs_keeps {s0 s : State} (h : Keeps s0 s) : Keeps s0 (preserveJobs s) := by
  unfold preserveJobs
  refine Keeps.foldl ?_ (fun _ _ h0 => ?_)
  · exact h
  · exact keepHalted_keeps h0 _

theorem closeJobs_keeps {s0 s : State} (h : Keeps s0 s) : Keeps s0 (closeJobs s) := by
  unfold closeJobs
  try extract_lets
  refine Keeps.putTbl ?_ (Nat.le_refl _) ?_ (NKeeps.refl _) (WKeeps.refl _) fun _ => rfl
  · refine Keeps.ite ?_ ?_
    · refine Keeps.foldl ?_ (fun _ _ h0 => ?_)
      · exact h
      · exact startZero_keeps h0 _ _
    · refine startZero_keeps ?_ _ _
      refine Keeps.foldl ?_ (fun _ _ h0 => ?_)
      · exact h
      · exact startZero_keeps h0 _ _
  · try extract_lets
    exact MKeeps.fresh

theorem warmRestart_keeps {s0 s : State} (h : Keeps s0 s) : Keeps s0 (warmRestart s) := by
  unfold warmRestart
  try extract_lets
  refine bootCheck_keeps ?_
  refine Keeps.put ?_ (Nat.le_refl _) ?_ (by first | exact ⟨rfl, fun _ h => h⟩ | exact ⟨rfl, fun _ => mem_ninsert⟩) (by first | exact ⟨Nat.le_refl _, id⟩ | exact ⟨Nat.le_max_left _ _, id⟩ | exact ⟨Nat.le_add_right _ _, id⟩ | exact ⟨Nat.le_refl _, fun _ => rfl⟩)
  · refine defaultStrokes_keeps ?_
    refine Keeps.ite ?_ ?_
    · exact preserveJobs_keeps h
    · exact closeJobs_keeps h
  · try extract_lets
    refine MKeeps.plain ?_
    exact MKeeps.refl _

end Sys2Proof.Laws
end

