-- ==== Sys2Proof/Laws/KeepSettings.lean ====
section
/-! SUPPORT. What the operations of Machine/Settings.lean keep (Laws/Keep.lean). -/

namespace Sys2Proof.Laws

open Sys2Proof.Machine

theorem strokeReply_keeps {s0 s : State} (h : Keeps s0 s) (x1 : Nat) : Keeps s0 (strokeReply s x1).s := by
  unfold strokeReply
  exact okNat_keeps h _ _

theorem setStrokes_keeps {s0 s : State} (h : Keeps s0 s) (x1 : Request) (x2 : Nat) : Keeps s0 (setStrokes s x1 x2) := by
  unfold setStrokes
  try extract_lets
  exact (h).plain

theorem execStrokeSetPart_keeps {s0 s : State} (h : Keeps s0 s) (x0 : Nat) : Goes s0 (execStrokeSetPart x0 s) := by
  unfold execStrokeSetPart
  refine runCmd_keeps ?_ _ _ _ _ (fun _ => ?_)
  · exact h
  · beta_reduce
    refine Keeps.iteR ?_ ?_
    · exact fail_keeps h _
    · try extract_lets
      exact strokeReply_keeps (setStrokes_keeps h _ _) _

theorem execStrokeSetJob_keeps {s0 s : State} (h : Keeps s0 s) (x0 : Nat) : Goes s0 (execStrokeSetJob x0 s) := by
  unfold execStrokeSetJob
  refine runJobCmd_keeps ?_ _ _ _ _ (fun _ _ => ?_)
  · exact h
  · beta_reduce
    refine Keeps.iteR ?_ ?_
    · exact fail_keeps h _
    · try extract_lets
      exact strokeReply_keeps (updJob_keeps (draw_keeps h) _ _) _

theorem execWatchSet_keeps {s0 s : State} (h : Keeps s0 s) (x0 : Nat) : Goes s0 (execWatchSet x0 s) := by
  unfold execWatchSet
  refine runJobCmd_keeps ?_ _ _ _ _ (fun _ _ => ?_)
  · exact h
  · beta_reduce
    refine Keeps.iteR ?_ ?_
    · exact fail_keeps h _
    · refine Keeps.iteR ?_ ?_
      · exact ok_keeps (putJob_keeps h _)
      · exact ok_keeps (putJob_keeps h _)

theorem execLadderSetLevels_keeps {s0 s : State} (h : Keeps s0 s) (x0 : Nat) : Goes s0 (execLadderSetLevels x0 s) := by
  unfold execLadderSetLevels
  refine runJobCmd_keeps ?_ _ _ _ _ (fun _ _ => ?_)
  · exact h
  · beta_reduce
    try extract_lets
    refine Keeps.iteR ?_ ?_
    · exact fail_keeps h _
    · try extract_lets
      refine ok_keeps ?_
      refine Keeps.ite ?_ ?_
      · exact putJob_keeps h _
      · exact applyLevels_keeps (putJob_keeps h _) _

theorem execLadderSetMap_keeps {s0 s : State} (h : Keeps s0 s) (x0 : Nat) : Goes s0 (execLadderSetMap x0 s) := by
  unfold execLadderSetMap
  refine runJobCmd_keeps ?_ _ _ _ _ (fun _ _ => ?_)
  · exact h
  · beta_reduce
    first | split | (dsimp +zetaDelta only; split)
    · exact fail_keeps h _
    · try extract_lets
      refine Keeps.iteR ?_ ?_
      · exact fail_keeps (reachRange_keeps h _ _) _
      · try extract_lets
        refine Keeps.iteR ?_ ?_
        · exact fail_keeps (reachRange_keeps h _ _) _
        · exact ok_keeps (putJob_keeps (reachRange_keeps h _ _) _)

theorem execLadderSetClear_keeps {s0 s : State} (h : Keeps s0 s) (x0 : Nat) : Goes s0 (execLadderSetClear x0 s) := by
  unfold execLadderSetClear
  refine runJobCmd_keeps ?_ _ _ _ _ (fun _ _ => ?_)
  · exact h
  · beta_reduce
    refine Keeps.iteR ?_ ?_
    · exact fail_keeps h _
    · exact ok_keeps (putJob_keeps h _)

theorem execStashPolicy_keeps {s0 s : State} (h : Keeps s0 s) (x0 : Nat) : Goes s0 (execStashPolicy x0 s) := by
  unfold execStashPolicy
  refine runJobCmd_keeps ?_ _ _ _ _ (fun _ _ => ?_)
  · exact h
  · beta_reduce
    try extract_lets
    refine Keeps.iteR ?_ ?_
    · exact fail_keeps h _
    · refine Keeps.iteR ?_ ?_
      · exact fail_keeps h _
      · exact ok_keeps (putJob_keeps h _)

theorem execProtectRegister_keeps {s0 s : State} (h : Keeps s0 s) (x0 : Nat) : Goes s0 (execProtectRegister x0 s) := by
  unfold execProtectRegister
  refine runJobCmd_keeps ?_ _ _ _ _ (fun _ _ => ?_)
  · exact h
  · beta_reduce
    first | split | (dsimp +zetaDelta only; split)
    · exact fail_keeps h _
    · try extract_lets
      refine Keeps.iteR ?_ ?_
      · exact fail_keeps (reachRange_keeps h _ _) _
      · first | split | (dsimp +zetaDelta only; split)
        · exact fail_keeps (reachRange_keeps h _ _) _
        · exact okNat_keeps (tellTensors_keeps (putJob_keeps (reachRange_keeps h _ _) _)) _ _

theorem execProtectUnregister_keeps {s0 s : State} (h : Keeps s0 s) (x0 : Nat) : Goes s0 (execProtectUnregister x0 s) := by
  unfold execProtectUnregister
  refine runJobCmd_keeps ?_ _ _ _ _ (fun _ _ => ?_)
  · exact h
  · beta_reduce
    try extract_lets
    refine Keeps.iteR ?_ ?_
    · exact fail_keeps h _
    · refine Keeps.iteR ?_ ?_
      · exact fail_keeps h _
      · try extract_lets
        exact okNat_keeps (tellTensors_keeps (putJob_keeps (dropAtPartner_keeps h _ _) _)) _ _

theorem execProtectSettings_keeps {s0 s : State} (h : Keeps s0 s) (x0 : Nat) : Goes s0 (execProtectSettings x0 s) := by
  unfold execProtectSettings
  refine runJobCmd_keeps ?_ _ _ _ _ (fun _ _ => ?_)
  · exact h
  · beta_reduce
    refine Keeps.iteR ?_ ?_
    · exact fail_keeps h _
    · exact okNat_keeps (putJob_keeps h _) _ _

end Sys2Proof.Laws
end

