-- ==== Sys2Proof/Laws/KeepPairing.lean ====
section
/-! SUPPORT. What the operations of Machine/Pairing.lean keep (Laws/Keep.lean). -/

namespace Sys2Proof.Laws

open Sys2Proof.Machine

theorem formPair_keeps {s0 s : State} (h : Keeps s0 s) (x1 x2 : Nat) : Keeps s0 (formPair s x1 x2) := by
  unfold formPair
  try extract_lets
  refine Keeps.ite ?_ ?_
  · refine health_keeps ?_ _
    refine tellTensors_keeps ?_
    refine Keeps.tbl ?_ fun k => jobsOk_map k _ fun _ => ⟨rfl, by first | rfl | (dsimp +zetaDelta only; split <;> rfl)⟩
    exact draw_keeps (h).plain
  · refine tellTensors_keeps ?_
    refine Keeps.tbl ?_ fun k => jobsOk_map k _ fun _ => ⟨rfl, by first | rfl | (dsimp +zetaDelta only; split <;> rfl)⟩
    exact draw_keeps (h).plain

theorem unbound_keeps {s0 s : State} (h : Keeps s0 s) : Keeps s0 (unbound s) := by
  unfold unbound
  exact (h).plain

theorem sendFeed_keeps {s0 s : State} (h : Keeps s0 s) (x1 : Nat) (x2 : Bool) : Keeps s0 (sendFeed s x1 x2) := by
  unfold sendFeed
  try extract_lets
  exact ctrlTo_keeps (h).plain _ _ _ _ _ _

theorem settleBind_keeps {s0 s : State} (h : Keeps s0 s) (x1 x2 : Nat) (x3 : Bool) : Keeps s0 (settleBind s x1 x2 x3).s := by
  unfold settleBind
  refine Keeps.iteR ?_ ?_
  · exact fail_keeps (unbound_keeps h) _
  · try extract_lets
    refine okNat_keeps ?_ _ _
    refine Keeps.ite ?_ ?_
    · exact formPair_keeps (h).plain _ _
    · exact (h).plain

theorem expireBind_keeps {s0 s : State} (h : Keeps s0 s) (x1 x2 : Nat) : Goes s0 (expireBind s x1 x2) := by
  unfold expireBind
  try extract_lets
  refine onlyIf_goes ?_ ?_ _
  · exact h
  · try extract_lets
    refine Keeps.ite ?_ ?_
    · exact (answerWaiting_keeps (unbound_keeps h) _ _ _ _).plain
    · exact answerWaiting_keeps (unbound_keeps h) _ _ _ _

theorem bindTo_keeps {s0 s : State} (h : Keeps s0 s) (x1 x2 : Nat) (x3 : Bool) (x4 : List (Nat × Nat)) : Keeps s0 (bindTo s x1 x2 x3 x4).s := by
  unfold bindTo
  try extract_lets
  first | split | (dsimp +zetaDelta only; split)
  · refine Keeps.iteR ?_ ?_
    · exact fail_keeps (unbound_keeps (sendFeed_keeps (h).plain _ _)) _
    · exact settleBind_keeps (sendFeed_keeps (h).plain _ _) _ _ _
  · exact sendFeed_keeps (h).plain _ _

theorem execPairBind_keeps {s0 s : State} (h : Keeps s0 s) (x0 : Nat) : Goes s0 (execPairBind x0 s) := by
  unfold execPairBind
  refine Goes.ite ?_ ?_
  · exact expireBind_keeps h _ _
  · refine runCmd_keeps ?_ _ _ _ _ (fun _ => ?_)
    · exact h
    · beta_reduce
      try extract_lets
      refine Keeps.iteR ?_ ?_
      · exact fail_keeps h _
      · refine Keeps.iteR ?_ ?_
        · exact fail_keeps h _
        · refine Keeps.iteR ?_ ?_
          · exact fail_keeps h _
          · first | split | (dsimp +zetaDelta only; split)
            · exact fail_keeps h _
            · refine Keeps.iteR ?_ ?_
              · exact fail_keeps h _
              · exact bindTo_keeps h _ _ _ _

theorem execPairUnbind_keeps {s0 s : State} (h : Keeps s0 s) (x0 : Nat) : Goes s0 (execPairUnbind x0 s) := by
  unfold execPairUnbind
  refine runCmd_keeps ?_ _ _ _ _ (fun _ => ?_)
  · exact h
  · beta_reduce
    first | split | (dsimp +zetaDelta only; split)
    · exact fail_keeps h _
    · refine Keeps.iteR ?_ ?_
      · exact fail_keeps h _
      · try extract_lets
        exact ok_keeps (unbound_keeps (ctrlTo_keeps (startZero_keeps h _ _) _ _ _ _ _ _))

theorem execSpareAssume_keeps {s0 s : State} (h : Keeps s0 s) (x0 : Nat) : Goes s0 (execSpareAssume x0 s) := by
  unfold execSpareAssume
  refine Goes.ite ?_ ?_
  · exact expireBind_keeps h _ _
  · refine runCmd_keeps ?_ _ _ _ _ (fun _ => ?_)
    · exact h
    · beta_reduce
      try extract_lets
      refine Keeps.iteR ?_ ?_
      · exact fail_keeps h _
      · refine Keeps.iteR ?_ ?_
        · exact fail_keeps h _
        · refine Keeps.iteR ?_ ?_
          · exact fail_keeps h _
          · try extract_lets
            refine Keeps.iteR ?_ ?_
            · exact fail_keeps h _
            · exact sendFeed_keeps (h).plain _ _

theorem takeFeedTag_keeps {s0 s : State} (h : Keeps s0 s) (x1 x2 : Nat) (x3 : Bool) (x4 : Nat) : Keeps s0 (takeFeedTag s x1 x2 x3 x4) := by
  unfold takeFeedTag
  try extract_lets
  refine Keeps.ite ?_ ?_
  · exact formPair_keeps ((ctrlTo_keeps h _ _ _ _ _ _).plain) _ _
  · exact (ctrlTo_keeps h _ _ _ _ _ _).plain

theorem takeFeedAnswer_keeps {s0 s : State} (h : Keeps s0 s) (x1 x2 x3 : Nat) : Keeps s0 (takeFeedAnswer s x1 x2 x3) := by
  unfold takeFeedAnswer
  refine Keeps.ite ?_ ?_
  · exact h
  · first | split | (dsimp +zetaDelta only; split)
    · refine Keeps.ite ?_ ?_
      · exact answerRequest_keeps (unbound_keeps h) _ _ _ _
      · refine Keeps.ite ?_ ?_
        · exact answerRequest_keeps (unbound_keeps h) _ _ _ _
        · try extract_lets
          exact answerRequest_keeps (settleBind_keeps h _ _ _) _ _ _ _
    · try extract_lets
      refine Keeps.ite ?_ ?_
      · refine answerRequest_keeps ?_ _ _ _ _
        try extract_lets
        exact (unbound_keeps h).plain
      · try extract_lets
        refine answerRequest_keeps ?_ _ _ _ _
        refine Keeps.ite ?_ ?_
        · exact settleBind_keeps h _ _ _
        · try extract_lets
          exact (unbound_keeps h).plain
    · exact h

theorem takeUnbind_keeps {s0 s : State} (h : Keeps s0 s) (x1 : Nat) : Keeps s0 (takeUnbind s x1) := by
  unfold takeUnbind
  try extract_lets
  refine Keeps.ite ?_ ?_
  · exact ((h).plain).plain
  · exact (h).plain

theorem takePairCounts_keeps {s0 s : State} (h : Keeps s0 s) (x1 : MsgHdr) (x2 x3 x4 : Nat) : Keeps s0 (takePairCounts s x1 x2 x3 x4) := by
  unfold takePairCounts
  refine Keeps.elim ?_ (fun _ => ?_)
  · exact h
  · exact putJob_keeps h _

theorem takeCost_keeps {s0 s : State} (h : Keeps s0 s) (x1 : MsgHdr) (x2 : Nat) : Keeps s0 (takeCost s x1 x2) := by
  unfold takeCost
  refine Keeps.elim ?_ (fun _ => ?_)
  · exact h
  · exact putJob_keeps h _

theorem takePoisonedCopy_keeps {s0 s : State} (h : Keeps s0 s) (x1 : MsgHdr) (x2 : Nat) (x3 : Option Nat) (x4 : Nat) : Keeps s0 (takePoisonedCopy s x1 x2 x3 x4) := by
  unfold takePoisonedCopy
  refine Keeps.elim ?_ (fun _ => ?_)
  · exact h
  · try extract_lets
    refine Keeps.ite ?_ ?_
    · exact updJob_keeps (unprotect_keeps h _ _) _ _
    · exact (h).plain

theorem takeJournalLoss_keeps {s0 s : State} (h : Keeps s0 s) (x1 x2 : BitVec 16) : Keeps s0 (takeJournalLoss s x1 x2) := by
  unfold takeJournalLoss
  try extract_lets
  refine Keeps.foldl ?_ (fun _ _ h0 => ?_)
  · exact (h).plain
  · refine Keeps.elim ?_ (fun _ => ?_)
    · exact h0
    · try extract_lets
      exact updJob_keeps (unprotect_keeps h0 _ _) _ _

theorem restoredRecord_keeps {s0 s : State} (h : Keeps s0 s) (x1 : MsgHdr) (x2 : Nat) : Keeps s0 (restoredRecord s x1 x2) := by
  unfold restoredRecord
  first | split | (dsimp +zetaDelta only; split)
  · exact h
  · try extract_lets
    refine Keeps.ite ?_ ?_
    · exact protectRecord_keeps h _ _ _
    · exact h

theorem takeDrainDone_keeps {s0 s : State} (h : Keeps s0 s) (x1 : MsgHdr) (x2 x3 x4 : Nat) : Keeps s0 (takeDrainDone s x1 x2 x3 x4) := by
  unfold takeDrainDone
  try extract_lets
  exact (restoredRecord_keeps h _ _).plain

theorem takeDrop_keeps {s0 s : State} (h : Keeps s0 s) (x1 : MsgHdr) (x2 : Option Nat) : Keeps s0 (takeDrop s x1 x2) := by
  unfold takeDrop
  try extract_lets
  exact (h).plain

theorem takeTensors_keeps {s0 s : State} (h : Keeps s0 s) (x1 x2 : Nat) (x3 : Bool) : Keeps s0 (takeTensors s x1 x2 x3) := by
  unfold takeTensors
  exact (h).plain

theorem execControl_keeps {s0 s : State} (h : Keeps s0 s) (x0 : MsgHdr) (x1 : CtrlMsg) : Goes s0 (execControl x0 x1 s) := by
  unfold execControl
  try extract_lets
  refine Goes.next ?_
  first | split | (dsimp +zetaDelta only; split)
  · exact takeFeedTag_keeps (ackAsked_keeps (takeInbox_keeps h _ _) _) _ _ _ _
  · exact takeFeedAnswer_keeps (ackAsked_keeps (takeInbox_keeps h _ _) _) _ _ _
  · exact takeUnbind_keeps (ackAsked_keeps (takeInbox_keeps h _ _) _) _
  · exact takePairCounts_keeps (ackAsked_keeps (takeInbox_keeps h _ _) _) _ _ _ _
  · exact takeCost_keeps (ackAsked_keeps (takeInbox_keeps h _ _) _) _ _
  · refine Keeps.ite ?_ ?_
    · exact takePoisonedCopy_keeps (ackAsked_keeps (takeInbox_keeps h _ _) _) _ _ _ _
    · exact ackAsked_keeps (takeInbox_keeps h _ _) _
  · refine Keeps.ite ?_ ?_
    · exact (ackAsked_keeps (takeInbox_keeps h _ _) _).plain
    · exact ackAsked_keeps (takeInbox_keeps h _ _) _
  · refine Keeps.ite ?_ ?_
    · exact takeJournalLoss_keeps (ackAsked_keeps (takeInbox_keeps h _ _) _) _ _
    · exact ackAsked_keeps (takeInbox_keeps h _ _) _
  · refine Keeps.ite ?_ ?_
    · exact takeDrainDone_keeps (ackAsked_keeps (takeInbox_keeps h _ _) _) _ _ _ _
    · exact ackAsked_keeps (takeInbox_keeps h _ _) _
  · refine Keeps.ite ?_ ?_
    · exact takeDrop_keeps (ackAsked_keeps (takeInbox_keeps h _ _) _) _ _
    · exact ackAsked_keeps (takeInbox_keeps h _ _) _
  · exact takeTensors_keeps (ackAsked_keeps (takeInbox_keeps h _ _) _) _ _ _

theorem storeGate_keeps {s0 s f : State} (h : Keeps s0 s) (k : Keeps s0 f) (m : MsgHdr) : Keeps s0 (storeGate s m f) := by
  unfold storeGate
  exact .ite h.plain (.ite (nackTo_keeps h _ _ _) k)

theorem execMirror_keeps {s0 s : State} (h : Keeps s0 s) (x0 : MsgHdr) (x1 : List Byte) (x2 : Bool) : Goes s0 (execMirror x0 x1 x2 s) := by
  unfold execMirror
  try extract_lets
  refine Goes.next ?_
  refine storeGate_keeps ?_ ?_ _
  · exact takeInbox_keeps h _ _
  · exact ctrlTo_keeps ((takeInbox_keeps h _ _).plain) _ _ _ _ _ _

theorem acceptRecord_keeps {s0 s : State} (h : Keeps s0 s) (x1 : JRec) : Keeps s0 (acceptRecord s x1) := by
  unfold acceptRecord
  try extract_lets
  exact ctrlTo_keeps (h).plain _ _ _ _ _ _

theorem takeHeld_keeps {s0 s : State} (h : Keeps s0 s) (n : Nat) : Keeps s0 (takeHeld n s) := by
  induction n generalizing s with
  | zero => exact h
  | succ n ih =>
    unfold takeHeld
    split
    · exact h
    · exact ih (acceptRecord_keeps h.plain _)

theorem giveUpGap_keeps {s0 s : State} (h : Keeps s0 s) (x1 x2 : BitVec 16) : Keeps s0 (giveUpGap s x1 x2) := by
  unfold giveUpGap
  try extract_lets
  refine Keeps.foldl ?_ (fun _ _ h0 => ?_)
  · exact raiseLoss_keeps (h).plain _
  · first | split | (dsimp +zetaDelta only; split)
    · exact acceptRecord_keeps h0 _
    · refine Keeps.ite ?_ ?_
      · exact h0
      · exact ctrlTo_keeps h0 _ _ _ _ _ _

theorem judgeRecord_keeps {s0 s : State} (h : Keeps s0 s) (x1 : JRec) : Keeps s0 (judgeRecord s x1) := by
  unfold judgeRecord
  try extract_lets
  first | split | (dsimp +zetaDelta only; split)
  · exact acceptRecord_keeps h _
  · try extract_lets
    refine Keeps.ite ?_ ?_
    · exact ctrlTo_keeps h _ _ _ _ _ _
    · refine Keeps.ite ?_ ?_
      · exact takeHeld_keeps (acceptRecord_keeps h _) _
      · refine Keeps.ite ?_ ?_
        · refine Keeps.ite ?_ ?_
          · exact h
          · try extract_lets
            exact (h).plain
        · refine acceptRecord_keeps ?_ _
          refine Keeps.ite ?_ ?_
          · exact giveUpGap_keeps h _ _
          · exact raiseLoss_keeps h _

theorem addFragment_keeps {s0 s : State} (h : Keeps s0 s) (x1 : MsgHdr) (x2 : Nat) (x3 : List Byte) : Keeps s0 (addFragment s x1 x2 x3).1 := by
  unfold addFragment
  try extract_lets
  refine Keeps.iteFst ?_ ?_
  · exact suspendStream_keeps (h).plain _ _
  · exact endStream_keeps ((h).plain).plain _

theorem takeJournal_keeps {s0 s : State} (h : Keeps s0 s) (m : MsgHdr) (die : Nat) (data : List Byte) (poisoned : Bool) :
    Keeps s0 (takeJournal s m die data poisoned) := by
  unfold takeJournal
  refine .ite (nackTo_keeps h _ _ _) ?_
  have h1 := addFragment_keeps h m die data
  split
  all_goals
    rename_i heq
    rw [heq] at h1
  · exact h1
  · split
    · exact nackTo_keeps h1 _ _ _
    · exact judgeRecord_keeps h1 _

theorem execJournal_keeps {s0 s : State} (h : Keeps s0 s) (x0 : MsgHdr) (x1 : List Byte) (x2 : Bool) : Goes s0 (execJournal x0 x1 x2 s) := by
  unfold execJournal
  try extract_lets
  refine Goes.next ?_
  refine storeGate_keeps ?_ ?_ _
  · exact takeInbox_keeps h _ _
  · exact takeJournal_keeps (takeInbox_keeps h _ _) _ _ _ _

theorem execJournalGapTimeout_keeps {s0 s : State} (h : Keeps s0 s) : Goes s0 (execJournalGapTimeout s) := by
  unfold execJournalGapTimeout
  first | split | (dsimp +zetaDelta only; split)
  · try extract_lets
    exact Goes.next (giveUpGap_keeps (advance_keeps h _) _ _)
  · exact Goes.next (h)

theorem nowProtected_keeps {s0 s : State} (h : Keeps s0 s) (x1 x2 : Nat) : Keeps s0 (nowProtected s x1 x2) := by
  unfold nowProtected
  first | split | (dsimp +zetaDelta only; split)
  · exact h
  · refine Keeps.ite ?_ ?_
    · exact h
    · try extract_lets
      exact protectRecord_keeps (putJob_keeps h _) _ _ _

theorem execMirrorDrainComplete_keeps {s0 s : State} (h : Keeps s0 s) (x0 x1 : Nat) : Goes s0 (execMirrorDrainComplete x0 x1 s) := by
  unfold execMirrorDrainComplete
  first | split | (dsimp +zetaDelta only; split)
  · try extract_lets
    refine Goes.ite ?_ ?_
    · refine Goes.next ?_
      refine Keeps.ite ?_ ?_
      · exact startDrain_keeps (updJob_keeps (putOp_keeps (h).plain _) _ _) _ _ _
      · exact updJob_keeps (putOp_keeps (h).plain _) _ _
    · try extract_lets
      refine Goes.next ?_
      refine Keeps.ite ?_ ?_
      · refine startDrain_keeps ?_ _ _ _
        refine Keeps.ite ?_ ?_
        · exact nowProtected_keeps (ctrlTo_keeps (updJob_keeps (putOp_keeps (h).plain _) _ _) _ _ _ _ _ _) _ _
        · exact ctrlTo_keeps (updJob_keeps (putOp_keeps (h).plain _) _ _) _ _ _ _ _ _
      · refine Keeps.ite ?_ ?_
        · exact nowProtected_keeps (ctrlTo_keeps (updJob_keeps (putOp_keeps (h).plain _) _ _) _ _ _ _ _ _) _ _
        · exact ctrlTo_keeps (updJob_keeps (putOp_keeps (h).plain _) _ _) _ _ _ _ _ _
  · exact Goes.next (h)

end Sys2Proof.Laws
end

