-- ==== Sys2Proof/Laws/KeepRestore.lean ====
section
/-! SUPPORT. What the operations of Machine/Restore.lean keep (Laws/Keep.lean). -/

namespace Sys2Proof.Laws

open Sys2Proof.Machine

theorem snapshotOne_keeps {s0 : State} {s : State × Nat × Nat} (h : Keeps s0 s.1) (x0 x1 : Nat) (x3 : Protect) : Keeps s0 (snapshotOne x0 x1 s x3).1 := by
  unfold snapshotOne
  try extract_lets
  first | split | (dsimp +zetaDelta only; split)
  · exact h
  · try extract_lets
    refine applyWrites_keeps ?_ _ _
    refine Keeps.foldl ?_ (fun _ _ h0 => ?_)
    · exact h
    · exact reachDesc_keeps h0 _

theorem execCheckpointSnapshot_keeps {s0 s : State} (h : Keeps s0 s) (x0 : Nat) : Goes s0 (execCheckpointSnapshot x0 s) := by
  unfold execCheckpointSnapshot
  refine runJobCmd_keeps ?_ _ _ _ _ (fun _ _ => ?_)
  · exact h
  · beta_reduce
    first | split | (dsimp +zetaDelta only; split)
    · exact fail_keeps h _
    · refine Keeps.iteR ?_ ?_
      · exact fail_keeps h _
      · refine Keeps.iteR ?_ ?_
        · exact h
        · try extract_lets
          exact okNat_keeps (putJob_keeps h _) _ _

theorem execCheckpointStored_keeps {s0 s : State} (h : Keeps s0 s) (x0 : Nat) : Goes s0 (execCheckpointStored x0 s) := by
  unfold execCheckpointStored
  refine runJobCmd_keeps ?_ _ _ _ _ (fun _ _ => ?_)
  · exact h
  · beta_reduce
    refine Keeps.iteR ?_ ?_
    · exact fail_keeps h _
    · first | split | (dsimp +zetaDelta only; split)
      · exact fail_keeps h _
      · try extract_lets
        exact okNat_keeps (updJob_keeps (toStations_keeps h _ _ _) _ _) _ _

theorem checkpointRecord_keeps {s0 s : State} (h : Keeps s0 s) (x1 x2 x3 : Nat) : Keeps s0 (checkpointRecord s x1 x2 x3) := by
  unfold checkpointRecord
  refine Keeps.elim ?_ (fun _ => ?_)
  · exact h
  · exact jobEvent_keeps h _ _

theorem execSnapshotComplete_keeps {s0 s : State} (h : Keeps s0 s) (x0 : Nat) : Goes s0 (execSnapshotComplete x0 s) := by
  unfold execSnapshotComplete
  first | split | (dsimp +zetaDelta only; split)
  · exact Goes.next (h)
  · first | split | (dsimp +zetaDelta only; split)
    · try extract_lets
      refine Goes.next ?_
      refine checkpointRecord_keeps ?_ _ _ _
      refine updJob_keeps ?_ _ _
      refine endStream_keeps ?_ _
      first | split | (dsimp +zetaDelta only; split)
      · exact h
      · refine Keeps.foldlFst ?_ (fun _ _ h0 => ?_)
        · exact h
        · exact snapshotOne_keeps h0 _ _ _
    · exact Goes.next (h)

theorem execCheckpointDue_keeps {s0 s : State} (h : Keeps s0 s) (x0 : Nat) : Goes s0 (execCheckpointDue x0 s) := by
  unfold execCheckpointDue
  first | split | (dsimp +zetaDelta only; split)
  · exact Goes.next (h)
  · refine onlyIf_goes ?_ ?_ _
    · exact h
    · exact updJob_keeps (checkpointRecord_keeps h _ _ _) _ _

theorem restoreReply_keeps {s0 s : State} (h : Keeps s0 s) (x1 : Job) (x2 : Nat) : Keeps s0 (restoreReply s x1 x2).s := by
  unfold restoreReply
  try extract_lets
  exact draw_keeps (draw_keeps h)

theorem restored_keeps {s0 s : State} (h : Keeps s0 s) (x1 x2 : Nat) : Keeps s0 (restored s x1 x2) := by
  unfold restored
  try extract_lets
  exact epochReached_keeps (tellPairs_keeps (updJob_keeps h _ _) _) _

theorem replayRecord_keeps {s0 s t : State} (h : Keeps s0 s) (job : Nat) (p : Protect) (r : JRec) (ht : replayRecord s job p r = some t) : Keeps s0 t := by
  obtain ⟨j, -, hj⟩ := Option.bind_eq_some_iff.1 ht
  dsimp only at hj
  split at hj
  · cases hj
  · cases hj; exact applyWrites_keeps h _ _

theorem placeSlot_keeps {s0 s : State} (h : Keeps s0 s) (x1 : Nat) (x2 : Protect) (x3 : PeerCopy) : Keeps s0 (placeSlot s x1 x2 x3) := by
  unfold placeSlot
  first | split | (dsimp +zetaDelta only; split)
  · exact h
  · refine Keeps.foldl ?_ (fun _ _ h0 => ?_)
    · exact h
    · exact wrBytes_keeps h0 _ _

theorem replaySteps_keeps {s0 s t : State} (h : Keeps s0 s) (job : Nat) (p : Protect) (c : PeerCopy) (n step : Nat)
    (ht : replaySteps job p c n step s = some t) : Keeps s0 t := by
  have hl : ∀ (rs : List JRec) (o : Option State), (∀ u, o = some u → Keeps s0 u) →
      ∀ u, rs.foldl (fun (a : Option State) r => a.bind fun s => replayRecord s job p r) o = some u → Keeps s0 u := by
    intro rs
    induction rs with
    | nil => exact fun o ho u hu => ho u hu
    | cons r rs ih =>
      intro o ho
      refine ih _ fun u hu => ?_
      obtain ⟨v, hv, hu⟩ := Option.bind_eq_some_iff.1 hu
      exact replayRecord_keeps (ho v hv) job p r hu
  induction n generalizing s step with
  | zero => cases ht; exact h
  | succ n ih =>
    unfold replaySteps at ht
    dsimp only at ht
    split at ht
    · cases ht
    · obtain ⟨v, hv, hu⟩ := Option.bind_eq_some_iff.1 ht
      exact ih (hl _ _ (by rintro _ ⟨⟩; exact h) v hv) _ hu

theorem rebuild_keeps {s0 s t : State} (h : Keeps s0 s) (job target : Nat) (cs : List PeerCopy) (p : Protect) (ht : rebuild s job target cs p = some t) :
    Keeps s0 t := by
  obtain ⟨c, -, hc⟩ := Option.bind_eq_some_iff.1 ht
  dsimp only at hc
  exact replaySteps_keeps (placeSlot_keeps (.ite (.elim h fun _ => placeSlot_keeps h _ _ _) h) _ _ _) _ _ _ _ _ hc

theorem rebuildAll_keeps {s0 s t : State} (h : Keeps s0 s) (job target : Nat) (cs : List PeerCopy) (ps : List Protect)
    (ht : rebuildAll s job target cs ps = some t) : Keeps s0 t := by
  have hl : ∀ (ps : List Protect) (o : Option State), (∀ u, o = some u → Keeps s0 u) →
      ∀ u, ps.foldl (fun (a : Option State) p => a.bind fun s => rebuild s job target cs p) o = some u → Keeps s0 u := by
    intro ps
    induction ps with
    | nil => exact fun o ho u hu => ho u hu
    | cons p ps ih =>
      intro o ho
      refine ih _ fun u hu => ?_
      obtain ⟨v, hv, hu⟩ := Option.bind_eq_some_iff.1 hu
      exact rebuild_keeps (ho v hv) job target cs p hu
  exact hl ps (some s) (by rintro _ ⟨⟩; exact h) t ht

theorem runRestore_keeps {s0 s : State} (h : Keeps s0 s) (p act : Nat) (f : Request → Job → State → Reply) (k : ∀ r j, Keeps s0 (f r j s).s) :
    Goes s0 (runRestore s p act f) :=
  runJobCmd_keeps h _ _ _ _ fun _ _ => .elimR (k _ _) fun _ => fail_keeps h _

theorem execRestoreQuery_keeps {s0 s : State} (h : Keeps s0 s) (x0 : Nat) : Goes s0 (execRestoreQuery x0 s) := by
  unfold execRestoreQuery
  refine runRestore_keeps ?_ _ _ _ (fun _ _ => ?_)
  · exact h
  · beta_reduce
    exact restoreReply_keeps h _ _

theorem drainLost_keeps {s0 s : State} (h : Keeps s0 s) (x1 : Nat) : Keeps s0 (drainLost s x1) := by
  unfold drainLost
  first | split | (dsimp +zetaDelta only; split)
  · exact h
  · refine Keeps.ite ?_ ?_
    · refine Keeps.foldl ?_ (fun _ _ h0 => ?_)
      · exact h
      · exact startDrain_keeps h0 _ _ _
    · exact h

theorem execRestoreLocal_keeps {s0 s : State} (h : Keeps s0 s) (x : LocalRestore) : Goes s0 (execRestoreLocal x s) := by
  unfold execRestoreLocal
  refine runRestore_keeps h _ _ _ fun r j => ?_
  extract_lets target bad t
  refine Keeps.iteR (fail_keeps h _) (Keeps.iteR (fail_keeps h _) ?_)
  have ht : Keeps s0 t := .ite h (commitStep_keeps h _ _)
  split
  · exact fail_keeps h _
  · next u hu =>
    have hw := drainLost_keeps (restored_keeps (rebuildAll_keeps ht _ _ _ _ hu) r.job target) r.job
    exact Keeps.elimR (ok_keeps hw) fun _ => restoreReply_keeps hw _ _

theorem execRestorePartner_keeps {s0 s : State} (h : Keeps s0 s) (x0 : Nat) : Goes s0 (execRestorePartner x0 s) := by
  unfold execRestorePartner
  refine runRestore_keeps ?_ _ _ _ (fun _ _ => ?_)
  · exact h
  · beta_reduce
    try extract_lets
    refine Keeps.iteR ?_ ?_
    · exact fail_keeps h _
    · try extract_lets
      exact restoreReply_keeps (startOp_keeps (putOp_keeps (startOp_keeps (draw_keeps (draw_keeps h)) _ _ _) _) _ _ _) _ _

theorem loadImage_keeps {s0 s : State} (h : Keeps s0 s) (x1 x2 : Nat) (x3 : List (Protect × List Byte)) : Keeps s0 (loadImage s x1 x2 x3) := by
  unfold loadImage
  refine Keeps.foldl ?_ (fun _ _ h0 => ?_)
  · exact h
  · first | split | (dsimp +zetaDelta only; split)
    · exact h0
    · refine Keeps.foldlFst ?_ (fun _ _ h1 => ?_)
      · exact h0
      · try extract_lets
        exact wrBytes_keeps h1 _ _

theorem execRestoreImage_keeps {s0 s : State} (h : Keeps s0 s) (x0 : Nat) : Goes s0 (execRestoreImage x0 s) := by
  unfold execRestoreImage
  refine runRestore_keeps ?_ _ _ _ (fun _ _ => ?_)
  · exact h
  · beta_reduce
    first | split | (dsimp +zetaDelta only; split)
    · exact fail_keeps h _
    · try extract_lets
      refine Keeps.iteR ?_ ?_
      · exact fail_keeps h _
      · refine Keeps.iteR ?_ ?_
        · exact fail_keeps h _
        · exact restoreReply_keeps (startOp_keeps h _ _ _) _ _

theorem endTransfer_keeps {s0 s : State} (h : Keeps s0 s) (x1 : LongOp) (x2 : Bool) (x3 : List PeerCopy) : Keeps s0 (endTransfer s x1 x2 x3) := by
  unfold endTransfer
  try extract_lets
  refine Keeps.ite ?_ ?_
  · first | split | (dsimp +zetaDelta only; split)
    · exact h
    · try extract_lets
      first | split | (dsimp +zetaDelta only; split)
      · refine Keeps.ite ?_ ?_
        · exact endOp_keeps (restored_keeps (loadImage_keeps (reachRange_keeps h _ _) _ _ _) _ _) _ _
        · exact endOp_keeps (reachRange_keeps h _ _) _ _
      · exact endOp_keeps (reachRange_keeps h _ _) _ _
  · refine Keeps.ite ?_ ?_
    · exact endOp_keeps (h).plain _ _
    · try extract_lets
      refine Keeps.elim ?_ (fun _ => ?_)
      · exact endOp_keeps h _ _
      · exact endOp_keeps (endOp_keeps h _ _) _ _

theorem keptAtPartner_keeps {s0 s : State} (h : Keeps s0 s) (x1 x2 : Nat) (x3 : List PeerCopy) : Keeps s0 (keptAtPartner s x1 x2 x3) := by
  unfold keptAtPartner
  try extract_lets
  exact updJob_keeps h _ _

theorem endReplay_keeps {s0 s : State} (h : Keeps s0 s) (o : LongOp) (good : Bool) : Keeps s0 (endReplay s o good) := by
  unfold endReplay
  generalize o.job.getD 0 = job, o.arg.getD 1 0 = target
  dsimp only
  refine Keeps.ite (Keeps.ite (endOp_keeps h _ _) ?_) h
  split
  · exact h
  · next j hj =>
    have hu : Keeps s0 { s with pair := { s.pair with received := tdel s.pair.received job } } := h.plain
    cases hr : rebuildAll { s with pair := { s.pair with received := tdel s.pair.received job } } job target (tgetD s.pair.received job []) j.prot with
    | none => exact endOp_keeps hu _ _
    | some v => exact endOp_keeps (keptAtPartner_keeps (restored_keeps (rebuildAll_keeps hu _ _ _ _ hr) _ _) _ _ _) _ _

end Sys2Proof.Laws
end

