-- ==== Sys2Proof/Laws/KeepPower.lean ====
section
/-! SUPPORT. What the operations of Machine/Power.lean keep (Laws/Keep.lean). -/

namespace Sys2Proof.Laws

open Sys2Proof.Machine

theorem execPowerOnReset_keeps {s0 s : State} (h : Keeps s0 s) : Goes s0 (execPowerOnReset s) := by
  unfold execPowerOnReset
  try extract_lets
  refine Goes.next ?_
  refine Keeps.ite ?_ ?_
  · exact health_keeps (powerOnState_keeps h) _
  · exact powerOnState_keeps h

theorem execStrapLatch_keeps {s0 s : State} (h : Keeps s0 s) (x0 x1 : Nat) : Goes s0 (execStrapLatch x0 x1 s) := by
  unfold execStrapLatch
  try extract_lets
  refine onlyIf_goes ?_ ?_ _
  · exact h
  · exact bootCheck_keeps ((advance_keeps h _).plain)

theorem inputAt_keeps {s0 s : State} (h : Keeps s0 s) (x1 : Nat) : Keeps s0 (inputAt s x1) := by
  unfold inputAt
  try extract_lets
  exact (h).plain

theorem execPwrEnRise_keeps {s0 s : State} (h : Keeps s0 s) (x0 : Nat) : Goes s0 (execPwrEnRise x0 s) := by
  unfold execPwrEnRise
  try extract_lets
  refine Goes.ite ?_ ?_
  · exact Goes.next ((h).plain)
  · refine onlyIf_goes ?_ ?_ _
    · exact h
    · refine Keeps.ite ?_ ?_
      · exact railsRamp_keeps ((inputAt_keeps h _).plain)
      · exact (inputAt_keeps h _).plain

theorem execOperatingRangeEntry_keeps {s0 s : State} (h : Keeps s0 s) (x0 : Nat) : Goes s0 (execOperatingRangeEntry x0 s) := by
  unfold execOperatingRangeEntry
  try extract_lets
  refine onlyIf_goes ?_ ?_ _
  · exact h
  · refine Keeps.ite ?_ ?_
    · exact railsRamp_keeps (inputAt_keeps h _)
    · exact inputAt_keeps h _

theorem execPwrGoodRelease_keeps {s0 s : State} (h : Keeps s0 s) : Goes s0 (execPwrGoodRelease s) := by
  unfold execPwrGoodRelease
  refine onlyIf_goes ?_ ?_ _
  · exact h
  · exact (h).plain

theorem execPwrEnFall_keeps {s0 s : State} (h : Keeps s0 s) : Goes s0 (execPwrEnFall s) := by
  unfold execPwrEnFall
  try extract_lets
  refine Goes.ite ?_ ?_
  · exact Goes.next ((h).plain)
  · refine onlyIf_goes ?_ ?_ _
    · exact h
    · exact (railsOff_keeps h).plain

theorem advanceFuses_keeps {s0 s : State} (h : Keeps s0 s) : Keeps s0 (advanceFuses s) := by
  unfold advanceFuses
  try extract_lets
  refine Keeps.ite ?_ ?_
  · exact h
  · refine Keeps.ite ?_ ?_
    · refine health_keeps ?_ _
      refine nvWrite_keeps ?_ _
      refine Keeps.put ?_ (Nat.le_refl _) (MKeeps.refl _) (NKeeps.refl _) (by first | exact ⟨Nat.le_refl _, id⟩ | exact ⟨Nat.le_max_left _ _, id⟩ | exact ⟨Nat.le_add_right _ _, id⟩ | exact ⟨Nat.le_refl _, fun _ => rfl⟩)
      exact h
    · refine Keeps.put ?_ (Nat.le_refl _) (MKeeps.refl _) (NKeeps.refl _) (by first | exact ⟨Nat.le_refl _, id⟩ | exact ⟨Nat.le_max_left _ _, id⟩ | exact ⟨Nat.le_add_right _ _, id⟩ | exact ⟨Nat.le_refl _, fun _ => rfl⟩)
      exact h

theorem resumeReturn_keeps {s0 s : State} (h : Keeps s0 s) : Keeps s0 (resumeReturn s) := by
  unfold resumeReturn
  refine Keeps.ite ?_ ?_
  · exact h
  · try extract_lets
    exact putOp_keeps (h).plain _

theorem execBringUpComplete_keeps {s0 s : State} (h : Keeps s0 s) : Goes s0 (execBringUpComplete s) := by
  unfold execBringUpComplete
  try extract_lets
  refine onlyIf_goes ?_ ?_ _
  · exact h
  · refine resumeReturn_keeps ?_
    refine advanceFuses_keeps ?_
    refine Keeps.put ?_ (Nat.le_refl _) ?_ (NKeeps.refl _) (by first | exact ⟨Nat.le_refl _, id⟩ | exact ⟨Nat.le_max_left _ _, id⟩ | exact ⟨Nat.le_add_right _ _, id⟩ | exact ⟨Nat.le_refl _, fun _ => rfl⟩)
    · exact h
    · try extract_lets
      refine MKeeps.plain ?_
      exact MKeeps.refl _

theorem execPerstNReset_keeps {s0 s : State} (h : Keeps s0 s) : Goes s0 (execPerstNReset s) := by
  unfold execPerstNReset
  refine Goes.ite ?_ ?_
  · refine onlyIf_goes ?_ ?_ _
    · exact h
    · exact setPerst_keeps h _
  · exact Goes.next (warmRestart_keeps (h).plain)

theorem execOhmubWarmRestart_keeps {s0 s : State} (h : Keeps s0 s) : Goes s0 (execOhmubWarmRestart s) := by
  unfold execOhmubWarmRestart
  refine onlyIf_goes ?_ ?_ _
  · exact h
  · exact health_keeps (warmRestart_keeps h) _

theorem execHubWatchdog_keeps {s0 s : State} (h : Keeps s0 s) : Goes s0 (execHubWatchdog s) := by
  unfold execHubWatchdog
  try extract_lets
  refine onlyIf_goes ?_ ?_ _
  · exact h
  · refine warmRestart_keeps ?_
    refine Keeps.ite ?_ ?_
    · exact h
    · refine Keeps.ite ?_ ?_
      · exact fallBack_keeps h
      · refine Keeps.put ?_ (Nat.le_refl _) (MKeeps.refl _) (NKeeps.refl _) (by first | exact ⟨Nat.le_refl _, id⟩ | exact ⟨Nat.le_max_left _ _, id⟩ | exact ⟨Nat.le_add_right _ _, id⟩ | exact ⟨Nat.le_refl _, fun _ => rfl⟩)
        exact h

theorem nvRevert_keeps {s0 s : State} (h : Keeps s0 s) (x1 : NvItem) : Keeps s0 (nvRevert s x1) := by
  unfold nvRevert
  first | split | (dsimp +zetaDelta only; split)
  · refine Keeps.put ?_ (Nat.le_refl _) ?_ (NKeeps.refl _) (WKeeps.refl _)
    · exact h
    · try extract_lets
      refine MKeeps.plain ?_
      exact MKeeps.refl _
  · refine Keeps.put ?_ (Nat.le_refl _) ?_ (NKeeps.refl _) (WKeeps.refl _)
    · exact h
    · try extract_lets
      refine MKeeps.plain ?_
      exact MKeeps.refl _
  · exact (h).plain
  · try extract_lets
    refine Keeps.put ?_ (Nat.le_refl _) (MKeeps.refl _) (NKeeps.refl _) (by first | exact ⟨Nat.le_refl _, id⟩ | exact ⟨Nat.le_max_left _ _, id⟩ | exact ⟨Nat.le_add_right _ _, id⟩ | exact ⟨Nat.le_refl _, fun _ => rfl⟩)
    exact draw_keeps h
  · exact (h).plain

theorem nvDone_keeps {s0 s : State} (h : Keeps s0 s) (x1 : NvItem) : Keeps s0 (nvDone s x1) := by
  unfold nvDone
  first | split | (dsimp +zetaDelta only; split)
  · refine Keeps.put ?_ (Nat.le_refl _) (MKeeps.refl _) (NKeeps.refl _) (by first | exact ⟨Nat.le_refl _, id⟩ | exact ⟨Nat.le_max_left _ _, id⟩ | exact ⟨Nat.le_add_right _ _, id⟩ | exact ⟨Nat.le_refl _, fun _ => rfl⟩)
    exact h
  · exact h

theorem abortNv_keeps {s0 s : State} (h : Keeps s0 s) : Keeps s0 (abortNv s) := by
  unfold abortNv
  refine Keeps.foldl ?_ (fun _ _ h0 => ?_)
  · exact (h).plain
  · refine Keeps.ite ?_ ?_
    · exact nvRevert_keeps (draw_keeps h0) _
    · exact nvDone_keeps (draw_keeps h0) _

theorem execUvWarn_keeps {s0 s : State} (h : Keeps s0 s) (x0 : Nat) : Goes s0 (execUvWarn x0 s) := by
  unfold execUvWarn
  try extract_lets
  refine onlyIf_goes ?_ ?_ _
  · exact h
  · exact setDivisor_keeps ((abortNv_keeps h).plain) _

theorem execSag_keeps {s0 s : State} (h : Keeps s0 s) (x0 x1 : Nat) : Goes s0 (execSag x0 x1 s) := by
  unfold execSag
  try extract_lets
  refine onlyIf_goes ?_ ?_ _
  · exact h
  · exact health_keeps (setDivisor_keeps ((advance_keeps h _).plain) _) _

theorem execNvStop_keeps {s0 s : State} (h : Keeps s0 s) : Goes s0 (execNvStop s) := by
  unfold execNvStop
  refine onlyIf_goes ?_ ?_ _
  · exact h
  · exact (h).plain

theorem execNvStopClear_keeps {s0 s : State} (h : Keeps s0 s) : Goes s0 (execNvStopClear s) := by
  unfold execNvStopClear
  refine onlyIf_goes ?_ ?_ _
  · exact h
  · exact (h).plain

theorem execUvReset_keeps {s0 s : State} (h : Keeps s0 s) : Goes s0 (execUvReset s) := by
  unfold execUvReset
  try extract_lets
  refine onlyIf_goes ?_ ?_ _
  · exact h
  · exact (powerOnState_keeps h).plain

theorem execOvStop_keeps {s0 s : State} (h : Keeps s0 s) (x0 : Nat) : Goes s0 (execOvStop x0 s) := by
  unfold execOvStop
  try extract_lets
  refine onlyIf_goes ?_ ?_ _
  · exact h
  · exact health_keeps ((railsOff_keeps h).plain) _

theorem flushNv_keeps {s0 s : State} (h : Keeps s0 s) : Keeps s0 (flushNv s) := by
  unfold flushNv
  try extract_lets
  first | split | (dsimp +zetaDelta only; split)
  · refine Keeps.put ?_ (Nat.le_refl _) ?_ (NKeeps.refl _) (WKeeps.refl _)
    · refine Keeps.foldl ?_ (fun _ _ h0 => ?_)
      · exact h
      · exact nvWrite_keeps h0 _
    · try extract_lets
      refine MKeeps.plain ?_
      exact MKeeps.refl _
  · refine health_keeps ?_ _
    refine Keeps.put ?_ (Nat.le_refl _) (MKeeps.refl _) (NKeeps.refl _) (by first | exact ⟨Nat.le_refl _, id⟩ | exact ⟨Nat.le_max_left _ _, id⟩ | exact ⟨Nat.le_add_right _ _, id⟩ | exact ⟨Nat.le_refl _, fun _ => rfl⟩)
    refine Keeps.put ?_ (Nat.le_refl _) ?_ (NKeeps.refl _) (WKeeps.refl _)
    · refine Keeps.foldl ?_ (fun _ _ h0 => ?_)
      · exact h
      · exact nvWrite_keeps h0 _
    · try extract_lets
      refine MKeeps.plain ?_
      exact MKeeps.refl _

theorem execPairImbalance_keeps {s0 s : State} (h : Keeps s0 s) (x0 : Nat) : Goes s0 (execPairImbalance x0 s) := by
  unfold execPairImbalance
  try extract_lets
  refine onlyIf_goes ?_ ?_ _
  · exact h
  · exact setDivisor_keeps (health_keeps (h).plain _) _

theorem execPairImbalanceClear_keeps {s0 s : State} (h : Keeps s0 s) : Goes s0 (execPairImbalanceClear s) := by
  unfold execPairImbalanceClear
  refine onlyIf_goes ?_ ?_ _
  · exact h
  · exact setDivisor_keeps (h).plain _

theorem execPowerLimit_keeps {s0 s : State} (h : Keeps s0 s) : Goes s0 (execPowerLimit s) := by
  unfold execPowerLimit
  refine onlyIf_goes ?_ ?_ _
  · exact h
  · exact setDivisor_keeps (h).plain _

theorem execPowerLimitClear_keeps {s0 s : State} (h : Keeps s0 s) : Goes s0 (execPowerLimitClear s) := by
  unfold execPowerLimitClear
  refine onlyIf_goes ?_ ?_ _
  · exact h
  · exact setDivisor_keeps (h).plain _

theorem coolColumn_keeps {s0 s : State} (h : Keeps s0 s) (x1 x2 : Nat) (x3 : Reading) : Keeps s0 (coolColumn s x1 x2 x3) := by
  unfold coolColumn
  try extract_lets
  first | split | (dsimp +zetaDelta only; split)
  · refine Keeps.ite ?_ ?_
    · exact health_keeps (h).plain _
    · exact h
  · refine Keeps.ite ?_ ?_
    · exact (h).plain
    · refine Keeps.ite ?_ ?_
      · exact (h).plain
      · exact h

theorem coolMeasure_keeps {s0 s : State} (h : Keeps s0 s) (x0 : List Reading) (x2 : Nat) : Keeps s0 (coolMeasure x0 s x2) := by
  unfold coolMeasure
  refine Keeps.elim ?_ (fun _ => ?_)
  · exact h
  · refine Keeps.foldl ?_ (fun _ _ h0 => ?_)
    · exact h
    · exact coolColumn_keeps h0 _ _ _

theorem execSensorPoll_keeps {s0 s : State} (h : Keeps s0 s) (x0 : List Reading) : Goes s0 (execSensorPoll x0 s) := by
  unfold execSensorPoll
  try extract_lets
  refine onlyIf_goes ?_ ?_ _
  · exact h
  · refine setDivisor_keeps ?_ _
    refine Keeps.plain ?_
    refine Keeps.foldl ?_ (fun _ _ h0 => ?_)
    · exact (h).plain
    · exact coolMeasure_keeps h0 _ _

theorem execThermalTrip_keeps {s0 s : State} (h : Keeps s0 s) (x0 : Reading) : Goes s0 (execThermalTrip x0 s) := by
  unfold execThermalTrip
  try extract_lets
  refine onlyIf_goes ?_ ?_ _
  · exact h
  · exact health_keeps ((railsOff_keeps h).plain) _

theorem haltHere_keeps {s0 s : State} (h : Keeps s0 s) (x1 : Nat) : Keeps s0 (haltHere s x1) := by
  unfold haltHere
  first | split | (dsimp +zetaDelta only; split)
  · exact h
  · refine Keeps.ite ?_ ?_
    · exact h
    · try extract_lets
      exact toStations_keeps (releaseHeldActs_keeps (abortUnstarted_keeps (haltJob_keeps h _) _) _) _ _ _

theorem dropPillows_keeps {s0 m : Mem} (h : MKeeps s0 m) : MKeeps s0 (dropPillows m) := by
  refine ⟨fun w => ?_, h.2⟩
  obtain ⟨h1, h2⟩ := (wf_iff _).1 (h.1 w)
  exact (wf_iff _).2 ⟨rising_filter _ _ h1, fun c hc => h2 c (List.mem_of_mem_filter hc)⟩

theorem powerReply_keeps {s0 s : State} (h : Keeps s0 s) : Keeps s0 (powerReply s).s := by
  unfold powerReply
  exact okNat_keeps h _ _

theorem endDrowseWait_keeps {s0 s : State} (h : Keeps s0 s) : Keeps s0 (endDrowseWait s) := by
  unfold endDrowseWait
  refine Keeps.elim ?_ (fun _ => ?_)
  · exact h
  · exact answerWaiting_keeps (h).plain _ _ _ _

theorem enterPark_keeps {s0 s : State} (h : Keeps s0 s) : Keeps s0 (enterPark s) := by
  unfold enterPark
  refine endDrowseWait_keeps ?_
  refine Keeps.put ?_ (Nat.le_refl _) ?_ (NKeeps.refl _) (WKeeps.refl _)
  · exact h
  · exact dropPillows_keeps (MKeeps.refl _)

theorem muteAll_keeps {s0 s : State} (h : Keeps s0 s) : Keeps s0 (muteAll s) := by
  unfold muteAll
  refine Keeps.foldl ?_ (fun _ _ h0 => ?_)
  · exact h
  · exact completeWith_keeps h0 _ _

theorem execLeakDetect_keeps {s0 s : State} (h : Keeps s0 s) : Goes s0 (execLeakDetect s) := by
  unfold execLeakDetect
  try extract_lets
  refine onlyIf_goes ?_ ?_ _
  · exact h
  · refine health_keeps ?_ _
    refine Keeps.ite ?_ ?_
    · refine enterPark_keeps ?_
      refine muteAll_keeps ?_
      refine Keeps.foldl ?_ (fun _ _ h0 => ?_)
      · exact (h).plain
      · exact haltHere_keeps h0 _
    · refine muteAll_keeps ?_
      refine Keeps.foldl ?_ (fun _ _ h0 => ?_)
      · exact (h).plain
      · exact haltHere_keeps h0 _

theorem poisonPanel_keeps {s0 s : Mem} (h : MKeeps s0 s) (x1 : Nat) : MKeeps s0 (poisonPanel s x1) := by
  unfold poisonPanel
  try extract_lets
  refine MKeeps.plain ?_
  exact zeroRange_keeps h _ _

theorem execPanelReset_keeps {s0 s : State} (h : Keeps s0 s) (x0 : Nat) : Goes s0 (execPanelReset x0 s) := by
  unfold execPanelReset
  try extract_lets
  refine onlyIf_goes ?_ ?_ _
  · exact h
  · refine health_keeps ?_ _
    refine Keeps.put ?_ (Nat.le_refl _) ?_ (by first | exact ⟨rfl, fun _ h => h⟩ | exact ⟨rfl, fun _ => mem_ninsert⟩) (WKeeps.refl _)
    · refine Keeps.foldl ?_ (fun _ _ h0 => ?_)
      · refine Keeps.foldl ?_ (fun _ _ h0 => ?_)
        · exact h
        · exact completeWith_keeps h0 _ _
      · exact haltHere_keeps h0 _
    · refine MKeeps.plain ?_
      exact poisonPanel_keeps (MKeeps.refl _) _

theorem execPanelHeartbeatTimeout_keeps {s0 s : State} (h : Keeps s0 s) (x0 : Nat) : Goes s0 (execPanelHeartbeatTimeout x0 s) := by
  unfold execPanelHeartbeatTimeout
  first | split | (dsimp +zetaDelta only; split)
  · exact Goes.next (h)
  · try extract_lets
    refine Goes.next ?_
    refine health_keeps ?_ _
    refine Keeps.put ?_ (Nat.le_refl _) (MKeeps.refl _) (by first | exact ⟨rfl, fun _ h => h⟩ | exact ⟨rfl, fun _ => mem_ninsert⟩) (WKeeps.refl _)
    refine Keeps.foldl ?_ (fun _ _ h0 => ?_)
    · exact draw_keeps (advance_keeps h _)
    · exact retireNib_keeps h0 _ _

end Sys2Proof.Laws
end

