-- ==== Sys2Proof/Laws/KeepFirmware.lean ====
section
/-! SUPPORT. What the operations of Machine/Firmware.lean keep (Laws/Keep.lean). -/

namespace Sys2Proof.Laws

open Sys2Proof.Machine

theorem runThen_keeps {s0 s : State} (h : Keeps s0 s) (p op act : Nat) (f : Request → State → Reply) (g : State → State) (k : ∀ r, Keeps s0 (f r s).s)
    (l : ∀ t, Keeps s0 t → Keeps s0 (g t)) : Goes s0 (runThen s p op act f g) := by
  unfold runThen
  split
  · exact Goes.next h
  · refine .ite (Goes.next h) ?_
    split
    · exact Goes.next (answerRequest_keeps h _ _ _ _)
    · exact Goes.next (.ite (l _ (answerRequest_keeps (k _) _ _ _ _)) (answerRequest_keeps (k _) _ _ _ _))

theorem enterDrowse_keeps {s0 s : State} (h : Keeps s0 s) : Keeps s0 (enterDrowse s) := by
  unfold enterDrowse
  exact (h).plain

theorem execPowerStateEnter_keeps {s0 s : State} (h : Keeps s0 s) (x0 : Nat) : Goes s0 (execPowerStateEnter x0 s) := by
  unfold execPowerStateEnter
  refine runCmd_keeps ?_ _ _ _ _ (fun _ => ?_)
  · exact h
  · beta_reduce
    try extract_lets
    refine Keeps.iteR ?_ ?_
    · exact fail_keeps h _
    · refine Keeps.iteR ?_ ?_
      · exact fail_keeps h _
      · refine Keeps.iteR ?_ ?_
        · exact powerReply_keeps (endDrowseWait_keeps (h).plain)
        · refine Keeps.iteR ?_ ?_
          · exact powerReply_keeps (enterPark_keeps h)
          · refine Keeps.iteR ?_ ?_
            · exact powerReply_keeps (enterDrowse_keeps h)
            · refine Keeps.iteR ?_ ?_
              · exact fail_keeps h _
              · exact (h).plain

theorem execDrowseEntry_keeps {s0 s : State} (h : Keeps s0 s) (x0 : Nat) : Goes s0 (execDrowseEntry x0 s) := by
  unfold execDrowseEntry
  try extract_lets
  refine onlyIf_goes ?_ ?_ _
  · exact h
  · exact answerWaiting_keeps (enterDrowse_keeps h) _ _ _ _

theorem execPowerStatePreserve_keeps {s0 s : State} (h : Keeps s0 s) (x0 : Nat) : Goes s0 (execPowerStatePreserve x0 s) := by
  unfold execPowerStatePreserve
  refine runCmd_keeps ?_ _ _ _ _ (fun _ => ?_)
  · exact h
  · beta_reduce
    refine Keeps.iteR ?_ ?_
    · exact fail_keeps h _
    · exact powerReply_keeps (h).plain

theorem execPowerStateRestart_keeps {s0 s : State} (h : Keeps s0 s) (x0 : Nat) : Goes s0 (execPowerStateRestart x0 s) := by
  unfold execPowerStateRestart
  refine runThen_keeps ?_ _ _ _ _ _ (fun _ => ?_) (fun _ hg => warmRestart_keeps hg)
  · exact h
  · beta_reduce
    refine Keeps.iteR ?_ ?_
    · exact fail_keeps h _
    · refine Keeps.iteR ?_ ?_
      · exact fail_keeps h _
      · exact powerReply_keeps h

theorem refuseContent_keeps {s0 s : State} (h : Keeps s0 s) (x1 : Nat) : Keeps s0 (refuseContent s x1) := by
  unfold refuseContent
  exact health_keeps h _

theorem loadPack_keeps {s0 s : State} (h : Keeps s0 s) (x1 : PrickPack) : Keeps s0 (loadPack s x1).s := by
  unfold loadPack
  first | split | (dsimp +zetaDelta only; split)
  · exact fail_keeps (refuseContent_keeps h _) _
  · refine okNat_keeps ?_ _ _
    refine Keeps.put ?_ (Nat.le_refl _) (MKeeps.refl _) (NKeeps.refl _) (by first | exact ⟨Nat.le_refl _, id⟩ | exact ⟨Nat.le_max_left _ _, id⟩ | exact ⟨Nat.le_add_right _ _, id⟩ | exact ⟨Nat.le_refl _, fun _ => rfl⟩)
    exact h

theorem execPrickingLoad_keeps {s0 s : State} (h : Keeps s0 s) (x0 : Nat) (x1 : PrickPack) : Goes s0 (execPrickingLoad x0 x1 s) := by
  unfold execPrickingLoad
  refine runCmd_keeps ?_ _ _ _ _ (fun _ => ?_)
  · exact h
  · beta_reduce
    refine Keeps.iteR ?_ ?_
    · exact fail_keeps h _
    · exact loadPack_keeps h _

theorem putSlot_keeps {s0 s : State} (h : Keeps s0 s) (x1 : Nat) (x2 : FwImage) : Keeps s0 (putSlot s x1 x2) := by
  unfold putSlot
  refine Keeps.ite ?_ ?_
  · refine Keeps.put ?_ (Nat.le_refl _) (MKeeps.refl _) (NKeeps.refl _) (by first | exact ⟨Nat.le_refl _, id⟩ | exact ⟨Nat.le_max_left _ _, id⟩ | exact ⟨Nat.le_add_right _ _, id⟩ | exact ⟨Nat.le_refl _, fun _ => rfl⟩)
    exact h
  · refine Keeps.put ?_ (Nat.le_refl _) (MKeeps.refl _) (NKeeps.refl _) (by first | exact ⟨Nat.le_refl _, id⟩ | exact ⟨Nat.le_max_left _ _, id⟩ | exact ⟨Nat.le_add_right _ _, id⟩ | exact ⟨Nat.le_refl _, fun _ => rfl⟩)
    exact h

theorem beginStage_keeps {s0 s : State} (h : Keeps s0 s) (x1 : FwImage) : Keeps s0 (beginStage s x1) := by
  unfold beginStage
  refine putSlot_keeps ?_ _ _
  refine Keeps.put ?_ (Nat.le_refl _) (MKeeps.refl _) (NKeeps.refl _) (by first | exact ⟨Nat.le_refl _, id⟩ | exact ⟨Nat.le_max_left _ _, id⟩ | exact ⟨Nat.le_add_right _ _, id⟩ | exact ⟨Nat.le_refl _, fun _ => rfl⟩)
  exact h

theorem finishStage_keeps {s0 s : State} (h : Keeps s0 s) (x1 : Bool) : Keeps s0 (finishStage s x1) := by
  unfold finishStage
  try extract_lets
  refine Keeps.put ?_ (Nat.le_refl _) (MKeeps.refl _) (NKeeps.refl _) (by first | exact ⟨Nat.le_refl _, id⟩ | exact ⟨Nat.le_max_left _ _, id⟩ | exact ⟨Nat.le_add_right _ _, id⟩ | exact ⟨Nat.le_refl _, fun _ => rfl⟩)
  exact putSlot_keeps h _ _

theorem refusedImage_keeps {s0 s : State} (h : Keeps s0 s) (x1 : FwImage) (x2 : Nat) : Keeps s0 (refusedImage s x1 x2) := by
  unfold refusedImage
  refine Keeps.ite ?_ ?_
  · exact h
  · refine refuseContent_keeps ?_ _
    refine putSlot_keeps ?_ _ _
    refine Keeps.put ?_ (Nat.le_refl _) (MKeeps.refl _) (NKeeps.refl _) (by first | exact ⟨Nat.le_refl _, id⟩ | exact ⟨Nat.le_max_left _ _, id⟩ | exact ⟨Nat.le_add_right _ _, id⟩ | exact ⟨Nat.le_refl _, fun _ => rfl⟩)
    exact h

theorem execFwUpdateStage_keeps {s0 s : State} (h : Keeps s0 s) (x0 : Nat) (x1 : FwImage) : Goes s0 (execFwUpdateStage x0 x1 s) := by
  unfold execFwUpdateStage
  refine runCmd_keeps ?_ _ _ _ _ (fun _ => ?_)
  · exact h
  · beta_reduce
    refine Keeps.iteR ?_ ?_
    · exact fail_keeps h _
    · refine Keeps.iteR ?_ ?_
      · exact fail_keeps h _
      · first | split | (dsimp +zetaDelta only; split)
        · exact fail_keeps (refusedImage_keeps h _ _) _
        · try extract_lets
          exact startOp_keeps (beginStage_keeps h _) _ _ _

theorem activateSlot_keeps {s0 s : State} (h : Keeps s0 s) : Keeps s0 (activateSlot s) := by
  unfold activateSlot
  refine Keeps.put ?_ (Nat.le_refl _) (MKeeps.refl _) (NKeeps.refl _) (by first | exact ⟨Nat.le_refl _, id⟩ | exact ⟨Nat.le_max_left _ _, id⟩ | exact ⟨Nat.le_add_right _ _, id⟩ | exact ⟨Nat.le_refl _, fun _ => rfl⟩)
  exact h

theorem execFwUpdateActivate_keeps {s0 s : State} (h : Keeps s0 s) (x0 : Nat) : Goes s0 (execFwUpdateActivate x0 s) := by
  unfold execFwUpdateActivate
  refine runThen_keeps ?_ _ _ _ _ _ (fun _ => ?_) (fun _ hg => warmRestart_keeps (activateSlot_keeps hg))
  · exact h
  · beta_reduce
    refine Keeps.iteR ?_ ?_
    · exact fail_keeps h _
    · refine Keeps.iteR ?_ ?_
      · exact fail_keeps h _
      · refine Keeps.iteR ?_ ?_
        · exact fail_keeps h _
        · refine Keeps.iteR ?_ ?_
          · exact fail_keeps h _
          · exact okNat_keeps h _ _

theorem execFwUpdateDiscard_keeps {s0 s : State} (h : Keeps s0 s) (x0 : Nat) : Goes s0 (execFwUpdateDiscard x0 s) := by
  unfold execFwUpdateDiscard
  refine runCmd_keeps ?_ _ _ _ _ (fun _ => ?_)
  · exact h
  · beta_reduce
    refine Keeps.iteR ?_ ?_
    · exact fail_keeps h _
    · refine Keeps.iteR ?_ ?_
      · exact fail_keeps h _
      · refine okNat_keeps ?_ _ _
        refine Keeps.put ?_ (Nat.le_refl _) (MKeeps.refl _) (NKeeps.refl _) (by first | exact ⟨Nat.le_refl _, id⟩ | exact ⟨Nat.le_max_left _ _, id⟩ | exact ⟨Nat.le_add_right _ _, id⟩ | exact ⟨Nat.le_refl _, fun _ => rfl⟩)
        exact h

theorem execReturnPrepare_keeps {s0 s : State} (h : Keeps s0 s) (x0 : Nat) : Goes s0 (execReturnPrepare x0 s) := by
  unfold execReturnPrepare
  refine runCmd_keeps ?_ _ _ _ _ (fun _ => ?_)
  · exact h
  · beta_reduce
    refine Keeps.iteR ?_ ?_
    · exact fail_keeps h _
    · refine Keeps.iteR ?_ ?_
      · exact fail_keeps h _
      · refine Keeps.iteR ?_ ?_
        · exact fail_keeps h _
        · try extract_lets
          refine startOp_keeps ?_ _ _ _
          refine Keeps.put ?_ (Nat.le_refl _) (MKeeps.refl _) (NKeeps.refl _) (by first | exact ⟨Nat.le_refl _, id⟩ | exact ⟨Nat.le_max_left _ _, id⟩ | exact ⟨Nat.le_add_right _ _, id⟩ | exact ⟨Nat.le_refl _, fun _ => rfl⟩)
          exact h

theorem finishReturn_keeps {s0 s : State} (h : Keeps s0 s) (x1 : LongOp) : Keeps s0 (finishReturn s x1) := by
  unfold finishReturn
  try extract_lets
  refine warmRestart_keeps ?_
  refine endOp_keeps ?_ _ _
  refine draw_keeps ?_
  refine Keeps.put ?_ (Nat.le_refl _) (MKeeps.refl _) (NKeeps.refl _) (by first | exact ⟨Nat.le_refl _, id⟩ | exact ⟨Nat.le_max_left _ _, id⟩ | exact ⟨Nat.le_add_right _ _, id⟩ | exact ⟨Nat.le_refl _, fun _ => rfl⟩)
  refine Keeps.put ?_ (Nat.le_refl _) ?_ (NKeeps.refl _) (WKeeps.refl _)
  · exact h
  · exact MKeeps.fresh

theorem repairReply_keeps {s0 s : State} (h : Keeps s0 s) (x1 x2 : Nat) : Keeps s0 (repairReply s x1 x2).s := by
  unfold repairReply
  exact h

theorem execHbmRepairQuery_keeps {s0 s : State} (h : Keeps s0 s) (x0 : Nat) : Goes s0 (execHbmRepairQuery x0 s) := by
  unfold execHbmRepairQuery
  refine runCmd_keeps ?_ _ _ _ _ (fun _ => ?_)
  · exact h
  · beta_reduce
    first | split | (dsimp +zetaDelta only; split)
    · exact fail_keeps h _
    · exact fail_keeps h _
    · try extract_lets
      refine Keeps.iteR ?_ ?_
      · exact fail_keeps h _
      · exact repairReply_keeps (wrBytes_keeps h _ _) _ _

theorem hardRow_keeps {s0 s : State} (h : Keeps s0 s) (x1 : Nat) : Keeps s0 (hardRow s x1) := by
  unfold hardRow
  try extract_lets
  refine Keeps.ite ?_ ?_
  · refine nvWrite_keeps ?_ _
    refine Keeps.put ?_ (Nat.le_refl _) ?_ (NKeeps.refl _) (WKeeps.refl _)
    · refine Keeps.ite ?_ ?_
      · exact h
      · exact repairRow_keeps h _ _
    · refine MKeeps.plain ?_
      exact MKeeps.refl _
  · refine Keeps.put ?_ (Nat.le_refl _) ?_ (NKeeps.refl _) (WKeeps.refl _)
    · refine Keeps.ite ?_ ?_
      · exact h
      · exact repairRow_keeps h _ _
    · refine MKeeps.plain ?_
      exact MKeeps.refl _

theorem repairRows_keeps {s0 s : State} (h : Keeps s0 s) (hard : Bool) (l : List Nat) (n : Nat) : Keeps s0 (repairRows hard l n s).2.2 := by
  induction l generalizing n s with
  | nil => exact h
  | cons row l ih =>
    unfold repairRows
    extract_lets logged
    split
    · exact h
    · exact ih (.ite (hardRow_keeps h _) (repairRow_keeps h _ _)) _

theorem repairAnswer_keeps {s0 s : State} (h : Keeps s0 s) (hard : Bool) (rows : List Nat) : Keeps s0 (repairAnswer s hard rows).s :=
  repairReply_keeps (repairRows_keeps (Keeps.put h (Nat.le_refl _) (drainIf_keeps (MKeeps.refl _) _) (NKeeps.refl _) (WKeeps.refl _)) _ _ _) _ _

theorem repairListed_keeps {s0 s : State} (h : Keeps s0 s) (x1 : Request) (x2 : Bool) : Keeps s0 (repairListed s x1 x2).s := by
  unfold repairListed
  refine Keeps.elimR ?_ (fun _ => ?_)
  · exact repairAnswer_keeps h _ _
  · exact fail_keeps h _

theorem execHbmRepairSoft_keeps {s0 s : State} (h : Keeps s0 s) (x0 : Nat) : Goes s0 (execHbmRepairSoft x0 s) := by
  unfold execHbmRepairSoft
  refine runCmd_keeps ?_ _ _ _ _ (fun _ => ?_)
  · exact h
  · beta_reduce
    exact repairListed_keeps h _ _

theorem execHbmRepairHard_keeps {s0 s : State} (h : Keeps s0 s) (x0 : Nat) : Goes s0 (execHbmRepairHard x0 s) := by
  unfold execHbmRepairHard
  refine runCmd_keeps ?_ _ _ _ _ (fun _ => ?_)
  · exact h
  · beta_reduce
    exact repairListed_keeps h _ _

theorem execHbmRepairHardLogged_keeps {s0 s : State} (h : Keeps s0 s) (x0 : Nat) : Goes s0 (execHbmRepairHardLogged x0 s) := by
  unfold execHbmRepairHardLogged
  refine runCmd_keeps ?_ _ _ _ _ (fun _ => ?_)
  · exact h
  · beta_reduce
    refine Keeps.elimR ?_ (fun _ => ?_)
    · exact repairAnswer_keeps h _ _
    · exact fail_keeps h _

theorem endStage_keeps {s0 s : State} (h : Keeps s0 s) (x1 : LongOp) (x2 : Bool) : Keeps s0 (endStage s x1 x2) := by
  unfold endStage
  refine Keeps.ite ?_ ?_
  · refine Keeps.ite ?_ ?_
    · exact endOp_keeps (finishStage_keeps h _) _ _
    · exact h
  · exact endOp_keeps (refuseContent_keeps (finishStage_keeps h _) _) _ _

theorem execLongOperationEnd_keeps {s0 s : State} (h : Keeps s0 s) (x0 x1 : Nat) (x2 : Option (List PeerCopy)) : Goes s0 (execLongOperationEnd x0 x1 x2 s) := by
  unfold execLongOperationEnd
  first | split | (dsimp +zetaDelta only; split)
  · exact Goes.next (h)
  · try extract_lets
    refine Goes.next ?_
    refine Keeps.ite ?_ ?_
    · exact endReplay_keeps h _ _
    · refine Keeps.ite ?_ ?_
      · exact endTransfer_keeps h _ _ _
      · refine Keeps.ite ?_ ?_
        · exact endStage_keeps h _ _
        · refine Keeps.ite ?_ ?_
          · exact endRoute_keeps h _ _
          · refine Keeps.ite ?_ ?_
            · refine Keeps.ite ?_ ?_
              · exact finishReturn_keeps h _
              · exact h
            · exact h

end Sys2Proof.Laws
end

