-- ==== Sys2Proof/Laws/KeepManage.lean ====
section
/-! SUPPORT. What the operations of Machine/Manage.lean keep (Laws/Keep.lean). -/

namespace Sys2Proof.Laws

open Sys2Proof.Machine

theorem sendDue_keeps {s0 s : State} (h : Keeps s0 s) : Keeps s0 (sendDue s) := by
  unfold sendDue
  try extract_lets
  exact (h).plain

theorem execHealthResend_keeps {s0 s : State} (h : Keeps s0 s) : Goes s0 (execHealthResend s) := by
  unfold execHealthResend
  first | split | (dsimp +zetaDelta only; split)
  · exact Goes.next (h)
  · refine onlyIf_goes ?_ ?_ _
    · exact h
    · exact sendDue_keeps (advance_keeps h _)

theorem execHealthAck_keeps {s0 s : State} (h : Keeps s0 s) (x0 : Nat) : Goes s0 (execHealthAck x0 s) := by
  unfold execHealthAck
  refine onlyIf_goes ?_ ?_ _
  · exact h
  · exact setAlert_keeps (h).plain

theorem pldmAnswer_keeps {s0 s : State} (h : Keeps s0 s) (x1 : Transport) (x2 : Nat) (x3 : List Nat) : Keeps s0 (pldmAnswer s x1 x2 x3) := by
  unfold pldmAnswer
  exact (h).plain

theorem pldmReply_keeps {s0 s t : State} (h : Keeps s0 s) (k : Keeps s0 t) (via : Transport) (code : Nat) (data : List Nat) :
    Goes s0 (pldmReply s via t code data) := onlyIf_goes h (pldmAnswer_keeps k _ _ _) _

theorem execGetTid_keeps {s0 s : State} (h : Keeps s0 s) (x0 : Transport) : Goes s0 (execGetTid x0 s) := by
  unfold execGetTid
  refine pldmReply_keeps ?_ ?_ _ _ _
  · exact h
  · exact draw_keeps h

theorem execGetPldmVersion_keeps {s0 s : State} (h : Keeps s0 s) (x0 : Transport) (x1 : Nat) : Goes s0 (execGetPldmVersion x0 x1 s) := by
  unfold execGetPldmVersion
  refine Goes.ite ?_ ?_
  · refine pldmReply_keeps ?_ ?_ _ _ _
    · exact h
    · exact draw_keeps h
  · refine pldmReply_keeps ?_ ?_ _ _ _
    · exact h
    · exact h

theorem execGetPldmTypes_keeps {s0 s : State} (h : Keeps s0 s) (x0 : Transport) : Goes s0 (execGetPldmTypes x0 s) := by
  unfold execGetPldmTypes
  refine pldmReply_keeps ?_ ?_ _ _ _
  · exact h
  · exact h

theorem execGetPldmCommands_keeps {s0 s : State} (h : Keeps s0 s) (x0 : Transport) (x1 : Nat) : Goes s0 (execGetPldmCommands x0 x1 s) := by
  unfold execGetPldmCommands
  try extract_lets
  refine Goes.ite ?_ ?_
  · refine pldmReply_keeps ?_ ?_ _ _ _
    · exact h
    · exact draw_keeps h
  · refine pldmReply_keeps ?_ ?_ _ _ _
    · exact h
    · exact h

theorem execPldmUnsupported_keeps {s0 s : State} (h : Keeps s0 s) (x0 : Transport) (x1 x2 : Nat) : Goes s0 (execPldmUnsupported x0 x1 x2 s) := by
  unfold execPldmUnsupported
  refine pldmReply_keeps ?_ ?_ _ _ _
  · exact h
  · exact h

theorem execSetEventReceiver_keeps {s0 s : State} (h : Keeps s0 s) (x0 : Transport) (x1 : Option Nat) (x2 : Nat) : Goes s0 (execSetEventReceiver x0 x1 x2 s) := by
  unfold execSetEventReceiver
  refine Goes.ite ?_ ?_
  · refine pldmReply_keeps ?_ ?_ _ _ _
    · exact h
    · exact (h).plain
  · refine pldmReply_keeps ?_ ?_ _ _ _
    · exact h
    · exact h

theorem execGetSensorReading_keeps {s0 s : State} (h : Keeps s0 s) (x0 : Transport) (x1 : Nat) : Goes s0 (execGetSensorReading x0 x1 s) := by
  unfold execGetSensorReading
  first | split | (dsimp +zetaDelta only; split)
  · refine pldmReply_keeps ?_ ?_ _ _ _
    · exact h
    · exact h
  · refine pldmReply_keeps ?_ ?_ _ _ _
    · exact h
    · exact h

theorem execRequestUpdate_keeps {s0 s : State} (h : Keeps s0 s) (x0 : Transport) (x1 : Option Nat) (x2 : Nat) : Goes s0 (execRequestUpdate x0 x1 x2 s) := by
  unfold execRequestUpdate
  refine Goes.ite ?_ ?_
  · refine pldmReply_keeps ?_ ?_ _ _ _
    · exact h
    · exact h
  · refine Goes.ite ?_ ?_
    · refine pldmReply_keeps ?_ ?_ _ _ _
      · exact h
      · exact h
    · refine Goes.ite ?_ ?_
      · refine pldmReply_keeps ?_ ?_ _ _ _
        · exact h
        · exact h
      · try extract_lets
        refine pldmReply_keeps ?_ ?_ _ _ _
        · exact h
        · refine Keeps.put ?_ (Nat.le_refl _) (MKeeps.refl _) (NKeeps.refl _) (by first | exact ⟨Nat.le_refl _, id⟩ | exact ⟨Nat.le_max_left _ _, id⟩ | exact ⟨Nat.le_add_right _ _, id⟩ | exact ⟨Nat.le_refl _, fun _ => rfl⟩)
          exact h

theorem stageContent_keeps {s0 s : State} (h : Keeps s0 s) (x1 : Option FwImage) (x2 : Option PrickPack) : Keeps s0 (stageContent s x1 x2).1 := by
  unfold stageContent
  try extract_lets
  refine Keeps.iteFst ?_ ?_
  · first | split | (dsimp +zetaDelta only; split)
    · refine Keeps.put ?_ (Nat.le_refl _) (MKeeps.refl _) (NKeeps.refl _) (by first | exact ⟨Nat.le_refl _, id⟩ | exact ⟨Nat.le_max_left _ _, id⟩ | exact ⟨Nat.le_add_right _ _, id⟩ | exact ⟨Nat.le_refl _, fun _ => rfl⟩)
      exact h
    · first | split | (dsimp +zetaDelta only; split)
      · try extract_lets
        refine draw_keeps ?_
        refine refusedImage_keeps ?_ _ _
        refine Keeps.put ?_ (Nat.le_refl _) (MKeeps.refl _) (NKeeps.refl _) (by first | exact ⟨Nat.le_refl _, id⟩ | exact ⟨Nat.le_max_left _ _, id⟩ | exact ⟨Nat.le_add_right _ _, id⟩ | exact ⟨Nat.le_refl _, fun _ => rfl⟩)
        exact h
      · try extract_lets
        refine Keeps.put ?_ (Nat.le_refl _) (MKeeps.refl _) (NKeeps.refl _) (by first | exact ⟨Nat.le_refl _, id⟩ | exact ⟨Nat.le_max_left _ _, id⟩ | exact ⟨Nat.le_add_right _ _, id⟩ | exact ⟨Nat.le_refl _, fun _ => rfl⟩)
        refine putSlot_keeps ?_ _ _
        refine Keeps.put ?_ (Nat.le_refl _) (MKeeps.refl _) (NKeeps.refl _) (by first | exact ⟨Nat.le_refl _, id⟩ | exact ⟨Nat.le_max_left _ _, id⟩ | exact ⟨Nat.le_add_right _ _, id⟩ | exact ⟨Nat.le_refl _, fun _ => rfl⟩)
        exact h
  · first | split | (dsimp +zetaDelta only; split)
    · refine Keeps.put ?_ (Nat.le_refl _) (MKeeps.refl _) (NKeeps.refl _) (by first | exact ⟨Nat.le_refl _, id⟩ | exact ⟨Nat.le_max_left _ _, id⟩ | exact ⟨Nat.le_add_right _ _, id⟩ | exact ⟨Nat.le_refl _, fun _ => rfl⟩)
      exact h
    · first | split | (dsimp +zetaDelta only; split)
      · try extract_lets
        refine draw_keeps ?_
        refine refuseContent_keeps ?_ _
        refine Keeps.put ?_ (Nat.le_refl _) (MKeeps.refl _) (NKeeps.refl _) (by first | exact ⟨Nat.le_refl _, id⟩ | exact ⟨Nat.le_max_left _ _, id⟩ | exact ⟨Nat.le_add_right _ _, id⟩ | exact ⟨Nat.le_refl _, fun _ => rfl⟩)
        exact h
      · refine Keeps.put ?_ (Nat.le_refl _) (MKeeps.refl _) (NKeeps.refl _) (by first | exact ⟨Nat.le_refl _, id⟩ | exact ⟨Nat.le_max_left _ _, id⟩ | exact ⟨Nat.le_add_right _ _, id⟩ | exact ⟨Nat.le_refl _, fun _ => rfl⟩)
        refine Keeps.put ?_ (Nat.le_refl _) (MKeeps.refl _) (NKeeps.refl _) (by first | exact ⟨Nat.le_refl _, id⟩ | exact ⟨Nat.le_max_left _ _, id⟩ | exact ⟨Nat.le_add_right _ _, id⟩ | exact ⟨Nat.le_refl _, fun _ => rfl⟩)
        exact h

theorem execPldmFwTransfer_keeps {s0 s : State} (h : Keeps s0 s) (x0 : Transport) (x1 : Option Nat) (x2 : List Byte) (x3 : Option FwImage) (x4 : Option PrickPack) : Goes s0 (execPldmFwTransfer x0 x1 x2 x3 x4 s) := by
  unfold execPldmFwTransfer
  refine Goes.ite ?_ ?_
  · refine pldmReply_keeps ?_ ?_ _ _ _
    · exact h
    · exact h
  · refine Goes.ite ?_ ?_
    · refine pldmReply_keeps ?_ ?_ _ _ _
      · exact h
      · exact h
    · refine Goes.ite ?_ ?_
      · refine pldmReply_keeps ?_ ?_ _ _ _
        · exact h
        · exact h
      · try extract_lets
        refine Goes.ite ?_ ?_
        · refine pldmReply_keeps ?_ ?_ _ _ _
          · exact h
          · refine Keeps.put ?_ (Nat.le_refl _) (MKeeps.refl _) (NKeeps.refl _) (by first | exact ⟨Nat.le_refl _, id⟩ | exact ⟨Nat.le_max_left _ _, id⟩ | exact ⟨Nat.le_add_right _ _, id⟩ | exact ⟨Nat.le_refl _, fun _ => rfl⟩)
            exact h
        · try extract_lets
          refine Goes.ite ?_ ?_
          · refine pldmReply_keeps ?_ ?_ _ _ _
            · exact h
            · refine stageContent_keeps ?_ _ _
              refine Keeps.put ?_ (Nat.le_refl _) (MKeeps.refl _) (NKeeps.refl _) (by first | exact ⟨Nat.le_refl _, id⟩ | exact ⟨Nat.le_max_left _ _, id⟩ | exact ⟨Nat.le_add_right _ _, id⟩ | exact ⟨Nat.le_refl _, fun _ => rfl⟩)
              exact h
          · refine onlyIf_goes ?_ ?_ _
            · exact h
            · refine Keeps.put ?_ (Nat.le_refl _) (MKeeps.refl _) (NKeeps.refl _) (by first | exact ⟨Nat.le_refl _, id⟩ | exact ⟨Nat.le_max_left _ _, id⟩ | exact ⟨Nat.le_add_right _ _, id⟩ | exact ⟨Nat.le_refl _, fun _ => rfl⟩)
              refine Keeps.put ?_ (Nat.le_refl _) (MKeeps.refl _) (NKeeps.refl _) (by first | exact ⟨Nat.le_refl _, id⟩ | exact ⟨Nat.le_max_left _ _, id⟩ | exact ⟨Nat.le_add_right _ _, id⟩ | exact ⟨Nat.le_refl _, fun _ => rfl⟩)
              exact h

theorem stageWaiting_keeps {s0 s : State} (h : Keeps s0 s) : Keeps s0 (stageWaiting s) := by
  unfold stageWaiting
  refine Keeps.elim ?_ (fun _ => ?_)
  · exact h
  · try extract_lets
    refine pldmAnswer_keeps ?_ _ _ _
    refine stageContent_keeps ?_ _ _
    refine Keeps.put ?_ (Nat.le_refl _) (MKeeps.refl _) (NKeeps.refl _) (by first | exact ⟨Nat.le_refl _, id⟩ | exact ⟨Nat.le_max_left _ _, id⟩ | exact ⟨Nat.le_add_right _ _, id⟩ | exact ⟨Nat.le_refl _, fun _ => rfl⟩)
    exact h

theorem execNvWriteRetry_keeps {s0 s : State} (h : Keeps s0 s) : Goes s0 (execNvWriteRetry s) := by
  unfold execNvWriteRetry
  refine onlyIf_goes ?_ ?_ _
  · exact h
  · exact stageWaiting_keeps (flushNv_keeps (advance_keeps h _))

theorem execActivateFirmware_keeps {s0 s : State} (h : Keeps s0 s) (x0 : Transport) (x1 : Option Nat) : Goes s0 (execActivateFirmware x0 x1 s) := by
  unfold execActivateFirmware
  refine Goes.ite ?_ ?_
  · refine pldmReply_keeps ?_ ?_ _ _ _
    · exact h
    · exact h
  · refine Goes.ite ?_ ?_
    · refine pldmReply_keeps ?_ ?_ _ _ _
      · exact h
      · exact h
    · refine Goes.ite ?_ ?_
      · try extract_lets
        refine pldmReply_keeps ?_ ?_ _ _ _
        · exact h
        · refine draw_keeps ?_
          refine refuseContent_keeps ?_ _
          refine Keeps.put ?_ (Nat.le_refl _) (MKeeps.refl _) (NKeeps.refl _) (by first | exact ⟨Nat.le_refl _, id⟩ | exact ⟨Nat.le_max_left _ _, id⟩ | exact ⟨Nat.le_add_right _ _, id⟩ | exact ⟨Nat.le_refl _, fun _ => rfl⟩)
          exact h
      · try extract_lets
        refine pldmReply_keeps ?_ ?_ _ _ _
        · exact h
        · refine Keeps.ite ?_ ?_
          · refine warmRestart_keeps ?_
            refine activateSlot_keeps ?_
            refine Keeps.put ?_ (Nat.le_refl _) (MKeeps.refl _) (NKeeps.refl _) (by first | exact ⟨Nat.le_refl _, id⟩ | exact ⟨Nat.le_max_left _ _, id⟩ | exact ⟨Nat.le_add_right _ _, id⟩ | exact ⟨Nat.le_refl _, fun _ => rfl⟩)
            exact h
          · refine Keeps.put ?_ (Nat.le_refl _) (MKeeps.refl _) (NKeeps.refl _) (by first | exact ⟨Nat.le_refl _, id⟩ | exact ⟨Nat.le_max_left _ _, id⟩ | exact ⟨Nat.le_add_right _ _, id⟩ | exact ⟨Nat.le_refl _, fun _ => rfl⟩)
            exact h

theorem execMgmtRead_keeps {s0 s : State} (h : Keeps s0 s) (x0 : Transport) (x1 x2 : Nat) : Goes s0 (execMgmtRead x0 x1 x2 s) := by
  unfold execMgmtRead
  try extract_lets
  refine Goes.ite ?_ ?_
  · refine pldmReply_keeps ?_ ?_ _ _ _
    · exact h
    · exact h
  · refine pldmReply_keeps ?_ ?_ _ _ _
    · exact h
    · refine Keeps.put ?_ (Nat.le_add_right _ _) (MKeeps.refl _) (NKeeps.refl _) (WKeeps.refl _)
      exact h

theorem mgmtPut_keeps {s0 s : State} (h : Keeps s0 s) (x1 x2 : Nat) : Keeps s0 (mgmtPut s x1 x2) := by
  unfold mgmtPut
  try extract_lets
  refine Keeps.ite ?_ ?_
  · exact (h).plain
  · refine Keeps.ite ?_ ?_
    · exact (h).plain
    · try extract_lets
      refine Keeps.plain ?_
      refine Keeps.ite ?_ ?_
      · exact nvWrite_keeps h _
      · exact h

theorem execMgmtWrite_keeps {s0 s : State} (h : Keeps s0 s) (x0 : Transport) (x1 : Option Nat) (x2 : Nat) (x3 : List Word64) : Goes s0 (execMgmtWrite x0 x1 x2 x3 s) := by
  unfold execMgmtWrite
  try extract_lets
  refine Goes.ite ?_ ?_
  · refine pldmReply_keeps ?_ ?_ _ _ _
    · exact h
    · exact h
  · refine Goes.ite ?_ ?_
    · refine pldmReply_keeps ?_ ?_ _ _ _
      · exact h
      · exact h
    · refine pldmReply_keeps ?_ ?_ _ _ _
      · exact h
      · refine Keeps.foldl ?_ (fun _ _ h0 => ?_)
        · exact h
        · exact mgmtPut_keeps h0 _ _

theorem putSpdm_keeps {s0 s : State} (h : Keeps s0 s) (x1 : Transport) (x2 : Spdm) : Keeps s0 (putSpdm s x1 x2) := by
  unfold putSpdm
  first | split | (dsimp +zetaDelta only; split)
  · exact (h).plain
  · exact (h).plain

theorem spdmReply_keeps {s0 s t : State} (h : Keeps s0 s) (k : Keeps s0 t) (via : Transport) (name : String) (data : List Byte) :
    Goes s0 (spdmReply s via t name data) := onlyIf_goes h k.plain _

theorem spdmError_keeps {s0 s : State} (h : Keeps s0 s) (x1 : Transport) (x2 : Nat) : Goes s0 (spdmError s x1 x2) := by
  unfold spdmError
  refine spdmReply_keeps ?_ ?_ _ _ _
  · exact h
  · exact h

theorem spdmReady_keeps {s0 s : State} {f : Host.Outcome State Fault Refusal} (h : Keeps s0 s) (k : Goes s0 f) (via : Transport) : Goes s0 (spdmReady s via f) :=
  .ite (spdmError_keeps h _ _) (.ite (spdmError_keeps h _ _) k)

theorem execGetVersion_keeps {s0 s : State} (h : Keeps s0 s) (x0 : Transport) : Goes s0 (execGetVersion x0 s) := by
  unfold execGetVersion
  refine spdmReply_keeps ?_ ?_ _ _ _
  · exact h
  · exact putSpdm_keeps h _ _

theorem execGetCapabilities_keeps {s0 s : State} (h : Keeps s0 s) (x0 : Transport) : Goes s0 (execGetCapabilities x0 s) := by
  unfold execGetCapabilities
  refine Goes.ite ?_ ?_
  · refine spdmReply_keeps ?_ ?_ _ _ _
    · exact h
    · exact draw_keeps (putSpdm_keeps h _ _)
  · exact spdmError_keeps h _ _

theorem execNegotiateAlgorithms_keeps {s0 s : State} (h : Keeps s0 s) (x0 : Transport) (x1 : Bool) : Goes s0 (execNegotiateAlgorithms x0 x1 s) := by
  unfold execNegotiateAlgorithms
  try extract_lets
  refine Goes.ite ?_ ?_
  · refine spdmReply_keeps ?_ ?_ _ _ _
    · exact h
    · exact putSpdm_keeps h _ _
  · exact spdmError_keeps h _ _

theorem execGetDigests_keeps {s0 s : State} (h : Keeps s0 s) (x0 : Transport) : Goes s0 (execGetDigests x0 s) := by
  unfold execGetDigests
  refine spdmReady_keeps ?_ ?_ _
  · exact h
  · refine spdmReply_keeps ?_ ?_ _ _ _
    · exact h
    · exact h

theorem execGetCertificate_keeps {s0 s : State} (h : Keeps s0 s) (x0 : Transport) (x1 x2 x3 : Nat) : Goes s0 (execGetCertificate x0 x1 x2 x3 s) := by
  unfold execGetCertificate
  refine spdmReady_keeps ?_ ?_ _
  · exact h
  · refine Goes.ite ?_ ?_
    · exact spdmError_keeps h _ _
    · refine spdmReply_keeps ?_ ?_ _ _ _
      · exact h
      · exact h

theorem execChallenge_keeps {s0 s : State} (h : Keeps s0 s) (x0 : Transport) (x1 : Nat) (x2 : List Byte) : Goes s0 (execChallenge x0 x1 x2 s) := by
  unfold execChallenge
  refine spdmReady_keeps ?_ ?_ _
  · exact h
  · refine Goes.ite ?_ ?_
    · exact spdmError_keeps h _ _
    · refine spdmReply_keeps ?_ ?_ _ _ _
      · exact h
      · exact h

theorem execGetMeasurements_keeps {s0 s : State} (h : Keeps s0 s) (x0 : Transport) (x1 : Nat) (x2 : List Byte) : Goes s0 (execGetMeasurements x0 x1 x2 s) := by
  unfold execGetMeasurements
  try extract_lets
  refine spdmReady_keeps ?_ ?_ _
  · exact h
  · refine Goes.ite ?_ ?_
    · exact spdmError_keeps h _ _
    · refine spdmReply_keeps ?_ ?_ _ _ _
      · exact h
      · exact h

theorem execKeyExchange_keeps {s0 s : State} (h : Keeps s0 s) (x0 : Transport) (x1 : Nat) (x2 : Word64) : Goes s0 (execKeyExchange x0 x1 x2 s) := by
  unfold execKeyExchange
  refine spdmReady_keeps ?_ ?_ _
  · exact h
  · refine Goes.ite ?_ ?_
    · exact spdmError_keeps h _ _
    · try extract_lets
      refine spdmReply_keeps ?_ ?_ _ _ _
      · exact h
      · try extract_lets
        exact (draw_keeps h).plain

theorem dropSession_keeps {s0 s : State} (h : Keeps s0 s) (x1 : Transport) (x2 : Nat) : Keeps s0 (dropSession s x1 x2) := by
  unfold dropSession
  exact (h).plain

theorem execFinish_keeps {s0 s : State} (h : Keeps s0 s) (x0 : Transport) (x1 : Nat) (x2 : Bool) : Goes s0 (execFinish x0 x1 x2 s) := by
  unfold execFinish
  first | split | (dsimp +zetaDelta only; split)
  · exact spdmError_keeps h _ _
  · refine Goes.ite ?_ ?_
    · exact spdmError_keeps h _ _
    · refine Goes.ite ?_ ?_
      · refine spdmReply_keeps ?_ ?_ _ _ _
        · exact h
        · exact dropSession_keeps h _ _
      · try extract_lets
        refine spdmReply_keeps ?_ ?_ _ _ _
        · exact h
        · exact (dropSession_keeps h _ _).plain

theorem execEndSession_keeps {s0 s : State} (h : Keeps s0 s) (x0 : Transport) (x1 : Nat) : Goes s0 (execEndSession x0 x1 s) := by
  unfold execEndSession
  refine Goes.ite ?_ ?_
  · refine spdmReply_keeps ?_ ?_ _ _ _
    · exact h
    · exact dropSession_keeps h _ _
  · exact spdmError_keeps h _ _

theorem execHeartbeat_keeps {s0 s : State} (h : Keeps s0 s) (x0 : Transport) (x1 : Nat) : Goes s0 (execHeartbeat x0 x1 s) := by
  unfold execHeartbeat
  try extract_lets
  refine Goes.ite ?_ ?_
  · refine spdmReply_keeps ?_ ?_ _ _ _
    · exact h
    · exact (h).plain
  · exact spdmError_keeps h _ _

theorem execEntdaa_keeps {s0 s : State} (h : Keeps s0 s) (x0 : Nat) : Goes s0 (execEntdaa x0 s) := by
  unfold execEntdaa
  refine onlyIf_goes ?_ ?_ _
  · exact h
  · exact (h).plain

theorem execJtagInstruction_keeps {s0 s : State} (h : Keeps s0 s) (x0 : JtagInstr) : Goes s0 (execJtagInstruction x0 s) := by
  unfold execJtagInstruction
  first | split | (dsimp +zetaDelta only; split)
  · exact Goes.refused
  · refine onlyIf_goes ?_ ?_ _
    · exact h
    · exact (h).plain

end Sys2Proof.Laws
end

