-- ==== Sys2Proof/Laws/KeepVector.lean ====
section
/-! SUPPORT. What the operations of Machine/Vector.lean keep (Laws/Keep.lean). -/

namespace Sys2Proof.Laws

open Sys2Proof.Machine

theorem vscriptExec_keeps {s0 s : State} (h : Keeps s0 s) (x1 : Job) (x2 : Active) : Keeps s0 (vscriptExec s x1 x2) := by
  unfold vscriptExec
  first | split | (dsimp +zetaDelta only; split)
  · exact h
  · try extract_lets
    refine Keeps.ite ?_ ?_
    · exact finishExec_keeps h _ _
    · try extract_lets
      exact (putAct_keeps (startAct_keeps h _) _).plain

theorem execVscript_keeps {s0 s : State} (h : Keeps s0 s) (x0 : Sid) : Goes s0 (execVscript x0 s) := by
  unfold execVscript
  refine runAct_keeps ?_ _ _ _ (fun _ _ _ hf => ?_)
  · exact h
  · beta_reduce
    exact vscriptExec_keeps hf _ _

theorem execVscriptRunStart_keeps {s0 s : State} (h : Keeps s0 s) (x0 : Sid) (x1 : Nat) : Goes s0 (execVscriptRunStart x0 x1 s) := by
  unfold execVscriptRunStart
  first | split | (dsimp +zetaDelta only; split)
  · try extract_lets
    refine onlyIf_goes ?_ ?_ _
    · exact h
    · exact putRun_keeps (putAct_keeps (accrue_keeps h _ _) _) _
  · exact Goes.next (h)

theorem execVeInstructionLimit_keeps {s0 s : State} (h : Keeps s0 s) (x0 : Sid) (x1 : Nat) : Goes s0 (execVeInstructionLimit x0 x1 s) := by
  unfold execVeInstructionLimit
  first | split | (dsimp +zetaDelta only; split)
  · refine onlyIf_goes ?_ ?_ _
    · exact h
    · exact afterRun_keeps h _ _
  · exact Goes.next (h)

theorem execSetvl_keeps {s0 s : State} (h : Keeps s0 s) (x0 : Sid) (x1 : Nat) : Goes s0 (execSetvl x0 x1 s) := by
  unfold execSetvl
  exact veRow_keeps h _ _ _ _

theorem execJmp_keeps {s0 s : State} (h : Keeps s0 s) (x0 : Sid) (x1 : Nat) : Goes s0 (execJmp x0 x1 s) := by
  unfold execJmp
  exact veRow_keeps h _ _ _ _

theorem execBzvl_keeps {s0 s : State} (h : Keeps s0 s) (x0 : Sid) (x1 : Nat) : Goes s0 (execBzvl x0 x1 s) := by
  unfold execBzvl
  exact veRow_keeps h _ _ _ _

theorem execBtqe_keeps {s0 s : State} (h : Keeps s0 s) (x0 : Sid) (x1 : Nat) : Goes s0 (execBtqe x0 x1 s) := by
  unfold execBtqe
  exact veRow_keeps h _ _ _ _

theorem execCurrun_keeps {s0 s : State} (h : Keeps s0 s) (x0 : Sid) (x1 : Nat) : Goes s0 (execCurrun x0 x1 s) := by
  unfold execCurrun
  exact veRow_keeps h _ _ _ _

theorem execEndRun_keeps {s0 s : State} (h : Keeps s0 s) (x0 : Sid) (x1 : Nat) : Goes s0 (execEndRun x0 x1 s) := by
  unfold execEndRun
  exact veRow_keeps h _ _ _ _

theorem execSetrm_keeps {s0 s : State} (h : Keeps s0 s) (x0 : Sid) (x1 : Nat) : Goes s0 (execSetrm x0 x1 s) := by
  unfold execSetrm
  exact veRow_keeps h _ _ _ _

theorem execVld_keeps {s0 s : State} (h : Keeps s0 s) (x0 : Sid) (x1 : Nat) : Goes s0 (execVld x0 x1 s) := by
  unfold execVld
  exact veRow_keeps h _ _ _ _

theorem execVst_keeps {s0 s : State} (h : Keeps s0 s) (x0 : Sid) (x1 : Nat) : Goes s0 (execVst x0 x1 s) := by
  unfold execVst
  exact veRow_keeps h _ _ _ _

theorem execVgath_keeps {s0 s : State} (h : Keeps s0 s) (x0 : Sid) (x1 : Nat) : Goes s0 (execVgath x0 x1 s) := by
  unfold execVgath
  exact veRow_keeps h _ _ _ _

theorem execVscat_keeps {s0 s : State} (h : Keeps s0 s) (x0 : Sid) (x1 : Nat) : Goes s0 (execVscat x0 x1 s) := by
  unfold execVscat
  exact veRow_keeps h _ _ _ _

theorem execTqpop_keeps {s0 s : State} (h : Keeps s0 s) (x0 : Sid) (x1 : Nat) : Goes s0 (execTqpop x0 x1 s) := by
  unfold execTqpop
  exact veRow_keeps h _ _ _ _

theorem execVldt_keeps {s0 s : State} (h : Keeps s0 s) (x0 : Sid) (x1 : Nat) : Goes s0 (execVldt x0 x1 s) := by
  unfold execVldt
  exact veRow_keeps h _ _ _ _

theorem execVstt_keeps {s0 s : State} (h : Keeps s0 s) (x0 : Sid) (x1 : Nat) : Goes s0 (execVstt x0 x1 s) := by
  unfold execVstt
  exact veRow_keeps h _ _ _ _

theorem execVmovi_keeps {s0 s : State} (h : Keeps s0 s) (x0 : Sid) (x1 : Nat) : Goes s0 (execVmovi x0 x1 s) := by
  unfold execVmovi
  exact veRow_keeps h _ _ _ _

theorem execVadd_keeps {s0 s : State} (h : Keeps s0 s) (x0 : Sid) (x1 : Nat) : Goes s0 (execVadd x0 x1 s) := by
  unfold execVadd
  exact veRow_keeps h _ _ _ _

theorem execVsub_keeps {s0 s : State} (h : Keeps s0 s) (x0 : Sid) (x1 : Nat) : Goes s0 (execVsub x0 x1 s) := by
  unfold execVsub
  exact veRow_keeps h _ _ _ _

theorem execVmul_keeps {s0 s : State} (h : Keeps s0 s) (x0 : Sid) (x1 : Nat) : Goes s0 (execVmul x0 x1 s) := by
  unfold execVmul
  exact veRow_keeps h _ _ _ _

theorem execVfma_keeps {s0 s : State} (h : Keeps s0 s) (x0 : Sid) (x1 : Nat) : Goes s0 (execVfma x0 x1 s) := by
  unfold execVfma
  exact veRow_keeps h _ _ _ _

theorem execVfnma_keeps {s0 s : State} (h : Keeps s0 s) (x0 : Sid) (x1 : Nat) : Goes s0 (execVfnma x0 x1 s) := by
  unfold execVfnma
  exact veRow_keeps h _ _ _ _

theorem execVdiv_keeps {s0 s : State} (h : Keeps s0 s) (x0 : Sid) (x1 : Nat) : Goes s0 (execVdiv x0 x1 s) := by
  unfold execVdiv
  exact veRow_keeps h _ _ _ _

theorem execVsqrt_keeps {s0 s : State} (h : Keeps s0 s) (x0 : Sid) (x1 : Nat) : Goes s0 (execVsqrt x0 x1 s) := by
  unfold execVsqrt
  exact veRow_keeps h _ _ _ _

theorem execVmin_keeps {s0 s : State} (h : Keeps s0 s) (x0 : Sid) (x1 : Nat) : Goes s0 (execVmin x0 x1 s) := by
  unfold execVmin
  exact veRow_keeps h _ _ _ _

theorem execVmax_keeps {s0 s : State} (h : Keeps s0 s) (x0 : Sid) (x1 : Nat) : Goes s0 (execVmax x0 x1 s) := by
  unfold execVmax
  exact veRow_keeps h _ _ _ _

theorem execVabs_keeps {s0 s : State} (h : Keeps s0 s) (x0 : Sid) (x1 : Nat) : Goes s0 (execVabs x0 x1 s) := by
  unfold execVabs
  exact veRow_keeps h _ _ _ _

theorem execVneg_keeps {s0 s : State} (h : Keeps s0 s) (x0 : Sid) (x1 : Nat) : Goes s0 (execVneg x0 x1 s) := by
  unfold execVneg
  exact veRow_keeps h _ _ _ _

theorem execVcvt_keeps {s0 s : State} (h : Keeps s0 s) (x0 : Sid) (x1 : Nat) : Goes s0 (execVcvt x0 x1 s) := by
  unfold execVcvt
  exact veRow_keeps h _ _ _ _

theorem execVrndi_keeps {s0 s : State} (h : Keeps s0 s) (x0 : Sid) (x1 : Nat) : Goes s0 (execVrndi x0 x1 s) := by
  unfold execVrndi
  exact veRow_keeps h _ _ _ _

theorem execVand_keeps {s0 s : State} (h : Keeps s0 s) (x0 : Sid) (x1 : Nat) : Goes s0 (execVand x0 x1 s) := by
  unfold execVand
  exact veRow_keeps h _ _ _ _

theorem execVor_keeps {s0 s : State} (h : Keeps s0 s) (x0 : Sid) (x1 : Nat) : Goes s0 (execVor x0 x1 s) := by
  unfold execVor
  exact veRow_keeps h _ _ _ _

theorem execVxor_keeps {s0 s : State} (h : Keeps s0 s) (x0 : Sid) (x1 : Nat) : Goes s0 (execVxor x0 x1 s) := by
  unfold execVxor
  exact veRow_keeps h _ _ _ _

theorem execVshl_keeps {s0 s : State} (h : Keeps s0 s) (x0 : Sid) (x1 : Nat) : Goes s0 (execVshl x0 x1 s) := by
  unfold execVshl
  exact veRow_keeps h _ _ _ _

theorem execVshr_keeps {s0 s : State} (h : Keeps s0 s) (x0 : Sid) (x1 : Nat) : Goes s0 (execVshr x0 x1 s) := by
  unfold execVshr
  exact veRow_keeps h _ _ _ _

theorem execVexp2_keeps {s0 s : State} (h : Keeps s0 s) (x0 : Sid) (x1 : Nat) : Goes s0 (execVexp2 x0 x1 s) := by
  unfold execVexp2
  exact veRow_keeps h _ _ _ _

theorem execVlog2_keeps {s0 s : State} (h : Keeps s0 s) (x0 : Sid) (x1 : Nat) : Goes s0 (execVlog2 x0 x1 s) := by
  unfold execVlog2
  exact veRow_keeps h _ _ _ _

theorem execVrcp_keeps {s0 s : State} (h : Keeps s0 s) (x0 : Sid) (x1 : Nat) : Goes s0 (execVrcp x0 x1 s) := by
  unfold execVrcp
  exact veRow_keeps h _ _ _ _

theorem execVrsq_keeps {s0 s : State} (h : Keeps s0 s) (x0 : Sid) (x1 : Nat) : Goes s0 (execVrsq x0 x1 s) := by
  unfold execVrsq
  exact veRow_keeps h _ _ _ _

theorem execVtanh_keeps {s0 s : State} (h : Keeps s0 s) (x0 : Sid) (x1 : Nat) : Goes s0 (execVtanh x0 x1 s) := by
  unfold execVtanh
  exact veRow_keeps h _ _ _ _

theorem execVcmp_keeps {s0 s : State} (h : Keeps s0 s) (x0 : Sid) (x1 : Nat) : Goes s0 (execVcmp x0 x1 s) := by
  unfold execVcmp
  exact veRow_keeps h _ _ _ _

theorem execMand_keeps {s0 s : State} (h : Keeps s0 s) (x0 : Sid) (x1 : Nat) : Goes s0 (execMand x0 x1 s) := by
  unfold execMand
  exact veRow_keeps h _ _ _ _

theorem execMor_keeps {s0 s : State} (h : Keeps s0 s) (x0 : Sid) (x1 : Nat) : Goes s0 (execMor x0 x1 s) := by
  unfold execMor
  exact veRow_keeps h _ _ _ _

theorem execMnot_keeps {s0 s : State} (h : Keeps s0 s) (x0 : Sid) (x1 : Nat) : Goes s0 (execMnot x0 x1 s) := by
  unfold execMnot
  exact veRow_keeps h _ _ _ _

theorem execVsel_keeps {s0 s : State} (h : Keeps s0 s) (x0 : Sid) (x1 : Nat) : Goes s0 (execVsel x0 x1 s) := by
  unfold execVsel
  exact veRow_keeps h _ _ _ _

theorem execRsum_keeps {s0 s : State} (h : Keeps s0 s) (x0 : Sid) (x1 : Nat) : Goes s0 (execRsum x0 x1 s) := by
  unfold execRsum
  exact veRow_keeps h _ _ _ _

theorem execRssq_keeps {s0 s : State} (h : Keeps s0 s) (x0 : Sid) (x1 : Nat) : Goes s0 (execRssq x0 x1 s) := by
  unfold execRssq
  exact veRow_keeps h _ _ _ _

theorem execRmax_keeps {s0 s : State} (h : Keeps s0 s) (x0 : Sid) (x1 : Nat) : Goes s0 (execRmax x0 x1 s) := by
  unfold execRmax
  exact veRow_keeps h _ _ _ _

theorem execRmin_keeps {s0 s : State} (h : Keeps s0 s) (x0 : Sid) (x1 : Nat) : Goes s0 (execRmin x0 x1 s) := by
  unfold execRmin
  exact veRow_keeps h _ _ _ _

theorem execRamax_keeps {s0 s : State} (h : Keeps s0 s) (x0 : Sid) (x1 : Nat) : Goes s0 (execRamax x0 x1 s) := by
  unfold execRamax
  exact veRow_keeps h _ _ _ _

theorem execRget_keeps {s0 s : State} (h : Keeps s0 s) (x0 : Sid) (x1 : Nat) : Goes s0 (execRget x0 x1 s) := by
  unfold execRget
  exact veRow_keeps h _ _ _ _

theorem execRbcast_keeps {s0 s : State} (h : Keeps s0 s) (x0 : Sid) (x1 : Nat) : Goes s0 (execRbcast x0 x1 s) := by
  unfold execRbcast
  exact veRow_keeps h _ _ _ _

theorem execRset_keeps {s0 s : State} (h : Keeps s0 s) (x0 : Sid) (x1 : Nat) : Goes s0 (execRset x0 x1 s) := by
  unfold execRset
  exact veRow_keeps h _ _ _ _

end Sys2Proof.Laws
end

