-- ==== Sys2Proof/Laws/Script.lean ====
section
/-! SUPPORT. What the rows of the vector engine do to a run: one lemma for a row that goes on, and the lemmas of registers and masks. -/

namespace Sys2Proof.Laws

open Sys2Proof.Machine

/-- A run found under an ID and an index has them. -/
theorem runOf_sid {s : State} {sid : Sid} {n : Nat} {r : Run} (h : runOf s sid n = some r) : r.sid = sid ∧ r.index = n := by
  have := List.find?_some h
  simpa using this

/-- A stored run is found again. -/
theorem runOf_putRun {l : List Run} {sid : Sid} {n : Nat} {r q : Run} (h : l.find? (fun r => r.sid == sid && r.index == n) = some r) (h1 : q.sid = sid) (h2 : q.index = n) :
    (l.map fun x => if x.sid == q.sid && x.index == q.index then q else x).find? (fun r => r.sid == sid && r.index == n) = some q := by
  induction l with
  | nil => cases h
  | cons x l ih =>
    rw [List.map_cons, List.find?_cons]
    rw [List.find?_cons] at h
    by_cases e : (x.sid == sid && x.index == n) = true
    · simp [h1, h2, e]
    · simp only [e] at h
      simp only [h1, h2, e, Bool.false_eq_true, if_false]
      simpa [h1, h2] using ih h

/-- A row whose instruction stands next runs it. -/
theorem veRow_of_stands {s : State} {sid : Sid} {n op : Nat} {j : Job} {a : Active} {r : Run} (h : Stands s sid n op j a r) (f : VeEnv → Run → Option VeRes)
    (x : VeRes) (hx : f (envOf s j a r) r = some x) : veRow sid n op s f = .next (veApply (envOf s j a r) r x) := by
  obtain ⟨h1, h2, h3, h4⟩ := h
  simp only [envOf] at h4
  unfold veRow
  rw [h1, h2]
  dsimp only
  rw [h3]
  dsimp only
  rw [if_pos h4]
  simp only [envOf] at hx
  rw [hx]
  rfl

/-- Reaching a range drains entries and nothing else. -/
theorem reachRange_mem (s : State) (a n : Nat) : reachRange s a n = { s with mem := (reachRange s a n).mem } := rfl

theorem reachDescs_mem (l : List Desc) (s : State) : l.foldl reachDesc s = { s with mem := (l.foldl reachDesc s).mem } := by
  induction l generalizing s with
  | nil => rfl
  | cons x l ih => rw [List.foldl_cons, ih]; rfl

theorem reachOperand_mem (s : State) (j : Job) (o : Operand) : reachOperand s j o = { s with mem := (reachOperand s j o).mem } := by
  unfold reachOperand
  split
  · rw [reachDescs_mem]; cases recordFor j o.desc.handle <;> rfl
  · rw [reachDescs_mem]; rfl

/-- A load's drain changes nothing but memory. -/
theorem reachLoads_mem (s : State) (j : Job) (a : Active) (w : VeWord) : reachLoads s j a w = { s with mem := (reachLoads s j a w).mem } := by
  unfold reachLoads
  dsimp only
  split
  · cases opnd a (if w.op = 0x12 then w.sb else w.sa) with
    | none => rfl
    | some o => exact reachOperand_mem s j o
  · rfl

/-- An instruction that loads from no tensor drains nothing. -/
theorem reachLoads_of (s : State) (j : Job) (a : Active) (w : VeWord) (h : (w.op = 0x10 || w.op = 0x12 || w.op = 0x15) = false) : reachLoads s j a w = s := by
  unfold reachLoads
  dsimp only
  rw [h]; rfl

/-- Memory in its form reads alike in two states. -/
def ReadsAlike (s u : State) : Prop :=
  (Memory.wf s.mem.bytes = true → Memory.wcbOk s.mem.wcb = true → Memory.wf u.mem.bytes = true ∧ Memory.wcbOk u.mem.wcb = true ∧
    ∀ x, frameRetired s.mem x = false → frameRetired u.mem x = false ∧ memByte u.mem x = memByte s.mem x)

theorem ReadsAlike.refl (s : State) : ReadsAlike s s := fun h k => ⟨h, k, fun _ r => ⟨r, rfl⟩⟩

theorem ReadsAlike.trans {s u v : State} (a : ReadsAlike s u) (b : ReadsAlike u v) : ReadsAlike s v := fun h k => by
  obtain ⟨h1, k1, f1⟩ := a h k
  obtain ⟨h2, k2, f2⟩ := b h1 k1
  exact ⟨h2, k2, fun x r => ⟨(f2 x (f1 x r).1).1, (f2 x (f1 x r).1).2.trans (f1 x r).2⟩⟩

theorem readsAlike_foldl {α : Type} (f : State → α → State) (h : ∀ s x, ReadsAlike s (f s x)) (l : List α) (s : State) : ReadsAlike s (l.foldl f s) := by
  induction l generalizing s with
  | nil => exact .refl s
  | cons x l ih => exact (h s x).trans (ih _)

/-- Reaching a range changes no byte that a reader finds. -/
theorem reachRange_reads (s : State) (a n : Nat) : ReadsAlike s (reachRange s a n) := fun h k => by
  have m := drainIf_keeps (MKeeps.refl s.mem) fun e => a < e.granule + 64 && e.granule < a + n
  refine ⟨m.1 h, m.2 k, fun x r => ⟨?_, memByte_drainIf _ _ _ h k r⟩⟩
  have hret : ∀ (l : List WcbEntry) (m : Mem), (l.foldl drainEntry m).retired = m.retired := by
    intro l
    induction l with
    | nil => exact fun _ => rfl
    | cons e r ih => exact fun m => (ih _).trans (drainEntry_retired m e)
  exact (frameRetired_congr (hret _ s.mem) x).trans r

theorem reachOperand_reads (s : State) (j : Job) (o : Operand) : ReadsAlike s (reachOperand s j o) := by
  unfold reachOperand
  split
  · refine ReadsAlike.trans ?_ (readsAlike_foldl _ (fun _ _ => reachRange_reads _ _ _) _ _)
    cases recordFor j o.desc.handle with
    | none => exact .refl s
    | some r => exact reachRange_reads _ _ _
  · exact ReadsAlike.trans (reachRange_reads _ _ _) (readsAlike_foldl _ (fun _ _ => reachRange_reads _ _ _) _ _)

/-- What a load drains changes no byte that a reader finds. -/
theorem reachLoads_reads (s : State) (j : Job) (a : Active) (w : VeWord) : ReadsAlike s (reachLoads s j a w) := by
  unfold reachLoads
  dsimp only
  split
  · cases opnd a (if w.op = 0x12 then w.sb else w.sa) with
    | none => exact .refl s
    | some o => exact reachOperand_reads _ _ _
  · exact .refl s

/-- The state that an instruction other than a load sees. -/
theorem envOf_s {s : State} {sid : Sid} {n op : Nat} {j : Job} {a : Active} {r : Run} (h : Stands s sid n op j a r) (ho : (op = 0x10 || op = 0x12 || op = 0x15) = false) :
    (envOf s j a r).s = s := by
  refine reachLoads_of _ _ _ _ ?_
  have := h.2.2.2
  simp only [Bool.and_eq_true, beq_iff_eq] at this
  have e : (parseVe (a.script.getD r.pc 0)).op = op := this.1.2
  rw [e]; exact ho

/-- An instruction that neither faults nor stops leaves its run before the next one. -/
theorem veApply_goes {s : State} {sid : Sid} {n : Nat} {j : Job} {a : Active} {r : Run} (h : runOf s sid n = some r) (x : VeRes) (hf : x.fault = none) (hs : x.stop = false)
    (hp : x.jump.getD (r.pc + 1) < a.script.length) (hr : x.run.sid = r.sid ∧ x.run.index = r.index) (he : x.run.executed = r.executed)
    (hst : x.run.state = .running) :
    RunIs (envOf s j a r).s (veApply (envOf s j a r) r x) sid n (went x.run (x.jump.getD (r.pc + 1))) := by
  obtain ⟨e1, e2⟩ := runOf_sid h
  have hn : ¬ a.script.length ≤ x.jump.getD (r.pc + 1) := by omega
  have hq : ({ x.run with executed := r.executed + 1, pc := x.jump.getD (r.pc + 1), state := if (x.stop || decide (a.script.length ≤ x.jump.getD (r.pc + 1))) = true then .ended else .running } : Run)
      = went x.run (x.jump.getD (r.pc + 1)) := by
    rw [hs, decide_eq_false hn]
    simp only [went, he]
    cases hh : x.run
    rw [hh] at hst
    simp_all
  have hm : (envOf s j a r).s = { s with mem := (envOf s j a r).s.mem } := reachLoads_mem ..
  have hap : ∀ u : State, u.runs = s.runs → u = { (envOf s j a r).s with acts := u.acts, free := u.free } →
      RunIs (envOf s j a r).s (afterRun u a (went x.run (x.jump.getD (r.pc + 1)))) sid n (went x.run (x.jump.getD (r.pc + 1))) := by
    intro u hu hu2
    have : (went x.run (x.jump.getD (r.pc + 1))).state = .running := hst
    unfold afterRun
    rw [this]
    refine ⟨?_, ?_⟩
    · show (u.runs.map _).find? _ = _
      rw [hu]
      exact runOf_putRun h (hr.1.trans e1) (hr.2.trans e2)
    · show putRun u _ = _
      unfold putRun
      rw [hu2]; rfl
  unfold veApply
  rw [hf]
  dsimp only
  rw [show (envOf s j a r).a = a from rfl, hq]
  apply hap
  · rw [hm]; cases x.draws <;> cases x.popped <;> cases h : (envOf s j a r).prod <;> rfl
  · cases x.draws <;> cases x.popped <;> cases h : (envOf s j a r).prod <;> rfl

/-- The two together: what a row does when its instruction goes on. -/
theorem veRow_goes {s : State} {sid : Sid} {n op : Nat} {j : Job} {a : Active} {r : Run} (h : Stands s sid n op j a r) (f : VeEnv → Run → Option VeRes)
    (x : VeRes) (hx : f (envOf s j a r) r = some x) (hf : x.fault = none) (hs : x.stop = false)
    (hp : x.jump.getD (r.pc + 1) < a.script.length) (hr : x.run.sid = r.sid ∧ x.run.index = r.index) (he : x.run.executed = r.executed)
    (hst : x.run.state = r.state) :
    ∃ t, veRow sid n op s f = .next t ∧ RunIs (envOf s j a r).s t sid n (went x.run (x.jump.getD (r.pc + 1))) :=
  ⟨_, veRow_of_stands h f x hx, veApply_goes h.2.1 x hf hs hp hr he (by
    have := h.2.2.2
    simp only [Bool.and_eq_true, beq_iff_eq] at this
    exact hst.trans this.1.1.1.1)⟩

/-- The same for an instruction that loads from no tensor. -/
theorem veRow_goes_plain {s : State} {sid : Sid} {n op : Nat} {j : Job} {a : Active} {r : Run} (h : Stands s sid n op j a r) (ho : (op = 0x10 || op = 0x12 || op = 0x15) = false)
    (f : VeEnv → Run → Option VeRes) (x : VeRes) (hx : f (envOf s j a r) r = some x) (hf : x.fault = none) (hs : x.stop = false)
    (hp : x.jump.getD (r.pc + 1) < a.script.length) (hr : x.run.sid = r.sid ∧ x.run.index = r.index) (he : x.run.executed = r.executed)
    (hst : x.run.state = r.state) :
    ∃ t, veRow sid n op s f = .next t ∧ RunIs s t sid n (went x.run (x.jump.getD (r.pc + 1))) := by
  have := veRow_goes h f x hx hf hs hp hr he hst
  rw [envOf_s h ho] at this
  exact this

/-- Writing an element touches the registers and their poison marks. -/
theorem putEl_fields (r : Run) (ty reg i v : Nat) (b : Bool) : putEl r ty reg i v b = { r with vec := (putEl r ty reg i v b).vec, badVec := (putEl r ty reg i v b).badVec } := rfl

/-- Writing elements touches the registers, their poison marks and the flags. -/
theorem putEls_fields (r : Run) (ty reg : Nat) (l : List (Nat × Nat × BitVec 8 × Bool)) :
    putEls r ty reg l = { r with vec := (putEls r ty reg l).vec, badVec := (putEls r ty reg l).badVec, flags := l.foldl (fun f e => f ||| e.2.2.1) r.flags } := by
  have : ∀ (l : List (Nat × Nat × BitVec 8 × Bool)) (r : Run), l.foldl (fun r e => putEl r ty reg e.1 e.2.1 e.2.2.2) r =
      { r with vec := (l.foldl (fun r e => putEl r ty reg e.1 e.2.1 e.2.2.2) r).vec, badVec := (l.foldl (fun r e => putEl r ty reg e.1 e.2.1 e.2.2.2) r).badVec } := by
    intro l
    induction l with
    | nil => intro r; rfl
    | cons x l ih => intro r; rw [List.foldl_cons, ih]; rfl
  unfold putEls
  dsimp only
  rw [this]

/-- A 32-bit element written reads as written; every other stays. -/
theorem regWord_putEl (r : Run) (ty reg i v d k : Nat) (b : Bool) (hr : rising r.vec = true) (ht : ty ≠ 1) (hi : i < 4096) (hk : k < 4096) :
    regWord (putEl r ty reg i v b) d k = (if d = reg ∧ k = i then v % 2 ^ 32 else regWord r d k) ∧ rising (putEl r ty reg i v b).vec = true := by
  have hkey : ∀ {a b c e : Nat}, b < 4096 → e < 4096 → (a * 4096 + b = c * 4096 + e ↔ a = c ∧ b = e) := by intros; omega
  unfold regWord putEl
  simp only [ht, if_false]
  split
  · next hz =>
    refine ⟨?_, rising_tdel _ _ hr⟩
    unfold tgetD
    rw [tget_tdel _ _ _ hr]
    by_cases e : d = reg ∧ k = i
    · rw [if_pos e, hz, e.1, e.2, if_pos rfl]; rfl
    · have : ¬ (reg * 4096 + i = d * 4096 + k) := by rw [hkey hi hk]; intro h; exact e ⟨h.1.symm, h.2.symm⟩
      rw [if_neg this, if_neg e]
  · refine ⟨?_, rising_tset _ _ _ hr⟩
    unfold tgetD
    rw [tget_tset]
    by_cases e : d = reg ∧ k = i
    · simp [e]
    · have : ¬ (reg * 4096 + i = d * 4096 + k) := by rw [hkey hi hk]; intro h; exact e ⟨h.1.symm, h.2.symm⟩
      rw [if_neg this, if_neg e]

/-- The same for a list of elements. -/
theorem regWord_putEls (r : Run) (ty reg d k : Nat) (is : List Nat) (val : Nat → Nat) (fl : Nat → BitVec 8) (bad : Nat → Bool) (hr : rising r.vec = true) (ht : ty ≠ 1)
    (hi : ∀ i ∈ is, i < 4096) (hk : k < 4096) :
    regWord (putEls r ty reg (is.map fun i => (i, val i, fl i, bad i))) d k = (if d = reg ∧ k ∈ is then val k % 2 ^ 32 else regWord r d k) := by
  have : ∀ (is : List Nat) (r : Run), rising r.vec = true → (∀ i ∈ is, i < 4096) →
      regWord ((is.map fun i => (i, val i, fl i, bad i)).foldl (fun r e => putEl r ty reg e.1 e.2.1 e.2.2.2) r) d k = (if d = reg ∧ k ∈ is then val k % 2 ^ 32 else regWord r d k) := by
    intro is
    induction is with
    | nil => intro r _ _; simp
    | cons i l ih =>
      intro r hr hi
      have h1 := regWord_putEl r ty reg i (val i) d k (bad i) hr ht (hi i (List.mem_cons_self ..)) hk
      rw [List.map_cons, List.foldl_cons, ih _ h1.2 fun x hx => hi x (List.mem_cons_of_mem _ hx), h1.1]
      by_cases e : d = reg ∧ k ∈ l
      · rw [if_pos e, if_pos ⟨e.1, List.mem_cons_of_mem _ e.2⟩]
      · rw [if_neg e]
        by_cases e2 : d = reg ∧ k = i
        · rw [if_pos e2, if_pos ⟨e2.1, by rw [e2.2]; exact List.mem_cons_self ..⟩, e2.2]
        · rw [if_neg e2, if_neg]
          rintro ⟨a, b⟩
          rcases List.mem_cons.1 b with b | b
          · exact e2 ⟨a, b⟩
          · exact e ⟨a, b⟩
  exact this is r hr hi

/-- An element written reads as written under its type; every other stays. -/
theorem getEl_putEl (r : Run) (ty reg i v d k : Nat) (b : Bool) (hr : rising r.vec = true) (hi : i < 4096) (hk : k < 4096) :
    getEl (putEl r ty reg i v b) ty d k = (if d = reg ∧ k = i then v % 2 ^ elBits ty else getEl r ty d k) ∧ rising (putEl r ty reg i v b).vec = true := by
  by_cases ht : ty = 1
  · subst ht
    have hb : ∀ x, elBits 1 = x ↔ x = 16 := fun x => by unfold elBits; simp [eq_comm]
    rw [(hb 16).2 rfl]
    generalize ho : (tgetD r.vec (reg * 4096 + i / 2) 0).toNat = o
    have hol : o < 2 ^ 32 := by rw [← ho]; exact BitVec.isLt _
    generalize hw : (if i % 2 = 0 then o / 65536 * 65536 + v % 65536 else v % 65536 * 65536 + o % 65536) = w
    have hwl : w < 2 ^ 32 := by rw [← hw]; split <;> omega
    have hvec : (putEl r 1 reg i v b).vec = if w % 2 ^ 32 = 0 then tdel r.vec (reg * 4096 + i / 2) else tset r.vec (reg * 4096 + i / 2) (BitVec.ofNat 32 w) := by
      unfold putEl
      simp only [if_true, ho, hw]
    have hword : ∀ c e, e < 2048 → regWord (putEl r 1 reg i v b) c e = if c = reg ∧ e = i / 2 then w else regWord r c e := by
      intro c e he
      have key : reg * 4096 + i / 2 = c * 4096 + e ↔ c = reg ∧ e = i / 2 := by constructor <;> intro h <;> omega
      unfold regWord tgetD
      rw [hvec]
      split
      · next hz =>
        rw [tget_tdel _ _ _ hr]
        by_cases q : c = reg ∧ e = i / 2
        · rw [if_pos (key.2 q), if_pos q]
          have : w = 0 := by omega
          simp [this]
        · rw [if_neg (fun h => q (key.1 h)), if_neg q]
      · rw [tget_tset]
        by_cases q : c = reg ∧ e = i / 2
        · rw [if_pos (key.2 q), if_pos q]
          simp only [Option.getD_some, BitVec.toNat_ofNat]
          exact Nat.mod_eq_of_lt hwl
        · rw [if_neg (fun h => q (key.1 h)), if_neg q]
    refine ⟨?_, ?_⟩
    · unfold getEl
      simp only [if_true]
      rw [hword d (k / 2) (by omega)]
      have ho2 : regWord r reg (i / 2) = o := ho
      by_cases q : d = reg ∧ k = i
      · rw [if_pos q, if_pos ⟨q.1, by rw [q.2]⟩, q.2, ← hw]
        unfold bits
        rcases Nat.mod_two_eq_zero_or_one i with h | h <;> rw [h] <;> simp <;> omega
      · rw [if_neg q]
        by_cases q2 : d = reg ∧ k / 2 = i / 2
        · rw [if_pos q2, q2.1, q2.2, ho2, ← hw]
          have hne : k ≠ i := fun h => q ⟨q2.1, h⟩
          unfold bits
          rcases Nat.mod_two_eq_zero_or_one i with h | h <;> rcases Nat.mod_two_eq_zero_or_one k with h' | h' <;> (try exfalso; omega) <;> rw [h, h'] <;> simp <;> omega
        · rw [if_neg q2]
    · rw [hvec]
      split
      · exact rising_tdel _ _ hr
      · exact rising_tset _ _ _ hr
  · have h := regWord_putEl r ty reg i v d k b hr ht hi hk
    have e : elBits ty = 32 := if_neg ht
    refine ⟨?_, h.2⟩
    unfold getEl
    rw [if_neg ht, if_neg ht, e]
    exact h.1

/-- The same for a list of elements. -/
theorem getEl_putEls (r : Run) (ty reg d k : Nat) (is : List Nat) (val : Nat → Nat) (fl : Nat → BitVec 8) (bad : Nat → Bool) (hr : rising r.vec = true)
    (hi : ∀ i ∈ is, i < 4096) (hk : k < 4096) :
    getEl (putEls r ty reg (is.map fun i => (i, val i, fl i, bad i))) ty d k = (if d = reg ∧ k ∈ is then val k % 2 ^ elBits ty else getEl r ty d k) := by
  have : ∀ (is : List Nat) (r : Run), rising r.vec = true → (∀ i ∈ is, i < 4096) →
      getEl ((is.map fun i => (i, val i, fl i, bad i)).foldl (fun r e => putEl r ty reg e.1 e.2.1 e.2.2.2) r) ty d k = (if d = reg ∧ k ∈ is then val k % 2 ^ elBits ty else getEl r ty d k) := by
    intro is
    induction is with
    | nil => intro r _ _; simp
    | cons i l ih =>
      intro r hr hi
      have h1 := getEl_putEl r ty reg i (val i) d k (bad i) hr (hi i (List.mem_cons_self ..)) hk
      rw [List.map_cons, List.foldl_cons, ih _ h1.2 fun x hx => hi x (List.mem_cons_of_mem _ hx), h1.1]
      by_cases e : d = reg ∧ k ∈ l
      · rw [if_pos e, if_pos ⟨e.1, List.mem_cons_of_mem _ e.2⟩]
      · rw [if_neg e]
        by_cases e2 : d = reg ∧ k = i
        · rw [if_pos e2, if_pos ⟨e2.1, by rw [e2.2]; exact List.mem_cons_self ..⟩, e2.2]
        · rw [if_neg e2, if_neg]
          rintro ⟨a, b⟩
          rcases List.mem_cons.1 b with b | b
          · exact e2 ⟨a, b⟩
          · exact e ⟨a, b⟩
  exact this is r hr hi

/-- Folding no flag adds none. -/
theorem foldl_or_zero (l : List Nat) (f : BitVec 8) : l.foldl (fun f (_ : Nat) => f ||| 0) f = f := by
  induction l generalizing f with
  | nil => rfl
  | cons x l ih => rw [List.foldl_cons, ih]; simp

/-- An INT32 element is a register word. -/
theorem getEl2 (r : Run) (d i) : getEl r 2 d i = regWord r d i := rfl

/-- An FP32 element is a register word. -/
theorem getEl0 (r : Run) (d i) : getEl r 0 d i = regWord r d i := rfl

/-- A code lies below the power of its width. -/
theorem unsigned_lt (w : Nat) (x : Int) : unsigned w x < 2 ^ w := by
  unfold unsigned
  have h : (0 : Int) < ((2 ^ w : Nat) : Int) := by positivity
  have := Int.emod_lt_of_pos x h
  have := Int.emod_nonneg x (ne_of_gt h)
  omega

/-- The general elementwise step; the destination's type is the word's. -/
theorem veMap_goes {s : State} {sid : Sid} {n op : Nat} {j : Job} {a : Active} {r : Run} (h : Amid s sid n op j a r) (ho : (op = 0x10 || op = 0x12 || op = 0x15) = false) (ub uc : Bool) (dty : VeWord → Nat) (dr : VeWord → Bool)
    (f : VeEnv → Mode → ElArgs → Nat × BitVec 8) (hr : rising r.vec = true) (hv : r.vl ≤ 4096) :
    let w := (envOf s j a r).w
    let val (i : Nat) := f (envOf s j a r) (modeOf a r) { a := getEl r w.ty w.sa i, b := srcB r w i, c := getEl r w.ty w.sc i, idx := i }
    ∃ t q, veRow sid n op s (veMap ub uc dty dr f) = .next t ∧ RunIs s t sid n (went q (r.pc + 1)) ∧
      q = { r with vec := q.vec, badVec := q.badVec, flags := (activeEls r w).foldl (fun f i => f ||| (val i).2) r.flags } ∧
      ∀ d i, i < 4096 → getEl q (dty w) d i = if d = w.dst ∧ i ∈ activeEls r w then (val i).1 % 2 ^ elBits (dty w) else getEl r (dty w) d i := by
  intro w val
  have hact : ∀ i ∈ activeEls r w, i < 4096 := fun i hi => by
    have := (List.mem_filter.1 hi).1
    have := List.mem_range.1 this
    omega
  obtain ⟨t, h1, h2⟩ := veRow_goes_plain h.1 ho (veMap ub uc dty dr f) _ rfl rfl rfl h.2 (by rw [putEls_fields]; exact ⟨rfl, rfl⟩) (by rw [putEls_fields]) (by rw [putEls_fields])
  refine ⟨t, _, h1, h2, ?_, fun d i hi => ?_⟩
  · refine (putEls_fields ..).trans ?_
    rw [List.foldl_map]
    rfl
  · exact getEl_putEls r _ _ d i (activeEls r w) (fun i => (val i).1) (fun i => (val i).2) _ hr hact hi

/-- Membership after an insertion. -/
theorem ninsert_contains (l : List Nat) (k x : Nat) : (ninsert l k).contains x = (x == k || l.contains x) := by
  induction l with
  | nil => simp [ninsert]; rfl
  | cons i r ih =>
    simp only [ninsert]
    split
    · simp only [List.contains_cons]
    · split
      · next h => subst h; simp; intro h; exact Or.inl h
      · simp only [List.contains_cons, ih]; cases x == i <;> cases x == k <;> simp

/-- A mask bit written reads as written; every other stays. -/
theorem maskAt_putMask (r : Run) (m i : Nat) (v bad : Bool) (d k : Nat) (hi : i < 4096) (hk : k < 4096) :
    maskAt (putMask r m i v bad) d k = if d = m ∧ k = i then v else maskAt r d k := by
  have hkey : d * 4096 + k = m * 4096 + i ↔ d = m ∧ k = i := by omega
  unfold maskAt putMask markIf
  cases v
  · by_cases e : d = m ∧ k = i
    · rw [if_pos e]
      simp [hkey.2 e]
    · rw [if_neg e]
      have : d * 4096 + k ≠ m * 4096 + i := fun h => e (hkey.1 h)
      simp only [Bool.false_eq_true, if_false]
      rw [Bool.eq_iff_iff]
      simp [List.mem_filter, this]
  · simp only [if_true, List.foldl_cons, List.foldl_nil, ninsert_contains]
    by_cases e : d = m ∧ k = i
    · rw [if_pos e]; simp [hkey.2 e]
    · rw [if_neg e]
      have : d * 4096 + k ≠ m * 4096 + i := fun h => e (hkey.1 h)
      simp [this]

/-- The same for a list of mask bits. -/
theorem putMasks_spec (m : Nat) (is : List Nat) (g b : Nat → Bool) : ∀ r : Run, (∀ i ∈ is, i < 4096) →
    (let q := putMasks r m (is.map fun i => (i, g i, b i)); q = { r with masks := q.masks, badMask := q.badMask } ∧
      ∀ d k, k < 4096 → maskAt q d k = if d = m ∧ k ∈ is then g k else maskAt r d k) := by
  induction is with
  | nil => intro r _; exact ⟨rfl, fun d k _ => by simp [putMasks]⟩
  | cons i l ih =>
    intro r hi
    obtain ⟨h1, h2⟩ := ih (putMask r m i (g i) (b i)) fun x hx => hi x (List.mem_cons_of_mem _ hx)
    have e : putMasks r m ((i :: l).map fun i => (i, g i, b i)) = putMasks (putMask r m i (g i) (b i)) m (l.map fun i => (i, g i, b i)) := rfl
    dsimp only
    rw [e]
    refine ⟨h1.trans rfl, fun d k hk => ?_⟩
    rw [h2 d k hk, maskAt_putMask _ _ _ _ _ _ _ (hi i (List.mem_cons_self ..)) hk]
    by_cases e1 : d = m ∧ k ∈ l
    · rw [if_pos e1, if_pos ⟨e1.1, List.mem_cons_of_mem _ e1.2⟩]
    · rw [if_neg e1]
      by_cases e2 : d = m ∧ k = i
      · rw [if_pos e2, if_pos ⟨e2.1, by rw [e2.2]; exact List.mem_cons_self ..⟩, e2.2]
      · rw [if_neg e2, if_neg]
        rintro ⟨x, y⟩
        rcases List.mem_cons.1 y with y | y
        · exact e2 ⟨x, y⟩
        · exact e1 ⟨x, y⟩

end Sys2Proof.Laws
end

