-- ==== Sys2Proof/Tests/Slice0.lean ====
section
/-! SUPPORT. Tests: ill-formed commands are refused by the checks, single steps on small states with values from the spec, and for every
statement with hypotheses a concrete state and operands that meet them, clause by clause (the theorems named witness_). -/

namespace Sys2Proof.Tests

open Sys2Proof Sys2Proof.Machine

set_option maxRecDepth 4000
set_option Elab.async false

/-! ### Small states -/

/-- A part with rails up, the link up and Ohmub ready. -/
def up : State :=
  { hub := { phase := 1 }, pwr := { railsOn := true, pwrEn := true, perstN := true, strapsLatched := true, inputMv := 48000 }, clk := { now := 20000000 } }
/-- A job of page 1 with four pins. -/
def job1 : Job := { id := 1, page := 1, pinCount := 4, pins := [(2, 7)] }
def jobUp : State := { up with jobs := [(1, job1)] }
/-- A queue of the job with an all-zero ring. -/
def queue5 : Queue := { job := 1, ringBase := 0x10000, tail := 1, state := .running, free := 64 }
def queueUp : State := { jobUp with queues := [(5, queue5)] }
/-- An admitted stitch of an opcode, and the part with it alone. -/
def act (op : Nat) : Active := { sid := 9, job := 1, queue := 5, st := { opcode := op } }
def actUp (a : Active) : State := { queueUp with acts := [a] }
/-- A run of a script of two equal words. -/
def run0 : Run := { sid := 9, state := .running, vl := 2 }
def word (op ty dst sa sb sc imm : Nat) : Word64 :=
  BitVec.ofNat 64 (op * 2 ^ 56 + dst * 2 ^ 52 + sa * 2 ^ 48 + sb * 2 ^ 44 + sc * 2 ^ 40 + ty * 2 ^ 34 + imm)
def scriptAct (w : Word64) : Active := { act opVscript with stage := .running, script := [w, w], runsLeft := 1, nibs := [(0, 0)] }
def runUp (w : Word64) (r : Run) : State := { actUp (scriptAct w) with runs := [r] }
/-- An UP port. -/
def upPort (x : Port) : State := { up with fab := { station := 3, portEn := 1, ports := [(0, { x with lstate := .up })] } }
/-- A request standing on page 0 (page 1 for a job's own) and taken. -/
def asks (s : State) (p : Nat) (r : Request) : State := { s with hub := { s.hub with pages := [(p, { mbState := 1, taken := some r })] } }
def req (op : Nat) (payload : List Byte) : Request := { opcode := op, job := 1, payload := payload }
/-- A header from station 7 to station 3. -/
def hdr7 : MsgHdr := { dst := 3, rdst := 3, src := 7, hops := 0, tag := 0, sdie := 0, mtype := .write, fjk := 0, epoch := 0, len := 0, arg := 0 }

/-! ### Ill-formed commands -/

theorem test_wf_good : (Instr.stitchAdmit 1048575).wf = true ∧ (Instr.mbRing 63).wf = true ∧ (Instr.strapLatch 63 15).wf = true := by decide
theorem test_wf_queue : (Instr.stitchAdmit 1048576).wf = false := by decide
theorem test_wf_job : (Instr.stepReplay 4096).wf = false := by decide
theorem test_wf_vote : (Instr.commitVoteResult 1 { step := 0, replay := false, halt := false, levels := [(0, 4)] }).wf = false := by decide
theorem test_wf_handle : (Instr.stashMoveComplete 1 16777216).wf = false := by decide
theorem test_wf_mark : (Instr.strokeMarkReceive 0
    { stroke := 0, root := 0, hops := 256, periodUs := 0, nextUs := 0, changeIn := 0, xchPct := 0, nextXch := 0, holdover := false, tally := 0 } 0 0).wf = false := by decide
theorem test_wf_port : (Instr.flitSend 64).wf = false := by decide
theorem test_wf_lane : (Instr.flitStallTimeout 0 8).wf = false := by decide
theorem test_wf_flit : (Instr.flitReceive 0 { (default : Flit) with fseq := 4096 } ⟨false, 0⟩).wf = false := by decide
theorem test_wf_fseq : (Instr.nak 0 4096).wf = false := by decide
theorem test_wf_delay : (Instr.portTrainComplete 0 1 1 4096).wf = false ∧ (Instr.retrainComplete 0 ⟨1, 1, 4096⟩ true).wf = false := by decide
theorem test_wf_hdr : (Instr.ack { hdr7 with src := 1048576 }).wf = false ∧ (Instr.messageForward { hdr7 with hops := 16 } []).wf = false ∧
    (Instr.write { hdr7 with tag := 4096 } default [] []).wf = false ∧ (Instr.redUp { hdr7 with sdie := 4 } [] false).wf = false ∧
    (Instr.redDown { hdr7 with sdie := 4 } ⟨none, []⟩ []).wf = false ∧
    (Instr.mgmt { hdr7 with len := 65536 } []).wf = false ∧ (Instr.control { hdr7 with dst := 1048576 } .unbind).wf = false := by decide
theorem test_wf_alias : (Instr.aliasMessage hdr7 1048576 0).wf = false := by decide
theorem test_wf_transaction : (Instr.transactionTimeout 4 0).wf = false := by decide
theorem test_wf_granule : (Instr.wcbWrite ⟨1, List.replicate 64 0, none⟩ 0 .clean).wf = false ∧ (Instr.wcbHoldTimeout ⟨1, .clean⟩).wf = false ∧
    (Instr.hbmGranuleRead 0 ⟨.clean, [16]⟩ .host).wf = false ∧ (Instr.scrubRead ⟨.clean, [16]⟩).wf = false := by decide
theorem test_wf_window : (Instr.unmapTakeEffect 1 1025).wf = false := by decide
theorem test_wf_nib : (Instr.nibRetireComplete 0 160).wf = false ∧ (Instr.panelReset 8).wf = false := by decide
theorem test_wf_operation : (Instr.longOperationEnd 16 0 (some [])).wf = false := by decide
theorem test_wf_bar : (Instr.registerWrite 1 0 []).wf = false ∧ (Instr.bar4Read 1099511627776 1).wf = false ∧
    (Instr.bar4Write 1099511627776 [0] false).wf = false := by decide
theorem test_wf_page : (Instr.identify 64).wf = false ∧ (Instr.fwUpdateStage 64 default).wf = false := by decide
theorem test_wf_pack : (Instr.prickingLoad 0 default).wf = false := by decide
theorem test_wf_mgmt : (Instr.mgmtRead .i3c 0 0).wf = false ∧ (Instr.mgmtWrite .i3c none 0 []).wf = false := by decide
theorem test_wf_straps : (Instr.strapLatch 64 0).wf = false ∧ (Instr.pairImbalance 3).wf = false := by decide

/-- No row of the table gives bits, so no word spells a command. -/
theorem test_no_word : decodeTableWord 64 0 = none ∧ (State.reset.withFetchWord 64 5).pending = [] := by decide

/-! ### The queue -/

theorem witness_front : ({ up with pending := [.powerLimitClear] } : State).pending = [.powerLimitClear] ∧ State.reset.pending = [] := by decide
theorem witness_step : step { up with pending := [.powerLimitClear, .strokeEdge] } = .next { up with pending := [.strokeEdge] } := rfl
theorem witness_forms : Memory.wf queueUp.mem.bytes = true ∧ Memory.wcbOk queueUp.mem.wcb = true ∧ jobsOk queueUp.jobs = true := by decide

/-! ### Memory -/

/-- One pending entry of the granule at address 64. -/
def wcbUp : State := { up with mem := { bytes := [(64, 5)], wcb := [{ granule := 64, data := [(65, 6)], since := 20000000 }] } }
theorem witness_writes : Memory.wf wcbUp.mem.bytes = true ∧ Memory.wcbOk wcbUp.mem.wcb = true ∧ rising [(64, (1 : Byte)), (100, 2)] = true ∧
    frameRetired wcbUp.mem 64 = false := by decide
theorem witness_execution : inHost 64 = false ∧ actOf (actUp (act opCopy)) 9 = some (act opCopy) := by decide
theorem witness_wcbWrite : inHbm wcbUp.nibs.grade 0 = true ∧ hbmOn wcbUp = true ∧ (63 % 64 + [(7 : Byte)].length ≤ 64) := by decide
theorem witness_hold : wcbUp.mem.wcb.find? (fun e => e.granule == 64) = some { granule := 64, data := [(65, 6)], since := 20000000 } ∧ [(65, (6 : Byte))].length ≠ 64 := by decide
theorem witness_promote : inHbm up.nibs.grade (206158430208 - 64) = true := by decide
theorem witness_granule : (inHbm up.nibs.grade 64 || inPillow up.nibs.grade 64) = true ∧ hbmOn up = true ∧ 64 % 64 = 0 ∧ up.mem.reqs = [] ∧
    rangePoison up 64 64 = false ∧ (∀ e ∈ wcbUp.mem.wcb, e.granule = 64 → e.data.length ≠ 64) := by decide
/-- Nib 3 of panel 0 holds its 48 slots (09 R282). -/
def fullUp : State := { up with mem := { reqs := (List.range 48).map fun i => { granule := 512 * (i + 1), nib := some (0, 3) } } }
theorem witness_slots : (slotsHeld fullUp (0, 3) fun _ => true).contains (slotKey 64 none) = false ∧ inHbm fullUp.nibs.grade 64 = true ∧
    48 ≤ (slotsHeld fullUp (0, 3) fun _ => true).length ∧ hbmOn fullUp = true ∧ slotRoom up (0, 3) 64 = true ∧ (∀ c, Reader.nib 0 3 ≠ .own c) := by
  refine ⟨by decide +kernel, by decide +kernel, by decide +kernel, by decide, by decide +kernel, nofun⟩
/-- Sixteen narrow requests of a nib on one pseudo-channel fill its part of it (09 R283). -/
theorem witness_channel : 16 ≤ slotsOn { up with mem := { reqs := (List.range 16).map fun i => { granule := 64 * (i / 2), half := some (i % 2), nib := some (0, 3) } } } (0, 3) 64 ∨
    16 ≤ slotsOn { up with mem := { reqs := (List.range 16).map fun i => { granule := 1048576 * i, nib := some (0, 3) } } } (0, 3) 64 := by decide +kernel
theorem witness_pillowGranule : (inHbm up.nibs.grade pillowBase || inPillow up.nibs.grade pillowBase) = true ∧ pillowBase % 64 = 0 := by decide
theorem witness_scrub : scrubRuns up = true ∧ up.mem.reqs = [] ∧ rangePoison up 0 64 = false ∧ up.mem.retired = [] ∧ up.mem.scrub + 1 < scrubTotal up := by decide
def zeroUp : State := { up with mem := { bytes := [(64, 5)], zeroing := [{ id := 2, ranges := [(64, 64)] }] } }
theorem witness_zeroise : zeroUp.mem.zeroing.find? (fun z => z.id == 2) = some { id := 2, ranges := [(64, 64)] } ∧
    ([(64, 64)].all fun r : Nat × Nat => r.1 % 64 == 0 && r.2 % 64 == 0) = true := by decide
theorem test_wcb_write : memByte (match exec (.wcbWrite ⟨70, [9], none⟩ 0 .clean) wcbUp with | .next t => t.mem | _ => {}) 70 = 9 := by decide
theorem test_hole : (match exec (.requestPromote 0x7FF000000000 0) up with | .fault f => f == .addressHole 0x7FF000000000 | _ => false) = true := by decide

/-! ### Numbers -/

/-- 01, example under the table Saturation and clips: 7.49 has exponent 0 in K4. -/
theorem test_k4_exponent : freshExp 1 (mkRat 749 100) = 0 := by decide +kernel
/-- 01: the A8 condition is amax / 2^e ≤ 464. -/
theorem test_a8_exponent : freshExp 4 464 = 0 ∧ freshExp 4 (mkRat 929 2) = 1 := by decide +kernel
theorem witness_scales : (List.Perm [3, 2, 1] ([2, 3, 1] : List Rat)) ∧ amaxOf true [2, 3, 1] = 1 ∧ amaxOf true [2, 3] = 2 ∧ amaxOf false [2, 3] = 3 := by decide +kernel
/-- 01 R48, example: MXFP4 element 0b1101 under scale 0x82 is −24. -/
theorem test_mx : (decodeFloat fp32 0xC1C00000) = Machine.Num.fin true 24 := by decide +kernel

/-! ### Admission -/

theorem witness_head : queueOf queueUp 5 = some queue5 ∧ jobOf queueUp queue5.job = some job1 ∧ queue5.head ≠ queue5.tail ∧ queue5.state = .running ∧
    queue5.passed = none ∧ queueUp.hub.pstate = 0 ∧ queueUp.hub.drowsePage = none ∧ chainedHead queueUp queue5 = false ∧
    chainedHead (reachHead queueUp job1 queue5) queue5 = false := by decide +kernel
/-- A stitch that waits on pin 1 to reach 1: bit 31 enables the wait. -/
def waitRing : State := { queueUp with mem := { bytes := [(0x10030, 1), (0x10033, 128), (0x10034, 1)] } }
theorem witness_waits : readyWaits job1 (slotStitch queueUp queue5 0) = true ∧ readyWaits job1 (slotStitch waitRing queue5 0) = false := by decide +kernel
theorem witness_rejected : (match checkStitch (reachHead queueUp job1 queue5) job1 5 queue5 0 false none with | .reject r => r.status | _ => 0) = 0x0C := by decide +kernel
theorem witness_poisonHead : (match checkStitch (reachHead { queueUp with mem := { poison := [0x400] } } job1 queue5) job1 5 queue5 0 false none with | .poison => true | _ => false) = true := by
  decide +kernel

/-! ### Executions -/

theorem witness_nop : actOf (actUp (act opNop)) 9 = some (act opNop) ∧ (act opNop).stage = .waiting := by decide
theorem witness_ready : ∀ op ∈ [opMatmul, opGatherMm, opRoute, opConvert, opDeriv, opUpdate, opVscript, opCopy, opFetch, opGather, opScatter, opCheck],
    Ready (actUp (act op)) 9 op job1 (act op) := by decide +kernel
theorem witness_ground : ∀ op ∈ [opReduce, opMulticast, opSend], isGround op = true ∧ (act op).injected = false ∧
    Ready (actUp { act op with injected := true }) 9 op job1 { act op with injected := true } := by decide +kernel

/-! ### Scripts -/

def waitRun : Run := { run0 with state := .waiting }
theorem witness_runStart : runOf (runUp 0 waitRun) 9 0 = some waitRun ∧ runsOn (runUp 0 waitRun) 0 0 < 4 ∧
    bobbinRoom (runUp 0 waitRun) (byOhmub (scriptAct 0)) (0, 0) = true := by decide +kernel
def longRun : Run := { run0 with executed := 2 ^ 24 }
/-- Its stitch holds a bobbin of its nib already, and has another run. -/
theorem witness_runRows : let a := { scriptAct 0 with held := [(0, 0)], runsLeft := 2 }; let s := { actUp a with runs := [waitRun] }
    actOf s 9 = some a ∧ runOf s 9 0 = some waitRun ∧ a.stage = .running ∧ runsOn s 0 0 < 4 ∧ bobbinRoom s (byOhmub a) (0, 0) = true ∧ (0, 0) ∈ a.held ∧
      1 < a.runsLeft := by decide +kernel
theorem witness_limit : runOf (runUp 0 longRun) 9 0 = some longRun ∧ 2 ^ 24 ≤ longRun.executed := by decide +kernel
def tileAct : Active := { act opMatmul with stage := .running, tiles := [(0, { stream := [{ row := 1 }], queue := List.replicate 7 {} })] }
theorem witness_twoTiles : let a := { tileAct with tiles := [(0, { stream := [{ row := 1 }, {}] })] }
    actOf (actUp a) 9 = some a ∧ tget a.tiles 0 = some { stream := [{ row := 1 }, {}], queue := [] } := by decide
theorem witness_tile : actOf (actUp tileAct) 9 = some tileAct ∧ tget tileAct.tiles 0 = some { stream := [{ row := 1 }], queue := List.replicate 7 {} } ∧
    (List.replicate 7 ({} : Tile)).length < 8 := by decide
/-- A run stands before each opcode of the engine, with a second instruction after it. -/
theorem witness_amid : ∀ op ∈ [0x01, 0x02, 0x03, 0x04, 0x05, 0x06, 0x07, 0x10, 0x11, 0x12, 0x13, 0x14, 0x15, 0x16, 0x17, 0x20, 0x21, 0x22, 0x23, 0x24, 0x25, 0x26,
      0x27, 0x28, 0x29, 0x2A, 0x2B, 0x2C, 0x30, 0x31, 0x32, 0x33, 0x34, 0x38, 0x39, 0x3A, 0x3B, 0x3C, 0x40, 0x41, 0x42, 0x43, 0x44, 0x50, 0x51, 0x52, 0x53, 0x54,
      0x55, 0x56, 0x57],
    Amid (runUp (word op 0 1 2 3 0 0) run0) 9 0 op job1 (scriptAct (word op 0 1 2 3 0 0)) run0 := by decide +kernel
theorem witness_twoRuns : let a := { scriptAct (word 0x06 0 0 0 0 0 0) with runsLeft := 2 }
    Stands { actUp a with runs := [run0] } 9 0 0x06 job1 a run0 ∧ 1 < a.runsLeft := by decide +kernel
theorem witness_bzvl : let r := { run0 with vl := 0 }; Stands (runUp (word 0x03 0 0 0 0 0 1) r) 9 0 0x03 job1 (scriptAct (word 0x03 0 0 0 0 0 1)) r ∧ r.vl = 0 ∧
    run0.vl ≠ 0 ∧ (envOf (runUp (word 0x03 0 0 0 0 0 1) r) job1 (scriptAct (word 0x03 0 0 0 0 0 1)) r).w.immv < 2 := by decide +kernel
theorem witness_branch : (envOf (runUp (word 0x02 0 0 0 0 0 1) run0) job1 (scriptAct (word 0x02 0 0 0 0 0 1)) run0).w.immv < 2 ∧
    streamEnded (envOf (runUp (word 0x04 0 0 0 0 0 1) run0) job1 (scriptAct (word 0x04 0 0 0 0 0 1)) run0) run0 = true := by decide +kernel
/-- A chained product before the script in its queue has a tile ready. -/
def product : Active := { act opMatmul with sid := 8, st := { opcode := opMatmul, tileq := true }, stage := .running, tiles := [(0, { queue := [{ row := 1 }] })] }
def chained (w : Word64) : Active := { scriptAct w with seq := 1, st := { opcode := opVscript, tileq := true } }
def chainUp (w : Word64) (r : Run) : State := { queueUp with acts := [product, chained w], runs := [r] }
theorem witness_tiles : let w := word 0x14 0 1 0 0 0 0; let e := envOf (chainUp w run0) job1 (chained w) run0
    Amid (chainUp w run0) 9 0 0x14 job1 (chained w) run0 ∧ run0.vl ≠ 0 ∧ streamEnded e run0 = false ∧
      chainedProduct (chainUp w run0) (chained w) = some product ∧ tget product.tiles run0.index = some { queue := [{ row := 1 }] } := by decide +kernel
theorem witness_tileQueue : let w := word 0x04 0 1 0 0 0 0; let e := envOf (chainUp w run0) job1 (chained w) run0
    Amid (chainUp w run0) 9 0 0x04 job1 (chained w) run0 ∧ streamEnded e run0 = false ∧ ((nibTiles e run0).any fun t => !t.queue.isEmpty) = true := by decide +kernel
/-- Slot 0 names eight FP32 elements; so does the output. -/
def desc8 : Desc := { base := 0x20000, sizes := [8, 1, 1, 1, 1], strides := [1, 8, 8, 8, 8], rank := 1, type := 8 }
def loadAct (w : Word64) : Active := { scriptAct w with opnds := [some { desc := desc8 }], out := some { desc := desc8 } }
def loadUp (w : Word64) (r : Run) : State := { actUp (loadAct w) with runs := [r] }
theorem witness_load : let w := word 0x10 0 1 0 0 0 0; let e := envOf (loadUp w run0) job1 (loadAct w) run0
    Amid (loadUp w run0) 9 0 0x10 job1 (loadAct w) run0 ∧ (slotView e e.w.sa).isSome = true ∧ rangeOut run0 e.w.sa 8 = false ∧
      rangeOut { run0 with vl := 9 } e.w.sa 8 = true ∧ slotElems e 3 = 8 ∧ rangeOut run0 3 8 = false ∧ rangeOut { run0 with vl := 9 } 3 8 = true := by decide +kernel
theorem witness_loadTile : let r := { run0 with tile := some {} }; let w := word 0x15 0 1 0 0 0 0; let e := envOf (loadUp w r) job1 (loadAct w) r
    Amid (loadUp w r) 9 0 0x15 job1 (loadAct w) r ∧ (slotView e 0).isSome = true ∧ (tileRange desc8 {}).isSome = true ∧ tileRange desc8 { col := 99, cols := 1, rows := 1 } = none ∧
      ({} : Tile).rows ≤ 16 ∧ ({} : Tile).cols ≤ 32 ∧ Amid (loadUp (word 0x16 0 1 0 0 0 0) r) 9 0 0x16 job1 (loadAct (word 0x16 0 1 0 0 0 0)) r ∧
      (loadAct w).out = some { desc := desc8 } ∧ Stands (loadUp w { r with tile := some { col := 99, cols := 1, rows := 1 } }) 9 0 0x15 job1 (loadAct w)
        { r with tile := some { col := 99, cols := 1, rows := 1 } } := by
  decide +kernel
theorem witness_streamOver : run0.sawEnd = false ∧ ({ run0 with sawEnd := true } : Run).sawEnd = true ∧ run0.tile = none := by decide
theorem witness_noTile : Stands (runUp (word 0x15 0 1 0 0 0 0) run0) 9 0 0x15 job1 (scriptAct (word 0x15 0 1 0 0 0 0)) run0 ∧ run0.tile = none ∧
    Stands (runUp (word 0x14 0 1 0 0 0 0) run0) 9 0 0x14 job1 (scriptAct (word 0x14 0 1 0 0 0 0)) run0 ∧
    streamEnded (envOf (runUp (word 0x14 0 1 0 0 0 0) run0) job1 (scriptAct (word 0x14 0 1 0 0 0 0)) run0) run0 = true := by decide +kernel
theorem witness_elements : let r := { run0 with vl := 4096 }
    Amid (runUp (word 0x20 2 1 2 3 0 0) r) 9 0 0x20 job1 (scriptAct (word 0x20 2 1 2 3 0 0)) r ∧
      (envOf (runUp (word 0x20 2 1 2 3 0 0) r) job1 (scriptAct (word 0x20 2 1 2 3 0 0)) r).w.ty = 2 ∧ rising r.vec = true ∧ r.vl ≤ 4096 ∧ rising r.acc = true ∧
      tyOfCode 9 ≠ 1 ∧ run0.vl ≤ 256 := by decide +kernel

/-- The word is read at the places of 06, table Instruction word: VADD of INT32, destination 1, sources 2 and 3. -/
theorem test_word : (parseVe 0x2012300800000000).op = 0x20 ∧ (parseVe 0x2012300800000000).ty = 2 ∧ (parseVe 0x2012300800000000).dst = 1 ∧
    (parseVe 0x2012300800000000).sa = 2 ∧ (parseVe 0x2012300800000000).sb = 3 := by decide +kernel
/-- What a run holds after one command. -/
def after (c : Instr) (s : State) : Run := match exec c s with
  | .next t => (runOf t 9 0).getD {}
  | _ => {}
theorem test_vadd : getEl (after (.vadd 9 0) (runUp (word 0x20 2 1 2 3 0 0) { run0 with vec := [(8192, 5), (12288, 7)] })) 2 1 0 = 12 := by decide +kernel
theorem test_vmul_wraps : getEl (after (.vmul 9 0) (runUp (word 0x22 2 1 2 2 0 0) { run0 with vec := [(8192, 0x10000)] })) 2 1 0 = 0 := by decide +kernel
theorem test_vshr_sign : getEl (after (.vshr 9 0) (runUp (word 0x34 2 1 2 3 0 0) { run0 with vec := [(8192, 0x80000000), (12288, 33)] })) 2 1 0 = 0xC0000000 := by decide +kernel
theorem test_vadd_fp : getEl (after (.vadd 9 0) (runUp (word 0x20 0 1 2 3 0 0) { run0 with vec := [(8192, 0x3F800000), (12288, 0x40000000)] })) 0 1 0 = 0x40400000 := by
  decide +kernel
theorem test_setvl : (after (.setvl 9 0) (runUp (word 0x01 0 0 15 0 0 77) run0)).vl = 77 := by decide +kernel

/-! ### Ends, responses, commits, Blotter -/

/-- A head that passes: NOP with COMPAT 1. -/
def nopRing : State := { queueUp with mem := { bytes := [(0x10000, 1), (0x10001, 1)] } }
theorem witness_passes : (match checkStitch (reachHead nopRing job1 queue5) job1 5 queue5 0 false none with | .pass _ => true | _ => false) = true := by decide +kernel

def doneAct (m : Marks) : Active := { act opNop with stage := .finished, marks := m, started := some 20000000 }
theorem witness_ends : ∀ m ∈ [({} : Marks), { discarded := true }, { poisoned := true }, { mute := true }, { escalated := true }],
    actOf (actUp (doneAct m)) 9 = some (doneAct m) ∧ (doneAct m).stage = .finished ∧ jobOf (actUp (doneAct m)) 1 = some job1 ∧
      ((doneAct m).marks.poisoned && mateRunning (actUp (doneAct m)) (doneAct m)) = false := by decide +kernel
theorem witness_endShadow : actOf (actUp { doneAct {} with shadow := true }) 9 = some { doneAct {} with shadow := true } ∧
    actOf (actUp { doneAct {} with recompute := true }) 9 = some { doneAct {} with recompute := true } := by decide
/-- An evaluated stitch of a retiring nib is compared before it ends; no other is. -/
theorem witness_compared : let a := { doneAct { mute := true } with shadow := true, nibs := [(0, 3)] }
    comparesFirst { actUp a with nibs := { retiring := [(3, 1, [])] } } job1 a = true ∧ comparesFirst (actUp a) job1 a = false := by decide +kernel
theorem witness_completion : jobsOk (actUp (doneAct {})).jobs = true ∧ jobOf (actUp (doneAct {})) (doneAct {}).job = some job1 ∧
    queueOf (actUp (doneAct {})) (doneAct {}).queue = some queue5 ∧ job1.halted = false ∧ (doneAct {}).marks.discarded = false ∧
    (doneAct {}).marks.mute = false ∧ (doneAct {}).marks.freed = false := by decide +kernel

def heldAct : Active := { act opMatmul with stage := .held, conds := [(1, 5)], out := some { desc := desc8 } }
theorem witness_response : actOf (actUp heldAct) 9 = some heldAct ∧ undecided heldAct = true ∧ (groupMembers (actUp heldAct) heldAct).all evaluated = true := by decide +kernel
def toReplay : Active := { heldAct with conds := [], marks := { toReplay := true } }
theorem witness_replay : actOf (actUp toReplay) 9 = some toReplay ∧ (groupMembers (actUp toReplay) toReplay).all evaluated = true ∧
    (groupMembers (actUp toReplay) toReplay).any undecided = false ∧ (groupMembers (actUp toReplay) toReplay).any (fun b => b.marks.toReplay) = true ∧
    job1.halted = false ∧ job1.step.rewinding = false := by decide +kernel
def replayedAct : Active := { act opMatmul with stage := .replayed }
theorem witness_replayed : actOf (actUp replayedAct) 9 = some replayedAct ∧ groupMembers (actUp replayedAct) replayedAct = [replayedAct] ∧
    replayedAct.marks.poisoned = false ∧ replayedAct.marks.discarded = false ∧ replayedAct.marks.mute = false ∧
    (replayedAct.marks.escalated && replayedAct.marks.halts) = false ∧ replayedAct.shadow = false ∧
    groupMembers (actUp { replayedAct with shadow := true }) { replayedAct with shadow := true } = [{ replayedAct with shadow := true }] := by decide +kernel
def stepJob (x : StepState) : State := { queueUp with jobs := [(1, { job1 with step := x })] }
theorem witness_stepReplay : jobOf (stepJob { replayRequested := true }) 1 = some { job1 with step := { replayRequested := true } } := by decide

theorem witness_commit : actOf (actUp (act opCommit)) 9 = some (act opCommit) ∧ (act opCommit).st.opcode = opCommit ∧ (act opCommit).stage = .waiting ∧
    stepHeld (actUp (act opCommit)) 1 = false ∧ job1.step.commitSid = none := by decide +kernel
theorem witness_vote : ∀ b ∈ [false, true], jobOf (stepJob { commitSid := some 9, voteSent := b }) 1 = some { job1 with step := { commitSid := some 9, voteSent := b } } ∧
    stepHeld (stepJob { commitSid := some 9, voteSent := b }) 1 = false ∧
    journalClear (stepJob { commitSid := some 9, voteSent := b }) { job1 with step := { commitSid := some 9, voteSent := b } } = true := by decide +kernel
theorem witness_voteReplay : jobOf (stepJob { commitSid := some 9, voteSent := true, replayRequested := true }) 1 =
    some { job1 with step := { commitSid := some 9, voteSent := true, replayRequested := true } } := by decide
/-- A vote that commits step C + 1 = 1, the same with a replay, and one that halts. -/
theorem witness_votes : BitVec.ofNat 64 (job1.committed + 1) = 1 ∧ (0 : Word64) ≠ BitVec.ofNat 64 (job1.committed + 1) := by decide
/-- 05 R131: the commit of step 1 makes C one. -/
theorem test_commit : (match exec (.commitVoteResult 1 { step := 1, replay := false, halt := false, levels := [] })
    (stepJob { commitSid := some 9, voteSent := true }) with | .next t => (jobOf t 1).map (·.committed) | _ => none) = some 1 := by decide +kernel

def record (l : Loc) : BlotRec := { handle := 4, loc := l, addr := 0x20000, bytes := 64, written := true }
def blotUp (c : BlotCfg) (r : BlotRec) : State := { queueUp with jobs := [(1, { job1 with blot := { cfg := c, recs := [r] } })] }
theorem witness_move : jobOf (blotUp {} { record .kept with moving := some .atHost }) 1 = some { job1 with blot := { recs := [{ record .kept with moving := some .atHost }] } } ∧
    ({ record .kept with moving := some .atPeer } : BlotRec).moving = some .atPeer ∧ (record .kept).loc = .kept := by
  decide
def recallCfg : BlotCfg := { base := 0x30000, size := 0x1000 }
def recallRec : BlotRec := { record .atPeer with moved := List.replicate 64 1, recalling := true }
theorem witness_recall : jobOf (blotUp recallCfg recallRec) 1 = some { job1 with blot := { cfg := recallCfg, recs := [recallRec] } } ∧ inHost 0x30000 = false ∧
    recallRec.movedBad = false ∧ [recallRec].find? (fun q => q.handle == 4 && q.recalling && (q.loc == .atPeer || q.loc == .atHost)) = some recallRec := by decide +kernel
theorem witness_place : placeAt (blotUp recallCfg recallRec) 1 .kept recallRec.bytes = some (blotUp recallCfg recallRec, 0x30000) := rfl
def freeAct : Active := { act opStashFree with opnds := [some { desc := { handle := 4, stash := true } }] }
theorem witness_stashFree : actOf (actUp freeAct) 9 = some freeAct ∧ mayExecute freeAct = true ∧ opnd freeAct 0 = some { desc := { handle := 4, stash := true } } ∧
    (((earlier (actUp freeAct) 9).filter fun b => b.job == 1).all fun b => readsDone b || !(readHandles b).contains 4) = true := by decide +kernel
/-- A reader of a record that is not kept. -/
def lostOp : Operand := { desc := { handle := 4, stash := true } }
def lostReader : Active := { act opCopy with seq := 1, opnds := [some lostOp] }
def lostJob : Job := { job1 with blot := { recs := [record .notKept] } }
def lostUp : State := { actUp lostReader with jobs := [(1, lostJob)] }
theorem witness_lostRecord : actOf lostUp 9 = some lostReader ∧ jobOf lostUp 1 = some lostJob ∧ recordFor lostJob 4 = some (record .notKept) ∧ lostReader.stage = .waiting ∧
    needsRecompute lostJob (record .notKept) = true ∧ recordReads lostReader = [lostOp] ∧ lostOp.desc.stash = true ∧ (lostUp.acts.any fun b => b.job == 1 && b.recompute) = false ∧
    (reserveAll lostUp (recomputeSet lostUp lostJob (record .notKept))).2 = none := by decide +kernel

/-! ### Strokes, links -/

theorem witness_edge : (up.clk.source != 2 || up.clk.holdover) = true ∧ (upPort {}).fab.ports = [(0, { lstate := .up })] := by decide
def refUp : State := { up with clk := { source := 2, edge := 20000, now := 20000, refMisses := 2 } }
theorem witness_earlyRef : ({ refUp with clk := { refUp.clk with refMisses := 0 } } : State).clk.refMisses = 0 ∧ 38999 + 1000 < nextEdge refUp := by decide +kernel
theorem witness_refEdge : refUp.clk.source = 2 ∧ ({ refUp.clk with nextSource := 2 } : Clock).nextSource = 2 ∧ ((41000 : Int) - (nextEdge refUp : Int)).natAbs ≤ 1000 ∧ refUp.clk.holdover = false := by decide +kernel
/-- 09 R261: the default period is 20 µs. -/
theorem test_edge : (match exec .strokeEdge up with | .next t => (t.clk.stroke, t.clk.edge) | _ => (0, 0)) = (1, 20000) := by decide +kernel
def markUp : State := { upPort {} with clk := { source := 1, nextSource := 1, upPort := 0, edge := 20000, now := 20000, stroke := 5 } }
def mark0 : Mark := { stroke := 5, root := 7, hops := 0, periodUs := 20, nextUs := 20, changeIn := 0, xchPct := 20, nextXch := 20, holdover := false, tally := 1 }
theorem witness_markBad : markCrc mark0 + 1 ≠ markCrc mark0 := by decide +kernel
theorem witness_mark : (portOf markUp 0).lstate = .up ∧ (portOf markUp 0).markTally ≠ some mark0.tally ∧ followsPort markUp 0 = true ∧
    (((20064 - 0 - 64 : Nat) : Int) - ((nearestEdge markUp 20000).1 : Int)).natAbs ≤ 50 ∧ (nearestEdge markUp 20000).2 = mark0.stroke.toNat ∧ markUp.clk.nextSource = 1 ∧
    50 < (((21064 - 0 - 64 : Nat) : Int) - ((nearestEdge markUp 21000).1 : Int)).natAbs ∧ (((21000 : Nat) : Int) - ((nearestEdge markUp 21000).1 : Int)).natAbs ≤ 1000 := by
  decide +kernel
theorem witness_missed : (portOf (upPort { missedRun := 2 }) 0).missedRun = 2 ∧ (portOf (upPort { missedRun := 1 }) 0).missedRun < 2 := by decide
theorem witness_holdover : ({ up with clk := { holdover := true } } : State).clk.holdover = true := by decide

def flit0 : Flit := sealFlit { (default : Flit) with vl := 2, som := true, eom := true }
theorem witness_flits : ∀ x ∈ [({ ctrlOut := [.probe] } : Port), { sinceCtrl := 127 }, { resend := [flit0] }, { retry := List.replicate 2 flit0 },
    { lanes := [(2, [flit0])], credits := [(2, 1)] }], (portOf (upPort x) 0).lstate = .up ∧ x.sent = [] := by decide +kernel
theorem witness_unsent (q : Nat) : tgetD ({} : Port).sent q 0 < 15 := Nat.zero_lt_succ 14
theorem witness_lane : let x : Port := { lstate := .up, lanes := [(2, [flit0])], credits := [(2, 1)] }
    x.retry.length < 2048 ∧ (nextLane (upPort x) x).isSome = true ∧ nextLane (upPort {}) {} = none := by decide +kernel
theorem witness_flitCrc : flit0.crc = flitCrc flit0 := by decide +kernel
theorem witness_flitBad : ({ flit0 with crc := flit0.crc + 1 } : Flit).crc ≠ flitCrc { flit0 with crc := flit0.crc + 1 } := by decide +kernel
theorem witness_flitAhead : (sealFlit { flit0 with fseq := 1 }).crc = flitCrc (sealFlit { flit0 with fseq := 1 }) := by decide +kernel
theorem witness_receive : (portOf (upPort {}) 0).discarding = false ∧ flit0.kind = .data ∧ flit0.fseq = 0 ∧ (portOf (upPort {}) 0).expectFseq = 0 ∧ flit0.vl = 2 ∧
    flit0.som = true ∧ flit0.eom = true := by decide +kernel
theorem witness_ahead : (sealFlit { flit0 with fseq := 1 }).fseq = 1 ∧ (1 : Nat) ≠ 0 ∧ 2048 < (0 + 4096 - 1) % 4096 := by decide +kernel
def portIn (l : LState) : State := { up with fab := { station := 3, stationSet := true, portEn := 1, ports := [(0, { lstate := l })] } }
theorem witness_portStates : (∀ l ∈ [LState.disabled, .training, .up, .retrain, .down], (portOf (portIn l) 0).lstate = l) ∧ portEnabled (portIn .disabled) 0 = true ∧
    (7 : Nat) ≠ (portIn .training).fab.station ∧ (recentRetrains (portIn .up) {}).length < 7 ∧
    7 ≤ (recentRetrains (portIn .up) { retrainTimes := List.replicate 7 20000000 }).length := by decide
theorem witness_stall : laneOut ({ lstate := .up, lanes := [(2, [flit0])] } : Port) 2 = [flit0] ∧ tgetD ({ lanes := [(2, [flit0])] } : Port).credits 2 0 = 0 := by
  decide +kernel

/-! ### Messages -/

def fabUp : State := { upPort {} with jobs := [(1, { job1 with stations := [3, 7], pinCount := 4 })] }
def jobFab : Job := { job1 with stations := [3, 7], pinCount := 4 }
/-- A message of the job's step in progress: EPOCH of step 1. -/
def hdrJob : MsgHdr := { hdr7 with epoch := 16 }
theorem witness_taken : Taken fabUp hdrJob [] jobFab ∧ Taken fabUp hdrJob [1] jobFab := by decide +kernel
theorem witness_credits : routedCredits fabUp hdr7 [] = (fabUp, none) := rfl
/-- A message of one flit that port 0 has received. -/
def arrived0 : Arrived := { port := 0, vl := 3, flits := 1, hdr := hdr7 }
theorem witness_arrived : ({ fabUp.fab with arrived := [arrived0] } : Fabric).arrived.find? (fun x => x.hdr == hdr7 && x.data == []) = some arrived0 ∧
    noRedRoom fabUp hdr7 [] = false := by decide +kernel
theorem witness_forward : (answersTo fabUp hdr7.dst || answersTo fabUp hdr7.rdst) = true ∧
    answersTo fabUp 8 = false ∧ routeMask fabUp 8 = [] := by decide +kernel
/-- Station 8 of the part's own group is reached by port 0. -/
def routed : State := { fabUp with fab := { fabUp.fab with memberTbl := [(8, 1)] } }
theorem witness_hop : (match routeHop routed 8 0 3 none with | .port p => p | _ => 64) = 0 ∧ answersTo routed 8 = false := by decide +kernel
/-- The destination of a SEND: a handle table at 0x21000 whose entry 1 names the descriptor of eight FP32 elements at 0x28000. -/
def destJob : Job := { jobFab with handles := some (0x21000, 2), windows := [{ id := 1, base := 0x20000, size := 0x10000 }] }
def cells (a : Nat) (l : List Byte) : List Host.Cell := (l.zipIdx.map fun x => (a + x.2, x.1)).filter fun c => c.2 != 0
def destMem : Mem :=
  { bytes := cells 0x21008 (leBytes 8 (2 ^ 63 + 0x22000)) ++ cells 0x22000 (leBytes 64 (0x28000 * 2 ^ 400 + 8 * 2 ^ 368 + 2 ^ 200 + 2 ^ 17 + 8 * 2 ^ 5)) }
def destUp : State := { fabUp with jobs := [(1, destJob)], mem := destMem }
def source8 : SendSource :=
  { sizes := [8], type := 8, shape := 0, bdim0 := 0, bdim1 := 0, hasScale := false, hasZero := false, hasGimp := false, twist := 0, l1 := 0, pin := some 3 }
theorem witness_destination : let h : MsgHdr := { hdrJob with arg := 0x10000000000000000#96 }
    Taken destUp h [] destJob ∧ rxFind (takeInbox destUp h []) 1 7 (argBits h 63 32) = none ∧ destStatus (takeInbox destUp h []) destJob (argBits h 95 64) (some source8) = 0 ∧
      (readOperand (takeInbox destUp h []) destJob (argBits h 95 64)).isSome = true := by decide +kernel
theorem witness_source : (inMsg destUp hdrJob [] [] (some source8)).source = some source8 := by decide +kernel
theorem witness_badDestination : destStatus destUp destJob 1 (some { source8 with type := 9 }) = adBadFormat ∧ destStatus destUp destJob 1 (some { source8 with pin := some 4 }) = adPinRange ∧
    destStatus destUp destJob 0 none = adBadHandle := by decide +kernel
def rx0 : RxSend := { src := 7, number := 0, job := 1, dst := some { desc := desc8 } }
def rxUp (r : RxSend) : State := { fabUp with fab := { fabUp.fab with rx := [r] } }
theorem witness_send : (∀ r ∈ [rx0, { rx0 with refused := 2 }], rxFind (takeInbox (rxUp r) hdrJob []) 1 7 0 = some r ∧ Taken (rxUp r) hdrJob [] jobFab) ∧
    rxFind fabUp 1 7 0 = none := by decide +kernel
theorem witness_writeEndOther : let h : MsgHdr := { hdrJob with arg := 0x400018000000#96 }
    bit h.arg.toNat 27 = true ∧ jobFab.pinCount ≤ argBits h 63 44 ∧ Taken (rxUp rx0) h [] jobFab ∧
      rxFind (takeInbox (rxUp { rx0 with done := true }) h []) 1 7 (argBits h 95 64) = some { rx0 with done := true } := by decide +kernel
theorem witness_writeEnd : let h : MsgHdr := { hdrJob with arg := 0x200018000000#96 }
    bit h.arg.toNat 27 = true ∧ rxFind (takeInbox (rxUp rx0) h []) 1 7 (argBits h 95 64) = some rx0 ∧ rx0.done = false ∧ argBits h 63 44 < jobFab.pinCount ∧
      jobsOk (rxUp rx0).jobs = true ∧ Taken (rxUp rx0) h [] jobFab := by decide +kernel
def trans0 : Trans := { tag := 2, hdr := { hdr7 with dst := 8, rdst := 8, src := 3, epoch := 16 }, sid := some 9, vl := 3, firstPort := 0 }
def transUp (t : Trans) (as : List Active) : State := { routed with fab := { routed.fab with trans := [t] }, acts := as }
def answer2 : MsgHdr := { hdr7 with mtype := .ack, arg := 0x002000000000000000000000#96 }
theorem witness_answer : answered (takeInbox (transUp trans0 []) answer2 []) answer2 = some trans0 ∧
    actOf (freeTrans (takeInbox (transUp trans0 []) answer2 []) trans0) 9 = none := by decide +kernel
theorem witness_ack : ∀ a ∈ [{ act opReduce with stage := .running }, { act opSend with stage := .running }],
    actOf (freeTrans (takeInbox (transUp trans0 [a]) answer2 []) trans0) 9 = some a ∧ a.stage = .running ∧ a.allSent = false ∧
      outstanding (freeTrans (takeInbox (transUp trans0 [a]) answer2 []) trans0) 9 = false ∧ partnerRefusal (takeInbox (transUp trans0 [a]) answer2 []) answer2 = false := by
  decide +kernel
theorem witness_timeout : transOf (transUp trans0 []) 0 2 = some trans0 ∧ trans0.resent = false ∧ ({ trans0 with resent := true } : Trans).resent = true ∧
    (match routeHop (advance (transUp trans0 []) 2000000) (rdstOf (advance (transUp trans0 []) 2000000) 8) 0 3 (some 0) with | .port p => p | _ => 64) = 0 := by decide +kernel
theorem witness_heldMessage : ([({ since := 5 } : HeldMsg)][0]?).isSome = true := by decide

def node0 : RedNode := { job := 1, sid := 9, children := [7], size := some 1 }
def redUp0 : State := { fabUp with fab := { fabUp.fab with reds := [node0] }, acts := [{ act opReduce with stage := .running }] }
/-- A reduction of FP32 sums in short form: `OP` 1. -/
def sumAct : Active := { act opReduce with st := { opcode := opReduce, aux := 2 ^ 76 } }
def hdrUp : MsgHdr := { hdrJob with mtype := .redUp }
def freshOne : List (Nat × Contrib) := freshContribs sumAct node0 hdrUp (List.replicate 66 1) false
theorem witness_redUp : msgNode (takeInbox redUp0 hdrJob []) jobFab hdrJob = some node0 ∧ (nodeAct (takeInbox redUp0 hdrJob []) node0).isSome = true ∧
    node0.children.idxOf 7 < node0.children.length ∧ upContribs 1 0 [] false = [] ∧ ((upContribs 1 0 (List.replicate 66 0) false).all fun c => c.1 < 1) = true ∧
    freshOne.length = 1 ∧ overMemory (takeInbox redUp0 hdrJob []) node0 freshOne = false ∧ Taken redUp0 hdrJob [] jobFab := by decide +kernel
/-- 131,072 blocks in flight fill the 16 MiB of a die's reduction memory (11 R345): the next block finds none. -/
def fullNode : RedNode := { blocks := List.replicate 131072 { acc := [1] } }
def redUpOf (n : RedNode) : State := { redUp0 with acts := [sumAct], fab := { redUp0.fab with reds := [n, node0] } }
theorem redUpOf_bytes (n : RedNode) (h : collDie n.coll n.inst = 0) :
    reductionBytes (redUpOf n) 0 = 128 * (n.blocks.filter fun b => !b.done && !b.acc.isEmpty).length := by
  simp [reductionBytes, redUpOf, redUp0, node0, List.filter_cons, h, show collDie 0 0 = 0 from rfl]
theorem fullNode_blocks : (fullNode.blocks.filter fun b => !b.done && !b.acc.isEmpty).length = 131072 := by
  rw [fullNode, List.filter_replicate]; exact List.length_replicate
theorem witness_fullRed : overMemory (redUpOf fullNode) node0 freshOne = true := by
  have k : (freshOne.filter fun c => (blockAt node0 c.1).acc.isEmpty).length = 1 := by decide +kernel
  rw [overMemory, show collDie node0.coll node0.inst = 0 from rfl, redUpOf_bytes fullNode rfl, k, fullNode_blocks]; decide
theorem witness_noRoom : answersTo (redUpOf fullNode) hdrUp.dst = true ∧ noRedRoom (redUpOf fullNode) hdrUp (List.replicate 66 1) = true := by
  refine ⟨by rfl, ?_⟩
  have d : collDie (argBits hdrUp 95 64) (argBits hdrUp 63 48) = 0 := by decide +kernel
  have n : upNeeds (redUpOf fullNode) 0 { hdr := hdrUp, data := List.replicate 66 1 } = 128 := by
    have a : jobByFjk (redUpOf fullNode) hdrUp.fjk = some jobFab := by rfl
    have b : msgNode (redUpOf fullNode) jobFab hdrUp = some node0 := by rfl
    have c : nodeAct (redUpOf fullNode) node0 = some sumAct := by rfl
    have k : (freshOne.filter fun c => (blockAt node0 c.1).acc.isEmpty).length = 1 := by decide +kernel
    simp only [freshOne] at k
    simp only [upNeeds, a, Option.bind_some, b, c, Option.map_some, show collDie node0.coll node0.inst = 0 from rfl, k]
    rfl
  rw [noRedRoom]
  simp only [d, n, redUpOf_bytes fullNode rfl, fullNode_blocks]
  decide
def downUp (op : Nat) : State :=
  { redUp0 with fab := { redUp0.fab with reds := [{ node0 with parent := some 7 }] }, acts := [{ act op with stage := .running }] }
theorem witness_redDown : ∀ op ∈ [opReduce, opMulticast], msgNode (takeInbox (downUp op) hdrJob []) jobFab hdrJob = some { node0 with parent := some 7 } ∧ node0.parent ≠ some 7 ∧
    actOf (takeInbox (downUp op) hdrJob []) 9 = some { act op with stage := .running } ∧ Taken (downUp op) hdrJob [] jobFab := by decide +kernel
theorem witness_notice : noticeJob (takeInbox fabUp hdrJob []) hdrJob = some jobFab ∧ bit hdrJob.arg.toNat 0 = false ∧
    bit ({ hdrJob with arg := 1 } : MsgHdr).arg.toNat 0 = true ∧ hdrJob.epoch = epochOf jobFab ∧ jobFab.step.replayRequested = false := by decide +kernel
theorem witness_alias : (fabUp.fab.aliases.filter fun a => a.1 != 5).length < 4096 := by decide
theorem witness_aliasFull : 4096 ≤ (((List.range 4096).map fun i => (i + 1, 7)).filter fun a : Nat × Nat => a.1 != 0).length := by decide +kernel
def pairUp (x : Pair) : State := { fabUp with pair := { x with partner := some 7, state := 1 } }
theorem witness_pair : (pairUp {}).pair.partner = some hdr7.src ∧ (pairUp {}).hub.pstate ≠ 2 ∧ argBits hdr7 62 62 = 0 ∧ fabUp.pair.partner ≠ some hdr7.src ∧
    ({ pairUp {} with hub := { pstate := 2 } } : State).hub.pstate = 2 := by decide
theorem witness_drainEnds : let j := { job1 with prot := [{ handle := 4 }] }; jobOf { up with jobs := [(1, j)] } 1 = some j ∧ protOf j 4 = some { handle := 4 } ∧
    ({ handle := 4 } : Protect).again = false ∧ isPartner fabUp hdr7.src = false := by decide
theorem witness_gap : (pairUp { lastTally := some 3, heldJournal := [{ tally := 5 }] }).pair.lastTally = some 3 := by decide
theorem witness_drain : ∀ b ∈ [false, true], ([({ job := 1, handle := 4, incomplete := b } : Drain)].find? fun d => d.job == 1 && d.handle == 4) =
    some { job := 1, handle := 4, incomplete := b } := by decide

/-! ### The mailbox -/

/-- A request of `n` payload bytes with a value. -/
def ask (op n x : Nat) : Request := req op (leBytes n x)
/-- A job with a window at 1 MiB, and the part with a staging window at 2 MiB. -/
def winJob : Job := { job1 with windows := [{ id := 1, base := 0x100000, size := 0x100000 }] }
def winUp : State := { up with jobs := [(1, winJob)], hub := { phase := 1, staging := [{ id := 1, base := 0x200000, size := 0x100000 }] } }
def bare : State := { winUp with jobs := [] }
/-- A part-scope request on page 0, and a job's own on page 1. -/
def partAsk (r : Request) : State := asks bare 0 r
def jobAsk (r : Request) : State := asks winUp 1 r
/-- A window reference to bytes of window 1. -/
def ref (n : Nat) : Nat := 1 + n * 2 ^ 64
/-- A request with `ADMIN`, whose references name staging windows. -/
def adm (op n x : Nat) : Request := { ask op n x with flags := 2 }

theorem witness_notify : wantsNotify { req 0x01 [] with flags := 1 } = true ∧ msixMasked { up with hub := { up.hub with msixTable := [(12, 0)] } } 0 = false := by decide +kernel
theorem witness_ring : (pageOf (partAsk (ask 1 0 0)) 0).mbState = 1 ∧ linkUp up = true ∧ (pageOf up 63).mbState ≠ 1 ∧ (pageOf up 63).lastTally = none := by decide +kernel
/-- IDENTIFY with its CRC-32C in the header's last four bytes. -/
def identifyBytes : List Byte := [1] ++ List.replicate 27 0 ++ leBytes 4 (crc32c ([1] ++ List.replicate 27 0)) ++ List.replicate 2016 0
theorem witness_request : parseRequest identifyBytes = { opcode := 1 } ∧ fieldLe identifyBytes 6 2 ≤ 2016 ∧
    crc32c (identifyBytes.take 28 ++ ({ opcode := 1 } : Request).payload) = fieldLe identifyBytes 28 4 ∧
    cmdLength 1 0 = some (fieldLe identifyBytes 6 2) ∧ actionDefined { opcode := 1 } = true := by decide +kernel
theorem witness_bringUp : ∀ p ∈ [(0 : BitVec 2), 2], ({ State.reset with hub := { phase := p } } : State).hub.phase ≠ 1 ∧ (req 0x11 []).opcode ≠ 0x01 ∧
    (req 0x11 []).opcode ≠ 0x02 ∧ (req 0x11 []).opcode ≠ 0x90 ∧ ({ State.reset with hub := { phase := p } } : State).hub.bootFailed = false := by decide
theorem witness_refused : let s : State := asks State.reset 0 (req 0x11 [])
    nextRequest s 0 = some (req 0x11 []) ∧ actionOfReq (req 0x11 []) = 0 ∧ refusal s 0 (req 0x11 []) = some mbNotReady := by decide +kernel
theorem witness_refusedOthers : ∀ x ∈ [(0xA0, 0, 0), (0x74, 1, 1), (0xC0, 1, 2 ^ 112)], let r := ask x.1 64 x.2.2; let s := asks State.reset 0 r
    nextRequest s 0 = some r ∧ r.opcode = x.1 ∧ actionOfReq r = x.2.1 ∧ refusal s 0 r = some mbNotReady := by decide +kernel
/-- A restore of the job runs, and a drain of the tensor that the request unregisters. -/
theorem witness_busy : let s := jobAsk (ask 0x62 64 0); let u := { s with hub := { s.hub with longOps := [{ kind := 3, job := some 1, state := 1 }] } }
    nextRequest u 1 = some (ask 0x62 64 0) ∧ refusal u 1 (ask 0x62 64 0) = none ∧ meetsLong u (ask 0x62 64 0) = true ∧
    (ok u).status ≠ mbBadField ∧ meetsLong { jobAsk (ask 0x72 32 2) with pair := { drains := [{ job := 1, handle := 0 }] } } (ask 0x72 32 2) = true := by decide +kernel
theorem witness_halted : let s : State := { up with jobs := [(1, { job1 with halted := true })] }
    s.hub.phase = 1 ∧ s.hub.pstate ≠ 2 ∧ scopeOf (req 0x12 []) = .job ∧ scopeOf (req 0x74 []) = .job ∧ scopeOf (req 0x20 []) = .job ∧
      jobOf s 1 = some { job1 with halted := true } ∧ isAdmin (req 0x12 []) = false ∧ (req 0x12 []).rsv = false ∧ actionDefined (req 0x12 []) = true := by decide +kernel

/-- Every row without a job: opcode, action and payload. -/
theorem witness_partRows : ∀ x ∈ [(0x01, 0, 0), (0x02, 0, 0), (0x50, 0, 20 * 2 ^ 88), (0x70, 0, 7 + 2 ^ 20), (0x80, 0, 0), (0x81, 0, 0), (0x82, 0, 5), (0x90, 0, 4 * 2 ^ 32),
      (0xA0, 0, ref 64), (0xB0, 1, 0x10), (0xB0, 2, 0x20), (0xB0, 3, 0x30), (0xC0, 1, 2 ^ 112 + ref 64), (0xC0, 2, 2 * 2 ^ 112), (0xC0, 3, 3 * 2 ^ 112),
      (0xD0, 0, 0x52455455), (0xE0, 1, 1 + ref 64 * 2 ^ 16), (0xE0, 2, 2), (0xE0, 3, 3), (0xE0, 4, 4)],
    Asked (partAsk (ask x.1 64 x.2.2)) 0 x.1 x.2.1 (ask x.1 64 x.2.2) := by decide +kernel
/-- Every row of a job: opcode, action and payload. -/
theorem witness_jobRows : ∀ x ∈ [(0x11, 0, 0), (0x12, 0, 0), (0x20, 0, 65536 * 2 ^ 128), (0x21, 0, 1), (0x30, 0, 6), (0x31, 0, 5), (0x40, 0, ref 8), (0x50, 1, 8), (0x60, 0, 0),
      (0x61, 1, 2 ^ 28), (0x61, 2, 2 * 2 ^ 28), (0x61, 3, 3 * 2 ^ 28), (0x62, 0, 0), (0x72, 1, 1), (0x72, 2, 2), (0x72, 3, 3), (0x73, 1, 2 ^ 112), (0x73, 2, 2 * 2 ^ 112),
      (0x74, 0, 0), (0x74, 1, 1), (0x74, 2, 2), (0x74, 3, 3)],
    AskedOf (jobAsk (ask x.1 64 x.2.2)) 1 x.1 x.2.1 (ask x.1 64 x.2.2) winJob := by decide +kernel
theorem witness_progress : let r := ask 0x90 8 (4 * 2 ^ 32); pf r 63 36 = 0 ∧ 1 ≤ pf r 35 32 ∧ pf r 35 32 ≤ 8 ∧ pf (ask 0x90 8 (8 * 2 ^ 32)) 35 32 = 8 := by decide +kernel

/-- JOB_OPEN of a job with one pin and 16 event slots on this part alone. -/
def openReq : Request := ask 0x10 48 (4 * 2 ^ 48 + 2 ^ 128)
theorem witness_open : let s := asks bare 1 openReq
    Asked s 1 0x10 0 openReq ∧ stationList s openReq = some [0] ∧ openFieldsOk openReq = true ∧ [0].any (answersTo s) = true ∧ [0].Nodup ∧ jobOf s 1 = none ∧
      (s.mem.zeroing.all fun z => z.job != some 1) = true ∧ s.jobs.length < 4096 ∧ jobsOk (jobAsk openReq).jobs = true := by decide +kernel
/-- A started stitch touches a window of the job that closes, or none does. -/
theorem witness_close : let a : Active := { act opCopy with stage := .running, started := some 5, opnds := [some { desc := { desc8 with base := 0x100000 } }] }
    stillTouched (stopWork { jobAsk (ask 0x11 64 0) with acts := [a] } 1) 1 = true ∧ stillTouched (stopWork (jobAsk (ask 0x11 64 0)) 1) 1 = false ∧
      winUp.fw.returnStep = 0 ∧ stationListAt winUp openReq = none := by decide +kernel
theorem witness_map : let r := ask 0x20 24 (65536 * 2 ^ 128); let s := jobAsk r
    isAdmin r = false ∧ mapFieldsOk s r = true ∧ winJob.windows.length < 1024 ∧
      lowestFree (takenRanges s) (regionOf s 0 0 0).1 (regionOf s 0 0 0).2 65536 = some 0 := by decide +kernel
theorem witness_unmap : let r := ask 0x21 4 1; pf r 31 16 = 0 ∧ (winJob.windows.any fun w => w.id == pf r 15 0 && !w.unmapping) = true := by decide +kernel
theorem witness_unmapped : ∀ k ∈ [0, 3], let w : Window := { id := 1, kind := k, unmapping := true }
    [w].find? (fun w => w.id == 1 && w.unmapping) = some w ∧ (up.acts.any fun a => a.job == 1 && touches job1 a w) = false ∧ (1 : Nat) ≠ 4096 ∧ job1.closing = false := by decide
theorem witness_queue : let r := ask 0x30 16 (6 + 0x100000 * 2 ^ 32 + 0x110000 * 2 ^ 80)
    AskedOf (jobAsk r) 1 0x30 0 r winJob ∧ queueFieldsOk (jobAsk r) r = true ∧ (jobAsk r).queues.length < 1048576 := by decide +kernel
theorem witness_destroy : let r := ask 0x31 4 5; let s : State := { jobAsk r with queues := [(5, { queue5 with tail := 0, step := true })] }
    AskedOf s 1 0x31 0 r winJob ∧ pf r 31 20 = 0 ∧ queueOf s (pf r 19 0) = some { queue5 with tail := 0, step := true } ∧
      (s.acts.any fun a => a.queue == pf r 19 0) = false ∧ queue5.head = queue5.stepBase := by decide +kernel
theorem witness_table : let r := ask 0x40 16 (ref 8); refAt (jobAsk r) r (pf r 111 0) = some (0x100000, 8) ∧ pf r 127 112 = 0 ∧ 8 % 8 = 0 := by decide +kernel

theorem witness_strokeSet : let r := ask 0x50 32 (4 * 2 ^ 88 + 255 * 2 ^ 64 + 255 * 2 ^ 72)
    Asked (partAsk r) 0 0x50 0 r ∧ strokeRsv r = false ∧ strokePartOk (partAsk r) r = true ∧ (partAsk r).clk.source ≠ 1 ∧ pf r 1 0 ≠ 1 := by decide +kernel
theorem witness_strokeJob : let r := ask 0x50 32 (8 + 16 * 2 ^ 96 + 0x100000 * 2 ^ 144); AskedOf (jobAsk r) 1 0x50 1 r winJob ∧ strokeRsv r = false ∧ strokeRingOk winJob r = true := by
  decide +kernel
theorem witness_watchSet : let r := ask 0x60 40 (2 ^ 304); AskedOf (jobAsk r) 1 0x60 0 r winJob ∧ watchFieldsOk winJob r = true ∧ winJob.step.inProgress = false ∧
    ({ inProgress := true } : StepState).inProgress = true := by decide +kernel
theorem witness_ladder : let r := ask 0x61 24 (2 ^ 28 + 255 * 2 ^ 12 + 3 * 2 ^ 8 + 3 * 2 ^ 10); let j := { winJob with step := { inProgress := true } }
    AskedOf { jobAsk r with jobs := [(1, j)] } 1 0x61 1 r j ∧ ladderRsv r = false ∧ pf r 27 20 ≤ pf r 19 12 ∧ pf r 11 10 ≤ pf r 9 8 ∧ bit (pay r) 7 = false ∧
      j.step.inProgress = true := by decide +kernel
theorem witness_ladderMap : let r := ask 0x61 24 (2 * 2 ^ 28 + ref 32 * 2 ^ 80)
    AskedOf (jobAsk r) 1 0x61 2 r winJob ∧ ladderRsv r = false ∧ refAt (jobAsk r) r (pf r 191 80) = some (0x100000, 32) ∧
      (((entriesAt (jobAsk r) 0x100000 32).map parseMapEntry).any fun e => e.isNone) = false := by decide +kernel
theorem witness_stashPolicy : let r := ask 0x62 64 0; AskedOf (jobAsk r) 1 0x62 0 r winJob ∧ pf r 90 0 = 0 ∧ blotCfgOk winJob (blotCfgOf r) = true ∧ winJob.blot.recs = [] := by
  decide +kernel

theorem witness_protect : let r := ask 0x72 32 (1 + ref 0 * 2 ^ 144)
    AskedOf (jobAsk r) 1 0x72 1 r winJob ∧ pf r 6 4 = 0 ∧ refAt (jobAsk r) r (pf r 255 144) = some (0x100000, 0) ∧
      ((entriesAt (jobAsk r) 0x100000 0).map parseProtect).all (protectOk (jobAsk r) winJob) = true ∧ registerRefusal (jobAsk r) winJob [] = none := by decide +kernel
theorem witness_unprotect : let r := ask 0x72 32 (2 + 4 * 2 ^ 112); let j := { winJob with prot := [{ handle := 4 }] }
    AskedOf { jobAsk r with jobs := [(1, j)] } 1 0x72 2 r j ∧ pf r 6 4 = 0 ∧ (protOf j (pf r 143 112)).isSome = true ∧ j.step.inProgress = false := by decide +kernel
theorem witness_protSettings : let r := ask 0x72 32 (3 + 2 ^ 7 + 2 ^ 16 + 10 * 2 ^ 32 + 2 ^ 40 + 2 * 2 ^ 48); AskedOf (jobAsk r) 1 0x72 3 r winJob ∧ protSettingsOk r = true := by
  decide +kernel
theorem witness_snapshot : let r := ask 0x73 16 (2 ^ 112 + ref 0)
    AskedOf (jobAsk r) 1 0x73 1 r winJob ∧ pf r 127 116 = 0 ∧ refAt (jobAsk r) r (pf r 111 0) = some (0x100000, 0) ∧ imageBytes (jobAsk r) winJob ≤ 0 := by decide +kernel
theorem witness_stored : let r := ask 0x73 16 (2 * 2 ^ 112); let j := { winJob with check := { lastSnapshotNs := some 0 } }
    AskedOf { jobAsk r with jobs := [(1, j)] } 1 0x73 2 r j ∧ pf r 127 116 = 0 ∧ j.check.lastSnapshotNs = some 0 := by decide +kernel
theorem witness_copied : let j := { job1 with check := { copying := [(1, 2, 3, 4)] } }
    jobOf { up with jobs := [(1, j)] } 1 = some j ∧ j.check.copying = (1, 2, 3, 4) :: [] := by decide
/-- 12 R373: a checkpoint is due 24 hours after the job opened at the latest. -/
theorem witness_due : checkpointPassed { jobUp with clk := { now := 86400000000000 } } job1 = true ∧ job1.check.dueSent = false := by decide +kernel

theorem witness_bind : let r := ask 0x70 4 (7 + 2 ^ 20); let s := { partAsk r with fab := { memberTbl := [(7, 1)], ports := [(0, { lstate := .up })], station := 3 } }
    Asked s 0 0x70 0 r ∧ (pageOf s 0).waiting = false ∧ bit (pay r) 30 = false ∧ answersTo s (pf r 19 0) = false ∧ 1 ≤ pf r 29 20 ∧
      pf r 29 20 * 2 ^ 30 ≤ globalEnd s.nibs.grade ∧ pairBusy s = false ∧ s.pair.partner = none ∧ (guardFrames s (pf r 29 20)).isSome = true ∧
      reachable s (pf r 19 0) = true ∧ offeredTag s (pf r 19 0) = none := by decide +kernel
theorem witness_unbind : let r := ask 0x71 0 0; let s := { partAsk r with pair := { partner := some 7 } }
    Asked s 0 0x71 0 r ∧ s.pair.partner = some 7 ∧ pairBusy s = false := by decide +kernel
/-- The failed station's partner, a value of the configuration, is the part itself by an alias. -/
def assumeUp : State := { partAsk (ask 0x82 4 5) with fab := { station := 3, aliases := [(Config.partnerOf 5, 3)] } }
theorem witness_assume : let r := ask 0x82 4 5
    Asked assumeUp 0 0x82 0 r ∧ (pageOf assumeUp 0).waiting = false ∧ pf r 31 21 = 0 ∧ pf r 19 0 = 5 ∧ bit (pay r) 20 = false ∧ (5 : Nat) ≠ assumeUp.fab.station ∧
      assumeUp.jobs = [] ∧ pairFormed assumeUp = false := by decide +kernel
theorem witness_assumePartner (p : Pair) : reachable { assumeUp with fab := { assumeUp.fab with assumed := some 5 }, pair := p } (Config.partnerOf 5) = true := by
  simp [assumeUp, reachable, rdstOf, routeHop, answersTo]
theorem witness_station : let r := ask 0x80 12 0
    Asked (partAsk r) 0 0x80 0 r ∧ pf r 31 21 = 0 ∧ pf r 19 0 = (partAsk r).fab.station ∧ bit (pay r) 20 = false ∧ bit (pf r 95 32) 63 = false ∧
      bit (pf (ask 0x80 12 (2 ^ 95)) 95 32) 63 = true := by decide +kernel
/-- A route image with no section: its mask, reserved bytes and CRC-32C. -/
def routeImage : List Byte := List.replicate 64 0
def routeMem : Mem := { bytes := ((leBytes 4 (crc32c routeImage)).zipIdx.map fun x => (0x200040 + x.2, x.1)).filter fun c => c.2 != 0 }
theorem witness_route : let r := adm 0x81 24 (ref 68); let s := { partAsk r with mem := routeMem }
    Asked s 0 0x81 0 r ∧ refAt s r (pf r 111 0) = some (0x200000, 68) ∧ opRunning s 7 0 none = false ∧
      (readRoute (reachRange s 0x200000 68) 0x200000 (BitVec.ofNat 64 (pf r 175 112))).map (·.size) = some 68 ∧ pf r 191 176 = 0 ∧
      bit (rdLe (reachRange s 0x200000 68) 0x200000 4) 2 = false ∧
      crc32c (rdBytes (reachRange s 0x200000 68) 0x200000 64) = rdLe (reachRange s 0x200000 68) 0x200040 4 := by decide +kernel

theorem witness_restore : ∀ a ∈ [0, 1, 2, 3 + ref 0 * 2 ^ 80], restoreRefusal (jobAsk (ask 0x74 24 a)) (ask 0x74 24 a) = none ∧ jobOf (jobAsk (ask 0x74 24 a)) 1 = some winJob := by decide +kernel
theorem witness_restoreLocal : let s := jobAsk (ask 0x74 24 1)
    pf (ask 0x74 24 1) 79 16 = winJob.committed ∧ (winJob.prot.any (footRetired s winJob)) = false ∧
      winJob.prot.filter (fun x => frontsPoisoned s winJob x 0) = [] ∧ ([] : List Protect).all (fun x => partnerReaches s winJob x 0) = true ∧
      (jobOf (drainLost (restored s 1 0) 1) 1).isSome = true := by decide +kernel
theorem witness_rebuildNone (s : State) : rebuildAll s 1 0 [] [] = some s := rfl
/-- The partner holds a mirror slot of the tensor at step 0. -/
theorem witness_reaches : partnerReaches (pairUp {}) winJob { handle := 4, slotStep := some 0 } 0 = true := by decide +kernel
theorem witness_restoreOthers : pairFormed { jobAsk (ask 0x74 24 2) with pair := { state := 1, partner := some 7 } } = true ∧
    restorable { jobAsk (ask 0x74 24 2) with pair := { state := 1, partner := some 7 } } winJob = none ∧
    refAt (jobAsk (ask 0x74 24 (3 + ref 0 * 2 ^ 80))) (ask 0x74 24 (3 + ref 0 * 2 ^ 80)) (ref 0) = some (0x100000, 0) ∧ imageBytes winUp winJob ≤ 0 ∧ winJob.prot = [] := by decide +kernel

theorem witness_powerState : ∀ x ∈ [0, 1, 2], let r := ask 0xB0 4 (0x10 + x); Asked (partAsk r) 0 0xB0 1 r ∧ pf r 3 2 = 0 ∧ pf r 31 8 = 0 ∧ pf r 1 0 = x ∧
    (partAsk r).hub.drowsePage = none ∧ (partAsk r).acts = [] ∧ (partAsk r).jobs = [] := by decide +kernel
theorem witness_drowseWaits : let r := ask 0xB0 4 0x11; let s := { partAsk r with acts := [act opNop] }
    Asked s 0 0xB0 1 r ∧ pf r 1 0 = 1 ∧ s.acts ≠ [] ∧ s.hub.drowsePage = none := by decide +kernel
/-- Page 1 waits for Drowse while page 0 asks for Operating. -/
theorem witness_drowseGivenUp : let r := ask 0xB0 4 0x10; let k := ask 0xB0 4 0x11
    let s : State := { up with hub := { phase := 1, drowsePage := some 1, pages := [(0, { mbState := 1, taken := some r }), (1, { mbState := 1, taken := some k, waiting := true })] } }
    Asked s 0 0xB0 1 r ∧ pf r 1 0 = 0 ∧ s.hub.drowsePage = some 1 ∧ (pageOf s 1).taken = some k ∧ (pageOf s 1).waiting = true ∧ k.opcode = 0xB0 := by decide +kernel
theorem witness_drowse : let r := ask 0xB0 4 0x11; let s : State := { up with hub := { phase := 1, drowsePage := some 0, pages := [(0, { mbState := 1, taken := some r, waiting := true })] } }
    s.hub.drowsePage = some 0 ∧ s.acts = [] ∧ (pageOf s 0).taken = some r ∧ (pageOf s 0).waiting = true ∧ r.opcode = 0xB0 := by decide +kernel
/-- Signatures with a key whose digest stands in a fuse slot of the part. -/
def keyed : Signature := { verifies := true, key := 7 }
def image1 : FwImage := { version := 2, svn := 0, digest := 5, header := [], headerCrc := 0, ecdsa := keyed, lms := keyed }
def keySlots : Fw := { ecdsaSlots := [{ digest := 7 }], lmsSlots := [{ digest := 7 }] }
def fwAsk (r : Request) : State := { partAsk r with fw := keySlots }
theorem witness_stage : let r := adm 0xC0 16 (2 ^ 112 + ref 64)
    Asked (fwAsk r) 0 0xC0 1 r ∧ pf r 127 116 = 0 ∧ (refAt (fwAsk r) r (pf r 111 0)).isSome = true ∧ (fwAsk r).fw.staging = false ∧ (fwAsk r).fw.stagingPldm = false ∧
      headerOk image1 = true ∧ trusted (fwAsk r) image1.ecdsa image1.lms = true ∧ fusesNow (fwAsk r) ≤ image1.svn ∧
      imageRefusal (fwAsk r) { image1 with headerCrc := 1 } = some mbCrcFail := by decide +kernel
def pack1 : PrickPack := { version := 1, gradeMask := 7, slices := [⟨[], 9⟩], digest := 0, ecdsa := keyed, lms := keyed }
theorem witness_pack : let r := adm 0xA0 16 (ref 64)
    Asked (fwAsk r) 0 0xA0 0 r ∧ pf r 127 112 = 0 ∧ (refAt (fwAsk r) r (pf r 111 0)).isSome = true ∧ packRefusal (fwAsk r) pack1 = none := by decide +kernel
theorem witness_return : let r := ask 0xD0 4 0x52455455; pf r 31 0 = 0x52455455 ∧ (partAsk r).jobs = [] ∧ opRunning (partAsk r) 8 0 none = false ∧ (partAsk r).fw.staging = false := by
  decide +kernel
theorem witness_longOps : (∀ k ∈ [2, 3, 6, 7, 8], ([({ kind := k } : LongOp)].find? fun o => o.kind == k && o.subject == 0 && o.state == 1) = some { kind := k }) ∧
    nvReady { up with pwr := { up.pwr with aboveWarnSince := 0 } } = true ∧ up.hub.phase = 1 := by decide +kernel
theorem witness_repair : let r := ask 0xE0 24 (2 + 2 ^ 8); pf r 7 4 = 0 ∧ pf r 15 8 ≤ 240 ∧ (partAsk r).mem.jobOpened = false ∧ (rowsOf r).all (rowEntryOk (partAsk r)) = true := by
  decide +kernel
theorem witness_repairQuery : let r := adm 0xE0 16 (1 + ref 0x10000 * 2 ^ 16)
    refAt (partAsk r) r (pf r 127 16) = some (0x200000, 0x10000) ∧ (repairReport (partAsk r)).length ≤ 0x10000 := by decide +kernel
theorem witness_failover : up.pwr.hubOn = true ∧ up.hub.hubB = false ∧ tget (partAsk (ask 1 0 0)).hub.pages 0 = some { mbState := 1, taken := some (ask 1 0 0) } := by decide

/-! ### Registers, nibs, management -/

theorem witness_doorbell : let s := queueUp
    openJob s 1 = some job1 ∧ linkUp s = true ∧ jobsOk s.jobs = true ∧ queueOf s (bits (5 + 64 * 2 ^ 32) 19 0) = some queue5 ∧ queue5.job = 1 ∧ job1.halted = false ∧
      (BitVec.ofNat 32 (bits (5 + 64 * 2 ^ 32) 63 32) - queue5.head).toNat ≤ 2 ^ queue5.logSize ∧
      (queue5.tail - queue5.head).toNat ≤ (BitVec.ofNat 32 (bits (5 + 64 * 2 ^ 32) 63 32) - queue5.head).toNat := by decide +kernel
theorem witness_resume : queueOf { queueUp with queues := [(5, { queue5 with state := .rejected })] } 5 = some { queue5 with state := .rejected } := by decide
theorem witness_pins : bits 3 19 0 < job1.pinCount ∧ job1.pinCount ≤ bits 4 19 0 := by decide +kernel
/-- 08 R240: a pin addition wraps. -/
theorem test_pinAdd : (match exec (.pinAdd 1 (2 + 0xFFFF * 2 ^ 32)) jobUp with | .next t => (jobOf t 1).map (pinOf · 2) | _ => none) = some 0x10006 := by decide +kernel
theorem witness_registers : linkUp jobUp = true ∧ openJob jobUp 1 = some job1 ∧ openJob up 1 = none ∧ (pageOf up 63).mbState ≠ 1 ∧ (63 : Nat) < 64 ∧ (4095 : Nat) < 4096 ∧ [(0 : Byte), 0, 0, 0, 0, 0, 0, 0].length = 8 ∧ 0xFFFF < 0x10000 := by
  decide
theorem test_reserved_register : (match exec (.registerWrite 0 0xFFFF [1]) jobUp with | .next t => t.hub == jobUp.hub | _ => false) = true := by decide +kernel
theorem witness_aperture : let s : State := { winUp with hub := { phase := 1 } }
    linkUp s = true ∧ hbmOn s = true ∧ (List.range 8).all (fun i => bar4Byte s (0x100000 + i)) = true ∧ bar4Byte s 0 = false ∧ Memory.wf s.mem.bytes = true ∧
      Memory.wcbOk s.mem.wcb = true := by decide +kernel

def comparing : Active := { act opMatmul with stage := .comparing, nibs := [(0, 0)], shadow := true }
def shadow0 : Shadow := { sid := 9, crcs := [(1, 2)], compared := true, losers := [(0, 0, 1, 2)] }
theorem witness_compare : actOf (actUp comparing) 9 = some comparing ∧ comparing.stage = .comparing ∧ shadowOf (actUp comparing) 9 = none ∧
    [((1 : Word32), (1 : Word32))].length = comparing.nibs.length ∧ shadowRuns (actUp comparing) comparing = true := by decide +kernel
theorem witness_third : let s := { actUp comparing with shadows := [shadow0] }
    shadowOf s 9 = some shadow0 ∧ shadow0.crcs[0]? = some (1, 2) ∧ (shadow0.thirds.all fun t => t.1 != 0) = true ∧
      shadow0.losers.find? (fun l => l.1 == 0) = some (0, 0, 1, 2) := by decide
theorem witness_retire : let s : State := { up with nibs := { retiring := [(nibKey (0, 3), 1, [])] } }
    s.nibs.retiring.find? (fun r => r.1 == nibKey (0, 3)) = some (nibKey (0, 3), 1, []) ∧ (s.acts.all fun a => !a.nibs.contains (0, 3)) = true := by decide +kernel
theorem witness_slice : let s : State := { up with test := { running := [(0, 3, 0)] }, fw := { up.fw with pack := some pack1 } }
    s.test.running.find? (fun r => r.1 == 0 && r.2.1 == 3) = some (0, 3, 0) ∧ (s.test.failing.all fun f => !(f.1 == 0 && f.2.1 == 3 && f.2.2.1 == 0)) = true ∧
      pack1.slices[0]? = some ⟨[], 9⟩ := by decide
theorem test_slice_fails : (match exec (.selftestSliceEnd 0 3 8) { up with test := { running := [(0, 3, 0)] }, fw := { up.fw with pack := some pack1 } } with
    | .next t => t.test.failing | _ => []) = [(0, 3, 0, 8, 0, 0)] := by decide +kernel

def health0 : Health := { hseq := 0, sentAt := some 5 }
def healthUp : State := { up with mgmt := { ring := [(0, health0)], hseq := 1, receiver := some (.i3c, 8) } }
theorem witness_health : up.mgmt.ring.length < 1024 ∧ (0xFFFF : Nat) < 65536 ∧ (3 : Nat) < 4 := by decide
theorem witness_resend : healthUp.pwr.hubOn = true ∧ healthUp.mgmt.receiver.isSome = true ∧ openHealth healthUp = [health0] ∧ health0.sentAt.isSome = true := by decide +kernel
/-- 15 R432: a record is sent again one second after it was sent. -/
theorem test_resend : (match exec .healthResend { healthUp with clk := {} } with | .next t => t.clk.now | _ => 0) = 1000000005 := by decide +kernel

def session1 : Session := { id := 0x10001, via := .i3c, established := true }
def secureUp : State := { up with mgmt := { sessions := [session1], spdmI3c := { version := true, capabilities := true, algorithms := true } } }
theorem witness_pldm : up.pwr.hubOn = true ∧ pldmTypes.contains 0x3F = true ∧ (pldmSensor up 1).isSome = true ∧ (mgmtWord up 0).isSome = true := by decide +kernel
theorem witness_secured : secured secureUp .i3c (some 0x10001) = true ∧ secured secureUp .i3c none = false ∧ secureUp.fw.staging = false ∧ secureUp.fw.stagingPldm = false ∧
    ({ secureUp.fw with stagingPldm := true } : Fw).stagingPldm = true ∧ ({ secureUp.fw with staged := some image1 } : Fw).staged.isSome = true ∧ secureUp.fw.staged = none ∧
    secureUp.fw.content = none ∧ packRefusal { secureUp with fw := { keySlots with stagedPack := some pack1 } } pack1 = none ∧ secureUp.jobs = [] ∧ mgmtWritable 8 1 = false := by decide +kernel
theorem witness_spdm : (spdmOf secureUp .i3c).version = true ∧ (spdmOf secureUp .i3c).capabilities = true ∧ (spdmOf secureUp .i3c).algorithms = true ∧ secureUp.fw.keys = true ∧
    secureUp.fw.returnFuse = false ∧ (({ secureUp with mgmt := { secureUp.mgmt with sessions := [] } } : State).mgmt.sessions.all fun q => q.via != .i3c) = true ∧
    sessionOf { secureUp with mgmt := { sessions := [{ session1 with established := false }] } } .i3c 0x10001 = some { session1 with established := false } ∧
    (127 : Nat) < 128 ∧ secureUp.hub.phase ≠ 2 := by decide +kernel
theorem test_unsupported : (match exec (.pldmUnsupported .sgmii 1 1) up with | .next t => t.out.pldm | _ => none) = some (.sgmii, 5, []) := by decide +kernel

/-! ### Power -/

def off : State := State.reset
theorem witness_straps : off.pwr.hubOn = true ∧ off.pwr.strapsLatched = false ∧ running off = off.fw.slot0 := ⟨rfl, rfl, rfl⟩
theorem witness_boots : bootable off (running off) = true := by decide +kernel
theorem witness_enable : off.pwr.pwrEn = false ∧ (44000 : Nat) ≤ 44000 ∧ (58000 : Nat) ≤ 58000 := by decide
theorem witness_range : let s : State := { off with pwr := { pwrEn := true } }
    s.pwr.hubOn = true ∧ s.pwr.pwrEn = true ∧ s.pwr.railsOn = false ∧ s.pwr.railsRamping = false ∧ s.pwr.ovLatched = false ∧ s.pwr.thermtripLow = false := by decide
theorem witness_rails : ({ pwrEn := true, railsRamping := true } : Power).railsRamping = true ∧ ({ pwrEn := true, railsOn := true } : Power).perstN = false ∧
    ({ pwrEn := true, railsOn := true } : Power).railsOn = true := by decide
/-- The delivered image's security version is a free value of the part: one that an update has brought is used. -/
theorem witness_bringUpEnds : let s : State := { off with pwr := { strapsLatched := true, railsOn := true }, fw := { keySlots with slot0 := image1 } }
    s.pwr.strapsLatched = true ∧ s.pwr.railsOn = true ∧ s.hub.bootFailed = false ∧ s.hub.phase = 0 ∧ min 64 (running s).svn ≤ fusesNow s := by decide +kernel
/-- Its fuses advance, or wait for the supply; a return that was interrupted goes on. -/
theorem witness_advance : let s : State := { off with clk := { now := 10000000 }, pwr := { inputMv := 48000 }, fw := { keySlots with slot0 := { image1 with svn := 70 }, returnStep := 1 } }
    fusesNow s < min 64 (running s).svn ∧ nvReady s = true ∧ nvReady { s with pwr := {} } = false ∧ s.fw.returnStep ≠ 0 ∧ s.fw.returnFuse = false ∧
      ({ hubOn := false } : Power).hubOn = false := by decide +kernel
theorem witness_restarts : up.pwr.perstN = true ∧ hbmOn up = true ∧ up.pwr.hubOn = true ∧ up.pwr.strapsLatched = true ∧ up.hub.phase ≠ 0 ∧ up.hub.preserve = false ∧
    ({ preserve := true } : Hub).preserve = true ∧ jobsOk jobUp.jobs = true ∧ ({ bootFailures := 1 } : Fw).bootFailures < 2 ∧ (2 : Nat) ≤ ({ bootFailures := 2 } : Fw).bootFailures := by
  decide +kernel
theorem witness_otherSlot : bootable { off with fw := { keySlots with slot1 := image1 } } (fwSlot { off with fw := { keySlots with slot1 := image1 } } (otherSlot { off with fw := { keySlots with slot1 := image1 } })) = true := by
  decide +kernel
theorem witness_supply : up.pwr.uvWarn = false ∧ ({ uvWarn := true } : Power).uvWarn = true ∧ ({ nvStop := true } : Power).nvStop = true ∧ up.pwr.nvStop = false ∧
    43500 ≤ up.pwr.inputMv ∧ up.pwr.nvBusy = [] ∧ up.fw.content = none := by decide
theorem witness_limits : up.pwr.powerCap = false ∧ up.mgmt.ring.length < 1023 ∧ ({ powerCap := true } : Power).powerCap = true ∧ up.pwr.divPower = 1 ∧
    ({ divPower := 2 } : Power).divPower = 2 := by decide
theorem witness_trip : (31 : Nat) < 32 ∧ (115 * 8 : Int) < 921 ∧ up.pwr.railsOn = true ∧ up.pwr.leakLow = false ∧ jobsOk up.jobs = true := by decide
theorem witness_panel : up.pwr.railsOn = true ∧ up.hub.pstate ≠ 2 ∧ 7 < featPanels up ∧ tget ({ panelStopped := [(3, 5)] } : Nibs).panelStopped 3 = some 5 := by decide +kernel
/-- 16 R469, R464: UV-warn halves the nib clock. -/
theorem test_uvWarn : (match exec (.uvWarn 43000) up with | .next t => t.pwr.divisor | _ => 0) = 2 := by decide +kernel
theorem test_leak_parks : (match exec .leakDetect up with | .next t => t.hub.pstate | _ => 0) = 2 := by decide +kernel
theorem test_vendor_mode : (match exec (.jtagInstruction (.other 77)) { up with hub := { phase := 2 } } with | .refused r => r == .vendorTestMode 77 | _ => false) = true := by
  decide +kernel

end Sys2Proof.Tests
end

section
/-! Fresh scales (01 R44; 02 R57). The idea for the exponent: rounding never crosses a point of the grid, and the power of two at or below a
format's maximum is a point of its grid at every magnitude. So at the exponent that lines the leading bits of the two up no more than one step is
open: one exponent below, every magnitude clips, and one above, none does. -/

namespace Sys2Proof.Scales

open Sys2Proof.Machine

/-! ### Powers of two and the binary logarithm -/

theorem pow2_eq_zpow (e : Int) : pow2 e = (2 : Rat) ^ e := by
  unfold pow2
  split
  next h =>
    lift e to ℕ using h
    simp
  next h =>
    obtain ⟨n, rfl⟩ : ∃ n : ℕ, e = -(n : Int) := ⟨(-e).toNat, by omega⟩
    simp [Rat.mkRat_eq_div]

theorem pow2_pos (e : Int) : 0 < pow2 e := by
  rw [pow2_eq_zpow]
  positivity

theorem pow2_add (a b : Int) : pow2 (a + b) = pow2 a * pow2 b := by
  simp only [pow2_eq_zpow, zpow_add₀ (two_ne_zero' Rat)]

theorem pow2_le_pow2 {a b : Int} (h : a ≤ b) : pow2 a ≤ pow2 b := by
  simpa only [pow2_eq_zpow] using zpow_le_zpow_right₀ one_le_two h

/-- A power of two is a whole multiple of every smaller one. -/
theorem pow2_eq_natCast_mul {a b : Int} (h : b ≤ a) : ∃ n : ℕ, pow2 a = n * pow2 b := by
  refine ⟨2 ^ (a - b).toNat, ?_⟩
  have hab : pow2 (a - b) = ((2 ^ (a - b).toNat : ℕ) : Rat) := if_pos (by omega)
  rw [← hab, ← pow2_add, sub_add_cancel]

theorem natCast_bounds_log2 {n : ℕ} (h : 0 < n) : pow2 (Nat.log2 n) ≤ n ∧ (n : Rat) < pow2 (Nat.log2 n + 1) := by
  have hlo : 2 ^ Nat.log2 n ≤ n := Nat.log2_self_le h.ne'
  have hhi : n < 2 ^ (Nat.log2 n + 1) := Nat.lt_log2_self
  constructor
  · rw [pow2_eq_zpow, zpow_natCast]
    exact_mod_cast hlo
  · rw [pow2_eq_zpow, ← Nat.cast_succ, zpow_natCast]
    exact_mod_cast hhi

/-- The quotient of two naturals lies within a factor of two of the quotient of their leading powers of two. -/
theorem quotient_bounds {x : Rat} (hx : 0 < x) :
    pow2 (Nat.log2 x.num.toNat - Nat.log2 x.den - 1) ≤ x ∧ x < pow2 (Nat.log2 x.num.toNat - Nat.log2 x.den + 1) := by
  have hnum : 0 < x.num := Rat.num_pos.mpr hx
  obtain ⟨hnlo, hnhi⟩ := natCast_bounds_log2 (n := x.num.toNat) (by omega)
  obtain ⟨hdlo, hdhi⟩ := natCast_bounds_log2 x.den_pos
  have hden : (0 : Rat) < x.den := by exact_mod_cast x.den_pos
  have hxd : x * x.den = (x.num.toNat : Rat) := by
    rw [Rat.mul_den_eq_num]
    exact_mod_cast (Int.toNat_of_nonneg hnum.le).symm
  constructor
  · refine le_of_mul_le_mul_right ?_ hden
    calc pow2 (Nat.log2 x.num.toNat - Nat.log2 x.den - 1) * x.den
        ≤ pow2 (Nat.log2 x.num.toNat - Nat.log2 x.den - 1) * pow2 (Nat.log2 x.den + 1) :=
          mul_le_mul_of_nonneg_left hdhi.le (pow2_pos _).le
      _ = pow2 (Nat.log2 x.num.toNat) := by rw [← pow2_add]; congr 1; ring
      _ ≤ x * x.den := hxd ▸ hnlo
  · refine lt_of_mul_lt_mul_right ?_ hden.le
    calc x * x.den < pow2 (Nat.log2 x.num.toNat + 1) := hxd ▸ hnhi
      _ = pow2 (Nat.log2 x.num.toNat - Nat.log2 x.den + 1) * pow2 (Nat.log2 x.den) := by rw [← pow2_add]; congr 1; ring
      _ ≤ pow2 (Nat.log2 x.num.toNat - Nat.log2 x.den + 1) * x.den := mul_le_mul_of_nonneg_left hdlo (pow2_pos _).le

theorem pow2_floorLog2_le {x : Rat} (hx : 0 < x) : pow2 (floorLog2 x) ≤ x := by
  simp only [floorLog2]
  split
  · exact (quotient_bounds hx).1
  next h => exact not_lt.mp h

theorem lt_pow2_floorLog2_add_one {x : Rat} (hx : 0 < x) : x < pow2 (floorLog2 x + 1) := by
  simp only [floorLog2]
  split
  next h => rwa [sub_add_cancel]
  · exact (quotient_bounds hx).2

/-- Dividing by a power of two shifts the exponent. -/
theorem pow2_le_div_pow2 {a e : Int} {m : Rat} (h : pow2 (a + e) ≤ m) : pow2 a ≤ m / pow2 e := by
  rwa [le_div_iff₀ (pow2_pos e), ← pow2_add]

theorem div_pow2_le_pow2 {a e : Int} {m : Rat} (h : m ≤ pow2 (a + e)) : m / pow2 e ≤ pow2 a := by
  rwa [div_le_iff₀ (pow2_pos e), ← pow2_add]

/-! ### Rounding to nearest does not cross a whole number, nor a point of the grid -/

theorem le_roundNat_nearest {n : ℕ} {neg : Bool} {q : Rat} (h : (n : Rat) ≤ q) : n ≤ roundNat 0 neg q := by
  have hfloor : n ≤ q.num.toNat / q.den := by
    rw [Nat.le_div_iff_mul_le q.den_pos]
    have : (n : Int) * q.den ≤ q.num := by simpa [Rat.le_iff] using h
    omega
  simp only [roundNat]
  split
  · exact hfloor.trans (Nat.le_succ _)
  · exact hfloor

theorem roundNat_nearest_le {n : ℕ} {neg : Bool} {q : Rat} (h : q ≤ n) : roundNat 0 neg q ≤ n := by
  have hnum : q.num.toNat ≤ n * q.den := by
    have : q.num ≤ (n : Int) * q.den := by simpa [Rat.le_iff] using h
    omega
  simp only [roundNat]
  split
  next hup =>
    have hrem : q.num.toNat % q.den ≠ 0 := by
      have := q.den_pos
      intro hr
      simp [hr] at hup
      omega
    have hlt : q.num.toNat < n * q.den := by
      refine lt_of_le_of_ne hnum fun he => hrem ?_
      rw [he, Nat.mul_mod_left]
    exact (Nat.div_lt_iff_lt_mul q.den_pos).mpr hlt
  · exact Nat.div_le_of_le_mul (by rwa [mul_comm])

/-- The magnitude that `clipsIn` compares with the format's maximum: `m` rounded to the format's grid. -/
def nearGrid (t : Nat) (m : Rat) : Rat := (roundNat 0 false (m / gridStep t m) : Nat) * gridStep t m

theorem clipsIn_iff (t : Nat) (m : Rat) : clipsIn t m = true ↔ narrowMax t false < nearGrid t m := by
  simp only [clipsIn, roundMag, nearGrid]
  split <;> simp_all

section Grid

variable {t n : ℕ} {m c : Rat} (hstep : 0 < gridStep t m) (hgrid : c = n * gridStep t m)
include hstep hgrid

theorem gridPoint_le_nearGrid (h : c ≤ m) : c ≤ nearGrid t m := by
  have hn : n ≤ roundNat 0 false (m / gridStep t m) := le_roundNat_nearest (by rwa [le_div_iff₀ hstep, ← hgrid])
  rw [hgrid, nearGrid]
  exact mul_le_mul_of_nonneg_right (by exact_mod_cast hn) hstep.le

theorem nearGrid_le_gridPoint (h : m ≤ c) : nearGrid t m ≤ c := by
  have hn : roundNat 0 false (m / gridStep t m) ≤ n := roundNat_nearest_le (by rwa [div_le_iff₀ hstep, ← hgrid])
  rw [hgrid, nearGrid]
  exact mul_le_mul_of_nonneg_right (by exact_mod_cast hn) hstep.le

end Grid

/-! ### The formats with a fresh scale: K4, F4, A8, G8 and W16 -/

/-- The type codes of the formats to which 01 R44 gives a fresh scale. -/
def freshTypes : List ℕ := [1, 2, 4, 5, 6]

/-- Exponent of the leading bit of a format's maximum. -/
def topExp (t : Nat) : Int := floorLog2 (narrowMax t false)

theorem narrowMax_pos {t : Nat} (ht : t ∈ freshTypes) : 0 < narrowMax t false := by
  revert t
  decide +kernel

/-- The grid of a format is never coarser than the leading bit of its maximum (01 R41). -/
theorem gridStep_eq_pow2 {t : Nat} (ht : t ∈ freshTypes) (m : Rat) : ∃ k, gridStep t m = pow2 k ∧ k ≤ topExp t := by
  have clamp : ∀ emin emax : Int, emin ≤ emax → (if m = 0 then emin else min emax (max emin (floorLog2 m))) ≤ emax := by
    intro emin emax h
    split <;> omega
  have hone : ∀ a : Rat, a = 1 → a = pow2 0 := by
    rintro _ rfl
    rfl
  simp only [freshTypes, List.mem_cons, List.not_mem_nil, or_false] at ht
  obtain rfl | rfl | rfl | rfl | rfl := ht
  · exact ⟨0, hone _ rfl, by decide +kernel⟩
  · have := clamp 0 2 (by omega)
    have htop : topExp 2 = 2 := by decide +kernel
    exact ⟨_, rfl, by omega⟩
  · have := clamp (-6) 8 (by omega)
    have htop : topExp 4 = 8 := by decide +kernel
    exact ⟨_, rfl, by omega⟩
  · have := clamp (-14) 15 (by omega)
    have htop : topExp 5 = 15 := by decide +kernel
    exact ⟨_, rfl, by omega⟩
  · exact ⟨0, hone _ rfl, by decide +kernel⟩

/-- Every power of two from the leading bit of the maximum on is a point of the grid. -/
theorem pow2_on_grid {t : Nat} (ht : t ∈ freshTypes) (m : Rat) {a : Int} (ha : topExp t ≤ a) :
    0 < gridStep t m ∧ ∃ n : ℕ, pow2 a = n * gridStep t m := by
  obtain ⟨k, hk, hle⟩ := gridStep_eq_pow2 ht m
  rw [hk]
  exact ⟨pow2_pos k, pow2_eq_natCast_mul (hle.trans ha)⟩

theorem clipsIn_of_pow2_le {t : Nat} (ht : t ∈ freshTypes) {m : Rat} (h : pow2 (topExp t + 1) ≤ m) : clipsIn t m = true := by
  obtain ⟨hstep, n, hn⟩ := pow2_on_grid ht m (a := topExp t + 1) (by omega)
  rw [clipsIn_iff]
  exact (lt_pow2_floorLog2_add_one (narrowMax_pos ht)).trans_le (gridPoint_le_nearGrid hstep hn h)

theorem not_clipsIn_of_le_pow2 {t : Nat} (ht : t ∈ freshTypes) {m : Rat} (h : m ≤ pow2 (topExp t)) : clipsIn t m = false := by
  obtain ⟨hstep, n, hn⟩ := pow2_on_grid ht m (a := topExp t) le_rfl
  rw [← Bool.not_eq_true, clipsIn_iff, not_lt]
  exact (nearGrid_le_gridPoint hstep hn h).trans (pow2_floorLog2_le (narrowMax_pos ht))

/-! ### The exponent of a fresh scale -/

/-- The exponent that lines the leading bit of a magnitude up with the leading bit of its format's maximum. -/
def alignExp (t : Nat) (m : Rat) : Int := floorLog2 m - topExp t

theorem clipsIn_below_alignExp {t : Nat} (ht : t ∈ freshTypes) {m : Rat} (hm : 0 < m) {e : Int} (he : e < alignExp t m) :
    clipsIn t (m / pow2 e) = true := by
  refine clipsIn_of_pow2_le ht (pow2_le_div_pow2 ?_)
  have hle : topExp t + 1 + e ≤ floorLog2 m := by unfold alignExp at he; omega
  exact (pow2_le_pow2 hle).trans (pow2_floorLog2_le hm)

theorem not_clipsIn_alignExp_add_one {t : Nat} (ht : t ∈ freshTypes) {m : Rat} (hm : 0 < m) :
    clipsIn t (m / pow2 (alignExp t m + 1)) = false := by
  refine not_clipsIn_of_le_pow2 ht (div_pow2_le_pow2 ?_)
  have heq : topExp t + (alignExp t m + 1) = floorLog2 m + 1 := by unfold alignExp; omega
  exact heq ▸ (lt_pow2_floorLog2_add_one hm).le

theorem freshExp_eq {t : Nat} (ht : t ∈ freshTypes) {m : Rat} (hm : 0 < m) :
    freshExp t m = if clipsIn t (m / pow2 (alignExp t m)) then alignExp t m + 1 else alignExp t m := by
  have hbelow := clipsIn_below_alignExp ht hm (sub_one_lt (alignExp t m))
  have habove := not_clipsIn_alignExp_add_one ht hm
  change (([alignExp t m - 1, alignExp t m, alignExp t m + 1].find? fun e => !clipsIn t (m / pow2 e)).getD _) = _
  cases hat : clipsIn t (m / pow2 (alignExp t m)) <;> simp [List.find?, hbelow, habove, hat]

theorem not_clipsIn_freshExp {t : Nat} (ht : t ∈ freshTypes) {m : Rat} (hm : 0 < m) : clipsIn t (m / pow2 (freshExp t m)) = false := by
  rw [freshExp_eq ht hm]
  split
  · exact not_clipsIn_alignExp_add_one ht hm
  next h => simpa using h

theorem clipsIn_below_freshExp {t : Nat} (ht : t ∈ freshTypes) {m : Rat} (hm : 0 < m) {e : Int} (he : e < freshExp t m) :
    clipsIn t (m / pow2 e) = true := by
  rw [freshExp_eq ht hm] at he
  split at he
  next hat =>
    obtain hlt | rfl : e < alignExp t m ∨ e = alignExp t m := by omega
    · exact clipsIn_below_alignExp ht hm hlt
    · exact hat
  · exact clipsIn_below_alignExp ht hm he

/-! ### The magnitude that a fresh scale rests on -/

theorem insDesc_perm (l : List Rat) (x : Rat) : (insDesc l x).Perm (x :: l) := by
  induction l with
  | nil => exact .refl _
  | cons y r ih =>
    rw [insDesc]
    split
    · exact .refl _
    · exact (ih.cons y).trans (.swap x y r)

theorem insDesc_pairwise {l : List Rat} (h : l.Pairwise fun x y => y ≤ x) (x : Rat) : (insDesc l x).Pairwise fun x y => y ≤ x := by
  induction l with
  | nil => exact List.pairwise_singleton _ x
  | cons y r ih =>
    obtain ⟨hy, hr⟩ := List.pairwise_cons.mp h
    rw [insDesc]
    split
    next hyx => exact List.pairwise_cons.mpr ⟨List.forall_mem_cons.mpr ⟨hyx.le, fun z hz => (hy z hz).trans hyx.le⟩, h⟩
    next hyx =>
      refine List.pairwise_cons.mpr ⟨fun z hz => ?_, ih hr⟩
      obtain rfl | hz := List.mem_cons.mp ((insDesc_perm r x).mem_iff.mp hz)
      · exact not_lt.mp hyx
      · exact hy z hz

/-- Inserting a list's values one by one keeps the order and adds exactly those values. -/
theorem foldl_insDesc (l : List Rat) {d : List Rat} (hd : d.Pairwise fun x y => y ≤ x) :
    (l.foldl insDesc d).Perm (l ++ d) ∧ (l.foldl insDesc d).Pairwise fun x y => y ≤ x := by
  induction l generalizing d with
  | nil => exact ⟨.refl _, hd⟩
  | cons x l ih =>
    obtain ⟨hperm, hsorted⟩ := ih (insDesc_pairwise hd x)
    exact ⟨hperm.trans (((insDesc_perm d x).append_left l).trans List.perm_middle), hsorted⟩

theorem foldl_insDesc_eq {l d : List Rat} (hperm : d.Perm l) (hd : d.Pairwise fun x y => y ≤ x) : l.foldl insDesc [] = d := by
  obtain ⟨hp, hs⟩ := foldl_insDesc l List.Pairwise.nil
  rw [List.append_nil] at hp
  exact (hp.trans hperm.symm).eq_of_pairwise (fun _ _ _ _ hab hba => le_antisymm hba hab) hs hd

theorem amaxOf_gimp {l d : List Rat} (hperm : d.Perm l) (hd : d.Pairwise fun x y => y ≤ x) :
    amaxOf true l = d.getD 2 (d.getLastD 0) := by
  simp [amaxOf, foldl_insDesc_eq hperm hd]

theorem amaxOf_plain {l d : List Rat} (hperm : d.Perm l) (hd : d.Pairwise fun x y => y ≤ x) : amaxOf false l = d.headD 0 := by
  simp [amaxOf, foldl_insDesc_eq hperm hd]

section Magnitude

variable {l d : List Rat} (hperm : d.Perm l) (hd : d.Pairwise fun x y => y ≤ x)
include hperm hd

theorem amaxOf_gimp_third (hlen : 3 ≤ l.length) : amaxOf true l = d.getD 2 0 := by
  have h2 : 2 < d.length := by rw [hperm.length_eq]; omega
  simp [amaxOf_gimp hperm hd, h2]

theorem amaxOf_gimp_smallest (hne : l ≠ []) (hlen : l.length < 3) : amaxOf true l ∈ l ∧ ∀ x ∈ l, amaxOf true l ≤ x := by
  rw [← hperm.length_eq] at hlen
  simp only [← hperm.mem_iff, amaxOf_gimp hperm hd]
  match d, hlen, hd with
  | [], _, _ => exact absurd hperm.nil_eq.symm hne
  | [a], _, _ => simp
  | [a, b], _, hd => simpa using hd

theorem amaxOf_plain_largest (hne : l ≠ []) : amaxOf false l ∈ l ∧ ∀ x ∈ l, x ≤ amaxOf false l := by
  simp only [← hperm.mem_iff, amaxOf_plain hperm hd]
  cases d with
  | nil => exact absurd hperm.nil_eq.symm hne
  | cons a r => simpa using (List.pairwise_cons.mp hd).1

end Magnitude

/-- Settles O10: the sorted list of a block's magnitudes is unique, so `amaxOf` reads its third, its last or its first value; and a fresh exponent is
the one that lines the leading bits up, or the next when the magnitude still clips there. -/
theorem freshScales : Obligations.FreshScales := by
  unfold Obligations.FreshScales
  refine ⟨fun l d hperm hd hne => ?_, fun t ht m hm => ?_⟩
  · exact ⟨amaxOf_gimp_third hperm hd, amaxOf_gimp_smallest hperm hd hne, amaxOf_plain_largest hperm hd hne⟩
  · exact ⟨not_clipsIn_freshExp ht hm, fun e he => clipsIn_below_freshExp ht hm he⟩

end Sys2Proof.Scales
end

section
/-! Refused requests of the mailbox (14 R411 to R414). The idea for the rows: each of them runs its command through `runCmd` or `runThen`, which look at
the refusal before they look at the command, so a refused request never reaches what its row does. -/

namespace Sys2Proof.Mailbox

open Sys2Proof Sys2Proof.Machine

variable {s : State} {p op act st : Nat} {r : Request}

/-! ### The request whose turn has come -/

theorem not_waiting_of_nextRequest (h : nextRequest s p = some r) : ¬(pageOf s p).waiting = true := by
  intro hwait
  unfold nextRequest at h
  split at h
  · cases h
  · cases (if_pos hwait).symm.trans h

theorem isRow_iff : isRow r op act = true ↔ r.opcode = op ∧ (actionOfReq r = act ∨ actionDefined r = false) := by
  simp [isRow]

/-! ### What a run answers to a refused request, and to one that meets a long operation -/

section Run

variable (hnext : nextRequest s p = some r) (hrow : isRow r op act = true)
include hnext hrow

theorem runCmd_refused (hst : refusal s p r = some st) (f : Request → State → Reply) : runCmd s p op act f = .next (answerRequest s p r st []) := by
  simp [runCmd, hnext, hrow, hst]

theorem runThen_refused (hst : refusal s p r = some st) (f : Request → State → Reply) (g : State → State) :
    runThen s p op act f g = .next (answerRequest s p r st []) := by
  simp [runThen, hnext, hrow, hst]

theorem runCmd_busy (hnone : refusal s p r = none) (hlong : meetsLong s r = true) {f : Request → State → Reply} (hgood : (f r s).status ≠ mbBadField) :
    runCmd s p op act f = .next (answerRequest s p r mbBusy []) := by
  have hbusy : orBusy s r (f r s) = fail s mbBusy := by simp [orBusy, hlong, hgood]
  simp [runCmd, hnext, hrow, hnone, hbusy, fail]

end Run

/-! ### Every row runs its command behind the checks -/

/-- An outcome is that of a run of the command with this opcode and action. -/
inductive RunsRow (s : State) (p op act : Nat) : Host.Outcome State Fault Refusal → Prop
  | cmd (f : Request → State → Reply) : RunsRow s p op act (runCmd s p op act f)
  | thenActs (f : Request → State → Reply) (g : State → State) : RunsRow s p op act (runThen s p op act f g)

theorem RunsRow.refused {o : Host.Outcome State Fault Refusal} (h : RunsRow s p op act o) (hnext : nextRequest s p = some r) (hrow : isRow r op act = true)
    (hst : refusal s p r = some st) : o = .next (answerRequest s p r st []) := by
  cases h with
  | cmd f => exact runCmd_refused hnext hrow hst f
  | thenActs f g => exact runThen_refused hnext hrow hst f g

theorem RunsRow.ite_neg {c : Prop} [Decidable c] {a b : Host.Outcome State Fault Refusal} (hc : ¬c) (h : RunsRow s p op act b) :
    RunsRow s p op act (if c then a else b) := by
  rwa [if_neg hc]

/-- The rows of PAIR_BIND and SPARE_ASSUME first look whether their command already waits for the partner; two others have an effect that follows
their answer; the rest run their command and no more. -/
theorem mailboxRows_run (hwait : ¬(pageOf s p).waiting = true) : ∀ x ∈ mailboxRows, RunsRow s p x.2.1 x.2.2 (exec (x.1 p) s) := by
  have hbind : RunsRow s p 0x70 0 (exec (.pairBind p) s) := .ite_neg hwait (.cmd _)
  have hassume : RunsRow s p 0x82 0 (exec (.spareAssume p) s) := .ite_neg hwait (.cmd _)
  have hrestart : RunsRow s p 0xB0 3 (exec (.powerStateRestart p) s) := .thenActs (fun r s => _) warmRestart
  have hactivate : RunsRow s p 0xC0 2 (exec (.fwUpdateActivate p) s) := .thenActs (fun r s => _) fun s => warmRestart (activateSlot s)
  simp only [mailboxRows, List.forall_mem_append, List.forall_mem_cons, hbind, hassume, hrestart, hactivate, true_and, List.not_mem_nil,
    IsEmpty.forall_iff, implies_true, and_true]
  and_intros <;> apply RunsRow.cmd

theorem prickingLoad_runs (k : PrickPack) : RunsRow s p 0xA0 0 (exec (.prickingLoad p k) s) := by
  apply RunsRow.cmd

theorem restoreLocal_runs (l : List PeerCopy) : RunsRow s p 0x74 1 (exec (.restoreLocal ⟨p, l⟩) s) := by
  apply RunsRow.cmd

theorem fwUpdateStage_runs (i : FwImage) : RunsRow s p 0xC0 1 (exec (.fwUpdateStage p i) s) := by
  apply RunsRow.cmd

/-! ### The checks of a request -/

/-- `NOT_READY` outside operation (14 R412), and for JOB_OPEN in Park (14 R411, check 5): every later check has a status of its own. -/
theorem refusal_eq_notReady_iff : refusal s p r = some mbNotReady ↔
    (s.hub.phase ≠ 1 ∧ r.opcode ≠ 0x01 ∧ (s.hub.bootFailed = true ∨ r.opcode ≠ 0x02 ∧ r.opcode ≠ 0x90)) ∨
      (r.opcode = 0x10 ∧ s.hub.pstate = 2) := by
  rw [refusal]
  split_ifs with hphase hpark
  · simp_all
  · simp_all
  all_goals simp_all [mbNotReady, mbNotOwner, mbNoJob, mbHalted, mbBadField]

theorem haltedOk_iff : haltedOk r = true ↔
    r.opcode = 0x12 ∨ r.opcode = 0x11 ∨ (r.opcode = 0x74 ∧ actionOfReq r = 0) ∨ r.opcode = 0x90 ∨ r.opcode = 0x21 := by
  simp only [haltedOk, Bool.or_eq_true, Bool.and_eq_true, beq_iff_eq]
  tauto

/-- A request of an open job from its own page, on a part that runs: only its halt and the header's fields are left to check. -/
theorem refusal_of_ownJob {j : Job} (hphase : s.hub.phase = 1) (hpark : s.hub.pstate ≠ 2) (hscope : scopeOf r = .job) (hjob : jobOf s r.job = some j)
    (hpage : j.page = p) (hadmin : isAdmin r = false) (hopen : j.closing = false) :
    refusal s p r =
      if haltedOk r = false ∧ j.halted = true then some mbHalted else if r.rsv = true ∨ actionDefined r = false then some mbBadField else none := by
  have hpark' : (s.hub.pstate == 2) = false := beq_false_of_ne hpark
  simp only [refusal, hpark', hphase, hscope, hjob, hadmin]
  simp [hpage, hopen]

/-! ### The obligations -/

/-- Settles O39: `NOT_READY` by the phase alone, a refused request because every row runs its command behind the checks, and `BUSY` by `runCmd`. -/
theorem bringUpRefuses : Obligations.BringUpRefuses := by
  unfold Obligations.BringUpRefuses
  refine ⟨fun s p r hphase => ⟨fun h1 h2 h90 => ?_, fun hboots hop => ?_⟩, fun x hx s p st r hnext hop hact hst => ?_, fun s p st r hnext hst => ?_,
    fun s p op act r f hnext hop hact hnone hlong hgood => ?_⟩
  · exact refusal_eq_notReady_iff.mpr (.inl ⟨hphase, h1, .inr ⟨h2, h90⟩⟩)
  · rw [Ne, refusal_eq_notReady_iff, hboots]
    simp only [Bool.false_eq_true, false_or]
    omega
  · exact (mailboxRows_run (not_waiting_of_nextRequest hnext) x hx).refused hnext (isRow_iff.mpr ⟨hop, hact⟩) hst
  · have hrow {op act : Nat} (hop : r.opcode = op) (hact : actionOfReq r = act) : isRow r op act = true := isRow_iff.mpr ⟨hop, .inl hact⟩
    exact ⟨fun k hop hact => (prickingLoad_runs k).refused hnext (hrow hop hact) hst,
      fun l hop hact => (restoreLocal_runs l).refused hnext (hrow hop hact) hst,
      fun i hop hact => (fwUpdateStage_runs i).refused hnext (hrow hop hact) hst⟩
  · exact runCmd_busy hnext (isRow_iff.mpr ⟨hop, .inl hact⟩) hnone hlong hgood

/-- Settles O40: from the job's own page only its halt is left to check, and `haltedOk` lists the five commands. -/
theorem haltedJobRefuses : Obligations.HaltedJobRefuses := by
  unfold Obligations.HaltedJobRefuses
  intro s p r j hphase hpark hscope hjob hpage hadmin hopen hhalted
  rw [refusal_of_ownJob hphase hpark hscope hjob hpage hadmin hopen]
  refine ⟨fun hop hrsv hact => ?_, fun h12 h11 h74 h90 h21 => ?_⟩
  · simp [haltedOk_iff.mpr hop, hrsv, hact]
  · have hother : haltedOk r = false := by
      rw [← Bool.not_eq_true, haltedOk_iff]
      tauto
    simp [hother, hhalted]

end Sys2Proof.Mailbox
end

section
/-! What every step keeps. Each row of the table keeps the guarded fields (`Laws/Keep*.lean`); this file joins the rows over `exec` and `step`. -/

namespace Sys2Proof.Steps

open Sys2Proof Sys2Proof.Machine Sys2Proof.Laws

/-- Every row keeps what its own lemma of `Laws/Keep*.lean` says. -/
theorem exec_goes (s : State) : ∀ c : Instr, Goes s (exec c s)
  | .stitchAdmit _ => execStitchAdmit_keeps (.refl s) _
  | .nop _ => execNop_keeps (.refl s) _
  | .commit _ => execCommit_keeps (.refl s) _
  | .matmul _ => execMatmul_keeps (.refl s) _
  | .gatherMm _ => execGatherMm_keeps (.refl s) _
  | .route _ => execRoute_keeps (.refl s) _
  | .convert _ => execConvert_keeps (.refl s) _
  | .deriv _ => execDeriv_keeps (.refl s) _
  | .update _ => execUpdate_keeps (.refl s) _
  | .vscript _ => execVscript_keeps (.refl s) _
  | .vscriptRunStart _ _ => execVscriptRunStart_keeps (.refl s) _ _
  | .copy _ => execCopy_keeps (.refl s) _
  | .fetch _ => execFetch_keeps (.refl s) _
  | .gather _ => execGather_keeps (.refl s) _
  | .scatter _ => execScatter_keeps (.refl s) _
  | .stashFree _ => execStashFree_keeps (.refl s) _
  | .reduce _ => execReduce_keeps (.refl s) _
  | .multicast _ => execMulticast_keeps (.refl s) _
  | .send _ => execSend_keeps (.refl s) _
  | .check _ => execCheck_keeps (.refl s) _
  | .groundInject _ => execGroundInject_keeps (.refl s) _
  | .stitchComplete _ _ => execStitchComplete_keeps (.refl s) _ _
  | .watchResponse _ => execWatchResponse_keeps (.refl s) _
  | .stitchGroupReplay _ => execStitchGroupReplay_keeps (.refl s) _
  | .stitchGroupReplayDone _ => execStitchGroupReplayDone_keeps (.refl s) _
  | .stepReplay _ => execStepReplay_keeps (.refl s) _
  | .commitVoteSend _ => execCommitVoteSend_keeps (.refl s) _
  | .commitVoteResult _ _ => execCommitVoteResult_keeps (.refl s) _ _
  | .mirrorDrainComplete _ _ => execMirrorDrainComplete_keeps (.refl s) _ _
  | .stashMoveComplete _ _ => execStashMoveComplete_keeps (.refl s) _ _
  | .stashRecallComplete _ _ => execStashRecallComplete_keeps (.refl s) _ _
  | .stashRecompute _ => execStashRecompute_keeps (.refl s) _
  | .tileQueuePush _ _ => execTileQueuePush_keeps (.refl s) _ _
  | .setvl _ _ => execSetvl_keeps (.refl s) _ _
  | .jmp _ _ => execJmp_keeps (.refl s) _ _
  | .bzvl _ _ => execBzvl_keeps (.refl s) _ _
  | .btqe _ _ => execBtqe_keeps (.refl s) _ _
  | .currun _ _ => execCurrun_keeps (.refl s) _ _
  | .endRun _ _ => execEndRun_keeps (.refl s) _ _
  | .setrm _ _ => execSetrm_keeps (.refl s) _ _
  | .vld _ _ => execVld_keeps (.refl s) _ _
  | .vst _ _ => execVst_keeps (.refl s) _ _
  | .vgath _ _ => execVgath_keeps (.refl s) _ _
  | .vscat _ _ => execVscat_keeps (.refl s) _ _
  | .tqpop _ _ => execTqpop_keeps (.refl s) _ _
  | .vldt _ _ => execVldt_keeps (.refl s) _ _
  | .vstt _ _ => execVstt_keeps (.refl s) _ _
  | .vmovi _ _ => execVmovi_keeps (.refl s) _ _
  | .vadd _ _ => execVadd_keeps (.refl s) _ _
  | .vsub _ _ => execVsub_keeps (.refl s) _ _
  | .vmul _ _ => execVmul_keeps (.refl s) _ _
  | .vfma _ _ => execVfma_keeps (.refl s) _ _
  | .vfnma _ _ => execVfnma_keeps (.refl s) _ _
  | .vdiv _ _ => execVdiv_keeps (.refl s) _ _
  | .vsqrt _ _ => execVsqrt_keeps (.refl s) _ _
  | .vmin _ _ => execVmin_keeps (.refl s) _ _
  | .vmax _ _ => execVmax_keeps (.refl s) _ _
  | .vabs _ _ => execVabs_keeps (.refl s) _ _
  | .vneg _ _ => execVneg_keeps (.refl s) _ _
  | .vcvt _ _ => execVcvt_keeps (.refl s) _ _
  | .vrndi _ _ => execVrndi_keeps (.refl s) _ _
  | .vand _ _ => execVand_keeps (.refl s) _ _
  | .vor _ _ => execVor_keeps (.refl s) _ _
  | .vxor _ _ => execVxor_keeps (.refl s) _ _
  | .vshl _ _ => execVshl_keeps (.refl s) _ _
  | .vshr _ _ => execVshr_keeps (.refl s) _ _
  | .vexp2 _ _ => execVexp2_keeps (.refl s) _ _
  | .vlog2 _ _ => execVlog2_keeps (.refl s) _ _
  | .vrcp _ _ => execVrcp_keeps (.refl s) _ _
  | .vrsq _ _ => execVrsq_keeps (.refl s) _ _
  | .vtanh _ _ => execVtanh_keeps (.refl s) _ _
  | .vcmp _ _ => execVcmp_keeps (.refl s) _ _
  | .mand _ _ => execMand_keeps (.refl s) _ _
  | .mor _ _ => execMor_keeps (.refl s) _ _
  | .mnot _ _ => execMnot_keeps (.refl s) _ _
  | .vsel _ _ => execVsel_keeps (.refl s) _ _
  | .rsum _ _ => execRsum_keeps (.refl s) _ _
  | .rssq _ _ => execRssq_keeps (.refl s) _ _
  | .rmax _ _ => execRmax_keeps (.refl s) _ _
  | .rmin _ _ => execRmin_keeps (.refl s) _ _
  | .ramax _ _ => execRamax_keeps (.refl s) _ _
  | .rget _ _ => execRget_keeps (.refl s) _ _
  | .rbcast _ _ => execRbcast_keeps (.refl s) _ _
  | .rset _ _ => execRset_keeps (.refl s) _ _
  | .veInstructionLimit _ _ => execVeInstructionLimit_keeps (.refl s) _ _
  | .strokeEdge => execStrokeEdge_keeps (.refl s)
  | .strokeMarkReceive _ _ _ _ => execStrokeMarkReceive_keeps (.refl s) _ _ _ _
  | .strokeMarkMissed _ => execStrokeMarkMissed_keeps (.refl s) _
  | .holdoverTimeout => execHoldoverTimeout_keeps (.refl s)
  | .strokeRefEdge _ => execStrokeRefEdge_keeps (.refl s) _
  | .strokeRefMissing => execStrokeRefMissing_keeps (.refl s)
  | .flitSend _ => execFlitSend_keeps (.refl s) _
  | .flitReceive _ _ _ => execFlitReceive_keeps (.refl s) _ _ _
  | .nak _ _ => execNak_keeps (.refl s) _ _
  | .flitStallTimeout _ _ => execFlitStallTimeout_keeps (.refl s) _ _
  | .portTrainStart _ => execPortTrainStart_keeps (.refl s) _
  | .portTrainComplete _ _ _ _ => execPortTrainComplete_keeps (.refl s) _ _ _ _
  | .portTrainTimeout _ => execPortTrainTimeout_keeps (.refl s) _
  | .retrain _ => execRetrain_keeps (.refl s) _
  | .retrainComplete _ _ _ => execRetrainComplete_keeps (.refl s) _ _ _
  | .linkDownFlit _ => execLinkDownFlit_keeps (.refl s) _
  | .portRetryTimer _ => execPortRetryTimer_keeps (.refl s) _
  | .messageForward _ _ => execMessageForward_keeps (.refl s) _ _
  | .write _ _ _ _ => execWrite_keeps (.refl s) _ _ _ _
  | .writeEnd _ => execWriteEnd_keeps (.refl s) _
  | .ack _ => execAck_keeps (.refl s) _
  | .nack _ => execNack_keeps (.refl s) _
  | .unreach _ => execUnreach_keeps (.refl s) _
  | .redUp _ _ _ => execRedUp_keeps (.refl s) _ _ _
  | .redDown _ _ _ => execRedDown_keeps (.refl s) _ _ _
  | .haltNotice _ => execHaltNotice_keeps (.refl s) _
  | .stepReplayRequest _ => execStepReplayRequest_keeps (.refl s) _
  | .aliasMessage _ _ _ => execAliasMessage_keeps (.refl s) _ _ _
  | .control _ _ => execControl_keeps (.refl s) _ _
  | .mgmt _ _ => execMgmt_keeps (.refl s) _ _
  | .mirror hdr data poisoned => execMirror_keeps (.refl s) hdr data poisoned
  | .journal _ _ _ => execJournal_keeps (.refl s) _ _ _
  | .transactionTimeout _ _ => execTransactionTimeout_keeps (.refl s) _ _
  | .heldMessageTimeout _ => execHeldMessageTimeout_keeps (.refl s) _
  | .journalGapTimeout => execJournalGapTimeout_keeps (.refl s)
  | .wcbWrite _ _ _ => execWcbWrite_keeps (.refl s) _ _ _
  | .wcbHoldTimeout _ => execWcbHoldTimeout_keeps (.refl s) _
  | .hbmGranuleRead _ _ _ => execHbmGranuleRead_keeps (.refl s) _ _ _
  | .requestPromote _ _ => execRequestPromote_keeps (.refl s) _ _
  | .scrubRead _ => execScrubRead_keeps (.refl s) _
  | .zeroiseComplete _ => execZeroiseComplete_keeps (.refl s) _
  | .unmapTakeEffect _ _ => execUnmapTakeEffect_keeps (.refl s) _ _
  | .nvWriteRetry => execNvWriteRetry_keeps (.refl s)
  | .shadowComplete _ _ => execShadowComplete_keeps (.refl s) _ _
  | .thirdExecComplete _ _ _ _ => execThirdExecComplete_keeps (.refl s) _ _ _ _
  | .loserRepeatComplete _ _ _ => execLoserRepeatComplete_keeps (.refl s) _ _ _
  | .nibRetireComplete _ _ => execNibRetireComplete_keeps (.refl s) _ _
  | .selftestSliceEnd _ _ _ => execSelftestSliceEnd_keeps (.refl s) _ _ _
  | .checkpointDue _ => execCheckpointDue_keeps (.refl s) _
  | .longOperationEnd _ _ _ => execLongOperationEnd_keeps (.refl s) _ _ _
  | .dbTail _ _ => execDbTail_keeps (.refl s) _ _
  | .qResumeRetry _ _ => execQResumeRetry_keeps (.refl s) _ _
  | .qResumeSkip _ _ => execQResumeSkip_keeps (.refl s) _ _
  | .pinAdd _ _ => execPinAdd_keeps (.refl s) _ _
  | .registerWrite _ _ _ => execRegisterWrite_keeps (.refl s) _ _ _
  | .bar4Read _ _ => execBar4Read_keeps (.refl s) _ _
  | .bar4Write _ _ _ => execBar4Write_keeps (.refl s) _ _ _
  | .identify _ => execIdentify_keeps (.refl s) _
  | .readFeatures _ => execReadFeatures_keeps (.refl s) _
  | .jobOpen _ => execJobOpen_keeps (.refl s) _
  | .jobClose _ => execJobClose_keeps (.refl s) _
  | .jobReset _ => execJobReset_keeps (.refl s) _
  | .mapWindow _ => execMapWindow_keeps (.refl s) _
  | .unmapWindow _ => execUnmapWindow_keeps (.refl s) _
  | .queueCreate _ => execQueueCreate_keeps (.refl s) _
  | .queueDestroy _ => execQueueDestroy_keeps (.refl s) _
  | .handleTableSet _ => execHandleTableSet_keeps (.refl s) _
  | .strokeSetPart _ => execStrokeSetPart_keeps (.refl s) _
  | .strokeSetJob _ => execStrokeSetJob_keeps (.refl s) _
  | .watchSet _ => execWatchSet_keeps (.refl s) _
  | .ladderSetLevels _ => execLadderSetLevels_keeps (.refl s) _
  | .ladderSetMap _ => execLadderSetMap_keeps (.refl s) _
  | .ladderSetClear _ => execLadderSetClear_keeps (.refl s) _
  | .stashPolicy _ => execStashPolicy_keeps (.refl s) _
  | .pairBind _ => execPairBind_keeps (.refl s) _
  | .pairUnbind _ => execPairUnbind_keeps (.refl s) _
  | .protectRegister _ => execProtectRegister_keeps (.refl s) _
  | .protectUnregister _ => execProtectUnregister_keeps (.refl s) _
  | .protectSettings _ => execProtectSettings_keeps (.refl s) _
  | .checkpointSnapshot _ => execCheckpointSnapshot_keeps (.refl s) _
  | .checkpointStored _ => execCheckpointStored_keeps (.refl s) _
  | .restoreQuery _ => execRestoreQuery_keeps (.refl s) _
  | .restoreLocal _ => execRestoreLocal_keeps (.refl s) _
  | .restorePartner _ => execRestorePartner_keeps (.refl s) _
  | .restoreImage _ => execRestoreImage_keeps (.refl s) _
  | .stationSet _ => execStationSet_keeps (.refl s) _
  | .routeLoad _ => execRouteLoad_keeps (.refl s) _
  | .spareAssume _ => execSpareAssume_keeps (.refl s) _
  | .progressQuery _ => execProgressQuery_keeps (.refl s) _
  | .prickingLoad _ _ => execPrickingLoad_keeps (.refl s) _ _
  | .powerStateEnter _ => execPowerStateEnter_keeps (.refl s) _
  | .drowseEntry _ => execDrowseEntry_keeps (.refl s) _
  | .powerStatePreserve _ => execPowerStatePreserve_keeps (.refl s) _
  | .powerStateRestart _ => execPowerStateRestart_keeps (.refl s) _
  | .fwUpdateStage _ _ => execFwUpdateStage_keeps (.refl s) _ _
  | .fwUpdateActivate _ => execFwUpdateActivate_keeps (.refl s) _
  | .fwUpdateDiscard _ => execFwUpdateDiscard_keeps (.refl s) _
  | .returnPrepare _ => execReturnPrepare_keeps (.refl s) _
  | .hbmRepairQuery _ => execHbmRepairQuery_keeps (.refl s) _
  | .hbmRepairSoft _ => execHbmRepairSoft_keeps (.refl s) _
  | .hbmRepairHard _ => execHbmRepairHard_keeps (.refl s) _
  | .hbmRepairHardLogged _ => execHbmRepairHardLogged_keeps (.refl s) _
  | .hubFailover => execHubFailover_keeps (.refl s)
  | .healthResend => execHealthResend_keeps (.refl s)
  | .healthAck _ => execHealthAck_keeps (.refl s) _
  | .getTid _ => execGetTid_keeps (.refl s) _
  | .getPldmVersion _ _ => execGetPldmVersion_keeps (.refl s) _ _
  | .getPldmTypes _ => execGetPldmTypes_keeps (.refl s) _
  | .getPldmCommands _ _ => execGetPldmCommands_keeps (.refl s) _ _
  | .setEventReceiver _ _ _ => execSetEventReceiver_keeps (.refl s) _ _ _
  | .getSensorReading _ _ => execGetSensorReading_keeps (.refl s) _ _
  | .requestUpdate _ _ _ => execRequestUpdate_keeps (.refl s) _ _ _
  | .activateFirmware _ _ => execActivateFirmware_keeps (.refl s) _ _
  | .pldmFwTransfer _ _ _ _ _ => execPldmFwTransfer_keeps (.refl s) _ _ _ _ _
  | .mgmtRead _ _ _ => execMgmtRead_keeps (.refl s) _ _ _
  | .mgmtWrite _ _ _ _ => execMgmtWrite_keeps (.refl s) _ _ _ _
  | .pldmUnsupported via pldmType code => execPldmUnsupported_keeps (.refl s) via pldmType code
  | .getVersion _ => execGetVersion_keeps (.refl s) _
  | .getCapabilities _ => execGetCapabilities_keeps (.refl s) _
  | .negotiateAlgorithms _ _ => execNegotiateAlgorithms_keeps (.refl s) _ _
  | .getDigests _ => execGetDigests_keeps (.refl s) _
  | .getCertificate _ _ _ _ => execGetCertificate_keeps (.refl s) _ _ _ _
  | .challenge _ _ _ => execChallenge_keeps (.refl s) _ _ _
  | .getMeasurements _ _ _ => execGetMeasurements_keeps (.refl s) _ _ _
  | .keyExchange _ _ _ => execKeyExchange_keeps (.refl s) _ _ _
  | .finish _ _ _ => execFinish_keeps (.refl s) _ _ _
  | .endSession _ _ => execEndSession_keeps (.refl s) _ _
  | .heartbeat _ _ => execHeartbeat_keeps (.refl s) _ _
  | .powerOnReset => execPowerOnReset_keeps (.refl s)
  | .strapLatch _ _ => execStrapLatch_keeps (.refl s) _ _
  | .pwrEnRise _ => execPwrEnRise_keeps (.refl s) _
  | .pwrGoodRelease => execPwrGoodRelease_keeps (.refl s)
  | .bringUpComplete => execBringUpComplete_keeps (.refl s)
  | .pwrEnFall => execPwrEnFall_keeps (.refl s)
  | .perstNReset => execPerstNReset_keeps (.refl s)
  | .ohmubWarmRestart => execOhmubWarmRestart_keeps (.refl s)
  | .hubWatchdog => execHubWatchdog_keeps (.refl s)
  | .uvWarn _ => execUvWarn_keeps (.refl s) _
  | .sag _ _ => execSag_keeps (.refl s) _ _
  | .nvStop => execNvStop_keeps (.refl s)
  | .nvStopClear => execNvStopClear_keeps (.refl s)
  | .uvReset => execUvReset_keeps (.refl s)
  | .ovStop _ => execOvStop_keeps (.refl s) _
  | .pairImbalance _ => execPairImbalance_keeps (.refl s) _
  | .powerLimit => execPowerLimit_keeps (.refl s)
  | .powerLimitClear => execPowerLimitClear_keeps (.refl s)
  | .sensorPoll _ => execSensorPoll_keeps (.refl s) _
  | .thermalTrip _ => execThermalTrip_keeps (.refl s) _
  | .leakDetect => execLeakDetect_keeps (.refl s)
  | .panelReset _ => execPanelReset_keeps (.refl s) _
  | .panelHeartbeatTimeout _ => execPanelHeartbeatTimeout_keeps (.refl s) _
  | .mbRing _ => execMbRing_keeps (.refl s) _
  | .snapshotComplete _ => execSnapshotComplete_keeps (.refl s) _
  | .atomicopRequest offset => execAtomicopRequest_keeps (.refl s) offset
  | .configurationRequest _ _ _ => execConfigurationRequest_keeps (.refl s) _ _ _
  | .entdaa a => execEntdaa_keeps (.refl s) a
  | .jtagInstruction _ => execJtagInstruction_keeps (.refl s) _
  | .pairImbalanceClear => execPairImbalanceClear_keeps (.refl s)
  | .operatingRangeEntry _ => execOperatingRangeEntry_keeps (.refl s) _

theorem step_nil {s : State} (h : s.pending = []) : step s = .next s := by
  rw [step, h]

theorem step_cons {s : State} {c : Instr} {rest : List Instr} (h : s.pending = c :: rest) : step s = exec c { s with pending := rest } := by
  rw [step, h]

/-- A step that goes on keeps the guarded fields and leaves the queue's rest: a step takes the front command before it runs it. -/
theorem step_keeps {s t : State} (h : step s = .next t) : Keeps { s with pending := s.pending.tail } t := by
  cases hq : s.pending with
  | nil =>
    rw [step_nil hq] at h
    cases h
    have hidle : ({ s with pending := [] } : State) = s := by rw [← hq]
    exact hidle ▸ Keeps.refl _
  | cons c rest =>
    rw [step_cons hq] at h
    exact exec_goes _ c t h

/-- Settles O1: `step` by the two forms of the queue. -/
theorem stepRunsFrontCommand : Obligations.StepRunsFrontCommand := by
  unfold Obligations.StepRunsFrontCommand
  exact ⟨fun _ _ _ h => step_cons h, fun _ h => step_nil h⟩

/-- Settles O2: no row touches the queue of commands. -/
theorem stepConsumesOneCommand : Obligations.StepConsumesOneCommand := by
  unfold Obligations.StepConsumesOneCommand
  exact fun s t h => (step_keeps h).pending

/-- Settles O3: every row keeps memory's canonical form, the form of pending entries and the order of the job table. -/
theorem stepKeepsForms : Obligations.StepKeepsForms := by
  unfold Obligations.StepKeepsForms
  refine ⟨fun s t hbytes hwcb h => ?_, fun s t hjobs h => (step_keeps h).jobs hjobs⟩
  obtain ⟨keepsBytes, keepsWcb⟩ := (step_keeps h).mem
  exact ⟨keepsBytes hbytes, keepsWcb hwcb⟩

/-- Settles O4: the reset state, evaluated. -/
theorem resetIsEmpty : Obligations.ResetIsEmpty := by
  unfold Obligations.ResetIsEmpty
  decide

/-- Settles O5: every row only adds to the fuses and to the retired nibs, and keeps the grade and the blown return fuse. -/
theorem fusesAndRetirementsStay : Obligations.FusesAndRetirementsStay := by
  unfold Obligations.FusesAndRetirementsStay
  intro s t h
  obtain ⟨hfuses, hlock⟩ := (step_keeps h).fw
  obtain ⟨hgrade, hretired⟩ := (step_keeps h).nibs
  exact ⟨hfuses, hlock, hgrade, hretired⟩

end Sys2Proof.Steps
end

section
/-! Which commands stop. A row either answers a next state as it stands, on each of its branches, or through one of the shared runs, whose every branch
answers one. Four rows have a branch that stops. -/

namespace Sys2Proof.Stops

open Sys2Proof Sys2Proof.Machine

/-- An outcome that is a next state. -/
abbrev GoesOn (o : Host.Outcome State Fault Refusal) : Prop := ∃ t, o = .next t

theorem goesOn_ite {c : Prop} [Decidable c] {a b : Host.Outcome State Fault Refusal} (ha : GoesOn a) (hb : GoesOn b) : GoesOn (if c then a else b) := by
  split <;> assumption

/-! ### The shared runs -/

theorem runAct_goesOn (s : State) (sid : Sid) (op : Nat) (f : State → Job → Active → State) : GoesOn (runAct s sid op f) := by
  unfold runAct
  (repeat' split) <;> exact ⟨_, rfl⟩

theorem runGround_goesOn (s : State) (sid : Sid) (op : Nat) (f : State → Job → Active → State) : GoesOn (runGround s sid op f) :=
  goesOn_ite (runAct_goesOn ..) ⟨_, rfl⟩

theorem veRow_goesOn (sid : Sid) (n op : Nat) (s : State) (f : VeEnv → Run → Option VeRes) : GoesOn (veRow sid n op s f) := by
  unfold veRow
  dsimp only
  (repeat' split) <;> exact ⟨_, rfl⟩

theorem doorbell_goesOn (s : State) (job : Nat) (f : Job → State) : GoesOn (doorbell s job f) := by
  unfold doorbell
  split <;> exact ⟨_, rfl⟩

theorem runCmd_goesOn (s : State) (p op action : Nat) (f : Request → State → Reply) : GoesOn (runCmd s p op action f) := by
  unfold runCmd
  (repeat' split) <;> exact ⟨_, rfl⟩

theorem runThen_goesOn (s : State) (p op action : Nat) (f : Request → State → Reply) (g : State → State) : GoesOn (runThen s p op action f g) := by
  unfold runThen
  (repeat' split) <;> exact ⟨_, rfl⟩

theorem spdmReady_goesOn {s : State} {via : Transport} {o : Host.Outcome State Fault Refusal} (ho : GoesOn o) : GoesOn (spdmReady s via o) := by
  unfold spdmReady
  (repeat' split) <;> first | exact ho | exact ⟨_, rfl⟩

/-! ### The rows -/

/-- The rows with a branch that stops. -/
def mayStop : Instr → Bool
  | .wcbWrite .. | .hbmGranuleRead .. | .requestPromote .. | .jtagInstruction .. => true
  | _ => false

theorem exec_goesOn (s : State) : ∀ c : Instr, mayStop c = false → GoesOn (exec c s)
  | .stitchAdmit queue, _ => by show GoesOn (execStitchAdmit queue s); unfold execStitchAdmit; (repeat' split) <;> exact ⟨_, rfl⟩
  | .nop sid, _ => by show GoesOn (execNop sid s); unfold execNop; split <;> exact ⟨_, rfl⟩
  | .commit sid, _ => by show GoesOn (execCommit sid s); unfold execCommit; (repeat' split) <;> exact ⟨_, rfl⟩
  | .matmul _, _ => by apply runAct_goesOn
  | .gatherMm _, _ => by apply runAct_goesOn
  | .route _, _ => by apply runAct_goesOn
  | .convert _, _ => by apply runAct_goesOn
  | .deriv _, _ => by apply runAct_goesOn
  | .update sid, _ => by show GoesOn (execUpdate sid s); unfold execUpdate; split; exacts [⟨_, rfl⟩, goesOn_ite ⟨_, rfl⟩ (runAct_goesOn ..)]
  | .vscript _, _ => by apply runAct_goesOn
  | .vscriptRunStart sid run, _ => by show GoesOn (execVscriptRunStart sid run s); unfold execVscriptRunStart; split <;> exact ⟨_, rfl⟩
  | .copy _, _ => by apply runAct_goesOn
  | .fetch _, _ => by apply runAct_goesOn
  | .gather _, _ => by apply runAct_goesOn
  | .scatter _, _ => by apply runAct_goesOn
  | .stashFree sid, _ => by show GoesOn (execStashFree sid s); unfold execStashFree; dsimp only; (repeat' split) <;> exact ⟨_, rfl⟩
  | .reduce _, _ => by apply runGround_goesOn
  | .multicast _, _ => by apply runGround_goesOn
  | .send _, _ => by apply runGround_goesOn
  | .check _, _ => by apply runAct_goesOn
  | .groundInject sid, _ => by show GoesOn (execGroundInject sid s); unfold execGroundInject; split <;> exact ⟨_, rfl⟩
  | .stitchComplete sid elapsed, _ => by show GoesOn (execStitchComplete sid elapsed s); unfold execStitchComplete; (repeat' split) <;> exact ⟨_, rfl⟩
  | .watchResponse sid, _ => by show GoesOn (execWatchResponse sid s); unfold execWatchResponse; dsimp only; (repeat' split) <;> exact ⟨_, rfl⟩
  | .stitchGroupReplay sid, _ => by show GoesOn (execStitchGroupReplay sid s); unfold execStitchGroupReplay; dsimp only; (repeat' split) <;> exact ⟨_, rfl⟩
  | .stitchGroupReplayDone sid, _ => by show GoesOn (execStitchGroupReplayDone sid s); unfold execStitchGroupReplayDone; dsimp only; (repeat' split) <;> exact ⟨_, rfl⟩
  | .stepReplay job, _ => by show GoesOn (execStepReplay job s); unfold execStepReplay; split <;> exact ⟨_, rfl⟩
  | .commitVoteSend job, _ => by show GoesOn (execCommitVoteSend job s); unfold execCommitVoteSend; (repeat' split) <;> exact ⟨_, rfl⟩
  | .commitVoteResult job vote, _ => by show GoesOn (execCommitVoteResult job vote s); unfold execCommitVoteResult; (repeat' split) <;> exact ⟨_, rfl⟩
  | .mirrorDrainComplete job handle, _ => by show GoesOn (execMirrorDrainComplete job handle s); unfold execMirrorDrainComplete; (repeat' split) <;> exact ⟨_, rfl⟩
  | .stashMoveComplete job handle, _ => by show GoesOn (execStashMoveComplete job handle s); unfold execStashMoveComplete; (repeat' split) <;> exact ⟨_, rfl⟩
  | .stashRecallComplete job handle, _ => by show GoesOn (execStashRecallComplete job handle s); unfold execStashRecallComplete; dsimp only; (repeat' split) <;> exact ⟨_, rfl⟩
  | .stashRecompute sid, _ => by show GoesOn (execStashRecompute sid s); unfold execStashRecompute; dsimp only; (repeat' split) <;> exact ⟨_, rfl⟩
  | .tileQueuePush sid position, _ => by show GoesOn (execTileQueuePush sid position s); unfold execTileQueuePush; dsimp only; (repeat' split) <;> exact ⟨_, rfl⟩
  | .setvl sid run, _ => by show GoesOn (execSetvl sid run s); unfold execSetvl; apply veRow_goesOn
  | .jmp sid run, _ => by show GoesOn (execJmp sid run s); unfold execJmp; apply veRow_goesOn
  | .bzvl sid run, _ => by show GoesOn (execBzvl sid run s); unfold execBzvl; apply veRow_goesOn
  | .btqe _ _, _ => by apply veRow_goesOn
  | .currun sid run, _ => by show GoesOn (execCurrun sid run s); unfold execCurrun; apply veRow_goesOn
  | .endRun sid run, _ => by show GoesOn (execEndRun sid run s); unfold execEndRun; apply veRow_goesOn
  | .setrm sid run, _ => by show GoesOn (execSetrm sid run s); unfold execSetrm; apply veRow_goesOn
  | .vld _ _, _ => by apply veRow_goesOn
  | .vst _ _, _ => by apply veRow_goesOn
  | .vgath _ _, _ => by apply veRow_goesOn
  | .vscat sid run, _ => by show GoesOn (execVscat sid run s); unfold execVscat; apply veRow_goesOn
  | .tqpop _ _, _ => by apply veRow_goesOn
  | .vldt _ _, _ => by apply veRow_goesOn
  | .vstt _ _, _ => by apply veRow_goesOn
  | .vmovi sid run, _ => by show GoesOn (execVmovi sid run s); unfold execVmovi; apply veRow_goesOn
  | .vadd sid run, _ => by show GoesOn (execVadd sid run s); unfold execVadd; apply veRow_goesOn
  | .vsub sid run, _ => by show GoesOn (execVsub sid run s); unfold execVsub; apply veRow_goesOn
  | .vmul sid run, _ => by show GoesOn (execVmul sid run s); unfold execVmul; apply veRow_goesOn
  | .vfma sid run, _ => by show GoesOn (execVfma sid run s); unfold execVfma; apply veRow_goesOn
  | .vfnma sid run, _ => by show GoesOn (execVfnma sid run s); unfold execVfnma; apply veRow_goesOn
  | .vdiv sid run, _ => by show GoesOn (execVdiv sid run s); unfold execVdiv; apply veRow_goesOn
  | .vsqrt sid run, _ => by show GoesOn (execVsqrt sid run s); unfold execVsqrt; apply veRow_goesOn
  | .vmin sid run, _ => by show GoesOn (execVmin sid run s); unfold execVmin; apply veRow_goesOn
  | .vmax sid run, _ => by show GoesOn (execVmax sid run s); unfold execVmax; apply veRow_goesOn
  | .vabs sid run, _ => by show GoesOn (execVabs sid run s); unfold execVabs; apply veRow_goesOn
  | .vneg sid run, _ => by show GoesOn (execVneg sid run s); unfold execVneg; apply veRow_goesOn
  | .vcvt sid run, _ => by show GoesOn (execVcvt sid run s); unfold execVcvt; apply veRow_goesOn
  | .vrndi sid run, _ => by show GoesOn (execVrndi sid run s); unfold execVrndi; apply veRow_goesOn
  | .vand sid run, _ => by show GoesOn (execVand sid run s); unfold execVand; apply veRow_goesOn
  | .vor sid run, _ => by show GoesOn (execVor sid run s); unfold execVor; apply veRow_goesOn
  | .vxor sid run, _ => by show GoesOn (execVxor sid run s); unfold execVxor; apply veRow_goesOn
  | .vshl sid run, _ => by show GoesOn (execVshl sid run s); unfold execVshl; apply veRow_goesOn
  | .vshr sid run, _ => by show GoesOn (execVshr sid run s); unfold execVshr; apply veRow_goesOn
  | .vexp2 sid run, _ => by show GoesOn (execVexp2 sid run s); unfold execVexp2; apply veRow_goesOn
  | .vlog2 sid run, _ => by show GoesOn (execVlog2 sid run s); unfold execVlog2; apply veRow_goesOn
  | .vrcp sid run, _ => by show GoesOn (execVrcp sid run s); unfold execVrcp; apply veRow_goesOn
  | .vrsq sid run, _ => by show GoesOn (execVrsq sid run s); unfold execVrsq; apply veRow_goesOn
  | .vtanh sid run, _ => by show GoesOn (execVtanh sid run s); unfold execVtanh; apply veRow_goesOn
  | .vcmp sid run, _ => by show GoesOn (execVcmp sid run s); unfold execVcmp; apply veRow_goesOn
  | .mand sid run, _ => by show GoesOn (execMand sid run s); unfold execMand; apply veRow_goesOn
  | .mor sid run, _ => by show GoesOn (execMor sid run s); unfold execMor; apply veRow_goesOn
  | .mnot sid run, _ => by show GoesOn (execMnot sid run s); unfold execMnot; apply veRow_goesOn
  | .vsel sid run, _ => by show GoesOn (execVsel sid run s); unfold execVsel; apply veRow_goesOn
  | .rsum sid run, _ => by show GoesOn (execRsum sid run s); unfold execRsum; apply veRow_goesOn
  | .rssq sid run, _ => by show GoesOn (execRssq sid run s); unfold execRssq; apply veRow_goesOn
  | .rmax sid run, _ => by show GoesOn (execRmax sid run s); unfold execRmax; apply veRow_goesOn
  | .rmin sid run, _ => by show GoesOn (execRmin sid run s); unfold execRmin; apply veRow_goesOn
  | .ramax sid run, _ => by show GoesOn (execRamax sid run s); unfold execRamax; apply veRow_goesOn
  | .rget sid run, _ => by show GoesOn (execRget sid run s); unfold execRget; apply veRow_goesOn
  | .rbcast sid run, _ => by show GoesOn (execRbcast sid run s); unfold execRbcast; apply veRow_goesOn
  | .rset sid run, _ => by show GoesOn (execRset sid run s); unfold execRset; apply veRow_goesOn
  | .veInstructionLimit sid run, _ => by show GoesOn (execVeInstructionLimit sid run s); unfold execVeInstructionLimit; split <;> exact ⟨_, rfl⟩
  | .strokeEdge, _ => ⟨_, rfl⟩
  | .strokeMarkReceive port mark crc arrival, _ => by show GoesOn (execStrokeMarkReceive port mark crc arrival s); unfold execStrokeMarkReceive; dsimp only; (repeat' split) <;> exact ⟨_, rfl⟩
  | .strokeMarkMissed _, _ => ⟨_, rfl⟩
  | .holdoverTimeout, _ => ⟨_, rfl⟩
  | .strokeRefEdge time, _ => by show GoesOn (execStrokeRefEdge time s); unfold execStrokeRefEdge; dsimp only; (repeat' split) <;> exact ⟨_, rfl⟩
  | .strokeRefMissing, _ => ⟨_, rfl⟩
  | .flitSend port, _ => by show GoesOn (execFlitSend port s); unfold execFlitSend; dsimp only; (repeat' split) <;> exact ⟨_, rfl⟩
  | .flitReceive port flit fecOk, _ => by show GoesOn (execFlitReceive port flit fecOk s); unfold execFlitReceive; dsimp only; (repeat' split) <;> exact ⟨_, rfl⟩
  | .nak _ _, _ => ⟨_, rfl⟩
  | .flitStallTimeout _ _, _ => ⟨_, rfl⟩
  | .portTrainStart _, _ => ⟨_, rfl⟩
  | .portTrainComplete _ _ _ _, _ => ⟨_, rfl⟩
  | .portTrainTimeout _, _ => ⟨_, rfl⟩
  | .retrain _, _ => ⟨_, rfl⟩
  | .retrainComplete _ _ _, _ => ⟨_, rfl⟩
  | .linkDownFlit _, _ => ⟨_, rfl⟩
  | .portRetryTimer _, _ => ⟨_, rfl⟩
  | .messageForward hdr data, _ => by show GoesOn (execMessageForward hdr data s); unfold execMessageForward; dsimp only; (repeat' split) <;> exact ⟨_, rfl⟩
  | .write hdr source data poisoned, _ => by show GoesOn (execWrite hdr source data poisoned s); unfold execWrite; dsimp only; (repeat' split) <;> exact ⟨_, rfl⟩
  | .writeEnd hdr, _ => by show GoesOn (execWriteEnd hdr s); unfold execWriteEnd; dsimp only; (repeat' split) <;> exact ⟨_, rfl⟩
  | .ack hdr, _ => by show GoesOn (execAck hdr s); unfold execAck; dsimp only; (repeat' split) <;> exact ⟨_, rfl⟩
  | .nack hdr, _ => by show GoesOn (execNack hdr s); unfold execNack; dsimp only; (repeat' split) <;> exact ⟨_, rfl⟩
  | .unreach _, _ => ⟨_, rfl⟩
  | .redUp hdr data poisoned, _ => by show GoesOn (execRedUp hdr data poisoned s); unfold execRedUp; dsimp only; (repeat' split) <;> exact ⟨_, rfl⟩
  | .redDown hdr body poisoned, _ => by show GoesOn (execRedDown hdr body poisoned s); unfold execRedDown; dsimp only; (repeat' split) <;> exact ⟨_, rfl⟩
  | .haltNotice hdr, _ => by show GoesOn (execHaltNotice hdr s); unfold execHaltNotice; dsimp only; (repeat' split) <;> exact ⟨_, rfl⟩
  | .stepReplayRequest hdr, _ => by show GoesOn (execStepReplayRequest hdr s); unfold execStepReplayRequest; dsimp only; (repeat' split) <;> exact ⟨_, rfl⟩
  | .aliasMessage hdr fromStation toStation, _ => by show GoesOn (execAliasMessage hdr fromStation toStation s); unfold execAliasMessage; dsimp only; (repeat' split) <;> exact ⟨_, rfl⟩
  | .control _ _, _ => ⟨_, rfl⟩
  | .mgmt _ _, _ => ⟨_, rfl⟩
  | .mirror _ _ _, _ => ⟨_, rfl⟩
  | .journal _ _ _, _ => ⟨_, rfl⟩
  | .transactionTimeout die tag, _ => by show GoesOn (execTransactionTimeout die tag s); unfold execTransactionTimeout; split <;> exact ⟨_, rfl⟩
  | .heldMessageTimeout position, _ => by show GoesOn (execHeldMessageTimeout position s); unfold execHeldMessageTimeout; split <;> exact ⟨_, rfl⟩
  | .journalGapTimeout, _ => by show GoesOn (execJournalGapTimeout s); unfold execJournalGapTimeout; split <;> exact ⟨_, rfl⟩
  | .wcbWrite _ _ _, h => nomatch h
  | .wcbHoldTimeout held, _ => by show GoesOn (execWcbHoldTimeout held s); unfold execWcbHoldTimeout; split <;> exact ⟨_, rfl⟩
  | .hbmGranuleRead _ _ _, h => nomatch h
  | .requestPromote _ _, h => nomatch h
  | .scrubRead found, _ => by show GoesOn (execScrubRead found s); unfold execScrubRead; dsimp only; (repeat' split) <;> exact ⟨_, rfl⟩
  | .zeroiseComplete batch, _ => by show GoesOn (execZeroiseComplete batch s); unfold execZeroiseComplete; split <;> exact ⟨_, rfl⟩
  | .unmapTakeEffect job window, _ => by show GoesOn (execUnmapTakeEffect job window s); unfold execUnmapTakeEffect; dsimp only; (repeat' split) <;> exact ⟨_, rfl⟩
  | .nvWriteRetry, _ => ⟨_, rfl⟩
  | .shadowComplete sid crcs, _ => by show GoesOn (execShadowComplete sid crcs s); unfold execShadowComplete; split <;> exact ⟨_, rfl⟩
  | .thirdExecComplete sid share crc majority, _ => by show GoesOn (execThirdExecComplete sid share crc majority s); unfold execThirdExecComplete; dsimp only; (repeat' split) <;> exact ⟨_, rfl⟩
  | .loserRepeatComplete sid share crc, _ => by show GoesOn (execLoserRepeatComplete sid share crc s); unfold execLoserRepeatComplete; (repeat' split) <;> exact ⟨_, rfl⟩
  | .nibRetireComplete panel nib, _ => by show GoesOn (execNibRetireComplete panel nib s); unfold execNibRetireComplete; dsimp only; (repeat' split) <;> exact ⟨_, rfl⟩
  | .selftestSliceEnd panel nib crc, _ => by show GoesOn (execSelftestSliceEnd panel nib crc s); unfold execSelftestSliceEnd; dsimp only; (repeat' split) <;> exact ⟨_, rfl⟩
  | .checkpointDue job, _ => by show GoesOn (execCheckpointDue job s); unfold execCheckpointDue; split <;> exact ⟨_, rfl⟩
  | .longOperationEnd kind subject done, _ => by show GoesOn (execLongOperationEnd kind subject done s); unfold execLongOperationEnd; split <;> exact ⟨_, rfl⟩
  | .dbTail _ _, _ => by apply doorbell_goesOn
  | .qResumeRetry _ _, _ => by apply doorbell_goesOn
  | .qResumeSkip _ _, _ => by apply doorbell_goesOn
  | .pinAdd _ _, _ => by apply doorbell_goesOn
  | .registerWrite _ _ _, _ => ⟨_, rfl⟩
  | .bar4Read _ _, _ => ⟨_, rfl⟩
  | .bar4Write _ _ _, _ => ⟨_, rfl⟩
  | .identify _, _ => by apply runCmd_goesOn
  | .readFeatures _, _ => by apply runCmd_goesOn
  | .jobOpen _, _ => by apply runCmd_goesOn
  | .jobClose _, _ => by apply runCmd_goesOn
  | .jobReset _, _ => by apply runCmd_goesOn
  | .mapWindow _, _ => by apply runCmd_goesOn
  | .unmapWindow _, _ => by apply runCmd_goesOn
  | .queueCreate _, _ => by apply runCmd_goesOn
  | .queueDestroy _, _ => by apply runCmd_goesOn
  | .handleTableSet _, _ => by apply runCmd_goesOn
  | .strokeSetPart _, _ => by apply runCmd_goesOn
  | .strokeSetJob _, _ => by apply runCmd_goesOn
  | .watchSet _, _ => by apply runCmd_goesOn
  | .ladderSetLevels _, _ => by apply runCmd_goesOn
  | .ladderSetMap _, _ => by apply runCmd_goesOn
  | .ladderSetClear _, _ => by apply runCmd_goesOn
  | .stashPolicy _, _ => by apply runCmd_goesOn
  | .pairBind _, _ => goesOn_ite ⟨_, rfl⟩ (runCmd_goesOn ..)
  | .pairUnbind _, _ => by apply runCmd_goesOn
  | .protectRegister _, _ => by apply runCmd_goesOn
  | .protectUnregister _, _ => by apply runCmd_goesOn
  | .protectSettings _, _ => by apply runCmd_goesOn
  | .checkpointSnapshot _, _ => by apply runCmd_goesOn
  | .checkpointStored _, _ => by apply runCmd_goesOn
  | .restoreQuery _, _ => by apply runCmd_goesOn
  | .restoreLocal _, _ => by apply runCmd_goesOn
  | .restorePartner _, _ => by apply runCmd_goesOn
  | .restoreImage _, _ => by apply runCmd_goesOn
  | .stationSet _, _ => by apply runCmd_goesOn
  | .routeLoad _, _ => by apply runCmd_goesOn
  | .spareAssume _, _ => goesOn_ite ⟨_, rfl⟩ (runCmd_goesOn ..)
  | .progressQuery _, _ => by apply runCmd_goesOn
  | .prickingLoad _ _, _ => by apply runCmd_goesOn
  | .powerStateEnter _, _ => by apply runCmd_goesOn
  | .drowseEntry _, _ => ⟨_, rfl⟩
  | .powerStatePreserve _, _ => by apply runCmd_goesOn
  | .powerStateRestart _, _ => by apply runThen_goesOn
  | .fwUpdateStage _ _, _ => by apply runCmd_goesOn
  | .fwUpdateActivate page, _ => by show GoesOn (execFwUpdateActivate page s); unfold execFwUpdateActivate; apply runThen_goesOn
  | .fwUpdateDiscard _, _ => by apply runCmd_goesOn
  | .returnPrepare _, _ => by apply runCmd_goesOn
  | .hbmRepairQuery _, _ => by apply runCmd_goesOn
  | .hbmRepairSoft _, _ => by apply runCmd_goesOn
  | .hbmRepairHard _, _ => by apply runCmd_goesOn
  | .hbmRepairHardLogged _, _ => by apply runCmd_goesOn
  | .hubFailover, _ => ⟨_, rfl⟩
  | .healthResend, _ => by show GoesOn (execHealthResend s); unfold execHealthResend; split <;> exact ⟨_, rfl⟩
  | .healthAck _, _ => ⟨_, rfl⟩
  | .getTid _, _ => ⟨_, rfl⟩
  | .getPldmVersion via pldmType, _ => by show GoesOn (execGetPldmVersion via pldmType s); unfold execGetPldmVersion; split <;> exact ⟨_, rfl⟩
  | .getPldmTypes _, _ => ⟨_, rfl⟩
  | .getPldmCommands via pldmType, _ => by show GoesOn (execGetPldmCommands via pldmType s); unfold execGetPldmCommands; (repeat' split) <;> exact ⟨_, rfl⟩
  | .setEventReceiver via session eid, _ => by show GoesOn (execSetEventReceiver via session eid s); unfold execSetEventReceiver; split <;> exact ⟨_, rfl⟩
  | .getSensorReading via sensorId, _ => by show GoesOn (execGetSensorReading via sensorId s); unfold execGetSensorReading; split <;> exact ⟨_, rfl⟩
  | .requestUpdate via session component, _ => by show GoesOn (execRequestUpdate via session component s); unfold execRequestUpdate; (repeat' split) <;> exact ⟨_, rfl⟩
  | .activateFirmware via session, _ => by show GoesOn (execActivateFirmware via session s); unfold execActivateFirmware; (repeat' split) <;> exact ⟨_, rfl⟩
  | .pldmFwTransfer via session data image pack, _ => by show GoesOn (execPldmFwTransfer via session data image pack s); unfold execPldmFwTransfer; (repeat' split) <;> exact ⟨_, rfl⟩
  | .mgmtRead via addr count, _ => by show GoesOn (execMgmtRead via addr count s); unfold execMgmtRead; dsimp only; (repeat' split) <;> exact ⟨_, rfl⟩
  | .mgmtWrite via session addr words, _ => by show GoesOn (execMgmtWrite via session addr words s); unfold execMgmtWrite; dsimp only; (repeat' split) <;> exact ⟨_, rfl⟩
  | .pldmUnsupported _ _ _, _ => ⟨_, rfl⟩
  | .getVersion _, _ => ⟨_, rfl⟩
  | .getCapabilities via, _ => by show GoesOn (execGetCapabilities via s); unfold execGetCapabilities; split <;> exact ⟨_, rfl⟩
  | .negotiateAlgorithms via offersSet, _ => by show GoesOn (execNegotiateAlgorithms via offersSet s); unfold execNegotiateAlgorithms; dsimp only; (repeat' split) <;> exact ⟨_, rfl⟩
  | .getDigests _, _ => spdmReady_goesOn ⟨_, rfl⟩
  | .getCertificate _ _ _ _, _ => spdmReady_goesOn (goesOn_ite ⟨_, rfl⟩ ⟨_, rfl⟩)
  | .challenge _ _ _, _ => spdmReady_goesOn (goesOn_ite ⟨_, rfl⟩ ⟨_, rfl⟩)
  | .getMeasurements _ _ _, _ => spdmReady_goesOn (goesOn_ite ⟨_, rfl⟩ ⟨_, rfl⟩)
  | .keyExchange _ _ _, _ => spdmReady_goesOn (goesOn_ite ⟨_, rfl⟩ ⟨_, rfl⟩)
  | .finish via session hmacOk, _ => by show GoesOn (execFinish via session hmacOk s); unfold execFinish; (repeat' split) <;> exact ⟨_, rfl⟩
  | .endSession via session, _ => by show GoesOn (execEndSession via session s); unfold execEndSession; split <;> exact ⟨_, rfl⟩
  | .heartbeat via session, _ => by show GoesOn (execHeartbeat via session s); unfold execHeartbeat; split <;> exact ⟨_, rfl⟩
  | .powerOnReset, _ => ⟨_, rfl⟩
  | .strapLatch _ _, _ => ⟨_, rfl⟩
  | .pwrEnRise inputMv, _ => by show GoesOn (execPwrEnRise inputMv s); unfold execPwrEnRise; split <;> exact ⟨_, rfl⟩
  | .pwrGoodRelease, _ => ⟨_, rfl⟩
  | .bringUpComplete, _ => ⟨_, rfl⟩
  | .pwrEnFall, _ => by show GoesOn (execPwrEnFall s); unfold execPwrEnFall; split <;> exact ⟨_, rfl⟩
  | .perstNReset, _ => by show GoesOn (execPerstNReset s); unfold execPerstNReset; split <;> exact ⟨_, rfl⟩
  | .ohmubWarmRestart, _ => ⟨_, rfl⟩
  | .hubWatchdog, _ => ⟨_, rfl⟩
  | .uvWarn _, _ => ⟨_, rfl⟩
  | .sag _ _, _ => ⟨_, rfl⟩
  | .nvStop, _ => ⟨_, rfl⟩
  | .nvStopClear, _ => ⟨_, rfl⟩
  | .uvReset, _ => ⟨_, rfl⟩
  | .ovStop _, _ => ⟨_, rfl⟩
  | .pairImbalance _, _ => ⟨_, rfl⟩
  | .powerLimit, _ => ⟨_, rfl⟩
  | .powerLimitClear, _ => ⟨_, rfl⟩
  | .sensorPoll _, _ => ⟨_, rfl⟩
  | .thermalTrip _, _ => ⟨_, rfl⟩
  | .leakDetect, _ => ⟨_, rfl⟩
  | .panelReset _, _ => ⟨_, rfl⟩
  | .panelHeartbeatTimeout panel, _ => by show GoesOn (execPanelHeartbeatTimeout panel s); unfold execPanelHeartbeatTimeout; split <;> exact ⟨_, rfl⟩
  | .mbRing _, _ => ⟨_, rfl⟩
  | .snapshotComplete job, _ => by show GoesOn (execSnapshotComplete job s); unfold execSnapshotComplete; (repeat' split) <;> exact ⟨_, rfl⟩
  | .atomicopRequest _, _ => ⟨_, rfl⟩
  | .configurationRequest _ _ _, _ => ⟨_, rfl⟩
  | .entdaa _, _ => ⟨_, rfl⟩
  | .jtagInstruction _, h => nomatch h
  | .pairImbalanceClear, _ => ⟨_, rfl⟩
  | .operatingRangeEntry _, _ => ⟨_, rfl⟩

theorem wcbWrite_stops (s : State) (w : Piece) (sid : Sid) (o : ReadOutcome) :
    GoesOn (exec (.wcbWrite w sid o) s) ∨ inHbm s.nibs.grade w.addr = false ∧ exec (.wcbWrite w sid o) s = .fault (.addressHole w.addr) := by
  cases h : inHbm s.nibs.grade w.addr
  · exact .inr ⟨rfl, by simp [exec, execWcbWrite, h]⟩
  · exact .inl ⟨_, by simp [exec, execWcbWrite, h, onlyIf]; rfl⟩

theorem hbmGranuleRead_stops (s : State) (a : Nat) (f : Found) (r : Reader) :
    GoesOn (exec (.hbmGranuleRead a f r) s) ∨
      inHbm s.nibs.grade a = false ∧ inPillow s.nibs.grade a = false ∧ exec (.hbmGranuleRead a f r) s = .fault (.addressHole a) := by
  cases h : inHbm s.nibs.grade a || inPillow s.nibs.grade a
  · obtain ⟨h1, h2⟩ := Bool.or_eq_false_iff.1 h
    exact .inr ⟨h1, h2, by simp [exec, execHbmGranuleRead, h]⟩
  · left
    unfold exec execHbmGranuleRead
    simp only [h, Bool.not_true, Bool.false_eq_true, if_false]
    (repeat' split) <;> exact ⟨_, rfl⟩

theorem requestPromote_stops (s : State) (a n : Nat) :
    GoesOn (exec (.requestPromote a n) s) ∨ inHbm s.nibs.grade a = false ∧ exec (.requestPromote a n) s = .fault (.addressHole a) := by
  cases h : inHbm s.nibs.grade a
  · exact .inr ⟨rfl, by simp [exec, execRequestPromote, h]⟩
  · exact .inl ⟨_, by simp [exec, execRequestPromote, h]; rfl⟩

theorem jtagInstruction_stops (s : State) (c : JtagInstr) :
    GoesOn (exec (.jtagInstruction c) s) ∨ ∃ n, c = .other n ∧ s.hub.phase = 2 ∧ exec (.jtagInstruction c) s = .refused (.vendorTestMode n) := by
  show GoesOn (execJtagInstruction c s) ∨ ∃ n, c = .other n ∧ s.hub.phase = 2 ∧ execJtagInstruction c s = .refused (.vendorTestMode n)
  unfold execJtagInstruction
  split
  next n hphase => exact .inr ⟨n, rfl, beq_iff_eq.1 hphase, rfl⟩
  next => exact .inl ⟨_, rfl⟩

/-- Settles O6: the four rows one by one, and every other row by `exec_goesOn`. -/
theorem onlyFourCommandsStop : Obligations.OnlyFourCommandsStop := by
  unfold Obligations.OnlyFourCommandsStop
  intro c s
  cases hstop : mayStop c with
  | false => exact .inl (exec_goesOn s c hstop)
  | true =>
    unfold mayStop at hstop
    split at hstop
    next w sid o => exact (wcbWrite_stops s w sid o).imp_right fun h => .inl ⟨w, sid, o, rfl, h⟩
    next a f r => exact (hbmGranuleRead_stops s a f r).imp_right fun h => .inr (.inl ⟨a, f, r, rfl, h⟩)
    next a n => exact (requestPromote_stops s a n).imp_right fun h => .inr (.inr (.inl ⟨a, n, rfl, h⟩))
    next c =>
      refine (jtagInstruction_stops s c).imp_right fun ⟨n, hc, h⟩ => .inr (.inr (.inr ⟨n, ?_, h⟩))
      rw [hc]
    next => cases hstop

end Sys2Proof.Stops
end

section
/-! Elementwise rows of the vector engine (06 R182 to R201). `veMap_goes` says what such a row does to its run; here each family of rows states
its function on one element, and the obligations read their values off it. -/

namespace Sys2Proof.Elementwise

open Sys2Proof Sys2Proof.Machine Sys2Proof.Laws

theorem activeEls_lt {r : Run} {w : VeWord} {i : Nat} (h : i ∈ activeEls r w) : i < r.vl :=
  List.mem_range.1 (List.mem_filter.1 h).1

/-! ### Operands of an INT32 element -/

theorem getEl_int_lt (r : Run) (reg i : Nat) : getEl r 2 reg i < 2 ^ 32 := by
  rw [getEl2]
  exact BitVec.isLt _

theorem bits_lt (x hi lo : Nat) : bits x hi lo < 2 ^ (hi - lo + 1) := Nat.mod_lt _ (Nat.two_pow_pos _)

theorem srcB_int_lt {r : Run} {word : Word64} {i : Nat} (ht : (parseVe word).ty = 2) : srcB r (parseVe word) i < 2 ^ 32 := by
  unfold srcB immEl
  rw [ht]
  split
  · exact bits_lt _ 31 0
  · exact getEl_int_lt ..

/-! ### INT32 rows -/

/-- What a row that writes INT32 results leaves: the values where `g` states one, and every other element. -/
def IntRow (c : Instr) (s : State) (sid : Sid) (n : Nat) (r : Run) (w : VeWord) (g : Nat → Nat → Option Nat) : Prop :=
  ∃ t q, exec c s = .next t ∧ RunIs s t sid n (went q (r.pc + 1)) ∧ q = { r with vec := q.vec, badVec := q.badVec } ∧
    (∀ i ∈ activeEls r w, ∀ v, g (getEl r 2 w.sa i) (srcB r w i) = some v → getEl q 2 w.dst i = v) ∧
    ∀ d i, i < 4096 → ¬(d = w.dst ∧ i ∈ activeEls r w) → getEl q 2 d i = getEl r 2 d i

section IntRows

variable {s : State} {sid : Sid} {n op : Nat} {j : Job} {a : Active} {r : Run}
variable (h : Amid s sid n op j a r) (ht : (envOf s j a r).w.ty = 2) (hr : rising r.vec = true) (hv : r.vl ≤ 4096)
include h ht hr hv

theorem intRow_of {c : Instr} {ub uc : Bool} {dr : VeWord → Bool} {f : VeEnv → Mode → ElArgs → Nat × BitVec 8} {g : Nat → Nat → Option Nat}
    (hc : exec c s = veRow sid n op s (veMap ub uc sameTy dr f)) (ho : (op = 0x10 || op = 0x12 || op = 0x15) = false)
    (hf : ∀ x : ElArgs, (f (envOf s j a r) (modeOf a r) x).2 = 0 ∧
      (x.a < 2 ^ 32 → x.b < 2 ^ 32 → ∀ v, g x.a x.b = some v → (f (envOf s j a r) (modeOf a r) x).1 % 2 ^ 32 = v)) :
    IntRow c s sid n r (envOf s j a r).w g := by
  obtain ⟨t, q, hrow, hrun, hq, hel⟩ := veMap_goes h ho ub uc sameTy dr f hr hv
  simp only [sameTy, ht, elBits] at hel
  refine ⟨t, q, hc.trans hrow, hrun, ?_, fun i hi v hg => ?_, fun d i hi hnot => ?_⟩
  · simpa only [(hf _).1, foldl_or_zero] using hq
  · rw [hel _ _ (lt_of_lt_of_le (activeEls_lt hi) hv), if_pos ⟨rfl, hi⟩]
    exact (hf _).2 (getEl_int_lt ..) (srcB_int_lt ht) v hg
  · rw [hel _ _ hi, if_neg hnot]

theorem bitsRow_of {c : Instr} {f : Nat → Nat → Nat} {g : Nat → Nat → Option Nat} (hc : exec c s = veRow sid n op s (veBits f))
    (ho : (op = 0x10 || op = 0x12 || op = 0x15) = false)
    (hf : ∀ a b, a < 2 ^ 32 → b < 2 ^ 32 → ∀ v, g a b = some v → f a b % 2 ^ 32 = v) : IntRow c s sid n r (envOf s j a r).w g := by
  refine intRow_of h ht hr hv hc ho fun x => ⟨rfl, fun ha hb v hg => ?_⟩
  show f x.a x.b % 2 ^ 32 % 2 ^ 32 = v
  rw [Nat.mod_mod]
  exact hf _ _ ha hb v hg

end IntRows

/-- An INT32 result that the format holds is delivered. -/
theorem intResult_exact (e : VeEnv) (i : Nat) (x : Int) : (intResult e i x).2 = 0 ∧ ∀ v, exact32 x = some v → (intResult e i x).1 % 2 ^ 32 = v := by
  unfold intResult exact32
  split
  · refine ⟨rfl, fun v hv => ?_⟩
    cases hv
    exact Nat.mod_eq_of_lt (unsigned_lt 32 x)
  · exact ⟨rfl, fun v hv => nomatch hv⟩

theorem unsigned_exact {x : Int} {v : Nat} (h : exact32 x = some v) : unsigned 32 x % 2 ^ 32 = v := by
  unfold exact32 at h
  split at h
  · cases h
    exact Nat.mod_eq_of_lt (unsigned_lt 32 x)
  · cases h

theorem veBin_int {e : VeEnv} (ht : e.w.ty = 2) (fi : VeEnv → ElArgs → Nat × BitVec 8) (ff : Mode → Machine.Num → Machine.Num → Machine.Num × BitVec 8)
    (m : Mode) (x : ElArgs) : veBin fi ff e m x = fi e x := if_pos ht

/-- A result within 32 bits is delivered as it is. -/
theorem mod_of_some_eq {k v : Nat} (hk : k < 2 ^ 32) (h : some k = some v) : k % 2 ^ 32 = v := by
  cases h
  exact Nat.mod_eq_of_lt hk

/-- Settles O16: each row by its function on one element, the bitwise ones because their operands are 32 bits wide. -/
theorem veIntegerResults : Obligations.VeIntegerResults := by
  unfold Obligations.VeIntegerResults
  intro x hx s sid n j a r w hamid ht hrising hvl
  show IntRow (x.1 sid n) s sid n r w x.2.2
  simp only [List.mem_cons, List.not_mem_nil, or_false] at hx
  obtain rfl | rfl | rfl | rfl | rfl | rfl | rfl | rfl | rfl | rfl | rfl | rfl := hx
  · refine intRow_of hamid ht hrising hvl rfl rfl fun x => ?_
    rw [veBin_int ht]
    exact (intResult_exact ..).imp_right fun h _ _ => h
  · refine intRow_of hamid ht hrising hvl rfl rfl fun x => ?_
    rw [veBin_int ht]
    exact (intResult_exact ..).imp_right fun h _ _ => h
  · refine intRow_of hamid ht hrising hvl rfl rfl fun x => ?_
    rw [veBin_int ht]
    exact ⟨rfl, fun _ _ v hv => mod_of_some_eq (unsigned_lt 32 _) hv⟩
  · refine intRow_of hamid ht hrising hvl rfl rfl fun x => ?_
    rw [veBin_int ht]
    exact ⟨rfl, fun _ _ v hv => unsigned_exact hv⟩
  · refine intRow_of hamid ht hrising hvl rfl rfl fun x => ?_
    rw [veBin_int ht]
    exact ⟨rfl, fun _ _ v hv => unsigned_exact hv⟩
  · refine intRow_of hamid ht hrising hvl (by unfold exec execVabs; rfl) rfl fun x => ?_
    rw [if_pos ht]
    exact (intResult_exact ..).imp_right fun h _ _ => h
  · refine intRow_of hamid ht hrising hvl (by unfold exec execVneg; rfl) rfl fun x => ?_
    rw [if_pos ht]
    exact (intResult_exact ..).imp_right fun h _ _ => h
  · exact bitsRow_of hamid ht hrising hvl (by unfold exec execVneg; rfl) rfl fun a b ha hb v hg => mod_of_some_eq (lt_of_le_of_lt Nat.and_le_left ha) hg
  · exact bitsRow_of hamid ht hrising hvl (by unfold exec execVneg; rfl) rfl fun a b ha hb v hg => mod_of_some_eq (Nat.or_lt_two_pow ha hb) hg
  · exact bitsRow_of hamid ht hrising hvl (by unfold exec execVneg; rfl) rfl fun a b ha hb v hg => mod_of_some_eq (Nat.xor_lt_two_pow ha hb) hg
  · exact bitsRow_of hamid ht hrising hvl (by unfold exec execVneg; rfl) rfl fun a b ha hb v hg => Option.some.inj hg
  · exact bitsRow_of hamid ht hrising hvl (by unfold exec execVneg; rfl) rfl fun a b ha hb v hg => mod_of_some_eq (unsigned_lt 32 _) hg

end Sys2Proof.Elementwise
end

section
/-! Elementwise rows in all their types: what an instruction that writes elements leaves, once for VMOVI, VSEL and the rows of `veMap`. -/

namespace Sys2Proof.Elementwise

open Sys2Proof Sys2Proof.Machine Sys2Proof.Laws

/-- An instruction writes element `i` of `is` with the code of `g i`, raises the flags of the active elements, and goes on. -/
def Writes (c : Instr) (s : State) (sid : Sid) (n : Nat) (r : Run) (dst ty : Nat) (act is : List Nat) (g : Nat → Nat × BitVec 8) : Prop :=
  ∃ t q, exec c s = .next t ∧ RunIs s t sid n (went q (r.pc + 1)) ∧
    q = { r with vec := q.vec, badVec := q.badVec, flags := act.foldl (fun f i => f ||| (g i).2) r.flags } ∧
    ∀ d i, i < 4096 → getEl q ty d i = if d = dst ∧ i ∈ is then (g i).1 % 2 ^ elBits ty else getEl r ty d i

/-- Flags once raised stay. -/
theorem foldl_or_and (l : List Nat) (g : Nat → BitVec 8) (f0 : BitVec 8) : ∀ f, f &&& f0 = f0 → l.foldl (fun f i => f ||| g i) f &&& f0 = f0 := by
  induction l with
  | nil => exact fun _ h => h
  | cons x l ih =>
    refine fun f hf => ih _ ?_
    ext k hk
    have hbit : (f &&& f0)[k] = f0[k] := by rw [hf]
    simp only [BitVec.getElem_and, BitVec.getElem_or] at hbit ⊢
    rw [← hbit]
    cases f[k] <;> simp

section Rows

variable {s : State} {sid : Sid} {n op : Nat} {j : Job} {a : Active} {r : Run} {c : Instr}
variable (h : Amid s sid n op j a r) (ho : (op = 0x10 || op = 0x12 || op = 0x15) = false) (hr : rising r.vec = true) (hv : r.vl ≤ 4096)
include h ho hr hv

/-- A row of `veMap` writes its function's values. -/
theorem writes_of_veMap {ub uc : Bool} {dty : VeWord → Nat} {dr : VeWord → Bool} {f : VeEnv → Mode → ElArgs → Nat × BitVec 8}
    (hc : exec c s = veRow sid n op s (veMap ub uc dty dr f)) :
    Writes c s sid n r (envOf s j a r).w.dst (dty (envOf s j a r).w) (activeEls r (envOf s j a r).w) (activeEls r (envOf s j a r).w) fun i =>
      f (envOf s j a r) (modeOf a r)
        { a := getEl r (envOf s j a r).w.ty (envOf s j a r).w.sa i, b := srcB r (envOf s j a r).w i,
          c := getEl r (envOf s j a r).w.ty (envOf s j a r).w.sc i, idx := i } := by
  obtain ⟨t, q, hrow, hrest⟩ := veMap_goes h ho ub uc dty dr f hr hv
  exact ⟨t, q, hc.trans hrow, hrest⟩

/-- A row that writes a list of elements, and whose flags outside the active ones are none. -/
theorem writes_of_putEls {f : VeEnv → Run → Option VeRes} {ty : Nat} {is : List Nat} {g : Nat → Nat × BitVec 8} {fl : Nat → BitVec 8} {bad : Nat → Bool}
    (hc : exec c s = veRow sid n op s f)
    (hf : f (envOf s j a r) r = some { run := putEls r ty (envOf s j a r).w.dst (is.map fun i => (i, (g i).1, fl i, bad i)) }) (his : ∀ i ∈ is, i < r.vl)
    (hfl : is.foldl (fun f i => f ||| fl i) r.flags = (activeEls r (envOf s j a r).w).foldl (fun f i => f ||| (g i).2) r.flags) :
    Writes c s sid n r (envOf s j a r).w.dst ty (activeEls r (envOf s j a r).w) is g := by
  obtain ⟨t, hrow, hrun⟩ := veRow_goes_plain h.1 ho f _ hf rfl rfl h.2 (by rw [putEls_fields]; exact ⟨rfl, rfl⟩) (by rw [putEls_fields]) (by rw [putEls_fields])
  refine ⟨t, _, hc.trans hrow, hrun, ?_, fun d i hi => ?_⟩
  · refine (putEls_fields ..).trans ?_
    rw [List.foldl_map, hfl]
  · exact getEl_putEls r ty _ d i is (fun i => (g i).1) fl bad hr (fun i hi => lt_of_lt_of_le (his i hi) hv) hi

end Rows

/-! ### Two-operand floating-point rows -/

theorem veBin_float {e : VeEnv} (ht : e.w.ty ≠ 2) (fi : VeEnv → ElArgs → Nat × BitVec 8) (ff : Mode → Machine.Num → Machine.Num → Machine.Num × BitVec 8)
    (m : Mode) (x : ElArgs) :
    veBin fi ff e m x = fpResult m e.w.ty (elSig e.w.ty x.a || elSig e.w.ty x.b) (ff m (elNum m e.w.ty x.a) (elNum m e.w.ty x.b)) := if_neg ht

theorem writes_of_veBin {s : State} {sid : Sid} {n op : Nat} {j : Job} {a : Active} {r : Run} {c : Instr} {dr : VeWord → Bool}
    {fi : VeEnv → ElArgs → Nat × BitVec 8} {ff : Mode → Machine.Num → Machine.Num → Machine.Num × BitVec 8} (h : Amid s sid n op j a r)
    (ht : (envOf s j a r).w.ty ≠ 2) (hr : rising r.vec = true) (hv : r.vl ≤ 4096) (hc : exec c s = veRow sid n op s (veMap true false sameTy dr (veBin fi ff)))
    (ho : (op = 0x10 || op = 0x12 || op = 0x15) = false) :
    Writes c s sid n r (envOf s j a r).w.dst (envOf s j a r).w.ty (activeEls r (envOf s j a r).w) (activeEls r (envOf s j a r).w) fun i =>
      fpResult (modeOf a r) (envOf s j a r).w.ty
        (elSig (envOf s j a r).w.ty (getEl r (envOf s j a r).w.ty (envOf s j a r).w.sa i) || elSig (envOf s j a r).w.ty (srcB r (envOf s j a r).w i))
        (ff (modeOf a r) (elNum (modeOf a r) (envOf s j a r).w.ty (getEl r (envOf s j a r).w.ty (envOf s j a r).w.sa i))
          (elNum (modeOf a r) (envOf s j a r).w.ty (srcB r (envOf s j a r).w i))) := by
  have hw := writes_of_veMap h ho hr hv hc
  simp only [veBin_float ht] at hw
  exact hw

/-- Settles O17: each row is `veBin` of its function, and a floating-point type takes the second of its branches. -/
theorem veFloatResults : Obligations.VeFloatResults := by
  unfold Obligations.VeFloatResults
  intro x hx s sid n j a r w m res hamid ht hrising hvl
  have hw : Writes (x.1 sid n) s sid n r w.dst w.ty (activeEls r w) (activeEls r w) res := by
    simp only [List.mem_cons, List.not_mem_nil, or_false] at hx
    obtain rfl | rfl | rfl | rfl | rfl | rfl := hx
    all_goals exact writes_of_veBin hamid ht hrising hvl rfl rfl
  obtain ⟨t, q, hnext, hrun, hq, hel⟩ := hw
  refine ⟨t, q, hnext, hrun, hq, fun i hi => ?_, fun d i hi hnot => ?_⟩
  · rw [hel _ _ (lt_of_lt_of_le (activeEls_lt hi) hvl), if_pos ⟨rfl, hi⟩]
  · rw [hel _ _ hi, if_neg hnot]

/-! ### VMOVI and VSEL -/

/-- A flag that only active elements raise, over every element below `VL`. -/
theorem foldl_or_active (r : Run) (w : VeWord) (g : Nat → BitVec 8) (f : BitVec 8) :
    (List.range r.vl).foldl (fun f i => f ||| if (activeEls r w).contains i then g i else 0) f = (activeEls r w).foldl (fun f i => f ||| g i) f := by
  rw [activeEls, List.foldl_filter]
  refine List.foldl_ext _ _ _ fun f i hi => ?_
  have hmem : ((List.range r.vl).filter fun i => !w.masked || chosen r w i).contains i = (!w.masked || chosen r w i) := by
    rw [Bool.eq_iff_iff, List.contains_iff_mem, List.mem_filter]
    exact and_iff_right hi
  rw [hmem]
  split <;> simp

section Moves

variable {s : State} {sid : Sid} {n : Nat} {j : Job} {a : Active} {r : Run} (hr : rising r.vec = true) (hv : r.vl ≤ 4096)
include hr hv

theorem vmovi_writes (h : Amid s sid n 0x17 j a r) :
    Writes (.vmovi sid n) s sid n r (envOf s j a r).w.dst (envOf s j a r).w.ty (activeEls r (envOf s j a r).w) (activeEls r (envOf s j a r).w) fun i =>
      (moveEl (modeOf a r) (envOf s j a r).w.ty (immEl (envOf s j a r).w i), flagIf (elSig (envOf s j a r).w.ty (immEl (envOf s j a r).w i)) fNV) :=
  writes_of_putEls h rfl hr hv (f := _) (by unfold exec execVmovi; rfl) rfl (fun _ => activeEls_lt) rfl

theorem vsel_writes (h : Amid s sid n 0x44 j a r) :
    Writes (.vsel sid n) s sid n r (envOf s j a r).w.dst (envOf s j a r).w.ty (activeEls r (envOf s j a r).w) (List.range r.vl) fun i =>
      (moveEl (modeOf a r) (envOf s j a r).w.ty
          (if chosen r (envOf s j a r).w i then getEl r (envOf s j a r).w.ty (envOf s j a r).w.sa i else srcB r (envOf s j a r).w i),
        flagIf (elSig (envOf s j a r).w.ty (getEl r (envOf s j a r).w.ty (envOf s j a r).w.sa i)) fNV |||
          flagIf (elSig (envOf s j a r).w.ty (srcB r (envOf s j a r).w i)) fNV) :=
  writes_of_putEls h rfl hr hv (f := veVsel) rfl rfl (fun _ => List.mem_range.1) (foldl_or_active ..)

end Moves

/-- Settles O18: the rows of `veMap` by their function, VMOVI and VSEL by the elements that they write. -/
theorem veOtherResults : Obligations.VeOtherResults := by
  unfold Obligations.VeOtherResults
  intro s sid n j a r e w m act writes gives ca x y z sig sig3 nv fused hrising hvl
  refine ⟨fun h => vmovi_writes hrising hvl h, fun h => ?_, fun h => ?_, fun h => ?_, fun c hc h => ?_, fun h hty => ?_, fun h hty => ?_, fun h => ?_, fun h => ?_,
    fun h => vsel_writes hrising hvl h⟩
  · exact writes_of_veMap (c := .vfma sid n) h rfl hrising hvl (by unfold exec execVfma; rfl)
  · exact writes_of_veMap (c := .vfnma sid n) h rfl hrising hvl (by unfold exec execVfnma; rfl)
  · exact writes_of_veMap (c := .vsqrt sid n) h rfl hrising hvl (by unfold exec execVsqrt; rfl)
  · have hrow : exec (c.1 sid n) s = veRow sid n c.2 s (veApprox c.2) ∧ (c.2 = 0x10 || c.2 = 0x12 || c.2 = 0x15) = false := by
      simp only [List.mem_cons, List.not_mem_nil, or_false] at hc
      obtain rfl | rfl | rfl | rfl | rfl := hc
      all_goals exact ⟨rfl, rfl⟩
    exact writes_of_veMap (c := c.1 sid n) h hrow.2 hrising hvl hrow.1
  · have hw := writes_of_veMap (c := .vabs sid n) h rfl hrising hvl (by unfold exec execVabs; rfl)
    simp only [if_neg (show ¬(envOf s j a r).w.ty = 2 from hty)] at hw
    exact hw
  · have hw := writes_of_veMap (c := .vneg sid n) h rfl hrising hvl (by unfold exec execVneg; rfl)
    simp only [if_neg (show ¬(envOf s j a r).w.ty = 2 from hty)] at hw
    exact hw
  · exact writes_of_veMap (c := .vcvt sid n) h rfl hrising hvl (by unfold exec execVcvt; rfl)
  · exact writes_of_veMap (c := .vrndi sid n) h rfl hrising hvl (by unfold exec execVrndi; rfl)

end Sys2Proof.Elementwise
end

section
/-! Rows of a script that complete: the elementwise ones by the elements that they write, the control rows by the run that they leave. -/

namespace Sys2Proof.ScriptRows

open Sys2Proof Sys2Proof.Machine Sys2Proof.Laws Sys2Proof.Elementwise

/-! ### Elementwise rows -/

/-- What the type of a row's results is. -/
def resultTy (op : Nat) (w : VeWord) : Nat := if op = 0x2B then tyOfCode w.sc else w.ty

/-- A row writes elements of its destination below `VL` and no others. -/
def RowWrites (x : (Sid → Nat → Instr) × Nat) : Prop :=
  ∀ (s : State) (sid : Sid) (n : Nat) (j : Job) (a : Active) (r : Run), Amid s sid n x.2 j a r → rising r.vec = true → r.vl ≤ 4096 →
    ∃ act is g, Writes (x.1 sid n) s sid n r (envOf s j a r).w.dst (resultTy x.2 (envOf s j a r).w) act is g ∧ ∀ i ∈ is, i < r.vl

theorem rowWrites_of_veMap {c : Sid → Nat → Instr} {op : Nat} {ub uc : Bool} {dty : VeWord → Nat} {dr : VeWord → Bool}
    {f : VeEnv → Mode → ElArgs → Nat × BitVec 8} (hop : ((op = 0x10 || op = 0x12 || op = 0x15) = false))
    (hty : ∀ w, dty w = resultTy op w) (hc : ∀ s sid n, exec (c sid n) s = veRow sid n op s (veMap ub uc dty dr f)) : RowWrites (c, op) := by
  intro s sid n j a r h hr hv
  have hw := writes_of_veMap h hop hr hv (hc s sid n)
  rw [hty] at hw
  exact ⟨_, _, _, hw, fun _ => activeEls_lt⟩

/-- The elementwise rows of 06 R182. -/
def elementwiseRows : List ((Sid → Nat → Instr) × Nat) :=
  [(.vmovi, 0x17), (.vadd, 0x20), (.vsub, 0x21), (.vmul, 0x22), (.vfma, 0x23), (.vfnma, 0x24), (.vdiv, 0x25), (.vsqrt, 0x26), (.vmin, 0x27),
    (.vmax, 0x28), (.vabs, 0x29), (.vneg, 0x2A), (.vcvt, 0x2B), (.vrndi, 0x2C), (.vand, 0x30), (.vor, 0x31), (.vxor, 0x32), (.vshl, 0x33),
    (.vshr, 0x34), (.vexp2, 0x38), (.vlog2, 0x39), (.vrcp, 0x3A), (.vrsq, 0x3B), (.vtanh, 0x3C), (.vsel, 0x44)]

theorem elementwiseRows_write : ∀ x ∈ elementwiseRows, RowWrites x := by
  have hvmovi : RowWrites (.vmovi, 0x17) := fun s sid n j a r h hr hv => ⟨_, _, _, vmovi_writes hr hv h, fun _ => activeEls_lt⟩
  have hvsel : RowWrites (.vsel, 0x44) := fun s sid n j a r h hr hv => ⟨_, _, _, vsel_writes hr hv h, fun _ => List.mem_range.1⟩
  simp only [elementwiseRows, List.forall_mem_cons, List.not_mem_nil, IsEmpty.forall_iff, implies_true, and_true]
  refine ⟨hvmovi, ?_, ?_, ?_, ?_, ?_, ?_, ?_, ?_, ?_, ?_, ?_, ?_, ?_, ?_, ?_, ?_, ?_, ?_, ?_, ?_, ?_, ?_, ?_, hvsel⟩ <;>
    exact rowWrites_of_veMap rfl (fun _ => rfl) fun s sid n => by unfold exec; rfl

theorem went_of_kept {r q : Run} {pc : Nat} (h : q.executed = r.executed) : went q pc = { q with executed := r.executed + 1, pc := pc } := by
  rw [went, h]

/-! ### Control rows -/

section Control

variable {s : State} {sid : Sid} {n op : Nat} {j : Job} {a : Active} {r : Run}

theorem running_of_stands (h : Stands s sid n op j a r) : r.state = .running := by
  have hnow := h.2.2.2
  simp only [Bool.and_eq_true, beq_iff_eq] at hnow
  exact hnow.1.1.1.1

theorem afterRun_running {q : Run} (hq : q.state = .running) : afterRun s a q = putRun s q := by
  simp [afterRun, hq]

/-- The last run of a stitch but one ends: the stitch goes on. -/
theorem afterRun_ended {q : Run} (hq : q.state ≠ .running) (hw : q.state ≠ .waiting) (hleft : 1 < a.runsLeft) :
    afterRun s a q = putAct (putRun s q) { a with runsLeft := a.runsLeft - 1 } := by
  have hmore : ¬ a.runsLeft - 1 = 0 := by omega
  unfold afterRun
  cases hs : q.state <;> simp_all

/-- An instruction that changes its run alone: the run stands before the next instruction. -/
theorem veRow_putRun (h : Stands s sid n op j a r) (ho : (op = 0x10 || op = 0x12 || op = 0x15) = false) {f : VeEnv → Run → Option VeRes} {q : Run}
    {jump : Option Nat} (hf : f (envOf s j a r) r = some { run := q, jump := jump }) (hpc : jump.getD (r.pc + 1) < a.script.length) (hst : q.state = r.state) :
    veRow sid n op s f = .next (putRun s { q with executed := r.executed + 1, pc := jump.getD (r.pc + 1) }) := by
  have hrun : q.state = .running := hst.trans (running_of_stands h)
  have happly : veApply (envOf s j a r) r { run := q, jump := jump } =
      afterRun (envOf s j a r).s a { q with executed := r.executed + 1, pc := jump.getD (r.pc + 1) } := by
    simp [veApply, not_le.2 hpc, envOf, hrun]
  rw [veRow_of_stands h f _ hf, happly, envOf_s h ho, afterRun_running (by exact hrun)]

/-- A run put back is found, and nothing but runs has changed. -/
theorem runIs_putRun {q : Run} (h : runOf s sid n = some r) (hsid : q.sid = r.sid) (hidx : q.index = r.index) : RunIs s (putRun s q) sid n q := by
  obtain ⟨e1, e2⟩ := runOf_sid h
  exact ⟨runOf_putRun h (hsid.trans e1) (hidx.trans e2), rfl⟩

section Rows

variable (s sid n j a r)

theorem setvl_puts (h : Amid s sid n 0x01 j a r) : exec (.setvl sid n) s = .next (putRun s { went r (r.pc + 1) with
    vl := if (envOf s j a r).w.sa = 15 then (envOf s j a r).w.immv
      else min (envOf s j a r).w.immv (slotElems (envOf s j a r) (envOf s j a r).w.sa - r.cursors.getD (envOf s j a r).w.sa 0) }) :=
  veRow_putRun h.1 rfl (f := veSetvl) rfl h.2 rfl

theorem jmp_puts (h : Stands s sid n 0x02 j a r) (hv : (envOf s j a r).w.immv < a.script.length) :
    exec (.jmp sid n) s = .next (putRun s (went r (envOf s j a r).w.immv)) :=
  veRow_putRun h rfl (f := fun e r => some { run := r, jump := some e.w.immv }) rfl hv rfl

theorem bzvl_puts (h : Amid s sid n 0x03 j a r) (hvl : r.vl ≠ 0) : exec (.bzvl sid n) s = .next (putRun s (went r (r.pc + 1))) :=
  veRow_putRun h.1 rfl (jump := none) (f := fun e r => some { run := r, jump := if r.vl = 0 then some e.w.immv else none }) (by rw [if_neg hvl]) h.2 rfl

theorem bzvl_jumps (h : Stands s sid n 0x03 j a r) (hvl : r.vl = 0) (hv : (envOf s j a r).w.immv < a.script.length) :
    exec (.bzvl sid n) s = .next (putRun s (went r (envOf s j a r).w.immv)) :=
  veRow_putRun h rfl (jump := some _) (f := fun e r => some { run := r, jump := if r.vl = 0 then some e.w.immv else none }) (by rw [if_pos hvl]) hv rfl

theorem btqe_jumps (h : Stands s sid n 0x04 j a r) (hend : streamEnded (envOf s j a r) r = true) (hv : (envOf s j a r).w.immv < a.script.length) :
    exec (.btqe sid n) s = .next (putRun s (went { r with sawEnd := true } (envOf s j a r).w.immv)) :=
  veRow_putRun h rfl (f := veBtqe) (if_pos hend) hv rfl

theorem btqe_puts (h : Amid s sid n 0x04 j a r) (hend : streamEnded (envOf s j a r) r = false)
    (htile : ((nibTiles (envOf s j a r) r).any fun t => !t.queue.isEmpty) = true) :
    exec (.btqe sid n) s = .next (putRun s (went r (r.pc + 1))) :=
  veRow_putRun h.1 rfl (jump := none) (f := veBtqe) (by rw [veBtqe, hend, if_neg Bool.false_ne_true, if_pos htile]) h.2 rfl

theorem currun_puts (h : Amid s sid n 0x05 j a r) : exec (.currun sid n) s =
    .next (putRun s { went r (r.pc + 1) with cursors := r.cursors.set (envOf s j a r).w.sa (r.index * (envOf s j a r).w.immv) }) :=
  veRow_putRun h.1 rfl (f := fun e r => some { run := { r with cursors := r.cursors.set e.w.sa (r.index * e.w.immv) } }) rfl h.2 rfl

theorem setrm_puts (h : Amid s sid n 0x07 j a r) : exec (.setrm sid n) s = .next (putRun s { went r (r.pc + 1) with rm := (envOf s j a r).w.immv % 8 }) :=
  veRow_putRun h.1 rfl (f := fun e r => some { run := { r with rm := e.w.immv % 8 } }) rfl h.2 rfl

theorem endRun_ends (h : Stands s sid n 0x06 j a r) : exec (.endRun sid n) s = .next (afterRun s a { went r (r.pc + 1) with state := .ended }) := by
  have hrow := veRow_of_stands h (fun _ r => some { run := r, stop := true }) _ rfl
  have hsame := envOf_s h rfl
  refine Eq.trans (by unfold exec execEndRun; rfl) (hrow.trans ?_)
  show Host.Outcome.next (afterRun (envOf s j a r).s a { went r (r.pc + 1) with state := .ended }) = _
  rw [hsame]

end Rows

/-! ### Runs and tiles -/

theorem actOf_sid {s : State} {sid : Sid} {a : Active} (h : actOf s sid = some a) : a.sid = sid := by
  simpa using List.find?_some h

theorem vscriptRunStart_starts (ha : actOf s sid = some a) (hr : runOf s sid n = some r) (hstage : a.stage = .running) (hwait : r.state = .waiting)
    (hroom : runsOn s r.panel r.nib < 4) (hbobbin : bobbinRoom s (byOhmub a) (r.panel, r.nib) = true) :
    exec (.vscriptRunStart sid n) s = .next (putRun (putAct (accrue s a.job s.clk.now)
      { a with held := if a.held.contains (r.panel, r.nib) then a.held else a.held ++ [(r.panel, r.nib)] }) { r with state := .running }) := by
  show execVscriptRunStart sid n s = _
  simp [execVscriptRunStart, ha, hr, onlyIf, hstage, hwait, hroom, hbobbin]

theorem veInstructionLimit_faults (ha : actOf s sid = some a) (hr : runOf s sid n = some r) (hrun : r.state = .running) (hlim : 2 ^ 24 ≤ r.executed) :
    exec (.veInstructionLimit sid n) s = .next (afterRun s a { r with state := .faulted 3 r.pc }) := by
  show execVeInstructionLimit sid n s = _
  simp only [execVeInstructionLimit, ha, hr, onlyIf, hrun, decide_eq_true hlim, Bool.and_true, beq_self_eq_true, if_true]

/-- What TILE_QUEUE_PUSH does to the tiles of a position. -/
theorem tileQueuePush_pushes {k : Nat} {x : Tile} {rest queue : List Tile} (ha : actOf s sid = some a)
    (ht : tget a.tiles k = some { stream := x :: rest, queue := queue }) (hroom : queue.length < 8) :
    ∃ stage, exec (.tileQueuePush sid k) s =
        .next (putAct s { a with tiles := tset a.tiles k { stream := rest, queue := queue ++ [x] }, stage := stage }) ∧ (rest ≠ [] → stage = a.stage) := by
  have htiles : tgetD a.tiles k {} = { stream := x :: rest, queue := queue } := by rw [tgetD, ht]; rfl
  refine ⟨if (tset a.tiles k { stream := rest, queue := queue ++ [x] }).any (fun x => !x.2.stream.isEmpty) then a.stage
    else if a.marks.replayRound then .replayed else .finished, ?_, fun hrest => if_pos ?_⟩
  · show execTileQueuePush sid k s = _
    simp only [execTileQueuePush, ha, htiles, hroom, if_true]
  · refine List.any_eq_true.2 ⟨_, mem_of_tget (tget_tset_self a.tiles k { stream := rest, queue := queue ++ [x] }), ?_⟩
    simpa using hrest

end Control

theorem updJob_eq (s : State) (k : Nat) (f : Job → Job) : updJob s k f = { s with jobs := (updJob s k f).jobs } := by
  unfold updJob
  cases jobOf s k <;> rfl

/-- Settles O13: the runs and tiles by the state that each row leaves, the control rows by the run that they put back. -/
theorem runsTilesAndControl : Obligations.RunsTilesAndControl := by
  unfold Obligations.RunsTilesAndControl
  refine ⟨⟨fun s sid n a r ha hr hstage hwait hroom hbobbin => ?_, fun s sid n a r ha hr hrun hlim => veInstructionLimit_faults ha hr hrun hlim,
    fun s sid k a x rest queue ha ht hroom => ?_⟩, fun s sid n j a r => ?_⟩
  · obtain ⟨e1, e2⟩ := runOf_sid hr
    have hsid := actOf_sid ha
    have hput : ∀ b : Active, b.sid = sid → actOf (putAct (accrue s a.job s.clk.now) b) sid = some b := fun b hb => by
      subst hb
      exact actOf_putAct_self _ _ a (by rw [actOf, accrue, updJob_acts]; exact ha)
    refine ⟨_, _, vscriptRunStart_starts ha hr hstage hwait hroom hbobbin, ?_, ?_, hput _ hsid, rfl, ?_⟩
    · refine runOf_putRun (r := r) ?_ e1 e2
      rw [putAct_runs, accrue_runs]
      exact hr
    · rw [accrue, updJob_eq]
      rfl
    · dsimp only
      split
      next hin => simpa using hin
      next => simp
  · obtain ⟨stage, hnext, hstage⟩ := tileQueuePush_pushes ha ht hroom
    have hsid := actOf_sid ha
    subst hsid
    exact ⟨_, _, hnext, actOf_putAct_self s _ a ha, tget_tset_self .., rfl, hstage⟩
  · intro e v
    refine ⟨fun h => ?_, fun h hv => ?_, fun h hv => ?_, fun h hv hend => ?_, fun h hend htile => ?_, fun h => ?_, fun h => ?_,
      fun h => endRun_ends s sid n j a r h⟩
    · exact ⟨_, setvl_puts s sid n j a r h, runIs_putRun h.1.2.1 rfl rfl⟩
    · exact ⟨_, jmp_puts s sid n j a r h hv, runIs_putRun h.2.1 rfl rfl⟩
    · by_cases hvl : r.vl = 0
      · rw [if_pos hvl]
        exact ⟨_, bzvl_jumps s sid n j a r h.1 hvl hv, runIs_putRun h.1.2.1 rfl rfl⟩
      · rw [if_neg hvl]
        exact ⟨_, bzvl_puts s sid n j a r h hvl, runIs_putRun h.1.2.1 rfl rfl⟩
    · exact ⟨_, btqe_jumps s sid n j a r h.1 hend hv, runIs_putRun h.1.2.1 rfl rfl⟩
    · exact ⟨_, btqe_puts s sid n j a r h hend htile, runIs_putRun h.1.2.1 rfl rfl⟩
    · exact ⟨_, currun_puts s sid n j a r h, runIs_putRun h.1.2.1 rfl rfl⟩
    · exact ⟨_, setrm_puts s sid n j a r h, runIs_putRun h.1.2.1 rfl rfl⟩

/-- Settles O19: the same rows with their exact states, and the elementwise ones by what `Writes` says. -/
theorem scriptRowsComplete : Obligations.ScriptRowsComplete := by
  unfold Obligations.ScriptRowsComplete
  refine ⟨fun s sid n j a r => ?_, fun s sid n a r ha hr => ⟨fun hstage hwait hroom hbobbin hheld => ?_, fun hrun hlim hleft => ?_⟩,
    fun s sid k a x y rest queue ha ht hroom => ?_, fun x hx s sid n j a r h hrising hvl => ?_⟩
  · intro e v next
    refine ⟨setvl_puts s sid n j a r, jmp_puts s sid n j a r, bzvl_puts s sid n j a r, bzvl_jumps s sid n j a r, btqe_jumps s sid n j a r,
      btqe_puts s sid n j a r, currun_puts s sid n j a r, setrm_puts s sid n j a r, fun h hleft => ?_⟩
    exact (endRun_ends s sid n j a r h).trans (congrArg _ (afterRun_ended (by simp) (by simp) hleft))
  · rw [vscriptRunStart_starts ha hr hstage hwait hroom hbobbin, if_pos (by simpa using hheld)]
  · rw [veInstructionLimit_faults ha hr hrun hlim, afterRun_ended (by simp) (by simp) hleft]
  · obtain ⟨stage, hnext, hstage⟩ := tileQueuePush_pushes ha ht hroom
    rw [hstage (List.cons_ne_nil _ _)] at hnext
    exact ⟨_, hnext, tget_tset_self .., fun i hi => tget_tset_ne _ _ (Ne.symm hi)⟩
  · intro w ty
    obtain ⟨act, is, g, ⟨t, q, hnext, hrun, hq, hel⟩, his⟩ := elementwiseRows_write x hx s sid n j a r h hrising hvl
    have hexec : q.executed = r.executed := by rw [hq]
    refine ⟨t, q, hnext, hrun.1.trans (congrArg some (went_of_kept hexec)), hrun.2, ?_, ?_, fun d i hi hnot => ?_⟩
    · rw [hq]
    · rw [hq]
      exact foldl_or_and act (fun i => (g i).2) _ _ (BitVec.and_self ..)
    · rw [show ty = resultTy x.2 w from rfl, hel _ _ hi, if_neg fun ⟨hd, hmem⟩ => hnot ⟨hd, his i hmem⟩]

end Sys2Proof.ScriptRows
end

section
/-! Masks, the reduction unit and the faults of a script (06 R184 to R195). -/

namespace Sys2Proof.ScriptRows

open Sys2Proof Sys2Proof.Machine Sys2Proof.Laws Sys2Proof.Elementwise

variable {s : State} {sid : Sid} {n op : Nat} {j : Job} {a : Active} {r : Run}

/-! ### Faults (06 R185, R191) -/

/-- An instruction that faults stops its run where it stands, with the run's registers as they were. -/
theorem veRow_faults (h : Stands s sid n op j a r) {f : VeEnv → Run → Option VeRes} {k : Nat}
    (hf : f (envOf s j a r) r = some { run := r, fault := some k }) :
    veRow sid n op s f = .next (afterRun (envOf s j a r).s a { r with executed := r.executed + 1, state := .faulted k r.pc }) :=
  veRow_of_stands h f _ hf

/-- Settles O15: each row by the branch that faults. -/
theorem veFaultsWriteNothing : Obligations.VeFaultsWriteNothing := by
  unfold Obligations.VeFaultsWriteNothing
  intro s sid n j a r v e stops
  refine ⟨fun h hv hout => ?_, fun h hout => ?_, reachLoads_mem .., fun h hend => ?_, fun h hnone => ?_, fun h hseen x hx hv hr => ?_, fun h hx => ?_,
    fun h x o hx ho hr => ?_⟩
  · exact veRow_faults h (f := veVld) (by rw [veVld, hv]; exact if_pos hout)
  · exact veRow_faults h (f := veVst) (by rw [veVst, if_pos hout])
  · exact veRow_faults h (f := veTqpop) (by rw [veTqpop, if_pos hend])
  · refine veRow_faults h (f := veVldt) ?_
    unfold veVldt
    split
    · rfl
    next hseen =>
      obtain htile | hseen' := hnone
      · rw [htile]
      · exact absurd hseen' hseen
  · exact veRow_faults h (f := veVldt) (by rw [veVldt, hseen, if_neg Bool.false_ne_true, hx, hv]; simp only [hr])
  · exact veRow_faults h (f := veVstt) (by rw [veVstt, hx])
  · exact veRow_faults h (f := veVstt) (by rw [veVstt, hx, show (envOf s j a r).a.out = some o from ho]; simp only [hr])

/-- An instruction that changes registers and flags alone goes on to the next. -/
theorem goes_of_registers (h : Amid s sid n op j a r) (ho : (op = 0x10 || op = 0x12 || op = 0x15) = false) {c : Instr} {f : VeEnv → Run → Option VeRes}
    {q : Run} (hc : exec c s = veRow sid n op s f) (hf : f (envOf s j a r) r = some { run := q })
    (hq : q = { r with vec := q.vec, badVec := q.badVec, masks := q.masks, badMask := q.badMask, acc := q.acc, badAcc := q.badAcc, flags := q.flags }) :
    ∃ t, exec c s = .next t ∧ RunIs s t sid n (went q (r.pc + 1)) := by
  obtain ⟨t, hrow, hrun⟩ := veRow_goes_plain h.1 ho f _ hf rfl rfl h.2 (by rw [hq]; exact ⟨rfl, rfl⟩) (by rw [hq]) (by rw [hq])
  exact ⟨t, hc.trans hrow, hrun⟩

/-! ### Masks (06 R184, R188) -/

/-- An instruction sets the bits of the active elements of one mask register and touches no vector register. -/
def SetsMask (c : Instr) (s : State) (sid : Sid) (n : Nat) (r : Run) (w : VeWord) (g : Nat → Bool) : Prop :=
  ∃ t q, exec c s = .next t ∧ RunIs s t sid n (went q (r.pc + 1)) ∧ q.vec = r.vec ∧ q.acc = r.acc ∧
    (∀ i ∈ activeEls r w, maskAt q w.dst i = g i) ∧ ∀ d i, i < 4096 → ¬(d = w.dst ∧ i ∈ activeEls r w) → maskAt q d i = maskAt r d i

theorem setsMask_of (h : Amid s sid n op j a r) (ho : (op = 0x10 || op = 0x12 || op = 0x15) = false) (hv : r.vl ≤ 4096) {c : Instr}
    {f : VeEnv → Run → Option VeRes} {g bad : Nat → Bool} {q : Run} (hc : exec c s = veRow sid n op s f) (hf : f (envOf s j a r) r = some { run := q })
    (hq : q = { putMasks r (envOf s j a r).w.dst ((activeEls r (envOf s j a r).w).map fun i => (i, g i, bad i)) with flags := q.flags }) :
    SetsMask c s sid n r (envOf s j a r).w g := by
  have hlt : ∀ i ∈ activeEls r (envOf s j a r).w, i < 4096 := fun i hi => lt_of_lt_of_le (activeEls_lt hi) hv
  obtain ⟨hfields, hbits⟩ := putMasks_spec (envOf s j a r).w.dst (activeEls r (envOf s j a r).w) g bad r hlt
  generalize putMasks r _ _ = p at hq hfields hbits
  have hmask : ∀ d i, maskAt q d i = maskAt p d i := fun d i => by rw [hq]; rfl
  obtain ⟨t, hrow, hrun⟩ := goes_of_registers h ho hc hf (by rw [hq, hfields])
  refine ⟨t, q, hrow, hrun, by rw [hq, hfields], by rw [hq, hfields], fun i hi => ?_, fun d i hi hnot => ?_⟩
  · exact (hmask _ i).trans ((hbits _ i (hlt i hi)).trans (if_pos ⟨rfl, hi⟩))
  · exact (hmask d i).trans ((hbits d i hi).trans (if_neg hnot))

theorem mask_setsMask (h : Amid s sid n op j a r) (ho : (op = 0x10 || op = 0x12 || op = 0x15) = false) (hv : r.vl ≤ 4096) {c : Instr} {two : Bool}
    {f : Bool → Bool → Bool} (hc : exec c s = veRow sid n op s (veMask two f)) :
    SetsMask c s sid n r (envOf s j a r).w fun i => f (maskAt r (envOf s j a r).w.sa i) (maskAt r (envOf s j a r).w.sb i) :=
  setsMask_of h ho hv hc (f := veMask two f) rfl rfl

theorem vcmp_setsMask (h : Amid s sid n 0x40 j a r) (hv : r.vl ≤ 4096) :
    SetsMask (.vcmp sid n) s sid n r (envOf s j a r).w fun i =>
      predicate (envOf s j a r).w.sc (elNum (modeOf a r) (envOf s j a r).w.ty (getEl r (envOf s j a r).w.ty (envOf s j a r).w.sa i))
        (elNum (modeOf a r) (envOf s j a r).w.ty (srcB r (envOf s j a r).w i)) := by
  refine setsMask_of h rfl hv (f := veVcmp)
    (bad := fun i => chooseBad r (envOf s j a r).w i || elBad r (envOf s j a r).w.ty (envOf s j a r).w.sa i || srcBBad r (envOf s j a r).w i) rfl rfl ?_
  dsimp only
  rw [List.map_map]
  rfl

/-! ### Accumulators (06 R184, R195) -/

theorem accAt_putAcc {r : Run} (hr : rising r.acc = true) (k : Nat) (v : Word64) (b : Bool) (i : Nat) :
    accAt (putAcc r k v b) i = (if k % 256 = i % 256 then v else accAt r i) ∧ rising (putAcc r k v b).acc = true := by
  unfold accAt putAcc tgetD
  dsimp only
  split
  next hv =>
    refine ⟨?_, rising_tdel _ _ hr⟩
    rw [tget_tdel _ _ _ hr]
    split <;> simp [hv]
  next =>
    refine ⟨?_, rising_tset _ _ _ hr⟩
    rw [tget_tset]
    split <;> rfl

/-- Accumulators from `m` on take a value each; an element of the list names its own accumulator, for fewer than 256 of them. -/
theorem foldl_putAcc (m : Nat) (V : Nat → Word64 → Word64) (b : Run → Nat → Bool) (fl : Run → Nat → BitVec 8) (l : List Nat) :
    ∀ r : Run, rising r.acc = true → l.Nodup → (∀ k ∈ l, k < 256) →
      let q := l.foldl (fun q k => { putAcc q (m + k) (V k (accAt q (m + k))) (b q k) with flags := fl q k }) r
      q = { r with acc := q.acc, badAcc := q.badAcc, flags := q.flags } ∧ (∀ k ∈ l, accAt q (m + k) = V k (accAt r (m + k))) ∧
        ∀ i, (∀ k ∈ l, i % 256 ≠ (m + k) % 256) → accAt q i = accAt r i := by
  induction l with
  | nil => exact fun r _ _ _ => ⟨rfl, fun k hk => absurd hk List.not_mem_nil, fun _ _ => rfl⟩
  | cons x l ih =>
    intro r hr hnd hlt
    obtain ⟨hx, hnd⟩ := List.nodup_cons.1 hnd
    have hput := accAt_putAcc hr (m + x) (V x (accAt r (m + x))) (b r x)
    obtain ⟨hq, hin, hout⟩ := ih { putAcc r (m + x) (V x (accAt r (m + x))) (b r x) with flags := fl r x } (hput 0).2 hnd fun k hk => hlt k (List.mem_cons_of_mem _ hk)
    have hne : ∀ k ∈ l, (m + x) % 256 ≠ (m + k) % 256 := fun k hk => by
      have h1 := hlt x (List.mem_cons_self ..)
      have h2 := hlt k (List.mem_cons_of_mem _ hk)
      have h3 : x ≠ k := fun h => hx (h ▸ hk)
      omega
    refine ⟨hq.trans rfl, fun k hk => ?_, fun i hi => ?_⟩
    · obtain rfl | hk := List.mem_cons.1 hk
      · exact (hout _ hne).trans ((hput _).1.trans (if_pos rfl))
      · exact (hin k hk).trans (congrArg (V k) ((hput _).1.trans (if_neg (hne k hk))))
    · refine (hout i fun k hk => hi k (List.mem_cons_of_mem _ hk)).trans ((hput i).1.trans (if_neg ?_))
      exact Ne.symm (hi x (List.mem_cons_self ..))

/-- The elements of segment `k` below `VL`. -/
def segEls (r : Run) (w : VeWord) (k : Nat) : List Nat :=
  (List.range (2 ^ w.sc)).filterMap fun i => if k * 2 ^ w.sc + i < r.vl then some (k * 2 ^ w.sc + i) else none

/-- What a fold takes of an element: an inactive one counts as the identity. -/
def foldEl (f : Fold) (r : Run) (w : VeWord) (i : Nat) : Word64 × Bool :=
  if (activeEls r w).contains i then (toFp64 (f.pre (decodeFloat (tyFmt w.ty) (getEl r w.ty w.sa i))), elSig w.ty (getEl r w.ty w.sa i)) else (f.ident, false)

/-- The tree of segment `k`. -/
def segTree (f : Fold) (r : Run) (w : VeWord) (k : Nat) : Word64 × Bool :=
  ((treeFold f.comb 13 ((segEls r w k).map (foldEl f r w))).head?).getD (f.ident, false)

theorem ruFold_accumulates (h : Amid s sid n op j a r) (ho : (op = 0x10 || op = 0x12 || op = 0x15) = false) {c : Instr} {f : Fold}
    (hc : exec c s = veRow sid n op s (veFold f)) (hr : rising r.acc = true) (hseg : ceilDiv r.vl (2 ^ (envOf s j a r).w.sc) ≤ 256) :
    ∃ t q, exec c s = .next t ∧ RunIs s t sid n (went q (r.pc + 1)) ∧ q = { r with acc := q.acc, badAcc := q.badAcc, flags := q.flags } ∧
      (∀ k, k < ceilDiv r.vl (2 ^ (envOf s j a r).w.sc) → accAt q ((envOf s j a r).w.immv + k) =
        (f.comb (accAt r ((envOf s j a r).w.immv + k)) (segTree f r (envOf s j a r).w k).1).1) ∧
      ∀ i, (∀ k, k < ceilDiv r.vl (2 ^ (envOf s j a r).w.sc) → i % 256 ≠ ((envOf s j a r).w.immv + k) % 256) → accAt q i = accAt r i := by
  generalize hw : (envOf s j a r).w = w at *
  have hmod : ∀ (q : Run) (k : Nat), accAt q (w.immv % 256 + k) = accAt q (w.immv + k) := fun q k => by simp [accAt]
  obtain ⟨hq, hin, hout⟩ := foldl_putAcc (w.immv % 256) (fun k x => (f.comb x (segTree f r w k).1).1)
    (fun q k => q.badAcc.contains ((w.immv % 256 + k) % 256) || (segEls r w k).any fun i => chooseBad r w i || ((activeEls r w).contains i && elBad r w.ty w.sa i))
    (fun q k => q.flags ||| flagIf ((f.comb (accAt q (w.immv % 256 + k)) (segTree f r w k).1).2 || (segTree f r w k).2) fNV)
    (List.range (ceilDiv r.vl (2 ^ w.sc))) r hr List.nodup_range fun k hk => lt_of_lt_of_le (List.mem_range.1 hk) hseg
  generalize hQ : List.foldl _ r _ = q at hq hin hout
  have hf : veFold f (envOf s j a r) r = some { run := q } := by
    rw [veFold, hw, ← hQ]
    rfl
  obtain ⟨t, hrow, hrun⟩ := goes_of_registers h ho hc hf (by rw [hq])
  refine ⟨t, q, hrow, hrun, hq, fun k hk => ?_, fun i hi => hout i fun k hk => ?_⟩
  · have := hin k (List.mem_range.2 hk)
    rwa [hmod, hmod] at this
  · have := hi k (List.mem_range.1 hk)
    omega

/-- Accumulators rounded into a register (06 R183, R184). -/
theorem getAcc_gets (h : Amid s sid n op j a r) (ho : (op = 0x10 || op = 0x12 || op = 0x15) = false) (hr : rising r.vec = true) {c : Instr} {is : List Nat}
    {k : Nat → Nat} {chooses : Bool} {f : VeEnv → Run → Option VeRes} (hc : exec c s = veRow sid n op s f)
    (hf : f (envOf s j a r) r = getAcc (envOf s j a r) r is k chooses) (his : ∀ i ∈ is, i < 4096) :
    ∃ t q, exec c s = .next t ∧ RunIs s t sid n (went q (r.pc + 1)) ∧ q = { r with vec := q.vec, badVec := q.badVec, flags := q.flags } ∧
      ∀ d i, i < 4096 → getEl q (envOf s j a r).w.ty d i = if d = (envOf s j a r).w.dst ∧ i ∈ is then
        (convTo (modeOf a r) (envOf s j a r).w.ty (ofFp64 (accAt r (k i)))).1 % 2 ^ elBits (envOf s j a r).w.ty else getEl r (envOf s j a r).w.ty d i := by
  obtain ⟨t, hrow, hrun⟩ := goes_of_registers h ho hc (hf.trans rfl) (by rw [putEls_fields])
  refine ⟨t, _, hrow, hrun, by rw [putEls_fields], fun d i hi => ?_⟩
  exact getEl_putEls r _ _ d i is (fun i => (convTo (modeOf a r) (envOf s j a r).w.ty (ofFp64 (accAt r (k i)))).1) _ _ hr his hi

/-- RSET: each active element exactly, for a length that names each accumulator once. -/
theorem rset_sets (h : Amid s sid n 0x57 j a r) (hr : rising r.acc = true) (hv : r.vl ≤ 256) :
    ∃ t q, exec (.rset sid n) s = .next t ∧ RunIs s t sid n (went q (r.pc + 1)) ∧ q = { r with acc := q.acc, badAcc := q.badAcc, flags := q.flags } ∧
      (∀ i ∈ activeEls r (envOf s j a r).w, accAt q ((envOf s j a r).w.immv + i) =
        toFp64 (decodeFloat (tyFmt (envOf s j a r).w.ty) (getEl r (envOf s j a r).w.ty (envOf s j a r).w.sa i))) ∧
      ∀ k, (∀ i ∈ activeEls r (envOf s j a r).w, k % 256 ≠ ((envOf s j a r).w.immv + i) % 256) → accAt q k = accAt r k := by
  generalize hw : (envOf s j a r).w = w at *
  obtain ⟨hq, hin, hout⟩ := foldl_putAcc w.immv (fun i _ => toFp64 (decodeFloat (tyFmt w.ty) (getEl r w.ty w.sa i)))
    (fun _ i => chooseBad r w i || elBad r w.ty w.sa i) (fun q _ => q.flags) (activeEls r w) r hr (List.nodup_range.filter _)
    fun i hi => lt_of_lt_of_le (activeEls_lt hi) hv
  generalize hQ : List.foldl _ r _ = q at hq hin hout
  generalize hl : q.flags ||| flagIf ((activeEls r w).any fun i => elSig w.ty (getEl r w.ty w.sa i)) fNV = fl
  obtain ⟨t, hrow, hrun⟩ := goes_of_registers (c := .rset sid n) (q := { q with flags := fl }) h rfl (by unfold exec execRset; rfl) (by rw [hw, ← hl, ← hQ]; rfl) (by rw [hq])
  exact ⟨t, { q with flags := fl }, hrow, hrun, by rw [hq], hin, hout⟩

/-- Settles O20: comparisons and mask operations by `setsMask_of`, folds by `ruFold_accumulates`, moves by the fold over their elements. -/
theorem veMasksAndReductions : Obligations.VeMasksAndReductions := by
  unfold Obligations.VeMasksAndReductions
  constructor
  · intro s sid n j a r w m sets hv
    exact ⟨fun h => vcmp_setsMask h hv, fun h => mask_setsMask (f := fun a b => a && b) h rfl hv rfl, fun h => mask_setsMask (f := fun a b => a || b) h rfl hv rfl,
      fun h => mask_setsMask (f := fun a _ => !a) h rfl hv rfl⟩
  intro s sid n j a r w m act segs els num tree rounded gets hr hacc hv
  refine ⟨?_, fun h => ?_, fun h => ?_, fun h hv => rset_sets h hacc hv⟩
  · intro x hx h hseg
    simp only [List.mem_cons, List.not_mem_nil, or_false] at hx
    obtain rfl | rfl | rfl | rfl | rfl := hx
    all_goals exact ruFold_accumulates h rfl rfl hacc hseg
  · exact getAcc_gets (c := .rget sid n) (f := fun e r => getAcc e r (List.range r.vl) (fun i => e.w.immv + i) false) h rfl hr rfl rfl
      fun i hi => lt_of_lt_of_le (List.mem_range.1 hi) hv
  · have hmod : accAt r (w.immv % 256) = accAt r w.immv := by simp [accAt]
    have := getAcc_gets (c := .rbcast sid n) (is := act) (f := fun e r => getAcc e r (activeEls r e.w) (fun _ => e.w.immv % 256) true) h rfl hr rfl rfl
      fun i hi => lt_of_lt_of_le (activeEls_lt hi) hv
    simp only [show accAt r ((envOf s j a r).w.immv % 256) = accAt r w.immv from hmod] at this
    exact this

end Sys2Proof.ScriptRows
end

section
/-! What a command of a mailbox page leaves and answers, once its request's turn has come and its checks have passed (14 R409 to R413). -/

namespace Sys2Proof.Commands

open Sys2Proof Sys2Proof.Machine Sys2Proof.Laws

variable {s u : State} {p op act : Nat} {r : Request} {c : Instr}

/-! ### A command whose request is asked -/

/-- A run of an asked command shows its reply: the answer, or the wait for a later event. -/
theorem runCmd_asked (h : Asked s p op act r) (f : Request → State → Reply) :
    runCmd s p op act f = .next (if (f r s).wait then putPage (f r s).s p { pageOf (f r s).s p with waiting := true }
      else answerRequest (f r s).s p r (f r s).status (f r s).data) := by
  obtain ⟨hnext, hop, hact, hpass, hlong⟩ := h
  have hrow : isRow r op act = true := by simp [isRow, hop, hact]
  simp [runCmd, hnext, hrow, hpass, orBusy, hlong]

theorem runThen_asked (h : Asked s p op act r) (f : Request → State → Reply) (g : State → State) :
    runThen s p op act f g = .next (if (f r s).status = mbOk then g (answerRequest (f r s).s p r (f r s).status (f r s).data)
      else answerRequest (f r s).s p r (f r s).status (f r s).data) := by
  obtain ⟨hnext, hop, hact, hpass, -⟩ := h
  have hrow : isRow r op act = true := by simp [isRow, hop, hact]
  simp [runThen, hnext, hrow, hpass]

theorem answers_of {f : Request → State → Reply} {st : Nat} {d : List Byte} (h : Asked s p op act r) (hc : exec c s = runCmd s p op act f)
    (hf : f r s = { s := u, status := st, data := d }) : Answers c s u p r st d := by
  rw [Answers, hc, runCmd_asked h, hf]
  rfl

theorem waits_of {f : Request → State → Reply} (h : Asked s p op act r) (hc : exec c s = runCmd s p op act f)
    (hs : (f r s).s = u) (hw : (f r s).wait = true) : Waits c s u p := by
  rw [Waits, hc, runCmd_asked h, hw, hs]
  rfl

/-- The same for a command of an open job. -/
theorem answersOf_of {f : Request → Job → State → Reply} {st : Nat} {d : List Byte} {j : Job} (h : AskedOf s p op act r j)
    (hc : exec c s = runJobCmd s p op act f) (hf : f r j s = { s := u, status := st, data := d }) : Answers c s u p r st d :=
  answers_of h.1 hc (by rw [h.2]; exact hf)

theorem waitsOf_of {f : Request → Job → State → Reply} {j : Job} (h : AskedOf s p op act r j) (hc : exec c s = runJobCmd s p op act f)
    (hs : (f r j s).s = u) (hw : (f r j s).wait = true) : Waits c s u p :=
  waits_of h.1 hc (by rw [h.2]; exact hs) (by rw [h.2]; exact hw)

/-! ### Numbers as bytes -/

@[simp] theorem leBytes_length (n x : Nat) : (leBytes n x).length = n := by
  induction n generalizing x with
  | zero => rfl
  | succ n ih => rw [leBytes, List.length_cons, ih]

theorem leNat_leBytes (n x : Nat) : leNat (leBytes n x) = x % 256 ^ n := by
  induction n generalizing x with
  | zero => simp [leBytes, leNat, Nat.mod_one]
  | succ n ih =>
    rw [leBytes, leNat, ih, pow_succ', Nat.mod_mul, BitVec.toNat_ofNat]

theorem fieldLe_slice (l : List Byte) {o n m : Nat} (h : o + n ≤ m) : fieldLe (slice l 0 m) o n = fieldLe l o n := by
  unfold Machine.fieldLe slice
  congr 1
  refine List.map_congr_left fun i hi => ?_
  have hi' : o + i < m := by
    have := List.mem_range.1 hi
    omega
  simp [List.getD_eq_getElem?_getD, hi']

/-! ### An answer (14 R410) -/

theorem responseBytes_length (r : Request) (status : Nat) (data : List Byte) : (responseBytes r status data).length = 32 + data.length := by
  simp [responseBytes]
  omega

@[simp] theorem pageOf_sendMsix (s : State) (v k : Nat) : pageOf (sendMsix s v) k = pageOf s k := by
  unfold sendMsix
  split <;> rfl

/-- A shorter answer leaves what stands beyond it in the response area. -/
theorem answerRequest_resp (s : State) (p : Nat) (r : Request) (status : Nat) (data : List Byte) :
    (pageOf (answerRequest s p r status data) p).resp = responseBytes r status data ++ (pageOf s p).resp.drop (responseBytes r status data).length := by
  unfold answerRequest present
  dsimp only
  split <;> simp

/-- Refutes O37: a page whose response area holds 33 bytes shows 32 of an answer without data, and the old last byte after them. -/
theorem not_answerShows : ¬ Obligations.AnswerShows := by
  unfold Obligations.AnswerShows
  intro h
  obtain ⟨t, ht, ⟨hresp, -⟩, -⟩ := h (putPage {} 0 { resp := List.replicate 33 0 }) 0 {} mbOk []
  have hlen := congrArg List.length hresp
  rw [← ht, answerRequest_resp, pageOf_putPage_self, List.length_append, List.length_drop, responseBytes_length] at hlen
  simp at hlen

/-! ### A request is taken (14 R409, R411) -/

/-- The bytes of a page's request area. -/
def requestBytes (s : State) (p : Nat) : List Byte := (List.range 2048).map fun i => tgetD (pageOf s p).req i 0

/-- A request is a page's own from then on, in the order of the rings. -/
def take (s : State) (p : Nat) (r : Request) : State :=
  { putPage s p { pageOf s p with taken := some r } with hub := { (putPage s p { pageOf s p with taken := some r }).hub with ringOrder := s.hub.ringOrder + 1 } }

theorem pageOf_take_self (s : State) (p : Nat) (r : Request) : pageOf (take s p r) p = { pageOf s p with taken := some r } := pageOf_putPage_self ..

theorem pageOf_take_ne (s : State) {p k : Nat} (r : Request) (h : k ≠ p) : pageOf (take s p r) k = pageOf s k := pageOf_putPage_ne _ _ _ _ h

theorem readRequest_first (hnone : (pageOf s p).lastTally = none) (hlen : Machine.fieldLe (requestBytes s p) 6 2 ≤ 2016)
    (hr : r = parseRequest (requestBytes s p)) (hcrc : crc32c ((requestBytes s p).take 28 ++ r.payload) = Machine.fieldLe (requestBytes s p) 28 4)
    (hcmd : cmdLength r.opcode (pf r 15 8) = some (Machine.fieldLe (requestBytes s p) 6 2)) :
    readRequest s p = take (pageChecked s p ((requestBytes s p).take 28 ++ r.payload)) p { r with order := s.hub.ringOrder } := by
  have hpf (b : Bool) (o : Nat) : pf { r with loss := b, order := o } 15 8 = pf r 15 8 := by simp only [pf, pay]
  unfold readRequest
  dsimp only
  rw [show (List.range 2048).map (fun i => tgetD (pageOf s p).req i 0) = requestBytes s p from rfl, ← hr]
  split
  next =>
    split
    next hlast => simp [hnone] at hlast
    next =>
      rw [hpf, hcmd]
      dsimp only
      rw [if_neg (not_not.2 rfl), hnone, show r.loss = false by rw [hr]; rfl]
      rfl
  next hbad => simp [hlen, hcrc] at hbad

/-- Settles O38: a ring of a busy page moves its count alone; a first request that passes its checks is the page's from then on. -/
theorem ringTakesRequest : Obligations.RingTakesRequest := by
  unfold Obligations.RingTakesRequest
  refine ⟨fun s p hlink hp hbusy => ?_, fun s p l r hlink hp hfree hnone hl hr hlen hcrc hcmd => ?_⟩
  · refine ⟨putPage s p { pageOf s p with mbDrop := satInc (pageOf s p).mbDrop }, ?_, pageOf_putPage_self .., rfl, rfl, fun k hk => pageOf_putPage_ne _ _ _ _ hk⟩
    simp [exec, execMbRing, onlyIf, hlink, hp, ringPage, hbusy]
  · have hbytes : requestBytes (putPage s p { pageOf s p with mbState := 1 }) p = l := by rw [requestBytes, pageOf_putPage_self, hl]
    have hread := readRequest_first (s := putPage s p { pageOf s p with mbState := 1 }) (p := p) (r := r) (by rw [pageOf_putPage_self]; exact hnone)
    rw [hbytes] at hread
    refine ⟨take (pageChecked (putPage s p { pageOf s p with mbState := 1 }) p (l.take 28 ++ r.payload)) p { r with order := s.hub.ringOrder },
      { r with order := s.hub.ringOrder }, ?_, ?_, ?_, rfl, rfl, rfl, fun k hk => ?_⟩
    · simp only [exec, execMbRing, onlyIf, hlink, hp, ringPage, hfree]
      rw [hread hlen hr hcrc hcmd]
      simp
      rfl
    · rw [pageOf_take_self, pageChecked, pageOf_putPage_self, pageOf_putPage_self]
    · rw [pageOf_take_self]
    · rw [pageOf_take_ne _ _ hk, pageChecked, pageOf_putPage_ne _ _ _ _ hk, pageOf_putPage_ne _ _ _ _ hk]

end Sys2Proof.Commands
end

section
/-! IDENTIFY, READ_FEATURES and PROGRESS_QUERY (14 R420, R427). -/

namespace Sys2Proof.Commands

open Sys2Proof Sys2Proof.Machine Sys2Proof.Laws

variable {s : State} {p : Nat} {r : Request}

theorem bits_mod {x m hi lo : Nat} (h : lo ≤ hi) (hm : hi < m) : bits (x % 2 ^ m) hi lo = bits x hi lo := by
  unfold bits
  rw [show 2 ^ m = 2 ^ lo * 2 ^ (m - lo) by rw [← pow_add]; congr 1; omega, Nat.mod_mul_right_div_self, Nat.mod_mod_of_dvd]
  exact pow_dvd_pow _ (by omega)

theorem bits_leBytes {n x hi lo : Nat} (h : lo ≤ hi) (hm : hi < 8 * n) : bits (leNat (leBytes n x)) hi lo = bits x hi lo := by
  rw [leNat_leBytes, show 256 ^ n = 2 ^ (8 * n) by rw [pow_mul]; rfl, bits_mod h hm]

theorem bit_eq_bits (x i : Nat) : bit x i = (bits x i i == 1) := by
  simp only [bit, bits, Nat.sub_self, Nat.zero_add, Nat.pow_one]
  rfl

theorem slice_mid (x y z : List Byte) : slice (x ++ (y ++ z)) x.length y.length = y := by
  unfold slice
  apply List.ext_getElem
  · simp
  intro i _ hi
  have hi' : i < y.length := hi
  simp [List.getD_eq_getElem?_getD, List.getElem?_append_right, List.getElem?_append_left, hi']

theorem fieldLe_leBytes (x z : List Byte) (n a : Nat) : Machine.fieldLe (x ++ (leBytes n a ++ z)) x.length n = a % 256 ^ n := by
  have h := slice_mid x (leBytes n a) z
  rw [leBytes_length] at h
  rw [Machine.fieldLe, h, leNat_leBytes]

/-- The feature page begins with the numbers of panels and nibs (14 R420). -/
theorem featurePage_begins (s : State) : ∃ z, featurePage s = leBytes 4 (featPanels s) ++ (leBytes 4 (featNibs s) ++ z) := ⟨_, by
  unfold featurePage
  rw [List.map_cons, List.map_cons, List.flatten_cons, List.flatten_cons, List.append_assoc, List.append_assoc, List.append_assoc]⟩

/-- Settles O41: each field of the answers by its place. -/
theorem partIsRead : Obligations.PartIsRead := by
  unfold Obligations.PartIsRead
  refine ⟨fun s p r h => ?_, fun s p r h => ?_, fun s p r o h h1 h2 h3 ho => ?_⟩
  · refine ⟨_, answers_of h (by unfold exec execIdentify; rfl) rfl, leBytes_length _ _, ?_⟩
    simp only [bits_leBytes, bit_eq_bits, Nat.reduceLeDiff, Nat.reduceLT, Nat.reduceMul]
    have hphase := s.hub.phase.isLt
    have hstate := s.hub.pstate.isLt
    have hslot := s.pwr.slotId.isLt
    have hfeed := s.pwr.feedTag.isLt
    generalize s.hub.phase.toNat = a at *
    generalize s.hub.pstate.toNat = b at *
    generalize s.pwr.slotId.toNat = c at *
    generalize s.pwr.feedTag.toNat = d at *
    generalize prickVer s = e, (running s).svn % 65536 = f, (running s).version.toNat = g, leNat (asciiBytes (orderCode s)) = k, s.fab.nvStation = m,
      Config.serial.toNat = l
    unfold bits
    cases s.hub.preserve <;> cases s.hub.hubB <;> norm_num <;> omega
  · refine ⟨_, answers_of h (by unfold exec execReadFeatures; rfl) rfl, rfl, ?_⟩
    rw [fieldLe_slice _ (by omega), fieldLe_slice _ (by omega)]
    have hpan : featPanels s < 256 ^ 4 := by unfold featPanels panelsOf; split <;> omega
    have hnib : featNibs s < 256 ^ 4 := by unfold featNibs; split <;> omega
    obtain ⟨z, hz⟩ := featurePage_begins s
    constructor
    · rw [hz]
      exact (fieldLe_leBytes [] _ 4 _).trans (Nat.mod_eq_of_lt hpan)
    · have h4 := fieldLe_leBytes (leBytes 4 (featPanels s)) z 4 (featNibs s)
      rw [leBytes_length] at h4
      rw [hz, h4, Nat.mod_eq_of_lt hnib]
  · refine ⟨leBytes 32 (o.state % 8 + (if o.unit then 8 else 0) + o.result % 65536 * 2 ^ 48 + o.startStroke.toNat * 2 ^ 64 + o.total % 2 ^ 64 * 2 ^ 128 +
      o.position % 2 ^ 64 * 2 ^ 192), answers_of h (by unfold exec execProgressQuery; rfl) ?_, leBytes_length _ _, ?_⟩
    · rw [if_neg (by simp [h1]; omega), ho]
      rfl
    · simp only [bits_leBytes, Nat.reduceLeDiff, Nat.reduceLT, Nat.reduceMul]
      have hstroke := o.startStroke.isLt
      generalize o.startStroke.toNat = a at *
      unfold bits
      cases o.unit <;> norm_num <;> omega

end Sys2Proof.Commands
end

section
/-! The table of open jobs, the records that a job and the management side are told, and what a completion leaves (08 R239, R245, 09 R271). -/

namespace Sys2Proof.Completion

open Sys2Proof Sys2Proof.Machine Sys2Proof.Laws

variable {s t u : State} {n i : Nat} {j : Job} {f : Job → Job}

/-! ### The job table -/

theorem id_of_jobOf (hj : jobsOk s.jobs = true) (h : jobOf s n = some j) : j.id = n := ((jobsOk_iff _).1 hj).2 _ (mem_of_tget h)

theorem jobOf_putJob_id (s : State) (k : Job) (h : k.id = n) : jobOf (putJob s k) n = some k := h ▸ jobOf_putJob_self s k

theorem jobOf_updJob (hj : jobsOk s.jobs = true) (hf : ∀ j, (f j).id = j.id) (n i : Nat) :
    jobOf (updJob s n f) i = if i = n then (jobOf s n).map f else jobOf s i := by
  unfold updJob
  cases h : jobOf s n with
  | none =>
    split
    next hi => rw [hi]; exact h
    next => rfl
  | some j =>
    have hid : (f j).id = n := (hf j).trans (id_of_jobOf hj h)
    rw [Option.elim_some]
    split
    next hi => rw [hi, ← hid]; exact jobOf_putJob_self ..
    next hi => exact jobOf_putJob_ne _ _ _ (by rw [hid]; exact hi)

theorem jobOf_updJob_self (hj : jobsOk s.jobs = true) (hf : ∀ j, (f j).id = j.id) (h : jobOf s n = some j) : jobOf (updJob s n f) n = some (f j) := by
  rw [jobOf_updJob hj hf, if_pos rfl, h, Option.map_some]

theorem jobsOk_updJob (hj : jobsOk s.jobs = true) (n : Nat) (f : Job → Job) : jobsOk (updJob s n f).jobs = true := by
  unfold updJob
  cases jobOf s n with
  | none => exact hj
  | some j => exact jobsOk_put hj (f j)

/-- A change of a job that a view of it does not show. -/
theorem jobOf_updJob_view {β : Type} (g : Job → β) (hj : jobsOk s.jobs = true) (hf : ∀ j, (f j).id = j.id) (hg : ∀ j, g (f j) = g j) (n i : Nat) :
    (jobOf (updJob s n f) i).map g = (jobOf s i).map g := by
  rw [jobOf_updJob hj hf]
  split
  next hi => rw [hi, Option.map_map]; congr 1; exact funext hg
  next => rfl

/-! ### Records for jobs and for the management side -/

/-- A job but for the count of the records that it has been told. -/
def uncounted (j : Job) : Job := { j with eqCount := 0 }

/-- From one state to the other records have been told, and strokes judged, and nothing else has happened. -/
structure Told (s t : State) : Prop where
  frame : t = { s with free := t.free, lag := t.lag, host := t.host, jobs := t.jobs, hub := { s.hub with msixPending := t.hub.msixPending },
                       mgmt := t.mgmt, pwr := { s.pwr with alertLow := t.pwr.alertLow }, out := t.out }
  ok : jobsOk s.jobs = true → jobsOk t.jobs = true
  jobs : jobsOk s.jobs = true → ∀ i, (jobOf t i).map uncounted = (jobOf s i).map uncounted

theorem Told.refl (s : State) : Told s s := ⟨rfl, id, fun _ _ => rfl⟩

theorem Told.trans (h : Told s t) (k : Told t u) : Told s u where
  frame := by
    rw [k.frame, h.frame]
  ok := k.ok ∘ h.ok
  jobs hj i := (k.jobs (h.ok hj) i).trans (h.jobs hj i)

theorem Told.foldl {α : Type} {f : State → α → State} (hf : ∀ s x, Told s (f s x)) (l : List α) (s : State) : Told s (l.foldl f s) := by
  induction l generalizing s with
  | nil => exact .refl s
  | cons x l ih => exact (hf s x).trans (ih _)

theorem told_sendVector (s : State) (v : Nat) : Told s (sendVector s v) where
  frame := by
    unfold sendVector sendMsix
    split_ifs <;> rfl
  ok hj := by rwa [sendVector_jobs]
  jobs _ i := by rw [jobOf, sendVector_jobs, jobOf]

/-- One more record is told to a job, in host memory. -/
theorem told_counted (h : jobOf s n = some j) (c : BitVec 64) (x y : Nat) (l m : List Byte) :
    Told s (draw (putJob (wrHost (wrHost s x l) y m) { j with eqCount := c })) where
  frame := rfl
  ok hj := jobsOk_put hj { j with eqCount := c }
  jobs hj i := by
    by_cases hi : i = j.id
    · rw [hi, show jobOf s j.id = some j by rw [id_of_jobOf hj h]; exact h]
      exact (congrArg (Option.map uncounted) (jobOf_putJob_self s { j with eqCount := c })).trans rfl
    · exact congrArg (Option.map uncounted) (jobOf_putJob_ne s { j with eqCount := c } i hi)

theorem told_jobEvent (s : State) (n : Nat) (e : Event) : Told s (jobEvent s n e) := by
  unfold jobEvent
  cases h : jobOf s n with
  | none => exact .refl s
  | some j => exact (told_counted h _ _ _ _ _).trans (told_sendVector ..)

theorem jobOf_jobEvent (hj : jobsOk s.jobs = true) (h : jobOf s n = some j) (e : Event) :
    jobOf (jobEvent s n e) n = some { j with eqCount := j.eqCount + 1 } := by
  unfold jobEvent
  rw [h]
  dsimp only
  rw [jobOf, sendVector_jobs, draw_jobs]
  exact jobOf_putJob_id _ _ (id_of_jobOf (j := j) hj h)

theorem told_health (s : State) (i : HealthInfo) : Told s (health s i) :=
  ⟨rfl, fun hj => by rwa [health_jobs], fun _ i => by rw [jobOf, health_jobs, jobOf]⟩

theorem told_lag (s : State) (l : Lag) : Told s { s with lag := l } := ⟨rfl, id, fun _ _ => rfl⟩

theorem told_lagReport (s : State) (k : Nat) : Told s (lagReport s k) :=
  (Told.foldl (fun _ _ => told_jobEvent ..) _ s).trans (told_health ..)

theorem told_judge (s : State) (x : LagStroke) : Told s (judge s x) := by
  unfold judge
  extract_lets l again s'
  have hs : Told s s' := told_lag s _
  split
  · exact hs
  split
  · unfold lagOverrun
    extract_lets
    split
    · exact hs.trans ((told_lag _ _).trans (told_lagReport ..))
    · exact hs.trans (told_lag _ _)
  split
  · exact hs
  · unfold lagClean
    extract_lets
    split
    · exact hs.trans ((told_lag _ _).trans (told_lagReport ..))
    · exact hs.trans (told_lag _ _)

theorem told_judgeAll (s : State) : Told s (judgeAll s) :=
  (told_lag s _).trans ((Told.foldl told_judge _ _).trans (told_lag _ _))

/-! ### Memory takes data -/

/-- Memory has taken data: bytes, poison marks and pending entries, and nothing else of it. -/
def Stored (m m' : Mem) : Prop := m' = { m with bytes := m'.bytes, poison := m'.poison, wcb := m'.wcb }

theorem Stored.refl (m : Mem) : Stored m m := rfl

theorem Stored.trans {a b c : Mem} (h : Stored a b) (k : Stored b c) : Stored a c := by
  unfold Stored at *
  rw [k, h]

theorem Stored.foldl {α : Type} {f : Mem → α → Mem} (hf : ∀ m x, Stored m (f m x)) (l : List α) (m : Mem) : Stored m (l.foldl f m) := by
  induction l generalizing m with
  | nil => exact .refl m
  | cons x l ih => exact (hf m x).trans (ih _)

theorem stored_storeBytes (m : Mem) (l : List (Nat × Byte)) : Stored m (storeBytes m l) :=
  .foldl (fun m w => by unfold storeByte; split <;> rfl) l m

theorem stored_drainEntry (m : Mem) (e : WcbEntry) : Stored m (drainEntry m e) := by
  refine (stored_storeBytes m e.data).trans ?_
  unfold drainEntry
  split_ifs <;> rfl

theorem stored_drainIf (m : Mem) (p : WcbEntry → Bool) : Stored m (drainIf m p) :=
  (Stored.foldl stored_drainEntry (m.wcb.filter p) m).trans rfl

theorem stored_allocEntry (g : Grade) (now : Nat) (m : Mem) (k : Nat) : Stored m (allocEntry g now m k) := by
  unfold allocEntry
  split
  · rfl
  · cases fullOldest g m k with
    | none => rfl
    | some e => exact (stored_drainIf ..).trans rfl

theorem stored_acceptGranule (g : Grade) (now : Nat) (sid : Option Sid) (m : Mem) (k : Nat) (d : Tbl Byte) (bad : Bool) :
    Stored m (acceptGranule g now sid m k d bad) := by
  unfold acceptGranule
  extract_lets m1 m2
  exact (stored_allocEntry g now m k).trans (Stored.trans (b := m2) rfl (stored_drainIf ..))

theorem stored_commitGranule (g : Grade) (now : Nat) (sid : Option Sid) (ws : WriteSet) (m : Mem) (k : Nat) : Stored m (commitGranule g now sid ws m k) := by
  unfold commitGranule
  split
  · exact stored_acceptGranule ..
  · exact stored_drainEntry ..

theorem stored_setPoison (m : Mem) (k : Nat) : Stored m (setPoison m k) := rfl

theorem stored_commitWrites (g : Grade) (now : Nat) (sid : Option Sid) (m : Mem) (ws : WriteSet) : Stored m (commitWrites g now sid m ws) :=
  (Stored.foldl (fun m k => stored_commitGranule g now sid ws m k) _ m).trans (.foldl stored_setPoison _ _)

theorem wrBytes_frame (s : State) (a : Nat) (l : List Byte) : wrBytes s a l = { s with mem := (wrBytes s a l).mem, host := (wrBytes s a l).host } := by
  apply state_eq <;> simp

theorem stored_wrBytes (s : State) (a : Nat) (l : List Byte) : Stored s.mem (wrBytes s a l).mem := by
  unfold wrBytes
  split
  · refine Eq.subst (motive := Stored s.mem) (foldl_keep (fun s : State => s.mem) _ (fun s i => ?_) _ s).symm rfl
    split <;> rfl
  · exact stored_commitWrites ..

/-! ### A completion -/

theorem accrue_frame (s : State) (n k : Nat) : accrue s n k = { s with jobs := (accrue s n k).jobs } := by
  apply state_eq <;> simp

theorem sendVector_hub (s : State) (v : Nat) : (sendVector s v).hub = { s.hub with msixPending := (sendVector s v).hub.msixPending } :=
  congrArg State.hub (told_sendVector s v).frame

theorem publish_hub (s : State) (a : Active) (st : Nat) : (publish s a st).hub = { s.hub with msixPending := (publish s a st).hub.msixPending } := by
  unfold publish
  extract_lets s1 s2 live s3
  split
  · rfl
  have h2 : s2.hub = s.hub := by
    unfold s2
    split
    · exact wrBytes_hub ..
    · rfl
  have h3 : s3.hub = s.hub := by
    unfold s3
    split
    · exact (updJob_hub ..).trans h2
    · exact h2
  split
  · exact (sendVector_hub ..).trans (by rw [h3])
  · rw [h3]

theorem publish_frame (s : State) (a : Active) (st : Nat) : publish s a st =
    { s with mem := (publish s a st).mem, host := (publish s a st).host, jobs := (publish s a st).jobs,
             hub := { s.hub with msixPending := (publish s a st).hub.msixPending }, out := (publish s a st).out } := by
  apply state_eq <;> simp [← publish_hub]

theorem releaseSlot_frame (s : State) (n : Nat) : releaseSlot s n =
    { s with mem := (releaseSlot s n).mem, host := (releaseSlot s n).host, queues := (releaseSlot s n).queues } := by
  apply state_eq <;> simp

/-- What a completion may change besides its stitch, with its runs and shadows. -/
def Around (s t : State) : Prop :=
  t = { s with free := t.free, lag := t.lag, mem := t.mem, host := t.host, nibs := { s.nibs with marks := t.nibs.marks }, jobs := t.jobs, queues := t.queues,
               hub := { s.hub with msixPending := t.hub.msixPending }, mgmt := t.mgmt, pwr := { s.pwr with alertLow := t.pwr.alertLow }, out := t.out }

theorem Around.refl (s : State) : Around s s := rfl

theorem Around.trans (h : Around s t) (k : Around t u) : Around s u := by
  unfold Around at *
  rw [k, h]

theorem Told.around (h : Told s t) : Around s t := by
  unfold Around
  rw [h.frame]

theorem around_updJob (s : State) (n : Nat) (f : Job → Job) : Around s (updJob s n f) := by
  unfold Around
  rw [ScriptRows.updJob_eq]

theorem around_publish (s : State) (a : Active) (st : Nat) : Around s (publish s a st) := by
  unfold Around
  rw [publish_frame]

theorem around_releaseSlot (s : State) (n : Nat) : Around s (releaseSlot s n) := by
  unfold Around
  rw [releaseSlot_frame]

/-- A stitch leaves, and its runs and shadows with it. -/
def leave (s : State) (sid : Sid) : State :=
  { dropAct s sid with runs := s.runs.filter fun r => r.sid != sid, shadows := s.shadows.filter fun h => h.sid != sid }

/-- A completion up to the stitch's leaving, and after it. -/
theorem completeWith_around (s : State) (a : Active) (st : Nat) :
    ∃ u, Around s u ∧ Around (leave u a.sid) (completeWith s a st) := by
  unfold completeWith
  extract_lets s1 s2 late n s3 s4 after l s5 l' s6 s7 s8 s9
  have h2 : Around s s2 := (around_updJob ..).trans (around_publish ..)
  have h4 : Around s s4 := h2.trans (.trans (t := s3) rfl (around_updJob ..))
  have h5 : Around s s5 := h4.trans (by unfold s5; split <;> rfl)
  have h6 : Around s s6 := h5.trans (by unfold s6; split <;> rfl)
  refine ⟨s7, h6.trans (around_updJob ..), Around.trans ?_ (told_judgeAll _).around⟩
  split
  · rfl
  · exact around_releaseSlot ..

/-! ### The job of a completion -/

/-- What a completion shows of a job: its pins, its halt, the step committed and the stitches completed. -/
def shown (j : Job) : Tbl Word32 × Bool × Nat × Nat := (j.pins, j.halted, j.committed, j.ring.completed)

theorem relaxPolicy_frame (j : Job) : relaxPolicy j = { j with blot := (relaxPolicy j).blot } := by
  unfold relaxPolicy
  split
  · rfl
  split_ifs <;> rfl

theorem settleRecords_frame (j : Job) (sid : Sid) : settleRecords j sid = { j with blot := (settleRecords j sid).blot } := by
  unfold settleRecords
  rw [relaxPolicy_frame]

/-- A job whose stitch has signalled, if it signals. -/
def signalled (j : Job) (a : Active) (st : Nat) (byStep : Bool) : Job :=
  if bit a.st.signal 31 && signals st then addPin j (wPin a.st.signal) (sInc a.st.signal) byStep else j

theorem jobOf_publish (s : State) (a : Active) (st : Nat) {j : Job} (hd : a.marks.discarded = false) (hm : a.marks.mute = false) (hj : jobsOk s.jobs = true)
    (h : jobOf s a.job = some j) (hh : j.halted = false) : jobOf (publish s a st) a.job = some (signalled j a st (onStepQueue s a)) := by
  unfold publish
  extract_lets s1 s2 live s3
  have h2 : s2.jobs = s.jobs ∧ s2.queues = s.queues := by
    unfold s2
    split
    · exact ⟨(wrBytes_jobs ..).trans rfl, (wrBytes_queues ..).trans rfl⟩
    · exact ⟨rfl, rfl⟩
  have hj2 : jobOf s2 a.job = some j := by
    rw [jobOf, h2.1]
    exact h
  have hlive : live = true := by
    simp [live, hm, hj2, hh]
  have hstep : onStepQueue s2 a = onStepQueue s a := by rw [onStepQueue, queueOf, h2.2]; rfl
  have h3 : jobOf s3 a.job = some (signalled j a st (onStepQueue s a)) := by
    unfold s3 signalled
    rw [hlive, Bool.and_true]
    split
    · rw [hstep]
      exact jobOf_updJob_self (by rw [h2.1]; exact hj) (f := fun j => addPin j (wPin a.st.signal) (sInc a.st.signal) (onStepQueue s a)) (fun _ => rfl) hj2
    · exact hj2
  rw [hd, if_neg Bool.false_ne_true]
  split
  · rw [jobOf, sendVector_jobs]
    exact h3
  · exact h3

theorem Told.jobOf (h : Told s t) (hj : jobsOk s.jobs = true) (hjob : jobOf s n = some j) : ∃ k, jobOf t n = some k ∧ uncounted k = uncounted j := by
  have hk := h.jobs hj n
  rw [hjob] at hk
  exact Option.map_eq_some_iff.1 hk

theorem signalled_ring (j : Job) (r : StrokeRing) (a : Active) (st : Nat) (b : Bool) :
    signalled { j with ring := r } a st b = { signalled j a st b with ring := r } := by
  unfold signalled
  split <;> rfl

theorem signalled_frame (j : Job) (a : Active) (st : Nat) (b : Bool) :
    signalled j a st b = { j with pins := (signalled j a st b).pins, step := (signalled j a st b).step } := by
  unfold signalled
  split <;> rfl

/-- The job of a stitch that completes with effect: its pin has been added to, one more stitch of it has completed, and the stitch's records are settled. -/
theorem jobOf_completeWith (s : State) (a : Active) (st : Nat) {j : Job} (hd : a.marks.discarded = false) (hm : a.marks.mute = false)
    (hj : jobsOk s.jobs = true) (h : jobOf s a.job = some j) (hh : j.halted = false) :
    ∃ k r b, jobOf (completeWith s a st) a.job = some k ∧ r.completed = j.ring.completed + 1 ∧
      uncounted k = uncounted { signalled j a st (onStepQueue s a) with ring := r, blot := b } := by
  unfold completeWith
  extract_lets s1 s2 late n s3 s4 after l s5 l' s6 s7 s8 s9
  have hj1 : jobsOk s1.jobs = true := jobsOk_updJob hj ..
  obtain ⟨r1, hr1, h1⟩ : ∃ r, r.completed = j.ring.completed ∧ jobOf s1 a.job = some { j with ring := r } :=
    ⟨_, rfl, jobOf_updJob_self hj (fun _ => rfl) h⟩
  have hstep : onStepQueue s1 a = onStepQueue s a := by rw [onStepQueue, queueOf, accrue_queues]; rfl
  have h2 := jobOf_publish s1 a st hd hm hj1 h1 hh
  rw [signalled_ring, hstep] at h2
  have hj3 : jobsOk s3.jobs = true := (publish_keeps (Keeps.refl s1) a st).jobs hj1
  have h4 := jobOf_updJob_self (s := s3) (f := fun j => { j with ring := { j.ring with completed := j.ring.completed + 1, overrun := j.ring.overrun + if late then 1 else 0 } })
    hj3 (fun _ => rfl) h2
  have h6 : s6.jobs = s4.jobs := by
    have h5 : s5.jobs = s4.jobs := by
      unfold s5
      split <;> rfl
    unfold s6
    split
    · exact h5
    · exact h5
  have hj6 : jobsOk s6.jobs = true := by
    rw [h6]
    exact jobsOk_updJob hj3 ..
  have h7 := jobOf_updJob_self (s := s6) (f := fun j => settleRecords j a.sid) hj6 (fun j => by rw [settleRecords_frame]) (by rw [jobOf, h6]; exact h4)
  have hrel : (if a.marks.freed = true then s9 else releaseSlot s9 a.queue).jobs = s7.jobs := by
    split
    · rfl
    · rw [releaseSlot_jobs]
      rfl
  obtain ⟨k, hk, hu⟩ := (told_judgeAll (if a.marks.freed = true then s9 else releaseSlot s9 a.queue)).jobOf (n := a.job)
    (by rw [hrel]; exact jobsOk_updJob hj6 ..) (by rw [jobOf, hrel]; exact h7)
  refine ⟨k, _, _, hk, ?_, hu.trans (by rw [settleRecords_frame])⟩
  exact congrArg (· + 1) hr1

theorem pinOf_signalled (j : Job) (a : Active) (st : Nat) (b : Bool) (p : Nat) : pinOf (signalled j a st b) p =
    if bit a.st.signal 31 && signals st && p == wPin a.st.signal then pinOf j p + BitVec.ofNat 32 (sInc a.st.signal) else pinOf j p := by
  unfold signalled
  by_cases h : (bit a.st.signal 31 && signals st) = true
  · rw [h, if_pos rfl, Bool.true_and]
    unfold pinOf addPin tgetD
    rw [tget_tset]
    by_cases hp : p = wPin a.st.signal
    · simp [hp, pinOf, tgetD]
    · simp [hp, Ne.symm hp]
  · simp [h]

/-! ### The queue and the stitches of a completion -/

theorem Told.queues (h : Told s t) : t.queues = s.queues := by rw [h.frame]

theorem saveQueue_queues (s : State) (n : Nat) (q : Queue) : (saveQueue s n q).queues = tset s.queues n q := wrBytes_queues ..

/-- A queue's slot is released, unless it is a step queue's (08 R245). -/
def released (q : Queue) : Queue := if q.step then q else { q with free := q.free + 1 }

theorem releaseSlot_queues (s : State) (n : Nat) : (releaseSlot s n).queues = (queueOf s n).elim s.queues fun q => if q.step then s.queues else tset s.queues n (released q) := by
  unfold releaseSlot released
  cases queueOf s n with
  | none => rfl
  | some q =>
    rw [Option.elim_some]
    dsimp only
    split
    · rfl
    · exact saveQueue_queues ..

theorem completeWith_queues (s : State) (a : Active) (st : Nat) : (completeWith s a st).queues = if a.marks.freed then s.queues else (releaseSlot s a.queue).queues := by
  unfold completeWith
  extract_lets s1 s2 late n s3 s4 after l s5 l' s6 s7 s8 s9
  have h4 : s4.queues = s.queues := (updJob_queues ..).trans ((publish_queues ..).trans (accrue_queues ..))
  have h5 : s5.queues = s4.queues := by
    unfold s5
    split <;> rfl
  have h6 : s6.queues = s5.queues := by
    unfold s6
    split <;> rfl
  have h9 : s9.queues = s.queues := (updJob_queues s6 _ _).trans (h6.trans (h5.trans h4))
  rw [(told_judgeAll _).queues]
  split
  · exact h9
  · rw [releaseSlot_queues, releaseSlot_queues, queueOf, h9, queueOf]

theorem queueOf_releaseSlot (s : State) {n : Nat} {q : Queue} (h : queueOf s n = some q) : queueOf (releaseSlot s n) n = some (released q) := by
  rw [queueOf, releaseSlot_queues, h, Option.elim_some]
  split
  next hs => rw [released, if_pos hs]; exact h
  next => exact tget_tset_self ..

theorem completeWith_acts (s : State) (a : Active) (st : Nat) : (completeWith s a st).acts = s.acts.filter fun b => b.sid != a.sid := by
  obtain ⟨u, hu, hc⟩ := completeWith_around s a st
  rw [hc, show (_ : State).acts = u.acts.filter fun b => b.sid != a.sid from rfl, hu]

theorem actOf_filter_self (l : List Active) (sid : Sid) : (l.filter fun b => b.sid != sid).find? (fun a => a.sid == sid) = none := by
  simp [List.find?_eq_none]

theorem actOf_filter_ne (l : List Active) {sid x : Sid} (h : x ≠ sid) : (l.filter fun b => b.sid != sid).find? (fun a => a.sid == x) = l.find? fun a => a.sid == x := by
  rw [List.find?_filter]
  congr 1
  funext b
  by_cases hb : b.sid = x
  · simp [hb, h]
  · simp [hb]

theorem uncounted_shown {j k : Job} (h : uncounted j = uncounted k) : j.pins = k.pins ∧ j.halted = k.halted ∧ j.committed = k.committed ∧ j.ring = k.ring := by
  simp only [uncounted, Job.mk.injEq] at h
  tauto

/-- Settles O22: the stitch and its runs go by `completeWith_around`, the job by `jobOf_completeWith`, the slot by `queueOf_releaseSlot`. -/
theorem completionEffects : Obligations.CompletionEffects := by
  unfold Obligations.CompletionEffects
  intro s a st j q hj hjob hq hh hd hm hf
  obtain ⟨k, r, b, hk, hr, hu⟩ := jobOf_completeWith s a st hd hm hj hjob hh
  obtain ⟨hpins, hhalt, hcom, hring⟩ := uncounted_shown hu
  refine ⟨_, k, _, rfl, ?_, fun x hx => ?_, hk, fun p => ?_, ?_, ?_, ?_, ?_, rfl⟩
  · rw [actOf, completeWith_acts]
    exact actOf_filter_self ..
  · rw [actOf, completeWith_acts]
    exact actOf_filter_ne _ hx
  · rw [← pinOf_signalled j a st (onStepQueue s a), pinOf, hpins]
    rfl
  · rw [hhalt, ← hh, signalled_frame]
  · rw [hcom, signalled_frame]
  · rw [hring, ← hr]
  · rw [queueOf, completeWith_queues, hf]
    exact queueOf_releaseSlot s hq

end Sys2Proof.Completion
end

section
/-! Statements of the mailbox that fail, each with the state that refutes it. -/

namespace Sys2Proof.Commands

open Sys2Proof Sys2Proof.Machine Sys2Proof.Laws Sys2Proof.Tests

/-! ### JOB_RESET can halt its own job -/

/-- Job 1 is reset while a message of its epoch is held, and a message to station 8, to which no route leads, waits for the entry that the held one takes. -/
def resetHalts : State :=
  { jobAsk (ask 0x12 64 0) with fab := { held := [{ hdr := hdrJob }], waiting := [(1, { hdr := { hdr7 with dst := 8 } })] } }

theorem resetHalts_asked : AskedOf resetHalts 1 0x12 0 (ask 0x12 64 0) winJob := by decide +kernel

theorem resetHalts_halts : (match exec (.jobReset 1) resetHalts with | .next t => (jobOf t 1).all (·.halted) | _ => false) = true := by decide +kernel

/-- Refutes O42: JOB_RESET delivers the held message, whose entry the waiting one takes; station 8 is unreachable, which halts the job again (11 R338). -/
theorem not_jobsOpenAndClose : ¬ Obligations.JobsOpenAndClose := by
  unfold Obligations.JobsOpenAndClose
  rintro ⟨-, hreset, -⟩
  obtain ⟨u, k, hans, hk, hhalted, -⟩ := hreset resetHalts 1 _ winJob (by decide +kernel) resetHalts_asked
  have h := resetHalts_halts
  rw [show exec (.jobReset 1) resetHalts = _ from hans] at h
  have hk' : jobOf (answerRequest u 1 (ask 0x12 64 0) mbOk []) 1 = some k := by
    rw [jobOf, answerRequest_jobs]
    exact hk
  simp [hk', hhalted] at h

/-! ### A short answer of UNMAP_WINDOW leaves the end of a longer one -/

def goingWindow : Window := { id := 1, base := 0x100000, size := 0x100000, unmapping := true }

def goingJob : Job := { job1 with windows := [goingWindow] }

/-- UNMAP_WINDOW of job 1's window waits on page 1, whose response area still holds 33 bytes. -/
def unmapWaits : State :=
  { up with jobs := [(1, goingJob)],
            hub := { phase := 1, pages := [(1, { mbState := 1, taken := some (ask 0x21 4 1), waiting := true, resp := List.replicate 33 0 })] } }

theorem unmapWaits_shows : (match exec (.unmapTakeEffect 1 1) unmapWaits with | .next t => (pageOf t 1).resp.length | _ => 0) = 33 := by decide +kernel

/-- Refutes O43: the window goes and its page is answered, but the answer's 32 bytes leave the 33rd of the response area as it was. -/
theorem not_windowsAndQueues : ¬ Obligations.WindowsAndQueues := by
  unfold Obligations.WindowsAndQueues
  rintro ⟨-, -, hunmap, -⟩
  obtain ⟨t, k, ht, -, -, hshows, -⟩ := hunmap unmapWaits 1 1 goingJob goingWindow (by decide) (by decide) (by decide) (by decide) (by decide +kernel) (by decide)
  obtain ⟨hresp, -⟩ := hshows 1 (ask 0x21 4 1) (by decide +kernel)
  have h := unmapWaits_shows
  rw [ht] at h
  simp only [hresp, responseBytes_length, List.length_nil] at h
  omega

end Sys2Proof.Commands
end

section
/-! STROKE_SET, WATCH_SET, LADDER_SET and STASH_POLICY (04 R108, R124, R125, 05 R143, 09 R265). -/

namespace Sys2Proof.Commands

open Sys2Proof Sys2Proof.Machine Sys2Proof.Laws Sys2Proof.Completion

/-! ### Bounds of a range of tags -/

theorem tagState_updTag (j : Job) (t g : Nat) (f : TagState → TagState) : tagState (updTag j t f) g = if t = g then f (tagState j t) else tagState j g := by
  unfold tagState updTag tgetD
  rw [tget_tset]
  split <;> rfl

theorem boundTag_bounds (lo hi : Nat) (force : Option Nat) (t : TagState) : (boundTag lo hi force t).floor = lo ∧ (boundTag lo hi force t).ceil = hi := by
  unfold boundTag
  extract_lets t' move
  cases move <;> exact ⟨rfl, rfl⟩

/-- A change of the tags from `a` on, one after the other. -/
theorem foldl_updTag (a : Nat) (f : TagState → TagState) (n : Nat) (j : Job) :
    (List.range n).foldl (fun j i => updTag j (a + i) f) j = { j with tags := ((List.range n).foldl (fun j i => updTag j (a + i) f) j).tags } ∧
      ∀ g, a ≤ g → g < a + n → ∃ t, tagState ((List.range n).foldl (fun j i => updTag j (a + i) f) j) g = f t := by
  induction n with
  | zero => exact ⟨rfl, fun g h1 h2 => by omega⟩
  | succ n ih =>
    obtain ⟨hframe, htags⟩ := ih
    rw [List.range_succ, List.foldl_append, List.foldl_cons, List.foldl_nil]
    generalize List.foldl _ j (List.range n) = k at hframe htags ⊢
    refine ⟨by rw [updTag, hframe], fun g h1 h2 => ?_⟩
    rw [tagState_updTag]
    split
    next h => exact ⟨_, rfl⟩
    next h => exact htags g h1 (by omega)

/-! ### The obligation -/

theorem strokeReply_setStrokes (s : State) (r : Request) (k : Nat) :
    strokeReply (setStrokes s r k) k = { s := setStrokes s r k, status := mbOk, data := leBytes 16 (s.clk.stroke.toNat + k % 2 ^ 64 * 2 ^ 64) } := by
  have hstroke : (setStrokes s r k).clk.stroke = s.clk.stroke := by
    unfold setStrokes
    dsimp only
    split <;> rfl
  rw [strokeReply, okNat, hstroke]
  rfl

/-- Settles O44: every command by its fields and the state that it leaves. -/
theorem settingsAreSet : Obligations.SettingsAreSet := by
  unfold Obligations.SettingsAreSet
  refine ⟨fun s p at_ r h hrsv hok hat => ⟨?_, ?_, ?_, ?_, fun h1 h2 => ?_⟩, fun s p r j h hrsv hok => ?_, fun s p r j h hok => ⟨fun hp => ?_, fun hp => ?_⟩,
    fun s p r j k f h hrsv hab hlohi hf hbounds hk => ?_, fun s u p a n r j l h hrsv href hu hn hes hl hlen => ?_, fun s p r j h hrsv => ?_,
    fun s p r j h hres hok hrecs => ?_⟩
  · refine answers_of h (by unfold exec execStrokeSetPart; rfl) ?_
    rw [hrsv, hok, if_neg (by decide), ← hat]
    exact strokeReply_setStrokes ..
  · unfold setStrokes
    dsimp only
    split <;> rfl
  · unfold setStrokes
    dsimp only
    split <;> rfl
  · unfold setStrokes
    dsimp only
    split <;> rfl
  · have hcond : ¬(s.clk.source = 1 || pf r 1 0 = 1) = true := by simp [h1, h2]
    unfold setStrokes
    dsimp only
    rw [if_neg hcond]
    exact ⟨rfl, rfl⟩
  · refine ⟨leBytes 16 (s.clk.stroke.toNat + drawn s % 2 ^ 64 * 2 ^ 64), answersOf_of h (by unfold exec execStrokeSetJob; rfl) ?_⟩
    rw [hrsv, hok, if_neg (by decide)]
    dsimp only
    rw [strokeReply, okNat, updJob_clk]
    rfl
  · refine answersOf_of h (by unfold exec execWatchSet; rfl) ?_
    rw [hok, hp]
    rfl
  · refine answersOf_of h (by unfold exec execWatchSet; rfl) ?_
    rw [hok, hp]
    rfl
  · obtain ⟨hframe, htags⟩ := foldl_updTag (pf r 27 20) (boundTag (pf r 11 10) (pf r 9 8) f) (pf r 19 12 + 1 - pf r 27 20) j
    rw [← hk] at hframe htags
    have hguard : ¬(ladderRsv r || decide (pf r 19 12 < pf r 27 20) || decide (pf r 9 8 < pf r 11 10) ||
        f.any fun x => decide (x < pf r 11 10) || decide (pf r 9 8 < x)) = true := by
      have hforce : (f.any fun x => decide (x < pf r 11 10) || decide (pf r 9 8 < x)) = false := by
        cases f with
        | none => rfl
        | some x => simpa using hbounds x rfl
      simp [hrsv, hforce, Nat.not_lt.2 hab, Nat.not_lt.2 hlohi]
    have hstep : k.step = j.step := by rw [hframe]
    refine ⟨fun hp => answersOf_of h (by unfold exec execLadderSetLevels; rfl) ?_, fun hp => answersOf_of h (by unfold exec execLadderSetLevels; rfl) ?_,
      fun g h1 h2 => ?_⟩
    · dsimp only
      rw [← hf, if_neg hguard, ← hk, hstep, hp]
      rfl
    · dsimp only
      rw [← hf, if_neg hguard, ← hk, hstep, hp]
      rfl
    · obtain ⟨t, ht⟩ := htags g h1 (by omega)
      rw [ht]
      exact boundTag_bounds ..
  · refine answersOf_of h (by unfold exec execLadderSetMap; rfl) ?_
    rw [href]
    dsimp only
    rw [← hu, hrsv, hes, ← hl, if_neg (by simp [hn]), if_neg (by omega)]
    rfl
  · refine answersOf_of h (by unfold exec execLadderSetClear; rfl) ?_
    rw [hrsv]
    rfl
  · refine answersOf_of h (by unfold exec execStashPolicy; rfl) ?_
    simp only [hres, hok, hrecs]
    rfl

end Sys2Proof.Commands
end

section
/-! Registered tensors and checkpoints (12 R358, R372, R373). -/

namespace Sys2Proof.Commands

open Sys2Proof Sys2Proof.Machine Sys2Proof.Laws Sys2Proof.Completion

@[simp] theorem tellTensors_jobs (s : State) : (tellTensors s).jobs = s.jobs := by
  unfold tellTensors
  cases s.pair.partner with
  | none => rfl
  | some st => exact ctrlTo_jobs ..

@[simp] theorem tellTensors_mem (s : State) : (tellTensors s).mem = s.mem := by
  unfold tellTensors
  cases s.pair.partner with
  | none => rfl
  | some st => exact ctrlTo_mem ..

@[simp] theorem tellTensors_acts (s : State) : (tellTensors s).acts = s.acts := by
  unfold tellTensors
  cases s.pair.partner with
  | none => rfl
  | some st => exact ctrlTo_acts ..

theorem dropAtPartner_keeps_state (s : State) (j : Job) (h : Option Nat) :
    (dropAtPartner s j h).jobs = s.jobs ∧ (dropAtPartner s j h).mem = s.mem ∧ (dropAtPartner s j h).acts = s.acts := by
  unfold dropAtPartner
  split
  · exact ⟨rfl, rfl, rfl⟩
  split
  · exact ⟨rfl, rfl, rfl⟩
  · simp

/-- The copy of a tensor into a window touches no job and no stitch. -/
theorem snapshotOne_keeps_state (job step : Nat) (x : State × Nat × Nat) (p : Protect) :
    (snapshotOne job step x p).1.jobs = x.1.jobs ∧ (snapshotOne job step x p).1.acts = x.1.acts := by
  unfold snapshotOne
  dsimp only
  split
  · exact ⟨rfl, rfl⟩
  next j hj =>
    have hjobs : ∀ (l : List Desc) (s : State), (l.foldl reachDesc s).jobs = s.jobs ∧ (l.foldl reachDesc s).acts = s.acts := fun l s =>
      ⟨foldl_keep (fun s : State => s.jobs) reachDesc (fun _ _ => rfl) l s, foldl_keep (fun s : State => s.acts) reachDesc (fun _ _ => rfl) l s⟩
    exact ⟨(applyWrites_jobs ..).trans (hjobs ..).1, (applyWrites_acts ..).trans (hjobs ..).2⟩

theorem snapshots_keep_state (job step : Nat) (l : List Protect) (x : State × Nat × Nat) :
    (l.foldl (snapshotOne job step) x).1.jobs = x.1.jobs ∧ (l.foldl (snapshotOne job step) x).1.acts = x.1.acts :=
  ⟨foldl_keep (fun x : State × Nat × Nat => x.1.jobs) _ (fun x p => (snapshotOne_keeps_state job step x p).1) l x,
    foldl_keep (fun x : State × Nat × Nat => x.1.acts) _ (fun x p => (snapshotOne_keeps_state job step x p).2) l x⟩

/-- A checkpoint record is one more record of its job. -/
theorem jobOf_checkpointRecord {s : State} {job : Nat} {j : Job} (hj : jobsOk s.jobs = true) (hjob : jobOf s job = some j) (x v : Nat) :
    jobOf (checkpointRecord s job x v) job = some { j with eqCount := j.eqCount + 1 } ∧ Told s (checkpointRecord s job x v) := by
  rw [checkpointRecord, hjob]
  exact ⟨jobOf_jobEvent hj hjob _, told_jobEvent ..⟩

/-- Settles O45: the commands by their fields, the end of a snapshot and the record that one is due by `jobOf_jobEvent`. -/
theorem protectionAndCheckpoints : Obligations.ProtectionAndCheckpoints := by
  unfold Obligations.ProtectionAndCheckpoints
  refine ⟨fun s u p a n r j ps h hrsv href hu hn hok hps hnd hreg => ?_, fun s p r j hj h hrsv hprot hstep => ?_, fun s p r j h hok => ?_,
    fun s p a n r j h hrsv href hroom => ?_, fun s p x r j h hrsv hlast => ?_, fun s job c rest j hj hjob hcopy => ?_, fun s job j hj hjob hpassed hdue => ?_⟩
  · refine answersOf_of h (by unfold exec execProtectRegister; rfl) ?_
    rw [href]
    dsimp only
    rw [← hu, ← hps, if_neg (by rw [hrsv, hn, hok, decide_eq_true hnd]; decide), hreg, okNat, List.length_map]
    rfl
  · have hs := dropAtPartner_keeps_state s j (some (pf r 143 112))
    refine ⟨tellTensors (putJob (dropAtPartner s j (some (pf r 143 112))) { j with prot := j.prot.filter fun x => x.handle != pf r 143 112 }), _,
      answersOf_of h (by unfold exec execProtectUnregister; rfl) ?_, ?_, rfl, ?_, ?_⟩
    · dsimp only
      rw [if_neg (by simp [hrsv, Option.isSome_iff_ne_none.1 hprot]), hstep]
      rfl
    · rw [jobOf, tellTensors_jobs]
      exact jobOf_putJob_id _ _ (id_of_jobOf (j := j) hj h.2)
    · exact (tellTensors_mem _).trans hs.2.1
    · exact (tellTensors_acts _).trans hs.2.2
  · refine ⟨_, answersOf_of h (by unfold exec execProtectSettings; rfl) (by rw [hok]; rfl), _, rfl, rfl, rfl, rfl, rfl, rfl⟩
  · refine answersOf_of h (by unfold exec execCheckpointSnapshot; rfl) ?_
    rw [href]
    dsimp only
    rw [if_neg (by simp [hrsv]), if_neg (by omega)]
    rfl
  · refine answersOf_of h (by unfold exec execCheckpointStored; rfl) ?_
    dsimp only
    rw [if_neg (by simp [hrsv]), hlast]
    rfl
  · obtain ⟨step, id, off, n⟩ := c
    have hcopies : ∃ s1 : State, (match j.windows.find? fun w => w.id == id with
        | none => s
        | some w => (j.prot.foldl (snapshotOne job step) (s, w.base + off, 0)).1) = s1 ∧ s1.jobs = s.jobs ∧ s1.acts = s.acts := by
      refine ⟨_, rfl, ?_⟩
      split
      · exact ⟨rfl, rfl⟩
      · exact snapshots_keep_state ..
    obtain ⟨s1, hs1, hjobs, hacts⟩ := hcopies
    have hj1 : jobsOk (endStream s1 (.snapshot job)).jobs = true := by
      rw [show (endStream s1 (.snapshot job)).jobs = s.jobs from hjobs]
      exact hj
    have hjob1 : jobOf (endStream s1 (.snapshot job)) job = some j := by
      rw [jobOf, show (endStream s1 (.snapshot job)).jobs = s.jobs from hjobs]
      exact hjob
    have hupd := jobOf_updJob_self hj1 (f := fun k => { k with check := { k.check with copying := rest } }) (fun _ => rfl) hjob1
    obtain ⟨hrec, htold⟩ := jobOf_checkpointRecord (jobsOk_updJob hj1 ..) hupd 2 0
    refine ⟨_, _, ?_, hrec, rfl, rfl, rfl, ?_⟩
    · unfold exec execSnapshotComplete
      dsimp only
      rw [hjob]
      dsimp only
      rw [hcopy]
      dsimp only
      rw [← hs1] <;> rfl
    · rw [htold.frame]
      exact (updJob_acts ..).trans hacts
  · obtain ⟨hrec, htold⟩ := jobOf_checkpointRecord hj hjob 1 (intervalMinutes s j)
    refine ⟨_, _, ?_, jobOf_updJob_self (htold.ok hj) (f := fun k => { k with check := { k.check with dueSent := true } }) (fun _ => rfl) hrec, rfl, ?_⟩
    · simp [exec, execCheckpointDue, hjob, onlyIf, hpassed, hdue]
    · rw [updJob_mem, htold.frame]

end Sys2Proof.Commands
end

section
/-! The states of a port (11 R322 to R326, R330). -/

namespace Sys2Proof.Links

open Sys2Proof Sys2Proof.Machine Sys2Proof.Laws

variable {s : State} {p k : Nat}

/-! ### DOWN, UP and RETRAIN, by port -/

/-- What a port is after it has entered DOWN. -/
theorem portOf_goDown_self (s : State) (p : Nat) : portOf (goDown s p) p =
    { emptied (portOf s p) with
      lstate := .down, downSince := s.clk.now, missedRun := 0
      backoffS := if (portOf s p).lstate == .training && (portOf s p).backoffS != 0 then min 64 (2 * (portOf s p).backoffS) else 1 } := by
  unfold goDown
  extract_lets x blank down o s1 wait s2
  have hclk : s1.clk = s.clk := by
    unfold s1
    split <;> rfl
  rw [portOf, health_fab, ← portOf, portOf_putPort_self, hclk]

theorem portOf_goDown_ne (s : State) (h : k ≠ p) : portOf (goDown s p) k = portOf s k := by
  unfold goDown
  extract_lets x blank down o s1 wait s2
  have hfab : s1.fab = s.fab := by
    unfold s1
    split <;> rfl
  rw [portOf, health_fab, ← portOf, portOf_putPort_ne _ _ _ _ h, portOf, hfab, portOf]

/-- DOWN touches a port, what the management side is told, and the flit that says so. -/
theorem goDown_frame (s : State) (p : Nat) : goDown s p =
    { s with free := (goDown s p).free, fab := { s.fab with ports := (goDown s p).fab.ports }, mgmt := (goDown s p).mgmt, pwr := { s.pwr with alertLow := (goDown s p).pwr.alertLow }, out := (goDown s p).out } := by
  unfold goDown
  dsimp only
  split <;> rfl

theorem goUp_fab (s : State) (p st pp d : Nat) : (goUp s p st pp d).fab = (putPort s p { emptied (portOf s p) with
    lstate := .up, peerStation := BitVec.ofNat 20 st, peerPort := BitVec.ofNat 6 pp, delayNs := BitVec.ofNat 12 d
    nextFseq := 0, expectFseq := 0, credits := (List.range 8).map fun l => (l, laneCredits l), wrr := 0, wrrUsed := 0, sinceCtrl := 0
    backoffS := 0, missedRun := 0, markTally := none, markTallyOut := 0 }).fab := by
  unfold goUp
  extract_lets x s1
  split
  · rfl
  · exact health_fab ..

theorem enterRetrain_retrains (h : (recentRetrains s (portOf s p)).length < 7) : enterRetrain s p =
    putPort s p { portOf s p with lstate := .retrain, retrains := satInc (portOf s p).retrains, retrainTimes := recentRetrains s (portOf s p) ++ [s.clk.now] } := by
  unfold enterRetrain
  extract_lets x times y
  have hlen : ¬8 ≤ times.length := by
    simp only [times, x, List.length_append, List.length_singleton]
    omega
  exact if_neg hlen

theorem enterRetrain_goesDown (h : 7 ≤ (recentRetrains s (portOf s p)).length) : (portOf (enterRetrain s p) p).lstate = .down := by
  unfold enterRetrain
  extract_lets x times y
  have hlen : 8 ≤ times.length := by
    simp only [times, x, List.length_append, List.length_singleton]
    omega
  rw [if_pos hlen, portOf_goDown_self]

theorem credits_table {vl : Nat} (h : vl < 8) : tgetD ((List.range 8).map fun l => (l, laneCredits l)) vl 0 = laneCredits vl := by
  interval_cases vl <;> rfl

/-- Settles O30: each command on a port of its state. -/
theorem portStates : Obligations.PortStates := by
  unfold Obligations.PortStates
  rintro s port x rfl
  refine ⟨fun hp hen hst => ?_, fun st pp d hst => ⟨fun hne hd => ?_, fun hbad => ?_⟩, fun hst => ?_, fun hst hlen => ?_, fun hst hlen => ?_,
    fun st pp d hst hne hd => ?_, fun hello hst => ?_, fun hst => ?_, fun hst hen => ?_, fun lane f rest hst hlane hcred => ?_⟩
  · simp [exec, execPortTrainStart, onlyIf, hp, hen, hst]
  · refine ⟨goUp s port st pp d, ?_, ?_⟩
    · simp [exec, execPortTrainComplete, onlyIf, hst, hne, hd]
    · rw [portOf, goUp_fab, ← portOf, portOf_putPort_self]
      exact ⟨rfl, rfl, rfl, rfl, rfl, fun vl => credits_table⟩
  · have hcond : (st != s.fab.station && decide (d ≤ 1000)) = false := by
      obtain h | h := hbad
      · simp [h]
      · simp [Nat.not_le.2 h]
    simp [exec, execPortTrainComplete, onlyIf, hst, hcond]
  · refine ⟨goDown s port, ?_, ?_, ?_, ?_, fun k hk => portOf_goDown_ne s hk⟩
    · simp [exec, execPortTrainTimeout, onlyIf, hst]
    · rw [portOf_goDown_self]
    · rw [portOf_goDown_self]
      rfl
    · rw [portOf_goDown_self]
      by_cases hb : (portOf s port).backoffS = 0 <;> simp [hst, hb]
  · refine ⟨enterRetrain s port, by simp [exec, execRetrain, onlyIf, hst], ?_⟩
    rw [enterRetrain_retrains hlen, portOf_putPort_self]
    exact ⟨rfl, rfl, rfl⟩
  · exact ⟨enterRetrain s port, by simp [exec, execRetrain, onlyIf, hst], enterRetrain_goesDown hlen⟩
  · refine ⟨_, by simp [exec, execRetrainComplete, onlyIf, hst, hne, hd]; rfl, ?_⟩
    rw [portOf_putPort_self]
    exact ⟨rfl, rfl, rfl, rfl, rfl⟩
  · simp [exec, execRetrainComplete, onlyIf, hst]
  · obtain h | h | h := hst <;> simp [exec, execLinkDownFlit, onlyIf, h]
  · refine ⟨_, by simp [exec, execPortRetryTimer, onlyIf, hst, hen]; rfl, ?_, rfl⟩
    rw [portOf_putPort_self]
  · refine ⟨_, _, by simp [exec, execFlitStallTimeout, onlyIf, hst, hlane, hcred]; rfl, rfl, ?_, rfl⟩
    rw [portOf_putPort_self]
    simp [laneOut, tgetD, hlane]

end Sys2Proof.Links
end

section
/-! The pair and the routes: PAIR_BIND, PAIR_UNBIND, SPARE_ASSUME, STATION_SET and ROUTE_LOAD (11 R328, R331, 12 R354, R375). -/

namespace Sys2Proof.Commands

open Sys2Proof Sys2Proof.Machine Sys2Proof.Laws Sys2Proof.Completion Sys2Proof.Links

variable {s t u : State} {p k : Nat} {r : Request}

theorem waits_of_reply {op act : Nat} {c : Instr} {f : Request → State → Reply} (h : Asked s p op act r) (hc : exec c s = runCmd s p op act f)
    (hf : f r s = { s := u, wait := true }) : Waits c s u p := waits_of h hc (by rw [hf]) (by rw [hf])

/-! ### A message is sent -/

/-- A message has been injected: it stands in a lane, in this part's inbox or before the entries, and nothing else has changed. -/
def Injected (s t : State) : Prop :=
  t = { s with fab := { s.fab with ports := t.fab.ports, hopLimit := t.fab.hopLimit, noRoute := t.fab.noRoute, trans := t.fab.trans,
                                   waiting := t.fab.waiting, inbox := t.fab.inbox } }

theorem Injected.trans (h : Injected s t) (g : Injected t u) : Injected s u := by
  unfold Injected at *
  rw [g, h]

theorem injected_sendOn (s : State) (h : MsgHdr) (vl : Nat) (d : List Byte) (avoid : Option Nat) (m : List Nat) (src : Option SendSource) :
    Injected s (sendOn s h vl d avoid m src).1 := by
  unfold sendOn
  split <;> rfl

theorem injected_inject (s : State) (m : OutMsg) : Injected s (inject s m).1 := by
  unfold inject
  dsimp only
  split
  · split
    · rfl
    · split
      · exact injected_sendOn ..
      · exact (injected_sendOn ..).trans rfl
  · exact injected_sendOn ..

/-- Ohmub's message on lane 1 is noted, and injected. -/
theorem ctrlTo_injected (s : State) (a b : Nat) (fjk : Word32) (name : String) (arg : Nat) (e : BitVec 16) :
    Injected { s with out := { s.out with lane1 := s.out.lane1 ++ [(b, name)] } } (ctrlTo s a b fjk name arg e) := injected_inject ..

theorem sendFeed_sends (s : State) (src : Nat) (force : Bool) :
    Injected { s with pair := { s.pair with askedNs := s.clk.now }, out := { s.out with lane1 := s.out.lane1 ++ [(s.pair.partner.getD 0, "FEED_TAG")] } }
      (sendFeed s src force) := ctrlTo_injected ..

/-! ### STATION_SET (11 R322, R328) -/

theorem portOf_disablePort_ne (s : State) (h : k ≠ p) : portOf (disablePort s p) k = portOf s k := by
  unfold disablePort
  split
  · rfl
  · exact (portOf_putPort_ne _ _ _ _ h).trans (portOf_goDown_ne s h)

theorem disablePort_lstate (s : State) (p : Nat) : (portOf (disablePort s p) p).lstate = .disabled := by
  unfold disablePort
  split
  next h => exact beq_iff_eq.1 h
  next => rw [portOf_putPort_self]

/-- What DISABLED and RETRAIN of ports leave of a state. -/
def PortsMoved (s t : State) : Prop :=
  t = { s with free := t.free, fab := { s.fab with ports := t.fab.ports }, mgmt := t.mgmt, pwr := { s.pwr with alertLow := t.pwr.alertLow }, out := t.out }

theorem PortsMoved.trans (h : PortsMoved s t) (g : PortsMoved t u) : PortsMoved s u := by
  unfold PortsMoved at *
  rw [g, h]

theorem PortsMoved.foldl {f : State → Nat → State} (hf : ∀ s p, PortsMoved s (f s p)) (l : List Nat) (s : State) : PortsMoved s (l.foldl f s) := by
  induction l generalizing s with
  | nil => rfl
  | cons x l ih => exact (hf s x).trans (ih _)

theorem moved_goDown (s : State) (p : Nat) : PortsMoved s (goDown s p) := goDown_frame s p

theorem moved_disablePort (s : State) (p : Nat) : PortsMoved s (disablePort s p) := by
  unfold disablePort
  split
  · rfl
  · exact (moved_goDown s p).trans rfl

theorem moved_retrainPort (s : State) (p : Nat) : PortsMoved s (retrainPort s p) := by
  unfold retrainPort
  split
  · unfold enterRetrain
    dsimp only
    split
    · exact PortsMoved.trans (t := putPort s p _) rfl (moved_goDown ..)
    · rfl
  · rfl
  · rfl

/-- A port that no step of a fold names keeps what it is. -/
theorem portOf_foldl_ne {f : State → Nat → State} (hf : ∀ s p k, k ≠ p → portOf (f s p) k = portOf s k) {l : List Nat} (hk : k ∉ l) (s : State) :
    portOf (l.foldl f s) k = portOf s k := by
  induction l generalizing s with
  | nil => rfl
  | cons x l ih => exact (ih (fun h => hk (List.mem_cons_of_mem _ h)) _).trans (hf s x k fun h => hk (h ▸ List.mem_cons_self ..))

theorem disablePorts_lstate {l : List Nat} (hk : k ∈ l) (s : State) : (portOf (l.foldl disablePort s) k).lstate = .disabled := by
  induction l generalizing s with
  | nil => cases hk
  | cons x l ih =>
    by_cases h : k ∈ l
    · exact ih h _
    · obtain rfl := (List.mem_cons.1 hk).resolve_right h
      rw [List.foldl_cons, portOf_foldl_ne (fun s p k h => portOf_disablePort_ne s h) h]
      exact disablePort_lstate ..

theorem portOf_retrainPort_ne (s : State) (h : k ≠ p) : portOf (retrainPort s p) k = portOf s k := by
  unfold retrainPort
  split
  · unfold enterRetrain
    dsimp only
    split
    · exact (portOf_goDown_ne _ h).trans (portOf_putPort_ne _ _ _ _ h)
    · exact portOf_putPort_ne _ _ _ _ h
  · exact portOf_putPort_ne _ _ _ _ h
  · rfl

theorem retrainPort_up (hup : (portOf s p).lstate = .up) (hlen : (recentRetrains s (portOf s p)).length < 7) : (portOf (retrainPort s p) p).lstate = .retrain := by
  rw [retrainPort, hup]
  dsimp only
  rw [enterRetrain_retrains hlen, portOf_putPort_self]

theorem retrainPort_down (hdown : (portOf s p).lstate = .down) : (portOf (retrainPort s p) p).lstate = .training := by
  rw [retrainPort, hdown]
  dsimp only
  rw [portOf_putPort_self]

/-- What the fold does to a port is what it does at the port's own turn. -/
theorem portOf_retrainPorts {l : List Nat} (hk : k ∈ l) (hnd : l.Nodup) (s : State) :
    ∃ u, PortsMoved s u ∧ portOf u k = portOf s k ∧ portOf (l.foldl retrainPort s) k = portOf (retrainPort u k) k := by
  induction l generalizing s with
  | nil => cases hk
  | cons x l ih =>
    obtain ⟨hx, hnd⟩ := List.nodup_cons.1 hnd
    obtain rfl | hk := List.mem_cons.1 hk
    · exact ⟨s, rfl, rfl, portOf_foldl_ne (fun s p k h => portOf_retrainPort_ne s h) hx _⟩
    · obtain ⟨u, hu, hport, hfold⟩ := ih hk hnd (retrainPort s x)
      exact ⟨u, (moved_retrainPort s x).trans hu, hport.trans (portOf_retrainPort_ne s fun h => hx (h ▸ hk)), hfold⟩

theorem moved_setPorts (s : State) (m : Nat) :
    PortsMoved { s with fab := { s.fab with portEn := BitVec.ofNat 64 m, stationSet := true } } (setPorts s m) :=
  .foldl moved_disablePort _ _

theorem setPorts_disabled (s : State) {m : Nat} (hk : k < 64) (hm : bit m k = false) : (portOf (setPorts s m) k).lstate = .disabled :=
  disablePorts_lstate (List.mem_filter.2 ⟨List.mem_range.2 hk, by simp [hm]⟩) _

theorem portOf_setPorts (s : State) {m : Nat} (hm : bit m k = true) : portOf (setPorts s m) k = portOf s k :=
  portOf_foldl_ne (fun s p k h => portOf_disablePort_ne s h) (fun h => by simp [hm] at h) _

/-- Every enabled port retrains where the station ID has changed. -/
def retrainAll (s : State) : State := ((List.range 64).filter (portEnabled s)).foldl retrainPort s

theorem moved_retrainAll (s : State) : PortsMoved s (retrainAll s) := .foldl moved_retrainPort _ _

theorem portOf_retrainAll_off (s : State) (hk : portEnabled s k = false) : portOf (retrainAll s) k = portOf s k :=
  portOf_foldl_ne (fun s p k h => portOf_retrainPort_ne s h) (fun h => by simp [hk] at h) _

theorem retrainAll_on (s : State) (hk : k < 64) (hen : portEnabled s k = true) :
    ((portOf s k).lstate = .up → (recentRetrains s (portOf s k)).length < 7 → (portOf (retrainAll s) k).lstate = .retrain) ∧
      ((portOf s k).lstate = .down → (portOf (retrainAll s) k).lstate = .training) := by
  obtain ⟨u, hu, hport, hfold⟩ := portOf_retrainPorts (List.mem_filter.2 ⟨List.mem_range.2 hk, hen⟩) (List.nodup_range.filter _) s
  have hrecent : recentRetrains u (portOf u k) = recentRetrains s (portOf s k) := by rw [hport, recentRetrains, recentRetrains, hu]
  constructor
  · intro hup hlen
    rw [retrainAll, hfold]
    exact retrainPort_up (by rw [hport]; exact hup) (by rw [hrecent]; exact hlen)
  · intro hdown
    rw [retrainAll, hfold]
    exact retrainPort_down (by rw [hport]; exact hdown)

/-- The station and the enabled ports of STATION_SET, before what it writes to NV. -/
def stationed (s : State) (st m : Nat) : State :=
  let t := setPorts { s with fab := { s.fab with station := st } } m
  if st != s.fab.station then retrainAll t else t

theorem moved_stationed (s : State) (st m : Nat) :
    PortsMoved { s with fab := { s.fab with station := st, portEn := BitVec.ofNat 64 m, stationSet := true } } (stationed s st m) := by
  unfold stationed
  dsimp only
  split
  · exact (moved_setPorts ..).trans (moved_retrainAll _)
  · exact moved_setPorts ..

/-- What STATION_SET writes to NV. -/
def stationKept (s : State) (st : Nat) (keep : Bool) : State :=
  if !keep then s
  else if nvReady s then nvWrite { s with fab := { s.fab with nvStation := st, stationUnsaved := none } } (.station s.fab.nvStation)
  else { s with fab := { s.fab with stationUnsaved := some st } }

theorem stationKept_fab (s : State) (st : Nat) (keep : Bool) :
    (stationKept s st keep).fab = { s.fab with nvStation := (stationKept s st keep).fab.nvStation, stationUnsaved := (stationKept s st keep).fab.stationUnsaved } ∧
      (stationKept s st keep).jobs = s.jobs := by
  unfold stationKept
  split_ifs <;> exact ⟨rfl, rfl⟩

theorem portEnabled_setPorts (s : State) {m : Nat} (hm : m < 2 ^ 64) : portEnabled (setPorts s m) k = bit m k := by
  have h := moved_setPorts s m
  rw [portEnabled, h]
  change (true && bit (BitVec.ofNat 64 m).toNat k) = _
  rw [BitVec.toNat_ofNat, Nat.mod_eq_of_lt hm, Bool.true_and]

/-- A binding to a station that has sent no tag yet waits for its answer. -/
theorem bindTo_waits (s : State) {st gib : Nat} {force : Bool} {frames : List (Nat × Nat)} (h : offeredTag s st = none) :
    bindTo s st gib force frames =
      { s := sendFeed { s with pair := { s.pair with partner := some st, guardGib := gib, force := force, state := 0, frames := frames } } s.fab.station force
        wait := true } := by
  have hfeed := sendFeed_sends { s with pair := { s.pair with partner := some st, guardGib := gib, force := force, state := 0, frames := frames } } s.fab.station force
  have hnone : offeredTag (sendFeed { s with pair := { s.pair with partner := some st, guardGib := gib, force := force, state := 0, frames := frames } } s.fab.station force) st =
      none := by
    rw [offeredTag, hfeed]
    exact h
  unfold bindTo
  dsimp only
  rw [hnone]

/-- A spare as the station that it stands in for, bound to that station's partner. -/
def spareBound (s : State) (st : Nat) (force : Bool) : State :=
  { s with fab := { s.fab with assumed := some st }, pair := { s.pair with partner := some (Config.partnerOf st), force := force, state := 0 } }

/-- An operation that starts is the one of its kind and subject from then on. -/
theorem opOf_startOp (s : State) (p : Nat) (r : Request) (o : LongOp) :
    opOf (startOp s p r o) o.kind o.subject o.job =
      some { o with page := p, notifyEnd := wantsEnd r, startStroke := BitVec.ofNat 64 (strokeNow s), state := 1 } := by
  rw [opOf, startOp, putOp]
  dsimp only
  rw [List.find?_append, List.find?_eq_none.2]
  · simp
  · intro x hx
    have hne := (List.mem_filter.1 hx).2
    simp only [Bool.not_eq_true', Bool.and_eq_false_iff, beq_eq_false_iff_ne] at hne
    simp only [Bool.and_eq_true, beq_iff_eq]
    tauto

/-- A route load has started, with the running value of its image's CRC kept in a stream. -/
def routeLoading (v : State) (a n : Nat) (i : RouteImage) (p : Nat) (r : Request) : State :=
  startOp (suspendStream { v with fab := { v.fab with pendingRoute := some { i.load with trailer := rdLe v (a + n - 4) 4 } } } hubUnits
    { use := .route, preset := 0, value := BitVec.ofNat 64 (presetRun 0 (presetInit 0) (rdBytes v a (n - 4))) }) p r { kind := 7, unit := true, total := i.entries }

/-- Settles O46: PAIR_BIND, PAIR_UNBIND and SPARE_ASSUME by the message that they send, STATION_SET port by port. -/
theorem pairAndRoutes : Obligations.PairAndRoutes := by
  unfold Obligations.PairAndRoutes
  refine ⟨fun s p r frames h hwait hrsv hown hgib hfit hbusy hfree hframes hreach hnone => ?_, fun s p st r h hpartner hbusy => ?_,
    fun s p r h hwait hrsv hne hjobs hpair hreach => ?_, fun s p r h hrsv hjobs => ?_, fun s v p a n r i h href hop hv hread hrsv hn hal hcrc => ?_⟩
  · have hfeed := sendFeed_sends { s with pair := { s.pair with partner := some (pf r 19 0), guardGib := pf r 29 20, force := bit (pay r) 31, state := 0, frames := frames } }
      s.fab.station (bit (pay r) 31)
    refine ⟨sendFeed { s with pair := { s.pair with partner := some (pf r 19 0), guardGib := pf r 29 20, force := bit (pay r) 31, state := 0, frames := frames } }
      s.fab.station (bit (pay r) 31), ?_, ?_⟩
    · have hc : exec (.pairBind p) s = runCmd s p 0x70 0 _ := if_neg (by rw [hwait]; exact Bool.false_ne_true)
      have hguard : ¬(bit (pay r) 30 || answersTo s (pf r 19 0) || decide (pf r 29 20 = 0) || decide (globalEnd s.nibs.grade < pf r 29 20 * 2 ^ 30)) = true := by
        have hzero : pf r 29 20 ≠ 0 := by omega
        rw [hrsv, hown, decide_eq_false hzero, decide_eq_false (Nat.not_lt.2 hfit)]
        decide
      refine waits_of_reply h hc ?_
      · dsimp only
        rw [if_neg hguard, hbusy, hfree, hframes, if_neg Bool.false_ne_true, if_neg (by decide)]
        dsimp only
        rw [hreach, if_neg (by decide), bindTo_waits s hnone]
    · rw [hfeed]
      exact ⟨rfl, rfl, rfl, rfl, rfl, rfl, rfl⟩
  · have hsent := ctrlTo_injected (startZero s none s.pair.frames) s.fab.station st 0 "UNBIND" 0 0
    refine ⟨unbound (ctrlTo (startZero s none s.pair.frames) s.fab.station st 0 "UNBIND"), answers_of h (by unfold exec execPairUnbind; rfl) ?_, rfl, rfl, rfl, ?_, ?_⟩
    · rw [hpartner]
      dsimp only
      rw [hbusy]
      rfl
    · rw [unbound, hsent]
      rfl
    · rw [unbound, hsent]
      rfl
  · have hfeed := sendFeed_sends (spareBound s (pf r 19 0) (bit (pay r) 20)) (pf r 19 0) (bit (pay r) 20)
    refine ⟨sendFeed (spareBound s (pf r 19 0) (bit (pay r) 20)) (pf r 19 0) (bit (pay r) 20), ?_, ?_⟩
    · have hc : exec (.spareAssume p) s = runCmd s p 0x82 0 _ := if_neg (by rw [hwait]; exact Bool.false_ne_true)
      refine waits_of_reply h hc ?_
      · dsimp only
        rw [if_neg (by simp [hrsv, hne]), if_neg (by simp [hjobs]), hpair, if_neg Bool.false_ne_true, hreach, if_neg (by decide)]
        rfl
    · rw [hfeed]
      exact ⟨rfl, rfl, rfl, rfl⟩
  · have hkept := stationKept_fab (stationed s (pf r 19 0) (pf r 95 32)) (pf r 19 0) (bit (pay r) 20)
    have hmoved := moved_stationed s (pf r 19 0) (pf r 95 32)
    have hport : ∀ k, portOf (stationKept (stationed s (pf r 19 0) (pf r 95 32)) (pf r 19 0) (bit (pay r) 20)) k = portOf (stationed s (pf r 19 0) (pf r 95 32)) k :=
      fun k => by rw [portOf, hkept.1, portOf]
    have hmask : pf r 95 32 < 2 ^ 64 := Nat.mod_lt _ (by decide)
    refine ⟨stationKept (stationed s (pf r 19 0) (pf r 95 32)) (pf r 19 0) (bit (pay r) 20), answers_of h (by unfold exec execStationSet; rfl) ?_, ?_, ?_, ?_, fun hkeep => ?_,
      fun hkeep hnv => ?_, fun k hk hm => ?_, fun hsame k hm => ?_, fun hne k hk hm => ?_, ?_⟩
    · have hguard : ¬((pf r 19 0 != s.fab.station && !s.jobs.isEmpty) = true) := by
        obtain h | h := hjobs <;> simp [h]
      dsimp only
      rw [hrsv, if_neg (by decide), if_neg hguard]
      rfl
    · rw [hkept.1, hmoved]
    · rw [hkept.1, hmoved]
    · rw [hkept.1, hmoved]
    · rw [stationKept, hkeep, Bool.not_false, if_pos rfl, hmoved]
    · have hready : nvReady (stationed s (pf r 19 0) (pf r 95 32)) = true := by
        rw [nvReady, hmoved]
        exact hnv
      rw [stationKept, hkeep, hready]
      rfl
    · rw [hport, stationed]
      split
      · rw [portOf_retrainAll_off _ (by rw [portEnabled_setPorts _ hmask, hm])]
        exact setPorts_disabled _ hk hm
      · exact setPorts_disabled _ hk hm
    · rw [hport, stationed, hsame, bne_self_eq_false, if_neg Bool.false_ne_true]
      exact portOf_setPorts _ hm
    · have hon := retrainAll_on (setPorts { s with fab := { s.fab with station := pf r 19 0 } } (pf r 95 32)) hk (by rw [portEnabled_setPorts _ hmask, hm])
      rw [portOf_setPorts _ hm] at hon
      have hrecent : recentRetrains (setPorts { s with fab := { s.fab with station := pf r 19 0 } } (pf r 95 32)) (portOf s k) = recentRetrains s (portOf s k) := by
        rw [recentRetrains, moved_setPorts, recentRetrains]
      rw [hport, stationed, if_pos (by simpa using hne)]
      exact ⟨fun hup hlen => hon.1 hup (hrecent ▸ hlen), hon.2⟩
    · rw [hkept.2, hmoved]
  · have hroom : ¬(decide (4096 < rdLe v (a + 4) 4) && bit (rdLe v a 4) 2) = true := by
      simp only [Bool.and_eq_true, decide_eq_true_eq, not_and, Nat.not_lt]
      exact fun hlt hbit => absurd (hal hbit) (by omega)
    refine ⟨routeLoading v a n i p r, ?_, ?_, ?_, ?_⟩
    · refine answers_of h (by unfold exec execRouteLoad; rfl) ?_
      dsimp only
      rw [href]
      dsimp only
      rw [← hv, hread]
      dsimp only
      rw [if_neg (by simp [hrsv, hn]), show opRunning v 7 0 none = false by rw [hv]; exact hop, if_neg Bool.false_ne_true, if_neg hroom, if_neg (by simp [hcrc])]
      rfl
    · rw [hv]
      rfl
    · rw [hv]
      rfl
    · exact congrArg (Option.map fun o : LongOp => (o.state, o.total)) (opOf_startOp _ p r { kind := 7, unit := true, total := i.entries })

end Sys2Proof.Commands
end

section
/-! RESTORE (12 R369 to R371, R382). -/

namespace Sys2Proof.Commands

open Sys2Proof Sys2Proof.Machine Sys2Proof.Laws

variable {s : State} {p act : Nat} {r : Request} {j : Job}

theorem opOf_putOp_self (s : State) (o : LongOp) : opOf (putOp s o) o.kind o.subject o.job = some o := by
  rw [opOf, putOp]
  dsimp only
  rw [List.find?_append, List.find?_eq_none.2]
  · simp
  · intro x hx
    have hne := (List.mem_filter.1 hx).2
    simp only [Bool.not_eq_true', Bool.and_eq_false_iff, beq_eq_false_iff_ne] at hne
    simp only [Bool.and_eq_true, beq_iff_eq]
    tauto

theorem opOf_putOp_ne (s : State) (o : LongOp) {kind subject : Nat} {job : Option Nat} (h : kind ≠ o.kind) :
    opOf (putOp s o) kind subject job = opOf s kind subject job := by
  rw [opOf, putOp]
  dsimp only
  rw [List.find?_append, List.find?_filter, List.find?_singleton]
  have hlast : (o.kind == kind && o.subject == subject && o.job == job) = false := by simp [Ne.symm h]
  rw [hlast, if_neg Bool.false_ne_true, Option.or_none, opOf]
  congr 1
  funext x
  by_cases hx : x.kind = kind
  · rw [Bool.eq_iff_iff]
    simp [hx, h]
  · simp [hx]

theorem opOf_startOp_ne (s : State) (p : Nat) (r : Request) (o : LongOp) {kind subject : Nat} {job : Option Nat} (h : kind ≠ o.kind) :
    opOf (startOp s p r o) kind subject job = opOf s kind subject job := opOf_putOp_ne _ _ h

/-- An action of RESTORE whose common checks pass. -/
theorem restore_answers {c : Instr} {f : Request → Job → State → Reply} {u : State} {st : Nat} {d : List Byte} (hjob : jobOf s r.job = some j)
    (hpass : restoreRefusal s r = none) (h : Asked s p 0x74 act r) (hc : exec c s = runRestore s p act f) (hf : f r j s = { s := u, status := st, data := d }) :
    Answers c s u p r st d :=
  answersOf_of ⟨h, hjob⟩ hc (by rw [hpass]; exact hf)

theorem restoreReply_eq (s : State) (j : Job) (st : Nat) :
    restoreReply s j st = { s := (restoreReply s j st).s, status := st, data := (restoreReply s j st).data } := rfl

/-- The state in which the transfer and the replay of a `PARTNER` restore have started. -/
def partnerRestores (s : State) (p : Nat) (r : Request) (total steps target : Nat) : State :=
  let t := startOp (draw (draw s)) p r { kind := 3, job := some r.job, unit := true, total := total, arg := [2, target] }
  startOp (putOp t { (opOf t 3 0 (some r.job)).getD {} with notifyEnd := false }) p r { kind := 2, job := some r.job, unit := true, total := steps, arg := [2, target] }

theorem partnerRestores_ops (s : State) (p : Nat) (r : Request) (total steps target : Nat) :
    ((opOf (partnerRestores s p r total steps target) 3 0 (some r.job)).map fun o => (o.state, o.arg)) = some (1, [2, target]) ∧
      ((opOf (partnerRestores s p r total steps target) 2 0 (some r.job)).map fun o => (o.state, o.arg)) = some (1, [2, target]) := by
  unfold partnerRestores
  extract_lets t q
  constructor
  · rw [opOf_startOp_ne _ _ _ _ (Nat.succ_ne_self 2)]
    have h3 := opOf_startOp (draw (draw s)) p r { kind := 3, job := some r.job, unit := true, total := total, arg := [2, target] }
    rw [show q = _ from congrArg (fun o : Option LongOp => o.getD {}) h3]
    exact congrArg (Option.map fun o : LongOp => (o.state, o.arg)) (opOf_putOp_self t _)
  · exact congrArg (Option.map fun o : LongOp => (o.state, o.arg)) (opOf_startOp _ p r { kind := 2, job := some r.job, unit := true, total := steps, arg := [2, target] })

/-- Settles O47: each action by its own checks and the state that it leaves. -/
theorem restoresRun : Obligations.RestoresRun := by
  unfold Obligations.RestoresRun
  refine fun s p r j hjob hpass => ⟨fun h => ?_, fun l bad t u v k h htarget hret hbad hreach ht hu hv hk => ?_, fun h hpair hnone => ?_, fun a n h href hroom hstep => ?_⟩
  · exact restore_answers (c := .restoreQuery p) hjob hpass h (by unfold exec execRestoreQuery; rfl) (restoreReply_eq ..)
  · refine restore_answers (c := .restoreLocal ⟨p, l⟩) hjob hpass h (by unfold exec execRestoreLocal; rfl) ?_
    have hgap : ¬(!(pf r 79 16 == j.committed || (pf r 79 16 == j.committed + 1 && j.inDoubt))) = true := by
      obtain h | ⟨h, hd⟩ := htarget
      · simp [h]
      · simp [h, hd]
    dsimp only
    rw [← hbad, if_neg hgap, if_neg (by simp [hret, hreach]), ← ht, hu]
    dsimp only
    rw [← hv, hk]
    exact restoreReply_eq ..
  · have hops := partnerRestores_ops s p r (drawn s) (drawn (draw s)) (pf r 79 16)
    refine ⟨(restoreReply (partnerRestores s p r (drawn s) (drawn (draw s)) (pf r 79 16)) j mbInProgress).s, _,
      restore_answers (c := .restorePartner p) hjob hpass h (by unfold exec execRestorePartner; rfl) (Eq.trans ?_ (restoreReply_eq _ j _)), hops.1, hops.2, rfl, rfl⟩
    dsimp only
    rw [hnone, hpair]
    rfl
  · refine ⟨(restoreReply (startOp s p r { kind := 3, job := some r.job, unit := true, total := imageBytes s j, arg := [3, pf r 79 16, a] }) j mbInProgress).s, _,
      restore_answers (c := .restoreImage p) hjob hpass h (by unfold exec execRestoreImage; rfl) (Eq.trans ?_ (restoreReply_eq _ j _)), ?_, rfl, rfl⟩
    · have hgap : ¬(!j.prot.isEmpty && rdLe s (a + 8) 8 != pf r 79 16) = true := by
        obtain h | h := hstep <;> simp [h]
      rw [href]
      dsimp only
      rw [if_neg (by omega), if_neg hgap]
    · exact congrArg (Option.map fun o : LongOp => (o.state, o.arg)) (opOf_startOp s p r { kind := 3, job := some r.job, unit := true, total := imageBytes s j, arg := [3, pf r 79 16, a] })

end Sys2Proof.Commands
end

section
/-! Power states, firmware, Pricking packs, returns and the end of long operations (14 R427, 15 R439 to R444, 16 R479). -/

namespace Sys2Proof.Commands

open Sys2Proof Sys2Proof.Machine Sys2Proof.Laws

variable {s : State} {p act : Nat} {r : Request}

/-! ### What an answer leaves -/

theorem answerRequest_frame (s : State) (p : Nat) (r : Request) (st : Nat) (d : List Byte) : answerRequest s p r st d =
    { s with hub := { s.hub with pages := (answerRequest s p r st d).hub.pages, msixPending := (answerRequest s p r st d).hub.msixPending },
             out := { s.out with msix := (answerRequest s p r st d).out.msix } } := by
  unfold answerRequest present
  dsimp only
  split
  · unfold sendMsix
    split <;> rfl
  · rfl

theorem pageOf_answerRequest_self (s : State) (p : Nat) (r : Request) (st : Nat) (d : List Byte) : pageOf (answerRequest s p r st d) p =
    { pageOf s p with resp := responseBytes r st d ++ (pageOf s p).resp.drop (responseBytes r st d).length, mbState := 2, taken := none, waiting := false,
                      lastResp := responseBytes r st d, lastTally := some r.tally } := by
  unfold answerRequest present
  dsimp only
  split <;> simp

theorem pageOf_answerRequest_ne (s : State) {p k : Nat} (h : k ≠ p) (r : Request) (st : Nat) (d : List Byte) :
    pageOf (answerRequest s p r st d) k = pageOf s k := by
  unfold answerRequest present
  dsimp only
  split <;> simp [pageOf_putPage_ne _ _ _ _ h]

theorem answerWaiting_eq {op st : Nat} {d : List Byte} (htaken : (pageOf s p).taken = some r) (hwait : (pageOf s p).waiting = true) (hop : r.opcode = op) :
    answerWaiting s p op st d = answerRequest s p r st d := by
  rw [answerWaiting, htaken]
  simp [hwait, hop]

/-! ### The obligation -/

theorem powerReply_eq (s : State) : powerReply s = { s := s, status := mbOk, data := powerData s } := rfl

section PowerStates

variable (h : Asked s p 0xB0 1 r) (hrsv : pf r 3 2 = 0) (hrsv' : pf r 31 8 = 0)
include h hrsv hrsv'

theorem operating_answers (hst : pf r 1 0 = 0) :
    Answers (.powerStateEnter p) s (endDrowseWait { s with hub := { s.hub with pstate := 0 } }) p r mbOk (powerData (endDrowseWait { s with hub := { s.hub with pstate := 0 } })) := by
  refine answers_of h (by unfold exec execPowerStateEnter; rfl) ?_
  dsimp only
  rw [if_neg (by simp [hrsv, hrsv', hst]), if_neg (by simp [hst]), if_pos hst, powerReply_eq]

theorem drowse_answers (hst : pf r 1 0 = 1) (hacts : s.acts = []) : Answers (.powerStateEnter p) s (enterDrowse s) p r mbOk (powerData (enterDrowse s)) := by
  refine answers_of h (by unfold exec execPowerStateEnter; rfl) ?_
  dsimp only
  rw [if_neg (by simp [hrsv, hrsv', hst]), if_neg (by simp [hst]), if_neg (by simp [hst]), if_neg (by simp [hst]), if_pos (by simp [hacts]), powerReply_eq]

theorem drowse_waits (hst : pf r 1 0 = 1) (hacts : s.acts ≠ []) (hnone : s.hub.drowsePage = none) :
    Waits (.powerStateEnter p) s { s with hub := { s.hub with drowsePage := some p } } p := by
  refine waits_of_reply h (by unfold exec execPowerStateEnter; rfl) ?_
  dsimp only
  rw [if_neg (by simp [hrsv, hrsv', hst]), if_neg (by simp [hst]), if_neg (by simp [hst]), if_neg (by simp [hst]), if_neg (by simp [hacts]), if_neg (by simp [hnone])]

theorem park_answers (hst : pf r 1 0 = 2) (hjobs : s.jobs = []) : Answers (.powerStateEnter p) s (enterPark s) p r mbOk (powerData (enterPark s)) := by
  refine answers_of h (by unfold exec execPowerStateEnter; rfl) ?_
  dsimp only
  rw [if_neg (by simp [hrsv, hrsv', hst]), if_neg (by simp [hjobs]), if_neg (by simp [hst]), if_pos hst, powerReply_eq]

end PowerStates

/-- A page whose wait for Drowse ends is answered. -/
theorem endDrowseWait_ends {w : Nat} {k : Request} (hw : s.hub.drowsePage = some w) (htaken : (pageOf s w).taken = some k) (hwait : (pageOf s w).waiting = true)
    (hop : k.opcode = 0xB0) : (endDrowseWait s).hub.pstate = s.hub.pstate ∧ (endDrowseWait s).hub.drowsePage = none ∧ (pageOf (endDrowseWait s) w).waiting = false := by
  rw [endDrowseWait, hw, Option.elim_some, answerWaiting_eq (s := { s with hub := { s.hub with drowsePage := none } }) htaken hwait hop]
  refine ⟨by rw [answerRequest_frame], by rw [answerRequest_frame], by rw [pageOf_answerRequest_self]⟩

theorem imageRefusal_none {i : FwImage} (hhead : headerOk i = true) (htrust : trusted s i.ecdsa i.lms = true) (hsvn : fusesNow s ≤ i.svn) : imageRefusal s i = none := by
  simp [imageRefusal, hhead, htrust, Nat.not_lt.2 hsvn]

theorem beginStage_fw (s : State) (i : FwImage) : (beginStage s i).fw.staging = true ∧ (beginStage s i).fw.active = s.fw.active := by
  unfold beginStage putSlot
  split <;> exact ⟨rfl, rfl⟩

/-- The end of an operation, by its kind. -/
def operationEnds (s : State) (kind : Nat) (o : LongOp) (g : Option (List PeerCopy)) : State :=
  if kind = 2 then endReplay s o g.isSome else if kind = 3 then endTransfer s o g.isSome (g.getD []) else if kind = 6 then endStage s o g.isSome
  else if kind = 7 then endRoute s o g.isSome
  else if kind = 8 then (if g.isSome && nvReady s && s.hub.phase == 1 then finishReturn s o else s) else s

/-- A command whose answer comes first and whose effect follows it. -/
theorem then_of {u : State} {op : Nat} {c : Instr} {f : Request → State → Reply} {g : State → State} {d : List Byte} (h : Asked s p op act r) (hc : exec c s = runThen s p op act f g)
    (hf : f r s = { s := u, status := mbOk, data := d }) : exec c s = .next (g (answerRequest u p r mbOk d)) := by
  rw [hc, runThen_asked h, hf]
  exact congrArg Host.Outcome.next (if_pos rfl)

/-- Settles O48: each command by its branch, and the end of an operation by its kind. -/
theorem powerStatesAndFirmware : Obligations.PowerStatesAndFirmware := by
  unfold Obligations.PowerStatesAndFirmware
  refine ⟨fun s p r h hrsv hrsv' => ⟨fun hst hnone => ?_, fun w k hst hw hne htaken hwait hop => ?_, drowse_answers h hrsv hrsv', drowse_waits h hrsv hrsv',
      fun hst hjobs _ => park_answers h hrsv hrsv' hst hjobs⟩, fun s p r hw hacts htaken hwait hop => ?_, fun s p r h hrsv hrsv' => ?_, fun s p r h hrsv hrsv' hjobs => ?_,
    fun s p r i h hrsv href hst hpldm => ⟨fun x hx => ?_, fun hhead htrust hsvn => ?_⟩, fun s p r h hrsv hjobs hst hstaged => ?_, fun s p r h hrsv hst => ?_,
    fun s p r k h hrsv href hpack => ?_, fun s p r h hmagic hjobs hop hst => ?_, fun s kind subject o ho => ?_⟩
  · have hans := operating_answers h hrsv hrsv' hst
    have hnil : endDrowseWait { s with hub := { s.hub with pstate := 0 } } = { s with hub := { s.hub with pstate := 0 } } := by
      rw [endDrowseWait, hnone, Option.elim_none]
    have hdata : powerData { s with hub := { s.hub with pstate := 0 } } = leBytes 4 (if s.hub.preserve then 8 else 0) :=
      congrArg (leBytes 4) (Nat.zero_add _)
    rw [hnil, hdata] at hans
    exact hans
  · have hends := endDrowseWait_ends (s := { s with hub := { s.hub with pstate := 0 } }) hw htaken hwait hop
    exact ⟨_, operating_answers h hrsv hrsv' hst, hends.1, hends.2.1, hends.2.2⟩
  · rw [Answers, ← answerWaiting_eq (s := enterDrowse s) htaken hwait hop]
    simp [exec, execDrowseEntry, onlyIf, hw, hacts]
  · refine ⟨powerData { s with hub := { s.hub with preserve := bit (pay r) 0 } }, answers_of h (by unfold exec execPowerStatePreserve; rfl) ?_⟩
    dsimp only
    rw [if_neg (by simp [hrsv, hrsv']), powerReply_eq]
  · refine then_of h (by unfold exec execPowerStateRestart; rfl) ?_
    rw [if_neg (by simp [hrsv, hrsv']), if_neg (by simp [hjobs]), powerReply_eq]
  · refine answers_of h (by unfold exec execFwUpdateStage; rfl) ?_
    dsimp only
    rw [if_neg (by simp [hrsv, Option.isSome_iff_ne_none.1 href]), if_neg (by simp [hst, hpldm]), hx]
    rfl
  · refine ⟨startOp (beginStage s i) p r { kind := 6, total := 10000 }, answers_of h (by unfold exec execFwUpdateStage; rfl) ?_, rfl, (beginStage_fw s i).1, (beginStage_fw s i).2⟩
    dsimp only
    rw [if_neg (by simp [hrsv, Option.isSome_iff_ne_none.1 href]), if_neg (by simp [hst, hpldm]), imageRefusal_none hhead htrust hsvn]
  · refine then_of (g := fun s => warmRestart (activateSlot s)) (u := s) h (by unfold exec execFwUpdateActivate; rfl) ?_
    rw [if_neg (by simp [hrsv]), if_neg (by simp [hjobs]), if_neg (by simp [hst]), if_neg (by simp [Option.isSome_iff_ne_none.1 hstaged])]
    rfl
  · refine answers_of h (by unfold exec execFwUpdateDiscard; rfl) ?_
    dsimp only
    rw [if_neg (by simp [hrsv]), if_neg (by simp [hst])]
    rfl
  · refine answers_of h (by unfold exec execPrickingLoad; rfl) ?_
    dsimp only
    rw [if_neg (by simp [hrsv, Option.isSome_iff_ne_none.1 href]), loadPack, hpack]
    rfl
  · refine ⟨startOp { s with fw := { s.fw with returnStep := 1 }, mgmt := { s.mgmt with sessions := [] } } p r { kind := 8, total := 10000 },
      answers_of h (by unfold exec execReturnPrepare; rfl) ?_, rfl, rfl, ?_⟩
    · dsimp only
      rw [if_neg (by simp [hmagic]), if_neg (by simp [hjobs]), if_neg (by simp [hop, hst])]
    · exact congrArg (Option.map fun o : LongOp => o.state)
        (opOf_startOp { s with fw := { s.fw with returnStep := 1 }, mgmt := { s.mgmt with sessions := [] } } p r { kind := 8, total := 10000 })
  · have hend : ∀ g, exec (.longOperationEnd kind subject g) s = .next (operationEnds s kind o g) := fun g => by
      unfold exec execLongOperationEnd
      dsimp only
      rw [ho]
      rfl
    refine ⟨?_, fun hk hnv l => ?_, fun hk g => ?_, fun hk g => ?_, fun hk g => ?_, fun hk hnv hphase l => ?_⟩
    · rintro rfl
      exact hend none
    all_goals
      rw [hend]
      subst hk
      simp [operationEnds, endStage, *]

end Sys2Proof.Commands
end

section
/-! Repair of HBM rows before the first job, and the failover of the hub (10 R308, 14 R415). -/

namespace Sys2Proof.Commands

open Sys2Proof Sys2Proof.Machine Sys2Proof.Laws Sys2Proof.Completion

variable {s : State} {p act : Nat} {r : Request}

/-! ### Repairs -/

theorem repairRefusal_none (hrsv : pf r 7 4 = 0) (hcount : pf r 15 8 ≤ 240) (hfirst : s.mem.jobOpened = false)
    (href : (actionOfReq r != 1 || (refAt s r (pf r 127 16)).isSome) = true)
    (hrows : ((actionOfReq r != 2 && actionOfReq r != 3) || (rowsOf r).all (rowEntryOk s)) = true) : repairRefusal s r = none := by
  rw [repairRefusal, href, hrows]
  simp [hrsv, hfirst, Nat.not_lt.2 hcount]

theorem repairDone_bits (u : State) (st n : Nat) : bits (leNat (repairReply u st n).data) 31 0 = n % 2 ^ 32 ∧
    bits (leNat (repairReply u st n).data) 63 32 = u.mem.repairLog.length % 2 ^ 32 := by
  have hbits : ∀ a b : Nat, bits (a % 2 ^ 32 + b % 2 ^ 32 * 2 ^ 32) 31 0 = a % 2 ^ 32 ∧ bits (a % 2 ^ 32 + b % 2 ^ 32 * 2 ^ 32) 63 32 = b % 2 ^ 32 := fun a b => by
    unfold bits
    omega
  rw [repairReply, bits_leBytes (by omega) (by omega), bits_leBytes (by omega) (by omega)]
  exact hbits _ _

/-- The repair of rows that a request names, answered with how many it repaired. -/
theorem repairAnswer_answers {u : State} {hard : Bool} {rows : List Nat} {q : Nat × Bool × State} {c : Instr} {f : Request → State → Reply} {op : Nat} (h : Asked s p op act r)
    (hc : exec c s = runCmd s p op act f) (hf : f r s = repairAnswer s hard rows)
    (hu : u = { s with mem := drainIf s.mem fun e => rows.any fun r => r / 16384 == bankKey (place s.nibs.grade e.granule) }) (hq : q = repairRows hard rows 0 u) :
    ∃ d, Answers c s q.2.2 p r (if q.2.1 then mbOk else mbNoResource) d ∧ bits (leNat d) 31 0 = q.1 % 2 ^ 32 := by
  subst hq hu
  exact ⟨_, answers_of h hc hf, (repairDone_bits _ mbOk _).1⟩

/-! ### The failover of the hub -/

theorem undoWaiting_around (s : State) (r : Request) : (undoWaiting s r).mem = s.mem ∧ (undoWaiting s r).acts = s.acts ∧ (undoWaiting s r).queues = s.queues ∧
    (undoWaiting s r).hub.pages = s.hub.pages ∧ (undoWaiting s r).hub.longOps = s.hub.longOps ∧ (undoWaiting s r).mgmt = s.mgmt := by
  unfold undoWaiting
  dsimp only
  repeat' split
  all_goals simp

/-- A state that an idle page leaves differs in neither memory, stitches, queues, operations nor the management side. -/
structure Idles (s t : State) : Prop where
  mem : t.mem = s.mem
  acts : t.acts = s.acts
  queues : t.queues = s.queues
  ops : t.hub.longOps = s.hub.longOps
  mgmt : t.mgmt = s.mgmt

theorem idlePage_idles (s : State) (p : Nat) : Idles s (idlePage s p) := by
  unfold idlePage
  dsimp only
  by_cases hbusy : (pageOf s p).mbState != 1
  · rw [if_pos hbusy]
    exact ⟨rfl, rfl, rfl, rfl, rfl⟩
  rw [if_neg hbusy]
  by_cases hwait : (pageOf s p).waiting
  · rw [if_pos hwait]
    cases (pageOf s p).taken with
    | none => exact ⟨rfl, rfl, rfl, rfl, rfl⟩
    | some r =>
      obtain ⟨hm, ha, hq, -, ho, hg⟩ := undoWaiting_around s r
      exact ⟨hm, ha, hq, ho, hg⟩
  · rw [if_neg hwait]
    exact ⟨rfl, rfl, rfl, rfl, rfl⟩

theorem idlePages_idle (l : List Nat) (s : State) : Idles s (l.foldl idlePage s) := by
  induction l generalizing s with
  | nil => exact ⟨rfl, rfl, rfl, rfl, rfl⟩
  | cons p l ih =>
    obtain ⟨hm, ha, hq, ho, hg⟩ := ih (idlePage s p)
    obtain ⟨hm', ha', hq', ho', hg'⟩ := idlePage_idles s p
    exact ⟨hm.trans hm', ha.trans ha', hq.trans hq', ho.trans ho', hg.trans hg'⟩

theorem pageOf_idlePage (s : State) (p k : Nat) : ((pageOf s k).mbState ≠ 1 → (pageOf (idlePage s p) k).mbState ≠ 1) ∧ (pageOf (idlePage s p) p).mbState ≠ 1 := by
  unfold idlePage
  dsimp only
  by_cases hbusy : (pageOf s p).mbState != 1
  · rw [if_pos hbusy]
    exact ⟨id, by simpa using hbusy⟩
  rw [if_neg hbusy, pageOf_putPage_self]
  refine ⟨fun hk => ?_, (by decide : (0 : BitVec 2) ≠ 1)⟩
  have hne : k ≠ p := fun e => hbusy (by simpa [e] using hk)
  rw [pageOf_putPage_ne _ _ _ _ hne]
  by_cases hwait : (pageOf s p).waiting
  · rw [if_pos hwait]
    cases (pageOf s p).taken with
    | none => exact hk
    | some r =>
      obtain ⟨-, -, -, hp, -, -⟩ := undoWaiting_around s r
      rwa [Option.elim_some, pageOf, hp]
  · rwa [if_neg hwait]

theorem idlePages_leave_none {l : List Nat} {s : State} {k : Nat} (h : k ∈ l ∨ (pageOf s k).mbState ≠ 1) : (pageOf (l.foldl idlePage s) k).mbState ≠ 1 := by
  induction l generalizing s with
  | nil => simpa using h
  | cons p l ih =>
    refine ih ?_
    by_cases hp : k = p
    · exact .inr (hp ▸ (pageOf_idlePage s p k).2)
    · exact h.imp (fun hm => (List.mem_cons.1 hm).resolve_left hp) (pageOf_idlePage s p k).1

/-- A page that the table does not list is not busy. -/
theorem listed_or_idle (s : State) (k : Nat) : k ∈ s.hub.pages.map Prod.fst ∨ (pageOf s k).mbState ≠ 1 := by
  cases hk : tget s.hub.pages k with
  | none => exact .inr (by simp [pageOf, tgetD, hk])
  | some q => exact .inl (List.mem_map.2 ⟨_, mem_of_tget hk, rfl⟩)

/-! ### Operations that fail -/

/-- The operation of a key has ended as failed. -/
def HasFailed (s : State) (o : LongOp) : Prop :=
  ∃ e, e ∈ s.hub.longOps ∧ e.kind = o.kind ∧ e.subject = o.subject ∧ e.job = o.job ∧ e.state = 3 ∧ e.result = mbNotReady

theorem sendMsix_hub (s : State) (v : Nat) : (sendMsix s v).hub = { s.hub with msixPending := (sendMsix s v).hub.msixPending } := by
  unfold sendMsix
  split <;> rfl

theorem endOp_longOps (s : State) (o : LongOp) (n : Nat) : (endOp s o n).hub.longOps =
    (putOp s { o with result := n, state := if n == mbOk then 2 else 3, position := if n == mbOk then o.total else o.position }).hub.longOps := by
  unfold endOp
  extract_lets good u
  by_cases hn : o.notifyEnd
  · rw [if_pos hn, sendMsix_hub]
  · rw [if_neg hn]

@[simp] theorem endOp_pages (s : State) (o : LongOp) (n : Nat) : (endOp s o n).hub.pages = s.hub.pages := by
  unfold endOp
  extract_lets good u
  by_cases hn : o.notifyEnd
  · rw [if_pos hn, sendMsix_hub]
    rfl
  · rw [if_neg hn]
    rfl

theorem endOp_fails (s : State) (o : LongOp) : HasFailed (endOp s o mbNotReady) o := by
  rw [HasFailed, endOp_longOps]
  exact ⟨_, List.mem_append_right _ (List.mem_singleton.2 rfl), rfl, rfl, rfl, rfl, rfl⟩

theorem endOp_keeps_failed (s : State) {o : LongOp} (q : LongOp) (h : HasFailed s o) : HasFailed (endOp s q mbNotReady) o := by
  by_cases hkey : q.kind = o.kind ∧ q.subject = o.subject ∧ q.job = o.job
  · obtain ⟨e, he, hk, hs, hj, hst, hr⟩ := endOp_fails s q
    exact ⟨e, he, hk.trans hkey.1, hs.trans hkey.2.1, hj.trans hkey.2.2, hst, hr⟩
  · obtain ⟨e, he, hk, hs, hj, hst, hr⟩ := h
    refine ⟨e, ?_, hk, hs, hj, hst, hr⟩
    rw [endOp_longOps]
    refine List.mem_append_left _ (List.mem_filter.2 ⟨he, ?_⟩)
    simp only [hk, hs, hj]
    grind

theorem endOps_fail {o : LongOp} {l : List LongOp} {s : State} (h : o ∈ l ∨ HasFailed s o) : HasFailed (l.foldl (fun s o => endOp s o mbNotReady) s) o := by
  induction l generalizing s with
  | nil => simpa using h
  | cons q l ih =>
    refine ih ?_
    rcases h with h | h
    · rcases List.mem_cons.1 h with rfl | h
      · exact .inr (endOp_fails s o)
      · exact .inl h
    · exact .inr (endOp_keeps_failed s q h)

theorem failDrains_keep_failed {o : LongOp} (l : List Drain) {s : State} (h : HasFailed s o) : HasFailed (l.foldl failDrain s) o := by
  induction l generalizing s with
  | nil => exact h
  | cons d l ih => exact ih (endOp_keeps_failed _ _ (by rwa [HasFailed, updJob_hub]))

theorem endOps_frame (l : List LongOp) (s : State) : let t := l.foldl (fun s o => endOp s o mbNotReady) s
    t.mem = s.mem ∧ t.acts = s.acts ∧ t.queues = s.queues ∧ t.hub.pages = s.hub.pages ∧ t.mgmt = s.mgmt := by
  induction l generalizing s with
  | nil => exact ⟨rfl, rfl, rfl, rfl, rfl⟩
  | cons o l ih => simpa using ih (endOp s o mbNotReady)

theorem failDrains_frame (l : List Drain) (s : State) : let t := l.foldl failDrain s
    t.mem = s.mem ∧ t.acts = s.acts ∧ t.queues = s.queues ∧ t.hub.pages = s.hub.pages ∧ t.mgmt = s.mgmt := by
  induction l generalizing s with
  | nil => exact ⟨rfl, rfl, rfl, rfl, rfl⟩
  | cons d l ih => simpa [failDrain] using ih (failDrain s d)

theorem failOps_frame (s : State) : (failOps s).acts = s.acts ∧ (failOps s).queues = s.queues ∧ (∀ x, memByte (failOps s).mem x = memByte s.mem x) ∧ (failOps s).mem.poison = s.mem.poison ∧
    (failOps s).hub.pages = s.hub.pages ∧ (failOps s).mgmt = s.mgmt := by
  obtain ⟨hm, ha, hq, hp, hg⟩ := endOps_frame (s.hub.longOps.filter fun o => o.state == 1) s
  obtain ⟨hm', ha', hq', hp', hg'⟩ := failDrains_frame ((s.hub.longOps.filter fun o => o.state == 1).foldl (fun s o => endOp s o mbNotReady) s).pair.drains
    ((s.hub.longOps.filter fun o => o.state == 1).foldl (fun s o => endOp s o mbNotReady) s)
  exact ⟨ha'.trans ha, hq'.trans hq, fun x => (congrArg (memByte · x) (hm'.trans hm) :), (congrArg Mem.poison (hm'.trans hm) :), hp'.trans hp, hg'.trans hg⟩

theorem failOps_fails {o : LongOp} (ho : o ∈ s.hub.longOps) (hst : o.state = 1) : HasFailed (failOps s) o :=
  failDrains_keep_failed _ (endOps_fail (.inl (List.mem_filter.2 ⟨ho, by simp [hst]⟩)))

theorem health_hseq (s : State) (i : HealthInfo) : (health s i).mgmt.hseq = s.mgmt.hseq + 1 := rfl

/-- Settles O49: each repair by its checks, and the failover by what an idle page, an ended operation and an ended drain leave. -/
theorem repairAndFailover : Obligations.RepairAndFailover := by
  unfold Obligations.RepairAndFailover
  refine ⟨fun s p a n r h hrsv hcount hfirst href hroom => ?_, fun s p r hard rows u q hrsv hcount hfirst hok hrows hu hq => ⟨fun hsoft h => ?_, fun hhard h => ?_⟩,
    fun s p r rows u q hrsv hcount hfirst hrows hu hq h => ?_, fun s hon hb => ?_⟩
  · have hact : actionOfReq r = 1 := h.2.2.1
    refine ⟨_, answers_of h (by unfold exec execHbmRepairQuery; rfl) ?_, (repairDone_bits (wrBytes s a (repairReport s)) mbOk _).1, ?_⟩
    · dsimp only
      rw [repairRefusal_none hrsv hcount hfirst (by simp [href]) (by simp [hact]), href]
      dsimp only
      rw [if_neg (Nat.not_lt.2 hroom)]
      rfl
    · rw [(repairDone_bits (wrBytes s a (repairReport s)) mbOk _).2, show (wrBytes s a (repairReport s)).mem.repairLog = s.mem.repairLog by rw [stored_wrBytes s a]]
  · subst hsoft
    have hact : actionOfReq r = 2 := h.2.2.1
    refine repairAnswer_answers h (by unfold exec execHbmRepairSoft; rfl) ?_ hu hq
    rw [repairListed, repairRefusal_none hrsv hcount hfirst (by simp [hact]) (by simp [hok]), Option.elim_none, hrows]
  · subst hhard
    have hact : actionOfReq r = 3 := h.2.2.1
    refine repairAnswer_answers h (by unfold exec execHbmRepairHard; rfl) ?_ hu hq
    rw [repairListed, repairRefusal_none hrsv hcount hfirst (by simp [hact]) (by simp [hok]), Option.elim_none, hrows]
  · have hact : actionOfReq r = 4 := h.2.2.1
    refine repairAnswer_answers h (by unfold exec execHbmRepairHardLogged; rfl) ?_ hu hq
    rw [repairRefusal_none hrsv hcount hfirst (by simp [hact]) (by simp [hact]), hrows]
    rfl
  · obtain ⟨him, hia, hiq, hio, hig⟩ := idlePages_idle (s.hub.pages.map Prod.fst) s
    obtain ⟨hfa, hfq, hfb, hfp, hfpages, hfg⟩ := failOps_frame ((s.hub.pages.map Prod.fst).foldl idlePage s)
    have hstep : exec .hubFailover s = .next (let t := failOps ((s.hub.pages.map Prod.fst).foldl idlePage s)
        health { t with hub := { t.hub with hubB := true } } { code := 0x0602, severity := 2 }) := by
      simp only [exec, execHubFailover, onlyIf, hon, hb]
      rfl
    refine ⟨_, hstep, ?_⟩
    dsimp only
    refine ⟨by rw [health_hub], by rw [health_fw]; rfl, by rw [health_acts]; exact hfa.trans hia, by rw [health_queues]; exact hfq.trans hiq, by rw [health_pair]; rfl,
      by rw [health_mem]; exact hfp.trans (by rw [him]), fun x => ?_, fun o ho hst => ?_, fun k q _ hk => ?_, ?_⟩
    · rw [health_mem]
      exact (hfb x).trans (by rw [him])
    · rw [health_hub]
      exact failOps_fails (s := (s.hub.pages.map Prod.fst).foldl idlePage s) (hio ▸ ho) hst
    · rw [health_hub] at hk
      have hidle := idlePages_leave_none (listed_or_idle s k)
      rwa [pageOf, ← hfpages, tgetD, show tget (failOps ((s.hub.pages.map Prod.fst).foldl idlePage s)).hub.pages k = some q from hk] at hidle
    · rw [health_hseq]
      exact congrArg (fun m : Mgmt => m.hseq + 1) (hfg.trans hig)

end Sys2Proof.Commands
end

section
/-! The doorbells of an open job (08 R240, R247, R250). -/

namespace Sys2Proof.Doorbells

open Sys2Proof Sys2Proof.Machine Sys2Proof.Laws Sys2Proof.Completion

variable {s : State} {job n : Nat} {v : Word64} {j : Job} {q : Queue}

theorem jobOf_of_openJob (h : openJob s job = some j) : jobOf s job = some j := (Option.filter_eq_some_iff.1 h).1

theorem doorbell_runs (h : openJob s job = some j) (hup : linkUp s = true) (f : Job → State) : doorbell s job f = .next (f j) := by
  simp [doorbell, h, onlyIf, hup]

theorem ownQueue_some (hq : queueOf s n = some q) (hown : q.job = j.id) : ownQueue s j n = some q := by
  simp [ownQueue, hq, hown]

/-- A queue that is put back, with its status block (08 R245). -/
theorem saveQueue_frame (s : State) (n : Nat) (q : Queue) : saveQueue s n q =
    { s with mem := (saveQueue s n q).mem, host := (saveQueue s n q).host, queues := (saveQueue s n q).queues } := by
  rw [saveQueue, wrBytes_frame]
  rfl

theorem queueOf_saveQueue_self (s : State) (n : Nat) (q : Queue) : queueOf (saveQueue s n q) n = some q := by
  rw [queueOf, saveQueue_queues, tget_tset_self]

theorem queueOf_saveQueue_ne (s : State) {n k : Nat} (h : k ≠ n) (q : Queue) : queueOf (saveQueue s n q) k = queueOf s k := by
  rw [queueOf, saveQueue_queues, tget_tset_ne _ _ (Ne.symm h), queueOf]

theorem pinOf_addPin (j : Job) (pin inc : Nat) (b : Bool) (p : Nat) :
    pinOf (addPin j pin inc b) p = if p = pin then pinOf j p + BitVec.ofNat 32 inc else pinOf j p := by
  unfold pinOf addPin tgetD
  rw [tget_tset]
  by_cases hp : p = pin
  · simp [hp, pinOf, tgetD]
  · simp [hp, Ne.symm hp]

/-- Settles O50: each doorbell by the queue or the pin that it names. -/
theorem doorbells : Obligations.Doorbells := by
  unfold Obligations.Doorbells
  intro s job v j hjobs hopen hup
  have hid : j.id = job := id_of_jobOf hjobs (jobOf_of_openJob hopen)
  refine ⟨fun q hq hown hhalt hroom hback => ?_, fun q hq hown hst => ⟨?_, ?_⟩, fun hpin => ?_, fun hpin => ?_⟩
  · have hrun : exec (.dbTail job v) s = .next (tailWrite s j v.toNat) := doorbell_runs hopen hup _
    rw [tailWrite, ownQueue_some hq (hown.trans hid.symm)] at hrun
    dsimp only at hrun
    rw [hhalt, decide_eq_false (Nat.not_lt.2 hroom), decide_eq_false (Nat.not_lt.2 hback), if_neg (by decide)] at hrun
    exact ⟨_, _, hrun, queueOf_saveQueue_self .., rfl, rfl, rfl, fun n hn => queueOf_saveQueue_ne _ hn _, saveQueue_frame ..⟩
  · have hrun : exec (.qResumeRetry job v) s = .next (resumeWrite s j v.toNat false) := doorbell_runs hopen hup _
    rw [resumeWrite, ownQueue_some hq (hown.trans hid.symm)] at hrun
    dsimp only at hrun
    rw [if_neg (by simp [hst]), if_neg (by decide)] at hrun
    exact ⟨_, _, hrun, queueOf_saveQueue_self .., rfl, saveQueue_frame ..⟩
  · have hrun : exec (.qResumeSkip job v) s = .next (resumeWrite s j v.toNat true) := doorbell_runs hopen hup _
    rw [resumeWrite, ownQueue_some hq (hown.trans hid.symm)] at hrun
    dsimp only at hrun
    rw [if_neg (by simp [hst]), if_pos rfl] at hrun
    exact ⟨_, _, hrun, queueOf_saveQueue_self .., rfl, rfl, rfl, rfl, saveQueue_frame ..⟩
  · have hrun : exec (.pinAdd job v) s = .next (pinWrite s j v.toNat) := doorbell_runs hopen hup _
    rw [pinWrite, if_neg (Nat.not_le.2 hpin)] at hrun
    exact ⟨_, _, hrun, rfl, jobOf_putJob_id s _ hid, pinOf_addPin _ _ _ _, rfl, fun i hi => jobOf_putJob_ne _ _ _ (fun e => hi (e.trans hid))⟩
  · have hrun : exec (.pinAdd job v) s = .next (pinWrite s j v.toNat) := doorbell_runs hopen hup _
    rw [pinWrite, if_pos hpin] at hrun
    exact ⟨_, _, hrun, rfl, jobOf_putJob_id s _ hid, rfl⟩

end Sys2Proof.Doorbells
end

section
/-! Writes to registers and mailbox pages, and requests for configuration registers (14 R404, R406, R407). -/

namespace Sys2Proof.Doorbells

open Sys2Proof Sys2Proof.Machine Sys2Proof.Laws Sys2Proof.Completion

variable {s : State} {job n : Nat} {v : Word64} {j : Job} {q : Queue}

theorem registerWrite_page (hup : linkUp s = true) (hopen : openJob s job = some j) {o : Nat} (ho : o < 4096) (data : List Byte) :
    exec (.registerWrite 2 (4096 * job + o) data) s = .next (
      if o = 0x00 then (if data.length = 8 then tailWrite s j (leNat data) else s)
      else if o = 0x08 then resumeWrite s j (leNat data) (bit (leNat data) 32)
      else if o = 0x10 then pinWrite s j (leNat data)
      else if o = 0x18 then pinSelect s j (leNat data) else s) := by
  have hpage : (4096 * job + o) / 4096 = job := by omega
  have hoff : (4096 * job + o) % 4096 = o := by omega
  simp only [exec, execRegisterWrite, onlyIf, hup, if_true, pageWrite, hpage, hopen, hoff, Nat.reduceEqDiff, if_false]

theorem registerWrite_bar0 (hup : linkUp s = true) (o : Nat) (data : List Byte) : exec (.registerWrite 0 o data) s = .next (bar0Write s o data) := by
  simp only [exec, execRegisterWrite, onlyIf, hup, if_true]

/-- The bytes that a write gives a table, one after the other. -/
theorem tget_written (f : Nat → Byte) (o : Nat) (t : Tbl Byte) (i n : Nat) :
    tget ((List.range n).foldl (fun t k => if o + k < 2048 then tset t (o + k) (f k) else t) t) i =
      if o ≤ i ∧ i < o + n ∧ i < 2048 then some (f (i - o)) else tget t i := by
  induction n with
  | zero =>
    rw [if_neg (by omega)]
    rfl
  | succ n ih =>
    rw [List.range_succ, List.foldl_append, List.foldl_cons, List.foldl_nil]
    by_cases hn : o + n < 2048
    · rw [if_pos hn, tget_tset, ih]
      by_cases hi : o + n = i
      · rw [if_pos hi, if_pos (by omega), ← hi, Nat.add_sub_cancel_left]
      · rw [if_neg hi]
        refine if_congr ?_ rfl rfl
        omega
    · rw [if_neg hn, ih]
      refine if_congr ?_ rfl rfl
      omega

theorem request_written (s : State) (p o : Nat) (data : List Byte) (i : Nat) : tget (pageOf (requestWrite s p o data) p).req i =
    if o ≤ i ∧ i < o + data.length ∧ i < 2048 then data[i - o]? else tget (pageOf s p).req i := by
  unfold requestWrite
  rw [pageOf_putPage_self]
  refine (tget_written (fun k => data.getD k 0) o _ i data.length).trans ?_
  by_cases hi : o ≤ i ∧ i < o + data.length ∧ i < 2048
  · have hlen : i - o < data.length := by omega
    rw [if_pos hi, if_pos hi, List.getElem?_eq_getElem hlen, List.getD_eq_getElem _ _ hlen]
  · rw [if_neg hi, if_neg hi]

theorem response_written (s : State) (p o : Nat) (data : List Byte) {i : Nat} (hi : i < 2048) : (pageOf (requestWrite s p o data) p).resp.getD i 0 =
    if o ≤ 2048 + i ∧ 2048 + i < o + data.length then data.getD (2048 + i - o) 0 else (pageOf s p).resp.getD i 0 := by
  unfold requestWrite
  rw [pageOf_putPage_self]
  dsimp only
  by_cases hlow : o + data.length ≤ 2048
  · rw [if_pos hlow, if_neg (by omega)]
  rw [if_neg hlow]
  by_cases hlen : i < max (pageOf s p).resp.length (min 2048 (o + data.length - 2048))
  · rw [List.getD_eq_getElem _ _ (by simpa using hlen)]
    simp
  · rw [List.getD_eq_default _ _ (by rwa [List.length_map, List.length_range, ← Nat.not_lt]), if_neg (by omega), List.getD_eq_default _ _ (by omega)]

/-- Settles O51: each register by its address. -/
theorem registersAreWritten : Obligations.RegistersAreWritten := by
  unfold Obligations.RegistersAreWritten
  refine ⟨fun s job data j hup hopen => ⟨?_, fun hlen => ?_, ?_, ?_⟩, fun s p o data hup hp ho => ?_, fun s p hup hp => ?_, fun s o data hup ho => ?_,
    fun s job o hopen ho => ?_, fun s p o hp ho => ⟨?_, fun hidle => ?_⟩, fun s register v hup => ?_, fun s register v hup => ?_⟩
  · exact registerWrite_page hup hopen (by decide) data
  · exact (registerWrite_page hup hopen (o := 0) (by decide) data).trans (by rw [if_pos rfl, if_pos hlen])
  · exact registerWrite_page hup hopen (by decide) data
  · exact registerWrite_page hup hopen (by decide) data
  · have hpage : (0x10000 + 4096 * p + o - 0x10000) / 4096 = p := by omega
    have hoff : (0x10000 + 4096 * p + o) % 4096 = o := by omega
    have hstep : exec (.registerWrite 0 (0x10000 + 4096 * p + o) data) s = .next (requestWrite s p o data) := by
      rw [registerWrite_bar0 hup, bar0Write, if_pos (by simp; omega), hpage, hoff]
    refine ⟨_, hstep, rfl, rfl, request_written s p o data, fun i hi => response_written s p o data hi, ?_, fun k hk => pageOf_putPage_ne _ _ _ _ hk⟩
    rw [requestWrite, pageOf_putPage_self]
  · have hpage : (0x50008 + 16 * p - 0x50000) / 16 = p := by omega
    rw [registerWrite_bar0 hup, bar0Write, if_neg (by simp; omega), if_pos (by simp; omega), if_pos (by simp [leNat, bit]), hpage]
  · rw [registerWrite_bar0 hup, bar0Write, if_neg (by simp; omega), if_neg (by simp; omega), if_neg (by simp; omega), if_neg (by simp; omega)]
  · have hpage : (4096 * job + o) / 4096 = job := by omega
    rw [bar2Read, hpage, pageWord, hopen]
    simp
  · have hpage : (0x10000 + 4096 * p + o - 0x10000) / 4096 = p := by omega
    have hoff : (0x10000 + 4096 * p + o) % 4096 = o := by omega
    rw [bar0Read, if_neg (by omega), if_pos (by simp; omega), hpage, hoff]
    exact if_pos ho
  · have hpage : (0x10800 + 4096 * p + o - 0x10000) / 4096 = p := by omega
    have hoff : (0x10800 + 4096 * p + o) % 4096 = 2048 + o := by omega
    rw [bar0Read, if_neg (by omega), if_pos (by simp; omega), hpage, hoff]
    dsimp only
    rw [if_neg (by omega), if_neg hidle, Nat.add_sub_cancel_left]
  · simp only [exec, execConfigurationRequest, onlyIf, hup, if_true, Bool.false_eq_true, if_false]
  · have hstep : exec (.configurationRequest true register v) s = .next (
        let h := { s.hub with pciCfg := tset s.hub.pciCfg register (BitVec.ofNat 32 (drawn s)) }
        let size := if register = Config.rbarRegister then (rbarSize v.toNat).getD h.bar4Size else h.bar4Size
        draw { s with hub := { h with bar4Size := size, bar4Offset := h.bar4Offset / size * size } }) := by
      simp only [exec, execConfigurationRequest, onlyIf, hup, if_true]
    refine ⟨_, hstep, rfl, rfl, ?_⟩
    simp [draw]

end Sys2Proof.Doorbells
end

section
/-! The byte that a reader finds after a write (10 R295 to R299, R303). -/

namespace Sys2Proof.Granules

open Sys2Proof Sys2Proof.Machine Sys2Proof.Laws Sys2Proof.Completion

variable {m : Mem} {g : Grade} {now k x : Nat} {sid : Option Sid} {ws : WriteSet}

/-! ### Tables -/

/-- Entries put one after the other into a table. -/
theorem tget_foldl_tset {α : Type} {l : Tbl α} (hl : rising l = true) (d : Tbl α) (x : Nat) :
    tget (l.foldl (fun t c => tset t c.1 c.2) d) x = (tget l x).or (tget d x) := by
  induction l generalizing d with
  | nil => rfl
  | cons c l ih =>
    obtain ⟨habove, hr⟩ := (rising_cons _ _).1 hl
    rw [List.foldl_cons, ih hr, tget_tset, tget]
    by_cases hc : c.1 = x
    · rw [if_pos hc, if_pos hc, ← hc, tget_above _ _ habove]
      rfl
    · rw [if_neg hc, if_neg hc]

theorem tget_filter_key {α : Type} (l : Tbl α) (p : Nat → Bool) (x : Nat) : tget (l.filter fun c => p c.1) x = if p x then tget l x else none := by
  induction l with
  | nil => exact (ite_self _).symm
  | cons c l ih =>
    rw [List.filter_cons]
    by_cases hp : p c.1
    · rw [if_pos hp, tget, tget, ih]
      by_cases hc : c.1 = x
      · rw [if_pos hc, if_pos (hc ▸ hp), if_pos hc]
      · rw [if_neg hc, if_neg hc]
    · rw [if_neg hp, ih, tget]
      by_cases hc : c.1 = x
      · rw [if_neg (hc ▸ hp), if_neg (hc ▸ hp)]
      · rw [if_neg hc]

/-! ### Pending entries -/

theorem pendingOf_map (m : Mem) {f : WcbEntry → WcbEntry} (hf : ∀ e, (f e).granule = e.granule) (x : Nat) :
    pendingOf { m with wcb := m.wcb.map f } x = (pendingOf m x).map f := by
  unfold pendingOf
  rw [List.filter_map, List.getLast?_map]
  congr 3
  funext e
  exact congrArg (· == _) (hf e)

theorem granule_of_pendingOf {e : WcbEntry} (h : pendingOf m x = some e) : e.granule = x / 64 * 64 ∧ e ∈ m.wcb := by
  obtain ⟨hmem, heq⟩ := List.mem_filter.1 (List.mem_of_getLast? h)
  exact ⟨beq_iff_eq.1 heq, hmem⟩

theorem pendingOf_none (h : (m.wcb.any fun e => e.granule == x / 64 * 64) = false) : pendingOf m x = none := by
  unfold pendingOf
  rw [List.filter_eq_nil_iff.2 fun e he => List.any_eq_false.1 h e he]
  rfl

theorem any_of_pendingOf_none (h : pendingOf m x = none) : (m.wcb.any fun e => e.granule == x / 64 * 64) = false :=
  List.any_eq_false.2 (List.filter_eq_nil_iff.1 (List.getLast?_eq_none_iff.1 h))

/-- Memory in its form: bytes in theirs, and pending entries in theirs. -/
structure Formed (m : Mem) : Prop where
  wf : Memory.wf m.bytes = true
  wcb : Memory.wcbOk m.wcb = true

theorem Formed.keeps {a b : Mem} (h : Formed a) (hk : MKeeps a b) : Formed b := ⟨hk.1 h.wf, hk.2 h.wcb⟩

theorem retired_of_stored {a b : Mem} (h : Stored a b) (x : Nat) : frameRetired b x = frameRetired a x :=
  frameRetired_congr (by rw [h]) x

/-- An entry that is found or made for a granule changes no byte that a reader finds; it is there afterwards. -/
theorem allocEntry_byte (h : Formed m) (hx : frameRetired m x = false) : memByte (allocEntry g now m k) x = memByte m x := by
  unfold allocEntry
  by_cases hany : (m.wcb.any fun e => e.granule == k) = true
  · rw [if_pos hany]
  rw [if_neg hany]
  extract_lets n
  have hbyte : memByte n x = memByte m x := by
    unfold n
    cases fullOldest g m k with
    | none => rfl
    | some e => exact memByte_drainIf _ _ _ h.wf h.wcb hx
  have hsub : ∀ e ∈ n.wcb, e.granule ≠ k := fun e he hek => hany (List.any_eq_true.2 ⟨e, by
    revert he
    unfold n
    cases fullOldest g m k with
    | none => exact id
    | some q => exact List.mem_of_mem_filter, by simp [hek]⟩)
  have hn : frameRetired n x = false := by
    unfold n
    cases fullOldest g m k with
    | none => exact hx
    | some e => exact (retired_of_stored (stored_drainIf m _) x).trans hx
  rw [← hbyte, memByte_eq _ _ hn, memByte_eq _ _ (show frameRetired { n with wcb := n.wcb ++ [{ granule := k, since := now }] } x = false from hn)]
  by_cases hk : k = x / 64 * 64
  · rw [pendingOf_none (m := n) (List.any_eq_false.2 fun e he => by simpa [← hk] using hsub e he)]
    simp [pendingOf, hk, tget]
  · simp [pendingOf, hk]

theorem allocEntry_pending : ∃ e, e ∈ (allocEntry g now m k).wcb ∧ e.granule = k := by
  unfold allocEntry
  by_cases hany : (m.wcb.any fun e => e.granule == k) = true
  · rw [if_pos hany]
    obtain ⟨e, he, hek⟩ := List.any_eq_true.1 hany
    exact ⟨e, he, beq_iff_eq.1 hek⟩
  · rw [if_neg hany]
    exact ⟨_, List.mem_append_right _ (List.mem_singleton.2 rfl), rfl⟩

/-- A write within one granule: its bytes are found, and every other byte is as it was. -/
theorem acceptGranule_byte (h : Formed m) {data : Tbl Byte} (hd : rising data = true) (hk : ∀ c ∈ data, c.1 / 64 * 64 = k) (bad : Bool)
    (hx : frameRetired m x = false) : memByte (acceptGranule g now sid m k data bad) x = if x / 64 * 64 = k then (tget data x).getD (memByte m x) else memByte m x := by
  unfold acceptGranule
  extract_lets n u
  have hn : Formed n := h.keeps (allocEntry_keeps (MKeeps.refl m) g now k)
  have hnx : frameRetired n x = false := (retired_of_stored (stored_allocEntry g now m k) x).trans hx
  have hbyte : memByte n x = memByte m x := allocEntry_byte h hx
  have hgranule : ∀ e : WcbEntry, (if e.granule == k then mergeEntry e data bad sid else e).granule = e.granule := fun e => by
    split <;> rfl
  have hu : memByte u x = if x / 64 * 64 = k then (tget data x).getD (memByte m x) else memByte m x := by
    rw [← hbyte, memByte_eq u _ hnx, memByte_eq _ _ hnx, show pendingOf u x = _ from pendingOf_map n hgranule x]
    by_cases hxk : x / 64 * 64 = k
    · rw [if_pos hxk]
      cases hp : pendingOf n x with
      | none =>
        obtain ⟨e, he, hek⟩ := allocEntry_pending (g := g) (now := now) (m := m) (k := k)
        exact absurd (any_of_pendingOf_none hp) (by rw [Bool.not_eq_false]; exact List.any_eq_true.2 ⟨e, he, by simp [hek, hxk]⟩)
      | some e =>
        have hek : (e.granule == k) = true := by
          rw [(granule_of_pendingOf hp).1, hxk]
          exact beq_self_eq_true k
        rw [Option.map_some]
        dsimp only
        rw [if_pos hek, show (mergeEntry e data bad sid).data = data.foldl (fun t c => tset t c.1 c.2) e.data from rfl, tget_foldl_tset hd]
        cases tget data x <;> rfl
    · rw [if_neg hxk]
      cases hp : pendingOf n x with
      | none => rfl
      | some e =>
        have hek : ¬ (e.granule == k) = true := by
          rw [(granule_of_pendingOf hp).1]
          simpa using hxk
        rw [Option.map_some]
        dsimp only
        rw [if_neg hek]
  have huk : Formed u := by
    have hacc := h.keeps (acceptGranule_keeps (MKeeps.refl m) g now sid k data bad hk)
    refine ⟨hn.wf, ?_⟩
    obtain ⟨hnd, hform⟩ := (wcbOk_iff _).1 hn.wcb
    refine (wcbOk_iff _).2 ⟨?_, ?_⟩
    · rw [show u.wcb = n.wcb.map _ from rfl, List.map_map]
      exact (congrArg List.Nodup (List.map_congr_left fun e _ => hgranule e)).mpr hnd
    · intro e he
      obtain ⟨q, hq, rfl⟩ := List.mem_map.1 he
      by_cases hqk : (q.granule == k) = true
      · rw [if_pos hqk]
        obtain ⟨hrise, hmem⟩ := merged_form data q.data (hform q hq).1
        exact ⟨hrise, fun c hc => (hmem c hc).elim (fun hcd => (hk c hcd).trans (beq_iff_eq.1 hqk).symm) fun hcq => (hform q hq).2 c hcq⟩
      · rw [if_neg hqk]
        exact hform q hq
  rw [memByte_drainIf u _ x huk.wf huk.wcb hnx, hu]

/-- A write to a Pillow's line leaves every byte that it does not list as it was. -/
theorem storeLine_other (h : Formed m) {data : Tbl Byte} (hd : rising data = true) (hnone : tget data x = none) (bad : Bool) (hx : frameRetired m x = false) :
    memByte (storeLine m k data bad) x = memByte m x := by
  have hs : Stored m (storeLine m k data bad) := stored_drainEntry m _
  have hwcb : (storeLine m k data bad).wcb = m.wcb := by
    unfold storeLine drainEntry
    split_ifs <;> exact storeBytes_wcb ..
  have hcell : cellGet (storeLine m k data bad).bytes x = cellGet m.bytes x := by
    rw [storeLine, drainEntry_bytes, cellGet_storeBytes m data x h.wf hd hx, hnone]
    rfl
  rw [memByte_eq _ _ ((retired_of_stored hs x).trans hx), memByte_eq _ _ hx, hcell, pendingOf, hwcb, pendingOf]

/-- A granule of a write set that goes into memory, where the byte lies in HBM if it is written. -/
theorem commitGranule_byte (h : Formed m) (hd : rising ws.bytes = true) (hin : (tget ws.bytes x).isSome = true → inHbm g x = true) (hx : frameRetired m x = false) :
    memByte (commitGranule g now sid ws m k) x = if x / 64 = k then (tget ws.bytes x).getD (memByte m x) else memByte m x := by
  have hshare : ∀ c ∈ shareOf ws k, c.1 / 64 = k := fun c hc => by simpa using (List.mem_filter.1 hc).2
  have hrise : rising (shareOf ws k) = true := rising_filter _ _ hd
  have hget : tget (shareOf ws k) x = if x / 64 = k then tget ws.bytes x else none := by
    simpa [shareOf] using tget_filter_key ws.bytes (fun a => a / 64 == k) x
  unfold commitGranule
  dsimp only
  by_cases hhbm : inHbm g (k * 64) = true
  · rw [if_pos hhbm, acceptGranule_byte h hrise (fun c hc => by rw [hshare c hc]) _ hx, hget]
    by_cases hxk : x / 64 = k
    · rw [if_pos (by rw [hxk]), if_pos hxk, if_pos hxk]
    · rw [if_neg (by omega), if_neg hxk]
  · have hnone : x / 64 = k → tget ws.bytes x = none := fun hxk => by
      by_contra hsome
      have hx' : x < localEnd g := of_decide_eq_true (hin (Option.isSome_iff_ne_none.2 hsome))
      exact hhbm (decide_eq_true (by omega))
    rw [if_neg hhbm, storeLine_other h hrise (by rw [hget]; by_cases hxk : x / 64 = k <;> simp [hxk, hnone]) _ hx]
    by_cases hxk : x / 64 = k
    · rw [if_pos hxk, hnone hxk]
      rfl
    · rw [if_neg hxk]

theorem mem_touched (l : Tbl Byte) {x : Nat} {v : Byte} (h : tget l x = some v) (gs : List Nat) :
    x / 64 ∈ l.foldl (fun l w => ninsert l (w.1 / 64)) gs := by
  have hkeep : ∀ (l : Tbl Byte) (gs : List Nat) (k : Nat), k ∈ gs → k ∈ l.foldl (fun l w => ninsert l (w.1 / 64)) gs := fun l => by
    induction l with
    | nil => exact fun _ _ hk => hk
    | cons c l ih => exact fun gs k hk => ih _ _ (mem_ninsert hk)
  induction l generalizing gs with
  | nil => cases h
  | cons c l ih =>
    rw [tget] at h
    by_cases hc : c.1 = x
    · refine hkeep l _ _ (List.contains_iff_mem.1 ?_)
      rw [← hc, ninsert_contains]
      simp
    · rw [if_neg hc] at h
      exact ih h _

/-- Bytes that go into memory: a reader finds them, and every other byte as it was, where they lie in HBM. -/
theorem commitWrites_byte (h : Formed m) (hd : rising ws.bytes = true) (hin : (tget ws.bytes x).isSome = true → inHbm g x = true) (hx : frameRetired m x = false) :
    memByte (commitWrites g now sid m ws) x = (tget ws.bytes x).getD (memByte m x) := by
  have hgranules : ∀ (gs : List Nat) (m : Mem), Formed m → frameRetired m x = false →
      memByte (gs.foldl (commitGranule g now sid ws) m) x = if x / 64 ∈ gs then (tget ws.bytes x).getD (memByte m x) else memByte m x := fun gs => by
    induction gs with
    | nil => exact fun _ _ _ => (if_neg (List.not_mem_nil)).symm
    | cons k gs ih =>
      intro m hm hmx
      rw [List.foldl_cons, ih _ (hm.keeps (commitGranule_keeps (MKeeps.refl m) ..)) ((retired_of_stored (stored_commitGranule ..) x).trans hmx),
        commitGranule_byte hm hd hin hmx]
      by_cases hk : x / 64 = k
      · rw [if_pos hk, if_pos (List.mem_cons.2 (.inl hk))]
        cases tget ws.bytes x <;> simp
      · rw [if_neg hk]
        exact if_congr (by simp [hk]) rfl rfl
  have hpoison : ∀ (gs : List Nat) (m : Mem), memByte (gs.foldl setPoison m) x = memByte m x := fun gs => by
    induction gs with
    | nil => exact fun _ => rfl
    | cons k gs ih => exact fun m => ih (setPoison m k)
  rw [commitWrites, hpoison, hgranules _ _ h hx]
  cases hv : tget ws.bytes x with
  | none => exact ite_self _
  | some v => exact if_pos (mem_touched ws.bytes hv [])

end Sys2Proof.Granules
end

section
/-! Writes of stitches, of the controller and of the host's aperture (09 R282 to R284, 10 R295 to R299, 14 R405). -/

namespace Sys2Proof.Granules

open Sys2Proof Sys2Proof.Machine Sys2Proof.Laws Sys2Proof.Completion

variable {m : Mem} {g : Grade} {now k x : Nat} {s : State}

/-! ### Bytes outside HBM -/

/-- An address that no grade gives HBM. -/
def pastHbm : Nat := 2 ^ 41

/-- Memory with a pending entry for a granule outside HBM: it is in its form. -/
def pendingPastHbm : Mem := { ({} : Mem) with wcb := [{ granule := pastHbm, data := [(pastHbm, 5)] }] }

theorem pendingPastHbm_formed : Memory.wf pendingPastHbm.bytes = true ∧ Memory.wcbOk pendingPastHbm.wcb = true ∧ frameRetired pendingPastHbm pastHbm = false := by
  decide +kernel

/-- A write outside HBM goes to memory at once, and the pending entry hides it. -/
theorem pendingPastHbm_hides : memByte (commitWrites .m8f 0 none pendingPastHbm { bytes := [(pastHbm, 7)] }) pastHbm = 5 := by decide +kernel

/-- Refutes O7: a pending entry outside HBM, which memory's form allows, still shows its own byte after a write, which goes past the buffer there. -/
theorem not_writesAreRead : ¬ Obligations.WritesAreRead := by
  unfold Obligations.WritesAreRead
  rintro ⟨hread, -⟩
  obtain ⟨hwf, hwcb, hret⟩ := pendingPastHbm_formed
  have hbyte := hread .m8f 0 none pendingPastHbm { bytes := [(pastHbm, 7)] } pastHbm hwf hwcb rfl hret
  rw [pendingPastHbm_hides] at hbyte
  exact absurd hbyte (by decide)

/-! ### Bytes from an address -/

theorem tget_offsets {α : Type} (f : Nat → α) (a x : Nat) (l : List Nat) :
    tget (l.map fun i => (a + i, f i)) x = if a ≤ x ∧ x - a ∈ l then some (f (x - a)) else none := by
  induction l with
  | nil => simp
  | cons i l ih =>
    rw [List.map_cons, tget, ih]
    by_cases hi : a + i = x
    · have hix : x - a = i := by omega
      rw [if_pos hi, if_pos ⟨by omega, by simp [hix]⟩, hix]
    · rw [if_neg hi]
      refine if_congr ⟨fun h => ⟨h.1, List.mem_cons_of_mem _ h.2⟩, fun h => ⟨h.1, (List.mem_cons.1 h.2).resolve_left (by omega)⟩⟩ rfl rfl

theorem rising_offsets {α : Type} (f : Nat → α) (a : Nat) {l : List Nat} (h : l.Pairwise (· < ·)) : rising (l.map fun i => (a + i, f i)) = true := by
  induction l with
  | nil => rfl
  | cons i l ih =>
    obtain ⟨hi, hl⟩ := List.pairwise_cons.1 h
    refine (rising_cons _ _).2 ⟨fun c hc => ?_, ih hl⟩
    obtain ⟨k, hk, rfl⟩ := List.mem_map.1 hc
    exact Nat.add_lt_add_left (hi k hk) a

theorem rising_bytesAt (a : Nat) (l : List Byte) : rising (bytesAt a l).bytes = true := rising_offsets _ a List.pairwise_lt_range

theorem tget_bytesAt (a : Nat) (l : List Byte) (x : Nat) : tget (bytesAt a l).bytes x = if a ≤ x ∧ x < a + l.length then some (l.getD (x - a) 0) else none := by
  refine (tget_offsets (fun i => l.getD i 0) a x (List.range l.length)).trans (if_congr ?_ rfl rfl)
  rw [List.mem_range]
  omega

/-- A read-modify-write that finds its granule uncorrectable marks it, and no byte changes. -/
theorem rmwFound_byte (m : Mem) (e : WcbEntry) (o : ReadOutcome) (x : Nat) : memByte (rmwFound m e o) x = memByte m x := by
  unfold rmwFound
  split <;> rfl

theorem rmwFound_wcb (m : Mem) (e : WcbEntry) (o : ReadOutcome) : (rmwFound m e o).wcb = m.wcb := by
  unfold rmwFound
  split <;> rfl

/-! ### The controller's rows (10 R295, R296, 09 R284) -/

section Writes

variable {addr : Nat} {data : List Byte} {sid : Sid} {o : ReadOutcome}

theorem wcbWrite_goes {nib : Option (Nat × Nat)} (hin : inHbm s.nibs.grade addr = true) (hon : hbmOn s = true) (hlen : addr % 64 + data.length ≤ 64)
    (hroom : ∀ k, nib = some k → slotRoom s k addr = true) : exec (.wcbWrite ⟨addr, data, nib⟩ sid o) s = .next (
      let u := acceptGranule s.nibs.grade s.clk.now (some sid) s.mem (addr / 64 * 64) (bytesAt addr data).bytes false
      { s with mem := (fullOldest s.nibs.grade s.mem (addr / 64 * 64)).elim u fun e => rmwFound u e o }) := by
  have hslot : (nib.all fun n => slotRoom s n addr) = true := by
    cases nib with
    | none => rfl
    | some k => exact hroom k rfl
  simp only [exec, execWcbWrite, hin, Bool.not_true, Bool.false_eq_true, if_false, onlyIf, hon, hslot, decide_eq_true hlen, Bool.and_self, if_true]

theorem wcbWrite_waits {k : Nat × Nat} (hin : inHbm s.nibs.grade addr = true)
    (hfull : 48 ≤ (slotsHeld s k fun _ => true).length ∨ 16 ≤ slotsOn s k addr) : exec (.wcbWrite ⟨addr, data, some k⟩ sid o) s = .next s := by
  have hroom : slotRoom s k addr = false := by
    rw [slotRoom, Bool.and_eq_false_iff]
    exact hfull.imp (fun h => decide_eq_false (Nat.not_lt.2 h)) fun h => decide_eq_false (Nat.not_lt.2 h)
  simp only [exec, execWcbWrite, hin, Bool.not_true, Bool.false_eq_true, if_false, onlyIf, Option.all_some, hroom, Bool.and_false, Bool.false_and]

theorem wcbWrite_byte (hwf : Memory.wf s.mem.bytes = true) (hwcb : Memory.wcbOk s.mem.wcb = true) (hlen : addr % 64 + data.length ≤ 64) (hx : frameRetired s.mem x = false) :
    memByte (let u := acceptGranule s.nibs.grade s.clk.now (some sid) s.mem (addr / 64 * 64) (bytesAt addr data).bytes false
      (fullOldest s.nibs.grade s.mem (addr / 64 * 64)).elim u fun e => rmwFound u e o) x =
      if addr ≤ x ∧ x < addr + data.length then data.getD (x - addr) 0 else memByte s.mem x := by
  extract_lets u
  have hin : ∀ c ∈ (bytesAt addr data).bytes, c.1 / 64 * 64 = addr / 64 * 64 := fun c hc => by
    obtain ⟨i, hi, rfl⟩ := List.mem_map.1 hc
    have hi' := List.mem_range.1 hi
    dsimp only
    omega
  have hu : memByte ((fullOldest s.nibs.grade s.mem (addr / 64 * 64)).elim u fun e => rmwFound u e o) x = memByte u x := by
    cases fullOldest s.nibs.grade s.mem (addr / 64 * 64) with
    | none => rfl
    | some e => exact rmwFound_byte u e o x
  rw [hu, show memByte u x = _ from acceptGranule_byte ⟨hwf, hwcb⟩ (rising_bytesAt addr data) hin false hx, tget_bytesAt]
  by_cases hw : addr ≤ x ∧ x < addr + data.length
  · rw [if_pos hw, if_pos hw, if_pos (by omega)]
    rfl
  · rw [if_neg hw, if_neg hw]
    exact ite_self _

end Writes

/-- A request of a granule and an instant. -/
def isReq (granule since : Nat) (r : MemReq) : Bool := r.granule == granule && r.since == since

/-- The requests with the one that is promoted among them (09 R284). -/
def requestsWith (s : State) (granule since : Nat) : List MemReq :=
  if s.mem.reqs.any (isReq granule since) then s.mem.reqs else (issueReq s { granule := granule, since := since }).mem.reqs

/-- A request that is promoted, if it is the one. -/
def promotedIf (granule since : Nat) (r : MemReq) : MemReq := if isReq granule since r then { r with promoted := true } else r

theorem isReq_promotedIf (granule since : Nat) (r : MemReq) : isReq granule since (promotedIf granule since r) = isReq granule since r := by
  unfold promotedIf
  split <;> rfl

theorem requestPromote_goes {granule since : Nat} (hin : inHbm s.nibs.grade granule = true) : exec (.requestPromote granule since) s =
    .next { advance s (since + 2000) with mem := { s.mem with reqs := (requestsWith s granule since).map (promotedIf granule since) } } := by
  have hany : (advance s (since + 2000)).mem.reqs.any (fun r => r.granule == granule && r.since == since) = s.mem.reqs.any (isReq granule since) := rfl
  unfold requestsWith exec execRequestPromote
  simp only [hin, Bool.not_true, Bool.false_eq_true, if_false, hany]
  cases s.mem.reqs.any (isReq granule since) <;> rfl

theorem requestsWith_others {granule since : Nat} {r : MemReq} (h : isReq granule since r = false) : r ∈ requestsWith s granule since ↔ r ∈ s.mem.reqs := by
  unfold requestsWith
  split
  · rfl
  · refine ⟨fun hr => (List.mem_append.1 hr).resolve_right fun hnew => ?_, List.mem_append_left _⟩
    rw [List.mem_singleton.1 hnew] at h
    simp [isReq] at h

theorem requestsWith_one (s : State) (granule since : Nat) : ∃ r ∈ requestsWith s granule since, isReq granule since r = true := by
  unfold requestsWith
  by_cases hany : s.mem.reqs.any (isReq granule since) = true
  · rw [if_pos hany]
    exact List.any_eq_true.1 hany
  · rw [if_neg hany]
    exact ⟨_, List.mem_append_right _ (List.mem_singleton.2 rfl), by simp [isReq]⟩

theorem isReq_iff {granule since : Nat} {r : MemReq} : isReq granule since r = true ↔ r.granule = granule ∧ r.since = since := by simp [isReq]

/-- Settles O8: the write by the entry it is merged into, the hold timer by the drain, and the promotion by the queue of requests. -/
theorem controllerWritesAndTimers : Obligations.ControllerWritesAndTimers := by
  unfold Obligations.ControllerWritesAndTimers
  refine ⟨⟨fun s addr data nib sid o hwf hwcb hin hon hlen hroom => ⟨_, wcbWrite_goes hin hon hlen hroom, rfl, fun x hx => wcbWrite_byte hwf hwcb hlen hx⟩,
    fun s addr data k sid o hin hfull => wcbWrite_waits hin hfull⟩, fun s g o e hwf hwcb he => ?_, fun s g since hin => ?_, fun _ _ => rfl⟩
  · have hgranule : e.granule = g := by simpa using List.find?_some he
    refine ⟨_, by simp only [exec, execWcbHoldTimeout, he]; rfl, rfl, ?_, fun ho hpart => ?_, fun x hx => ?_⟩
    · rw [rmwFound_wcb]
      refine List.all_eq_true.2 fun q hq => ?_
      simpa using (List.mem_filter.1 hq).2
    · have hbad : (rmwFound (drainIf s.mem fun x => x.granule == g) e o).poison.contains (g / 64) = true := by
        rw [rmwFound, ho, if_pos (by simp [hpart]), hgranule]
        exact (ninsert_contains ..).trans (by simp)
      rw [granulePoisoned, hbad]
      rfl
    · rw [rmwFound_byte]
      exact memByte_drainIf _ _ _ hwf hwcb hx
  · refine ⟨_, requestPromote_goes hin, rfl, rfl, ?_, fun r hr hg hs => ?_, fun r hr => ?_⟩
    · obtain ⟨r, hr, hone⟩ := requestsWith_one s g since
      exact ⟨_, List.mem_map_of_mem hr, isReq_iff.1 ((isReq_promotedIf ..).trans hone)⟩
    · obtain ⟨q, -, rfl⟩ := List.mem_map.1 hr
      have hone : isReq g since q = true := (isReq_promotedIf ..).symm.trans (isReq_iff.2 ⟨hg, hs⟩)
      rw [promotedIf, if_pos hone]
    · have hother : isReq g since r = false := Bool.eq_false_iff.2 fun e => hr (isReq_iff.1 e)
      rw [← requestsWith_others (s := s) hother]
      constructor
      · intro hmem
        obtain ⟨q, hq, rfl⟩ := List.mem_map.1 hmem
        rw [isReq_promotedIf] at hother
        rwa [promotedIf, if_neg (by simp [hother])]
      · exact fun hmem => List.mem_map.2 ⟨r, hmem, if_neg (by simp [hother])⟩

/-! ### The host's aperture (14 R405) -/

/-- The bytes of a write that BAR4 reaches. -/
theorem bar4_cells (s : State) (o : Nat) (data : List Byte) (x : Nat) :
    tget (((List.range data.length).filter fun i => bar4Byte s (o + i)).map fun i => (s.hub.bar4Offset + o + i, data.getD i 0)) x =
      if s.hub.bar4Offset + o ≤ x ∧ x < s.hub.bar4Offset + o + data.length ∧ bar4Byte s (x - s.hub.bar4Offset) = true
      then some (data.getD (x - (s.hub.bar4Offset + o)) 0) else none := by
  refine (tget_offsets (fun i => data.getD i 0) _ x _).trans (if_congr ?_ rfl rfl)
  rw [List.mem_filter, List.mem_range]
  have hoff : s.hub.bar4Offset + o ≤ x → o + (x - (s.hub.bar4Offset + o)) = x - s.hub.bar4Offset := by omega
  constructor
  · rintro ⟨hle, hlt, hb⟩
    exact ⟨hle, by omega, hoff hle ▸ hb⟩
  · rintro ⟨hle, hlt, hb⟩
    exact ⟨hle, by omega, (hoff hle).symm ▸ hb⟩

theorem inHbm_of_bar4Byte {o : Nat} (h : bar4Byte s o = true) : inHbm s.nibs.grade (s.hub.bar4Offset + o) = true := by
  simp only [bar4Byte, Bool.and_eq_true] at h
  exact h.1.2

/-- Settles O52: reads by what lies in windows, and writes by the bytes that they reach. -/
theorem apertureReadsAndWrites : Obligations.ApertureReadsAndWrites := by
  unfold Obligations.ApertureReadsAndWrites
  refine ⟨fun s o n a hup hon hall ha => ?_, fun s o n i hup hi hout => ?_, fun s o data hup hon hwf hwcb => ?_, fun s o data hup => ?_⟩
  · subst ha
    have hstep : exec (.bar4Read o n) s = .next { reachRange s (s.hub.bar4Offset + o) n with out := { s.out with
        bar4 := some { data := rdBytes s (s.hub.bar4Offset + o) n, ep := rangePoison s (s.hub.bar4Offset + o) n } } } := by
      simp only [exec, execBar4Read, onlyIf, hup, hon, hall, Bool.and_self, if_true]
      rfl
    exact ⟨_, _, hstep, rfl, rfl, rfl, rfl, fun hwf hwcb x hx => memByte_drainIf _ _ _ hwf hwcb hx⟩
  · have hall : ((List.range n).all fun i => bar4Byte s (o + i)) = false := List.all_eq_false.2 ⟨i, List.mem_range.2 hi, by simp [hout]⟩
    have hstep : exec (.bar4Read o n) s = .next { s with out := { s.out with bar4 := some { ur := true } } } := by
      simp only [exec, execBar4Read, onlyIf, hup, hall, Bool.and_false, Bool.false_eq_true, if_false, if_true]
    exact ⟨_, _, hstep, rfl, rfl, rfl, rfl⟩
  · have hstep : exec (.bar4Write o data false) s = .next (putMem s none
        { bytes := ((List.range data.length).filter fun i => bar4Byte s (o + i)).map fun i => (s.hub.bar4Offset + o + i, data.getD i 0) }) := by
      simp only [exec, execBar4Write, onlyIf, hup, hon, Bool.false_eq_true, if_false, if_true]
    refine ⟨_, hstep, rfl, fun x hx => ?_⟩
    refine (commitWrites_byte ⟨hwf, hwcb⟩ (rising_offsets _ _ (List.pairwise_lt_range.filter _)) (fun hsome => ?_) hx).trans ?_
    · rw [bar4_cells] at hsome
      split at hsome
      next hw =>
        have hin := inHbm_of_bar4Byte hw.2.2
        rwa [Nat.add_sub_cancel' (by omega)] at hin
      next => cases hsome
    · rw [bar4_cells]
      split <;> rfl
  · simp only [exec, execBar4Write, onlyIf, hup, if_true]

end Sys2Proof.Granules
end

section
/-! Comparisons, losers, nibs that are retired and self-test slices (12 R385 to R387, 15 R445); health records (15 R432). -/

namespace Sys2Proof.Health

open Sys2Proof Sys2Proof.Machine Sys2Proof.Laws Sys2Proof.Completion

variable {s t : State} {sid : Sid} {a : Active} {h g : Shadow} {share : Nat}

/-! ### Shadow executions -/

theorem shadowOf_putShadow (s : State) (h : Shadow) : shadowOf (putShadow s h) h.sid = some h := by
  unfold shadowOf putShadow
  have hnone : (s.shadows.filter fun q => q.sid != h.sid).find? (fun q => q.sid == h.sid) = none :=
    List.find?_eq_none.2 fun q hq => by simpa using (List.mem_filter.1 hq).2
  rw [List.find?_append, hnone]
  simp

theorem sid_of_shadowOf (hh : shadowOf s sid = some h) : h.sid = sid := by simpa using List.find?_some hh

theorem settleCompare_of (hh : shadowOf s sid = some h) (ha : actOf s sid = some a) : settleCompare s sid = if compareOver h then endCompare s a else s := by
  rw [settleCompare, hh, ha]

theorem compareOver_all (crcs : List (Word32 × Word32)) (sid : Sid) :
    compareOver { sid := sid, crcs := crcs, compared := true } = crcs.all fun c => c.1 == c.2 := by
  rw [compareOver, List.isEmpty_nil, Bool.true_and, Bool.eq_iff_iff, List.all_eq_true, List.all_eq_true]
  constructor
  · intro hover c hc
    obtain ⟨i, hi, rfl⟩ := List.mem_iff_getElem.1 hc
    simpa [differs, hi] using hover i (List.mem_range.2 hi)
  · intro hall i hi
    have hi' := List.mem_range.1 hi
    simpa [differs, hi'] using hall _ (List.getElem_mem hi')

theorem shadowComplete_settles {crcs : List (Word32 × Word32)} (ha : actOf s sid = some a) (hst : a.stage = .comparing) (hnone : shadowOf s sid = none)
    (hlen : crcs.length = a.nibs.length) (hruns : shadowRuns s a = true) : exec (.shadowComplete sid crcs) s =
      .next (let u := putShadow s { sid := sid, crcs := crcs, compared := true }
        if crcs.all fun c => c.1 == c.2 then endCompare u a else u) := by
  simp only [exec, execShadowComplete, ha, onlyIf, hst, hnone, hlen, hruns, Option.isNone_none, beq_self_eq_true, Bool.and_self, if_true]
  rw [settleCompare_of (shadowOf_putShadow s { sid := sid, crcs := crcs, compared := true }) ha, compareOver_all]

theorem shadowRecord_frame (s : State) (job : Nat) (sid : Sid) (op : Nat) (n : Nat × Nat) (act v : Nat) : (shadowRecord s job sid op n act v).mem = s.mem ∧
    (shadowRecord s job sid op n act v).acts = s.acts ∧ (shadowRecord s job sid op n act v).shadows = s.shadows ∧
    (shadowRecord s job sid op n act v).mgmt = s.mgmt ∧ (shadowRecord s job sid op n act v).nibs = s.nibs := by
  unfold shadowRecord
  cases jobOf s job <;> simp

/-- A job that is counted one more record keeps its accumulators, under whatever number it stands. -/
theorem jobOf_counted {u : State} {n : Nat} {j : Job} (hj : jobOf u n = some j) (c : BitVec 64) :
    (jobOf (putJob u { j with eqCount := c }) n).map (·.grads) = some j.grads := by
  by_cases hid : n = j.id
  · rw [hid, jobOf_putJob_self u { j with eqCount := c }]
    rfl
  · rw [jobOf_putJob_ne u { j with eqCount := c } n hid, hj]
    rfl

theorem jobOf_jobEvent_grads (s : State) (n : Nat) (e : Event) : (jobOf (jobEvent s n e) n).map (·.grads) = (jobOf s n).map (·.grads) := by
  unfold jobEvent
  cases hj : jobOf s n with
  | none => rw [hj]
  | some j =>
    dsimp only
    rw [jobOf, sendVector_jobs, draw_jobs]
    exact jobOf_counted (by rw [jobOf, wrHost_jobs, wrHost_jobs]; exact hj) _

theorem shadowRecord_grads (s : State) (job : Nat) (sid : Sid) (op : Nat) (n : Nat × Nat) (act v : Nat) :
    (jobOf (shadowRecord s job sid op n act v) job).map (·.grads) = (jobOf s job).map (·.grads) := by
  unfold shadowRecord
  cases hj : jobOf s job with
  | none => rw [Option.elim_none, hj]
  | some j => rw [Option.elim_some, jobOf_jobEvent_grads, hj]

theorem moveContrib_frame (s : State) (a : Active) (new : List Int) : (moveContrib s a new).1.mem = s.mem ∧ (moveContrib s a new).1.acts = s.acts ∧
    (moveContrib s a new).1.shadows = s.shadows := by
  unfold moveContrib
  split
  · exact ⟨rfl, rfl, rfl⟩
  · exact ⟨rfl, rfl, rfl⟩

theorem actOf_sid (ha : actOf s sid = some a) : a.sid = sid := by simpa using List.find?_some ha

/-- A comparison after a third execution of a share, whose loser is to repeat (12 R385). -/
def withLoser (h : Shadow) (share : Nat) (crc : Word32) (n : Nat × Nat) (bad : Word32) : Shadow :=
  { h with thirds := h.thirds ++ [(share, crc)], losers := h.losers ++ [(share, n.1, n.2, bad)] }

section Thirds

variable {crc x y : Word32} {w : ShareResult} (ha : actOf s sid = some a) (hh : shadowOf s sid = some h) (hxy : h.crcs[share]? = some (x, y)) (hne : x ≠ y)
  (hthird : (h.thirds.all fun t => t.1 != share) = true)
include ha hh hxy hne hthird

theorem thirdExec_goes : exec (.thirdExecComplete sid share crc w) s =
    if crc = x then
      .next (shadowRecord (putShadow s (withLoser h share crc (shareNib s a share false) y)) a.job sid a.st.opcode (shareNib s a share false) 1 0)
    else if crc = y then
      let ws : WriteSet := { bytes := w.bytes.foldl (fun t w => tset t w.1 w.2) [] }
      let new := newContrib a.contrib w.contrib
      let m := moveContrib (applyWrites (putShadow s (withLoser h share crc (shareNib s a share true) x)) (some sid) ws) a new
      .next (shadowRecord (putAct m.1 (asMajority a w new m.2)) a.job sid a.st.opcode (shareNib s a share true) 2 0)
    else .next (mismatchHalt (shadowRecord s a.job sid a.st.opcode (shareNib s a share true) 3 0) a) := by
  have hopen : (!differs h share || h.thirds.any fun t => t.1 == share) = false := by
    rw [List.all_eq_not_any_not] at hthird
    simpa [differs, hxy, hne] using hthird
  show execThirdExecComplete sid share crc w s = _
  unfold execThirdExecComplete
  rw [hh, ha]
  dsimp only
  rw [hopen, List.getD_eq_getElem?_getD, hxy]
  rfl

end Thirds

/-! ### Health records (15 R432) -/

theorem health_ring (s : State) (i : HealthInfo) : tget (health s i).mgmt.ring s.mgmt.hseq = some (makeHealth s i) := tget_tset_self ..

theorem shadowRecords_frame (l : List Nat) (n : Nat × Nat) (s : State) : let t := l.foldl (fun s j => shadowRecord s j 0 0 n 4 0) s
    t.mem = s.mem ∧ t.acts = s.acts ∧ t.mgmt = s.mgmt ∧ t.nibs = s.nibs := by
  induction l generalizing s with
  | nil => exact ⟨rfl, rfl, rfl, rfl⟩
  | cons j l ih =>
    obtain ⟨hm, ha, -, hg, hn⟩ := shadowRecord_frame s j 0 0 n 4 0
    obtain ⟨hm', ha', hg', hn'⟩ := ih (shadowRecord s j 0 0 n 4 0)
    exact ⟨hm'.trans hm, ha'.trans ha, hg'.trans hg, hn'.trans hn⟩

theorem nibRetireComplete_retires {panel nib k source : Nat} {jobs : List Nat} (hr : s.nibs.retiring.find? (fun r => r.1 == nibKey (panel, nib)) = some (k, source, jobs))
    (hfree : (s.acts.all fun a => !a.nibs.contains (panel, nib)) = true) : exec (.nibRetireComplete panel nib) s = .next (
      jobs.foldl (fun s j => shadowRecord s j 0 0 (panel, nib) 4 0) (health
        { s with nibs := { s.nibs with retiring := s.nibs.retiring.filter (fun r => r.1 != k), retired := ninsert s.nibs.retired k },
                 jobs := s.jobs.map fun j => (j.1, { j.2 with windows := dropPillow (panel, nib) j.2.windows }) }
        { code := 0x0401, severity := 2, panel := panel, nib := nib, value := source })) := by
  have hnone : (s.acts.any fun a => a.nibs.contains (panel, nib)) = false := by
    rw [List.all_eq_not_any_not] at hfree
    simpa using hfree
  show execNibRetireComplete panel nib s = _
  unfold execNibRetireComplete
  dsimp only
  rw [hr]
  dsimp only
  rw [hnone, if_neg (by decide)]

/-- Settles O53: comparisons by what is left of them, a retired nib by its record, and a slice by the signature of its pack. -/
theorem nibFaults : Obligations.NibFaults := by
  unfold Obligations.NibFaults
  refine ⟨fun s sid crcs a ha hst hnone hlen hruns => ⟨fun heq => ?_, fun hdiff => ?_⟩,
    fun s sid share crc x y w a h ha hh hxy hne hthird => ⟨fun hcrc => ?_, fun hcrc => ?_, fun hx hy => ?_⟩,
    fun s u sid share panel nib crc bad a h ha hh hl hu => ⟨fun hcrc => ?_, fun hcrc => ?_⟩, fun s panel nib source jobs hr hfree => ?_,
    fun s panel nib k crc p hrun hfail hpack w hw => ?_⟩
  · rw [shadowComplete_settles ha hst hnone hlen hruns]
    dsimp only
    rw [if_pos heq]
  · rw [shadowComplete_settles ha hst hnone hlen hruns]
    dsimp only
    rw [if_neg (by rw [hdiff]; decide)]
  · have hsid : h.sid = sid := sid_of_shadowOf hh
    have hstep := thirdExec_goes (crc := crc) (w := w) ha hh hxy hne hthird
    rw [if_pos hcrc] at hstep
    obtain ⟨hm, -, hs, -, -⟩ := shadowRecord_frame (putShadow s (withLoser h share crc (shareNib s a share false) y)) a.job sid a.st.opcode (shareNib s a share false) 1 0
    refine ⟨_, withLoser h share crc (shareNib s a share false) y, hstep, ?_, rfl, hm, rfl⟩
    rw [shadowOf, hs, ← hsid]
    exact shadowOf_putShadow s (withLoser h share crc (shareNib s a share false) y)
  · have hsid : h.sid = sid := sid_of_shadowOf hh
    have hstep := thirdExec_goes (crc := crc) (w := w) ha hh hxy hne hthird
    rw [if_neg (fun e => hne (e.symm.trans hcrc)), if_pos hcrc] at hstep
    refine ⟨_, (withLoser h share crc (shareNib s a share true) x), _,
      hstep, ?_, rfl, rfl, rfl, ?_, ?_, ?_⟩
    · rw [shadowOf, (shadowRecord_frame ..).2.2.1, putAct_shadows, (moveContrib_frame ..).2.2, applyWrites_shadows, ← hsid]
      exact shadowOf_putShadow s (withLoser h share crc (shareNib s a share true) x)
    · rw [(shadowRecord_frame ..).1, putAct_mem, (moveContrib_frame ..).1]
    · rw [shadowRecord_grads]
      rfl
    · have hsame : ∀ new out, (asMajority a w new out).sid = sid := fun new out => (show a.sid = sid from actOf_sid ha)
      rw [actOf, (shadowRecord_frame ..).2.1, ← actOf]
      refine (congrArg _ (hsame _ _).symm).trans (actOf_putAct_self _ _ (b := a) ?_)
      rw [hsame, actOf, (moveContrib_frame ..).2.1, applyWrites_acts]
      exact ha
  · rw [thirdExec_goes ha hh hxy hne hthird]
    rw [if_neg hx, if_neg hy]
  · subst hu
    simp only [exec, execLoserRepeatComplete, hh, ha, hl, hcrc, if_true]
  · subst hu
    simp only [exec, execLoserRepeatComplete, hh, ha, hl, hcrc, if_false]
  · obtain ⟨hm, hacts, hg, hn⟩ := shadowRecords_frame jobs (panel, nib) (health
        { s with nibs := { s.nibs with retiring := s.nibs.retiring.filter (fun r => r.1 != nibKey (panel, nib)), retired := ninsert s.nibs.retired (nibKey (panel, nib)) },
                 jobs := s.jobs.map fun j => (j.1, { j.2 with windows := dropPillow (panel, nib) j.2.windows }) }
        { code := 0x0401, severity := 2, panel := panel, nib := nib, value := source })
    refine ⟨_, _, nibRetireComplete_retires hr hfree, ?_, ?_, by rw [hg]; exact health_ring _ _, rfl, rfl, ?_, ?_⟩
    · rw [hn, health_nibs]
      exact List.contains_iff_mem.1 ((ninsert_contains ..).trans (by simp))
    · rw [hn, health_nibs]
      exact List.all_eq_true.2 fun q hq => (List.mem_filter.1 hq).2
    · rw [hm, health_mem]
    · rw [hacts, health_acts]
  · have hgo : exec (.selftestSliceEnd panel nib crc) s = .next (
        let u := advance { s with test := { s.test with running := s.test.running.filter fun q => q != (panel, nib, k) } } (s.clk.edge + periodNs s / 16)
        if w.signature = crc then u else { u with test := { u.test with failing := u.test.failing ++ [(panel, nib, k, crc, 0, 0)], lastSlice := k } }) := by
      have hnone : s.test.failing.find? (fun f => f.1 == panel && f.2.1 == nib && f.2.2.1 == k) = none :=
        List.find?_eq_none.2 fun f hf => by simpa [or_assoc, imp_iff_not_or] using List.all_eq_true.1 hfail f hf
      show execSelftestSliceEnd panel nib crc s = _
      unfold execSelftestSliceEnd
      rw [hrun]
      dsimp only
      rw [advance_test, hnone, advance_fw, hpack]
      simp [hw]
    refine ⟨_, hgo, ?_, ?_, fun hcrc => ?_, fun hcrc => ?_, ?_, ?_⟩
    · dsimp only; split <;> rfl
    · dsimp only; split <;> rfl
    · dsimp only
      rw [if_pos hcrc.symm]
      rfl
    · dsimp only
      rw [if_neg (Ne.symm hcrc)]
      exact ⟨rfl, rfl⟩
    · dsimp only; split <;> rfl
    · dsimp only; split <;> rfl

/-! ### Records that are told, sent again and acknowledged (15 R432) -/

theorem health_drop (hroom : s.mgmt.ring.length < 1024) (i : HealthInfo) : (health s i).mgmt.healthDrop = s.mgmt.healthDrop := by
  have hvictim : (if s.mgmt.ring.length < 1024 then none else healthVictim s.mgmt.ring) = none := if_pos hroom
  unfold health
  dsimp only
  rw [hvictim]
  rfl

theorem setAlert_low {k : Nat} {r : Health} (hr : tget s.mgmt.ring k = some r) (hsev : r.severity = 2) (hack : r.acked = false) : (setAlert s).pwr.alertLow = true :=
  List.any_eq_true.2 ⟨(k, r), mem_of_tget hr, by simp [hsev, hack]⟩

theorem tget_map_value {α : Type} (f : Nat → α → α) (l : Tbl α) (k : Nat) : tget (l.map fun p => (p.1, f p.1 p.2)) k = (tget l k).map (f k) := by
  induction l with
  | nil => rfl
  | cons p l ih =>
    rw [List.map_cons, tget, tget, ih]
    split
    next hp => rw [hp]; rfl
    next => rfl

/-- Settles O54: a record by its place in the ring, the resend by what is due, and the acknowledgement by the record's own entry. -/
theorem healthRecords : Obligations.HealthRecords := by
  unfold Obligations.HealthRecords
  refine ⟨fun s i hroom hcode hsev => ?_, fun s r hon hrec hopen hsent => ?_, fun s n hon hrec => ?_⟩
  · refine ⟨_, _, rfl, health_ring s i, rfl, Nat.mod_eq_of_lt hcode, Nat.mod_eq_of_lt hsev, rfl, rfl, health_drop hroom i, fun hcrit => ?_, rfl, rfl⟩
    exact setAlert_low (k := s.mgmt.hseq) (r := makeHealth s i) (tget_tset_self ..) (by simp [makeHealth, hcrit]) rfl
  · have hgo : exec .healthResend s = .next (sendDue (advance s (resendDue r))) := by
      show execHealthResend s = _
      unfold execHealthResend
      rw [hopen]
      simp only [onlyIf, hon, hrec, Bool.and_self, if_true, List.foldl_nil]
    refine ⟨_, hgo, rfl, ?_, rfl⟩
    have hdue : (s.mgmt.ring.map Prod.snd).filter (fun q => !q.acked && decide (resendDue q ≤ max s.clk.now (resendDue r))) = [r] := by
      have hopen' : (s.mgmt.ring.map Prod.snd).filter (fun q => !q.acked) = [r] := hopen
      rw [List.filter_congr fun q _ => Bool.and_comm _ _, ← List.filter_filter, hopen', List.filter_cons, decide_eq_true (Nat.le_max_right ..)]
      rfl
    have hmsg : ([r].filterMap (eventOf s)) = (eventOf s r).toList := by
      cases heq : eventOf s r <;> simp [heq]
    exact congrArg (s.out.healthSent ++ ·) ((congrArg (List.filterMap (eventOf s)) hdue).trans hmsg)
  · have hgo : exec (.healthAck n) s = .next (setAlert
        { s with mgmt := { s.mgmt with ring := s.mgmt.ring.map fun p => (p.1, if p.1 = n then { p.2 with acked := true } else p.2) } }) := by
      simp only [exec, execHealthAck, onlyIf, hon, hrec, Bool.and_self, if_true]
    have hget := tget_map_value (fun k r => if k = n then { r with acked := true } else r) s.mgmt.ring
    refine ⟨_, hgo, rfl, ?_, fun k hk => ?_, rfl⟩
    · refine (hget n).trans ?_
      simp
    · refine (hget k).trans ?_
      simp [hk]

end Sys2Proof.Health
end

section
/-! The management side: PLDM, SPDM, the I3C address and JTAG (15 R433 to R438, R448). -/

namespace Sys2Proof.Management

open Sys2Proof Sys2Proof.Machine Sys2Proof.Laws

variable {s t : State} {via : Transport}

/-! ### PLDM (15 R433 to R436, R441) -/

theorem pldmReply_on (hon : s.pwr.hubOn = true) (via : Transport) (t : State) (code : Nat) (data : List Nat) :
    pldmReply s via t code data = .next (pldmAnswer t via code data) := by
  rw [pldmReply, onlyIf, if_pos hon]

theorem filterMap_of_isSome {l : List (Option Nat)} (h : ∀ x ∈ l, x.isSome = true) : l.filterMap id = l.map (·.getD 0) := by
  induction l with
  | nil => rfl
  | cons x l ih =>
    obtain ⟨v, rfl⟩ := Option.isSome_iff_exists.1 (h x (List.mem_cons_self ..))
    rw [List.filterMap_cons_some (f := id) rfl, ih fun y hy => h y (List.mem_cons_of_mem _ hy)]
    rfl

theorem mgmtRead_answers (hon : s.pwr.hubOn = true) {a n : Nat} (hpos : 1 ≤ n) (hmax : n ≤ 32)
    (hall : ∀ i, i < n → (mgmtWord { s with free := s.free + i } (a + 8 * i)).isSome = true) : exec (.mgmtRead via a n) s =
      .next (pldmAnswer { s with free := s.free + n } via 0 ((List.range n).map fun i => (mgmtWord { s with free := s.free + i } (a + 8 * i)).getD 0)) := by
  have hsome : ∀ x ∈ (List.range n).map (fun i => mgmtWord { s with free := s.free + i } (a + 8 * i)), x.isSome = true := fun x hx => by
    obtain ⟨i, hi, rfl⟩ := List.mem_map.1 hx
    exact hall i (List.mem_range.1 hi)
  have hnone : ((List.range n).map fun i => mgmtWord { s with free := s.free + i } (a + 8 * i)).any Option.isNone = false :=
    List.any_eq_false.2 fun x hx => by simp [Option.isNone_eq_false_iff.2 (hsome x hx)]
  have hz : ¬ n = 0 := by omega
  show execMgmtRead via a n s = _
  unfold execMgmtRead
  dsimp only
  rw [hnone, if_neg (by simp [hz, hmax]), filterMap_of_isSome hsome, List.map_map]
  exact pldmReply_on hon ..

section Secured

variable {q : Option Nat} (hon : s.pwr.hubOn = true) (hq : secured s via q = true)
include hon hq

theorem requestUpdate_stages (hst : s.fw.staging = false) (hpldm : s.fw.stagingPldm = false) : exec (.requestUpdate via q 1) s =
    .next (pldmAnswer { s with fw := { s.fw with stagingPldm := true, component := 1, received := 0, staged := none } } via 0 []) := by
  show execRequestUpdate via q 1 s = _
  unfold execRequestUpdate
  rw [hq, hst, hpldm]
  exact pldmReply_on hon ..

theorem transfer_receives {data : List Byte} (hpldm : s.fw.stagingPldm = true) (hnone : s.fw.content = none) : exec (.pldmFwTransfer via q data none none) s =
    .next (pldmAnswer { s with fw := { s.fw with received := s.fw.received + data.length } } via 0 []) := by
  show execPldmFwTransfer via q data none none s = _
  unfold execPldmFwTransfer
  rw [hq, hpldm, hnone]
  exact pldmReply_on hon ..

theorem activateFirmware_loads {k : PrickPack} (hpldm : s.fw.stagingPldm = false) (hst : s.fw.staging = false) (hnone : s.fw.staged = none)
    (hpack : s.fw.stagedPack = some k) (hgood : packRefusal s k = none) :
    exec (.activateFirmware via q) s = .next (pldmAnswer { s with fw := { s.fw with nextPack := some k, stagedPack := none } } via 0 []) := by
  show execActivateFirmware via q s = _
  unfold execActivateFirmware
  rw [hq, hpldm, hst, hnone, hpack, Option.any_some, hgood]
  exact pldmReply_on hon ..

theorem activateFirmware_restarts (hpldm : s.fw.stagingPldm = false) (hst : s.fw.staging = false) (hjobs : s.jobs = []) (hsome : s.fw.staged.isSome = true)
    (hpack : s.fw.stagedPack = none) : exec (.activateFirmware via q) s = .next (pldmAnswer (warmRestart (activateSlot s)) via 0 []) := by
  have hsame : { s with fw := { s.fw with nextPack := s.fw.nextPack, stagedPack := none } } = s :=
    congrArg (fun k => { s with fw := { s.fw with stagedPack := k } }) hpack.symm
  show execActivateFirmware via q s = _
  unfold execActivateFirmware
  rw [hq, hpldm, hst, hpack, if_neg (by simp [hjobs]), if_neg (by simp [Option.isNone_eq_false_iff.2 hsome]), Option.any_none, if_neg (by decide), Option.none_or]
  dsimp only
  rw [if_pos hsome, hsame]
  exact pldmReply_on hon ..

theorem mgmtWrite_one (a : Nat) (v : Word64) : exec (.mgmtWrite via q a [v]) s =
    .next (if mgmtWritable a v.toNat then pldmAnswer (mgmtPut s a v.toNat) via 0 [] else pldmAnswer s via 2 []) := by
  have hws : (List.range [v].length).map (fun i => (a + 8 * i, ([v].getD i 0).toNat)) = [(a, v.toNat)] := rfl
  show execMgmtWrite via q a [v] s = _
  unfold execMgmtWrite
  dsimp only
  rw [hq, hws, List.all_cons, List.all_nil, Bool.and_true]
  cases mgmtWritable a v.toNat <;> exact pldmReply_on hon ..

end Secured

theorem unsecured_refused {q : Option Nat} (hon : s.pwr.hubOn = true) (hq : secured s via q = false) :
    (∀ e, exec (.setEventReceiver via q e) s = .next (pldmAnswer s via 4 [])) ∧ (∀ k, exec (.requestUpdate via q k) s = .next (pldmAnswer s via 4 [])) ∧
      (∀ d i k, exec (.pldmFwTransfer via q d i k) s = .next (pldmAnswer s via 4 [])) ∧ exec (.activateFirmware via q) s = .next (pldmAnswer s via 4 []) ∧
      ∀ a w, exec (.mgmtWrite via q a w) s = .next (pldmAnswer s via 4 []) := by
  have hreply := pldmReply_on hon via s pldmNotReady []
  have hnot : (!secured s via q) = true := by simp [hq]
  refine ⟨fun e => ?_, fun k => ?_, fun d i k => ?_, ?_, fun a w => ?_⟩
  · exact (if_neg (by simp [hq])).trans hreply
  · exact (if_pos hnot).trans hreply
  · exact (if_pos hnot).trans hreply
  · exact (if_pos (by simp [hq])).trans hreply
  · exact (if_pos hnot).trans hreply

/-- Settles O55: each command by its branch, where the Hub domain is on. -/
theorem pldmAnswers : Obligations.PldmAnswers := by
  unfold Obligations.PldmAnswers
  refine fun s via hon => ⟨⟨_, pldmReply_on hon ..⟩, fun k hk => ⟨_, (if_pos hk).trans (pldmReply_on hon ..)⟩, pldmReply_on hon .., fun k hk => ⟨_, (if_pos hk).trans (pldmReply_on hon ..), rfl⟩,
    fun _ _ => pldmReply_on hon .., fun k n hn => ?_, fun a n hpos hmax hall => mgmtRead_answers hon hpos hmax hall,
    fun q hq => ⟨fun e => (if_pos hq).trans (pldmReply_on hon ..), fun hst hpldm => ⟨_, requestUpdate_stages hon hq hst hpldm, rfl, rfl⟩,
      fun data hpldm hnone => transfer_receives hon hq hpldm hnone, fun k hpldm hst hnone hpack hgood => activateFirmware_loads hon hq hpldm hst hnone hpack hgood,
      fun hpldm hst hjobs hsome hpack => activateFirmware_restarts hon hq hpldm hst hjobs hsome hpack, fun v => mgmtWrite_one hon hq 0 v, fun a v hno => ?_⟩,
    fun q hq => unsecured_refused hon hq⟩
  · show execGetSensorReading via k s = _
    unfold execGetSensorReading
    rw [hn]
    exact pldmReply_on hon ..
  · rw [mgmtWrite_one hon hq, hno]
    rfl

/-! ### SPDM (15 R437, R438) -/

theorem spdmReply_on (hon : s.pwr.hubOn = true) (via : Transport) (t : State) (name : String) (data : List Byte) :
    spdmReply s via t name data = .next { t with out := { t.out with spdm := some (via, name, data) } } := by
  rw [spdmReply, onlyIf, if_pos hon]

theorem spdmReady_of (halg : (spdmOf s via).algorithms = true) (hkeys : s.fw.keys = true) (hfuse : s.fw.returnFuse = false) (o : Host.Outcome State Fault Refusal) :
    spdmReady s via o = o := by
  rw [spdmReady, if_neg (by simp [halg]), if_neg (by simp [hkeys, hfuse])]

theorem session_of_sessionOf {n : Nat} {q : Session} (h : sessionOf s via n = some q) : q.via = via ∧ q.id = n := by
  simpa using List.find?_some h

theorem secured_iff {n : Nat} : secured s via (some n) = true ↔ ∃ q, sessionOf s via n = some q ∧ q.established = true := by
  rw [secured, Option.any_some]
  cases sessionOf s via n <;> simp

theorem dropSession_none (s : State) (via : Transport) (n : Nat) : sessionOf (dropSession s via n) via n = none :=
  List.find?_eq_none.2 fun q hq => by simpa [imp_iff_not_or] using (List.mem_filter.1 hq).2

/-- A session that a heartbeat names. -/
def beaten (now : Nat) (via : Transport) (n : Nat) (q : Session) : Session := if q.via == via && q.id == n then { q with lastHeartbeat := now } else q

theorem sessionOf_beaten (s : State) (via : Transport) (n now : Nat) :
    (s.mgmt.sessions.map (beaten now via n)).find? (fun q => q.via == via && q.id == n) = (sessionOf s via n).map (beaten now via n) := by
  have hkeep : (fun q : Session => q.via == via && q.id == n) ∘ beaten now via n = fun q => q.via == via && q.id == n := by
    funext q
    unfold beaten
    dsimp only [Function.comp]
    split <;> rfl
  rw [List.find?_map, hkeep, sessionOf]

section Sessions

variable {n : Nat} {q : Session} (hon : s.pwr.hubOn = true)
include hon

theorem finish_establishes (hq : sessionOf s via n = some q) (hest : q.established = false) : ∃ u, Says (.finish via n true) s u via "FINISH_RSP" [] ∧ secured u via (some n) = true := by
  obtain ⟨hvia, hid⟩ := session_of_sessionOf hq
  have hgo : exec (.finish via n true) s = spdmReply s via { dropSession s via n with mgmt := { (dropSession s via n).mgmt with
      sessions := (dropSession s via n).mgmt.sessions ++ [{ q with established := true, lastHeartbeat := s.clk.now }] } } "FINISH_RSP" [] := by
    show execFinish via n true s = _
    unfold execFinish
    rw [hq]
    dsimp only
    rw [if_neg (by simp [hest]), if_neg (by decide)]
  refine ⟨_, hgo.trans (spdmReply_on hon ..), ?_⟩
  have hnone : (dropSession s via n).mgmt.sessions.find? (fun q => q.via == via && q.id == n) = none := dropSession_none s via n
  rw [secured, Option.any_some, sessionOf, List.find?_append, hnone, Option.none_or, List.find?_cons_of_pos (by simp [hvia, hid])]
  rfl

theorem endSession_ends (hsec : secured s via (some n) = true) : ∃ u, Says (.endSession via n) s u via "END_SESSION_ACK" [] ∧ secured u via (some n) = false := by
  refine ⟨_, (if_pos hsec).trans (spdmReply_on hon ..), ?_⟩
  rw [secured, Option.any_some, dropSession_none]
  rfl

theorem heartbeat_beats (hsec : secured s via (some n) = true) : ∃ u, Says (.heartbeat via n) s u via "HEARTBEAT_ACK" [] ∧
    (sessionOf u via n).any (fun q => q.lastHeartbeat == s.clk.now) = true ∧ secured u via (some n) = true := by
  refine ⟨_, (if_pos hsec).trans (spdmReply_on hon ..), ?_⟩
  obtain ⟨q, hq, hest⟩ := secured_iff.1 hsec
  have hnamed : (q.via == via && q.id == n) = true := by simp [session_of_sessionOf hq]
  have hbeat := (sessionOf_beaten s via n s.clk.now).trans (congrArg (Option.map (beaten s.clk.now via n)) hq)
  rw [Option.map_some, beaten, if_pos hnamed] at hbeat
  constructor
  · exact (congrArg (Option.any fun q : Session => q.lastHeartbeat == s.clk.now) hbeat).trans (by simp)
  · exact secured_iff.2 ⟨_, hbeat, hest⟩

end Sessions

section Negotiated

variable (hon : s.pwr.hubOn = true) (halg : (spdmOf s via).algorithms = true) (hkeys : s.fw.keys = true) (hfuse : s.fw.returnFuse = false)
include hon halg hkeys hfuse

theorem getCertificate_says {o n : Nat} (ho : o < (chain s).length) : Says (.getCertificate via 0 o n) s s via "CERTIFICATE" (slice (chain s) o n) :=
  (spdmReady_of halg hkeys hfuse _).trans ((if_neg (by simp [ho])).trans (spdmReply_on hon ..))

theorem getMeasurements_says {i : Nat} {n : List Byte} (hpos : 1 ≤ i) (hmax : i ≤ 5) :
    Says (.getMeasurements via i n) s s via "MEASUREMENTS" (measurement s i ++ aliasSign s (measurement s i ++ n)) := by
  show execGetMeasurements via i n s = _
  unfold execGetMeasurements
  rw [if_neg (show ¬ i = 0 by omega), if_neg (show ¬ i = 0xFF by omega)]
  dsimp only
  rw [spdmReady_of halg hkeys hfuse, if_neg (by simp; omega)]
  exact spdmReply_on hon ..

theorem keyExchange_says {k : Nat} {e : Word64} (hfree : (s.mgmt.sessions.all fun q => q.via != via) = true) : ∃ u q d, Says (.keyExchange via k e) s u via "KEY_EXCHANGE_RSP" d ∧
    u.mgmt.sessions = s.mgmt.sessions ++ [q] ∧ q.via = via ∧ q.established = false ∧ q.id % 65536 = k % 65536 ∧
      d = leBytes 4 q.id ++ aliasSign s (leBytes 4 q.id ++ leBytes 8 e.toNat) := by
  have hnone : (s.mgmt.sessions.any fun q => q.via == via) = false := by
    rw [List.all_eq_not_any_not] at hfree
    simpa using hfree
  have hgo : exec (.keyExchange via k e) s = _ := (spdmReady_of halg hkeys hfuse _).trans ((if_neg (by rw [hnone]; decide)).trans (spdmReply_on hon ..))
  refine ⟨_, _, _, hgo, rfl, rfl, rfl, ?_, rfl⟩
  dsimp only
  omega

end Negotiated

theorem jtag_takes (hon : s.pwr.hubOn = true) (hphase : s.hub.phase ≠ 2) (c : JtagInstr) :
    exec (.jtagInstruction c) s = .next { s with mgmt := { s.mgmt with jtagCode := c, jtag := jtagEffect s c } } := by
  have hno : (s.hub.phase == 2) = false := by simpa using hphase
  show execJtagInstruction c s = _
  unfold execJtagInstruction
  rw [hno]
  cases c <;> exact congrArg Host.Outcome.next (if_pos hon)

/-- Settles O56: each request by the stage of its connection or session. -/
theorem spdmAndPorts : Obligations.SpdmAndPorts := by
  unfold Obligations.SpdmAndPorts
  refine fun s via hon => ⟨spdmReply_on hon .., fun hver => ⟨_, (if_pos hver).trans (spdmReply_on hon ..)⟩, fun hcap b => ⟨_, (if_pos hcap).trans (spdmReply_on hon ..)⟩,
    fun halg hkeys hfuse => ⟨(spdmReady_of halg hkeys hfuse _).trans (spdmReply_on hon ..), fun o n ho => getCertificate_says hon halg hkeys hfuse ho,
      fun n => (spdmReady_of halg hkeys hfuse _).trans ((if_neg (by decide)).trans (spdmReply_on hon ..)),
      fun i n hpos hmax => getMeasurements_says hon halg hkeys hfuse hpos hmax, fun k e hfree => keyExchange_says hon halg hkeys hfuse hfree⟩,
    fun n q hq hest => finish_establishes hon hq hest, fun n hsec => ⟨endSession_ends hon hsec, heartbeat_beats hon hsec⟩, fun a ha => ?_, fun c hphase => jtag_takes hon hphase c⟩
  exact congrArg Host.Outcome.next (if_pos (by simp [hon, ha]))

end Sys2Proof.Management
end

section
/-! Power-up, power-down and the supply (16 R457 to R468). -/

namespace Sys2Proof.Power

open Sys2Proof Sys2Proof.Machine Sys2Proof.Laws

variable {s t : State}

/-! ### What a health record leaves of the power side -/

theorem health_pwr (s : State) (i : HealthInfo) : (health s i).pwr = { s.pwr with alertLow := (health s i).pwr.alertLow } := rfl

theorem health_settings (s : State) (i : HealthInfo) : (health s i).mgmt.cfg = s.mgmt.cfg ∧ (health s i).mgmt.cfgNv = s.mgmt.cfgNv ∧
    (health s i).mgmt.cfgUnsaved = s.mgmt.cfgUnsaved ∧ (health s i).mgmt.uartOn = s.mgmt.uartOn ∧ (health s i).mgmt.sessions = s.mgmt.sessions := ⟨rfl, rfl, rfl, rfl, rfl⟩

/-! ### Power-up (16 R460, R461; 15 R440) -/

theorem powerOnReset_leaves (s : State) : ∃ t, exec .powerOnReset s = .next t ∧ t.fw.fuses = fusesNow s ∧ t.nibs.retired = s.nibs.retired ∧ t.fab.station = s.fab.nvStation ∧
    t.mgmt.cfg = s.mgmt.cfgNv ∧ t.jobs = [] ∧ t.acts = [] ∧ t.mem.bytes = [] ∧ t.pwr.railsOn = false ∧ t.pwr.strapsLatched = false := by
  refine ⟨_, rfl, ?_⟩
  split
  · exact ⟨rfl, rfl, rfl, rfl, rfl, rfl, rfl, rfl, rfl⟩
  · exact ⟨rfl, rfl, rfl, rfl, rfl, rfl, rfl, rfl, rfl⟩

theorem bootCheck_boots (h : bootable s (running s) = true) : bootCheck s = { s with hub := { s.hub with bootFailed := false } } := by
  rw [bootCheck, if_pos h]

theorem fusesNow_nvWrite (s : State) (n : Nat) : fusesNow (nvWrite s (.fuses n)) = max (fusesNow s) n := by
  unfold fusesNow nvWrite
  rw [List.foldl_append]
  rfl

section Fuses

theorem advanceFuses_stays (h : min 64 (running s).svn ≤ fusesNow s) : advanceFuses s = s := if_pos h

theorem advanceFuses_blows (h : fusesNow s < min 64 (running s).svn) (hready : nvReady s = true) :
    fusesNow (advanceFuses s) = min 64 (running s).svn ∧ (advanceFuses s).fw.fusePending = none := by
  rw [advanceFuses]
  dsimp only
  rw [if_neg (Nat.not_le.2 h), if_pos hready]
  refine ⟨?_, rfl⟩
  exact (fusesNow_nvWrite _ _).trans (max_eq_right h.le)

theorem advanceFuses_waits (h : fusesNow s < min 64 (running s).svn) (hready : nvReady s = false) :
    fusesNow (advanceFuses s) = fusesNow s ∧ (advanceFuses s).fw.fusePending = some (min 64 (running s).svn) := by
  rw [advanceFuses]
  dsimp only
  rw [if_neg (Nat.not_le.2 h), if_neg (by simp [hready])]
  exact ⟨rfl, rfl⟩

theorem advanceFuses_frame (s : State) : (advanceFuses s).hub = s.hub ∧ (advanceFuses s).jobs = s.jobs ∧ (advanceFuses s).mgmt.uartOn = s.mgmt.uartOn ∧
    (advanceFuses s).fw.bootFailures = s.fw.bootFailures ∧ (advanceFuses s).fw.returnStep = s.fw.returnStep ∧ (advanceFuses s).fw.returnFuse = s.fw.returnFuse := by
  unfold advanceFuses
  dsimp only
  split_ifs <;> exact ⟨rfl, rfl, rfl, rfl, rfl, rfl⟩

end Fuses

/-- What a return that is resumed leaves. -/
theorem resumeReturn_frame (s : State) : resumeReturn s =
    { s with mgmt := { s.mgmt with sessions := (resumeReturn s).mgmt.sessions }, hub := { s.hub with longOps := (resumeReturn s).hub.longOps } } := by
  unfold resumeReturn
  split <;> rfl

theorem opRunning_putOp {o : LongOp} {kind subject : Nat} {job : Option Nat} (hk : o.kind = kind) (hs : o.subject = subject) (hj : o.job = job) (hst : o.state = 1) :
    opRunning (putOp s o) kind subject job = true := by
  subst hk hs hj
  rw [opRunning, Commands.opOf_putOp_self, Option.any_some, hst]
  rfl

theorem resumeReturn_resumes (hstep : s.fw.returnStep ≠ 0) (hfuse : s.fw.returnFuse = false) :
    (resumeReturn s).mgmt.sessions = [] ∧ opRunning (resumeReturn s) 8 0 none = true := by
  rw [resumeReturn, if_neg (by simp [hstep, hfuse])]
  dsimp only
  refine ⟨rfl, ?_⟩
  have hkey : ∀ q : LongOp, q = (opOf s 8 0 none).getD { kind := 8, total := 10000 } → q.kind = 8 ∧ q.subject = 0 ∧ q.job = none := fun q hq => by
    cases ho : opOf s 8 0 none with
    | none =>
      rw [hq, ho]
      exact ⟨rfl, rfl, rfl⟩
    | some o =>
      rw [hq, ho, Option.getD_some]
      simpa [and_assoc] using List.find?_some ho
  obtain ⟨hk, hs, hj⟩ := hkey _ rfl
  exact opRunning_putOp hk hs hj rfl

/-- What Ohmub sets at the end of bring-up, before the fuses advance and a return goes on (14 R412). -/
def broughtUp (s : State) : State :=
  { s with
    hub := { s.hub with phase := 1 }
    mem := { s.mem with scrub := skipRetired s.mem (s.mem.retired.length + 1) 0, scrubStart := s.clk.now, scrubStroke := strokeNow s }
    fw := { s.fw with bootFailures := 0 }
    mgmt := { s.mgmt with uartOn := s.mgmt.cfg.consoleEn == 1 } }

theorem bringUpComplete_goes (hstraps : s.pwr.strapsLatched = true) (hrails : s.pwr.railsOn = true) (hboot : s.hub.bootFailed = false) (hphase : s.hub.phase = 0) :
    exec .bringUpComplete s = .next (resumeReturn (advanceFuses (broughtUp s))) :=
  congrArg Host.Outcome.next (if_pos (by simp [hstraps, hrails, hboot, hphase]))

/-- The straps are latched (16 R457). -/
def latched (s : State) (a b : Nat) : State :=
  { advance s 1000000 with pwr := { s.pwr with slotId := BitVec.ofNat 6 a, feedTag := BitVec.ofNat 4 b, strapsLatched := true, pwrGoodLow := !s.pwr.railsOn } }

theorem bootable_latched (s : State) (a b : Nat) : bootable (latched s a b) (running (latched s a b)) = bootable s (running s) := rfl

/-- Settles O57: each event by what it resets and what it keeps. -/
theorem powerComesUp : Obligations.PowerComesUp := by
  unfold Obligations.PowerComesUp
  refine ⟨powerOnReset_leaves, fun s a b hon hstraps hboot => ?_, fun s mv hon hen hlo hhi => ?_, fun s mv hon hlo hen hrails hramp hov htherm => ?_, fun s hramp => ?_,
    fun s hlow hrails => ?_, fun s hstraps hrails hboot hphase => ?_, fun s mv hoff => ⟨?_, ?_⟩, fun s hon hen => ?_⟩
  · have hgo : exec (.strapLatch a b) s = .next (bootCheck (latched s a b)) := congrArg Host.Outcome.next (if_pos (by simp [hon, hstraps]))
    rw [bootCheck_boots ((bootable_latched s a b).trans hboot)] at hgo
    exact ⟨_, hgo, rfl, rfl, rfl, rfl⟩
  · have hlatch : (s.pwr.ovLatched && !(decide (44000 ≤ mv) && decide (mv ≤ 58000))) = false := by simp [hlo, hhi]
    refine ⟨_, (if_neg (by simp [hon])).trans (congrArg Host.Outcome.next ((if_pos (by simp [hen])).trans (if_pos (by rw [hlatch]; simp [hlo])))), ?_⟩
    exact ⟨rfl, rfl, hlatch, hlatch, rfl⟩
  · refine ⟨_, congrArg Host.Outcome.next ((if_pos (by simp [hon, hlo])).trans (if_pos (by simp [hen, hrails, hramp, hov, htherm]))), rfl, rfl⟩
  · exact congrArg Host.Outcome.next (if_pos hramp)
  · exact ⟨_, (if_pos (by simp [hlow])).trans (congrArg Host.Outcome.next (if_pos hrails)), rfl⟩
  · obtain ⟨hhub, hjobs, huart, hfail, hret, hfuse⟩ := advanceFuses_frame (broughtUp s)
    refine ⟨_, bringUpComplete_goes hstraps hrails hboot hphase, ?_, ?_, ?_, ?_, fun hle => ?_, fun hlt hready => ?_, fun hlt hready => ?_, fun hstep hno => ?_⟩
    · rw [resumeReturn_frame, hhub]
      rfl
    · rw [resumeReturn_frame, hfail]
      rfl
    · rw [resumeReturn_frame, hjobs]
      rfl
    · rw [resumeReturn_frame, huart]
      rfl
    · rw [resumeReturn_frame, advanceFuses_stays (s := broughtUp s) hle]
      exact ⟨rfl, rfl⟩
    · rw [resumeReturn_frame]
      exact advanceFuses_blows (s := broughtUp s) hlt hready
    · rw [resumeReturn_frame]
      exact advanceFuses_waits (s := broughtUp s) hlt hready
    · exact resumeReturn_resumes (by rw [hret]; exact hstep) (by rw [hfuse]; exact hno)
  · exact if_pos (by simp [hoff])
  · exact if_pos (by simp [hoff])
  · exact ⟨_, (if_neg (by simp [hon])).trans (congrArg Host.Outcome.next (if_pos hen)), rfl, rfl, rfl, rfl, rfl, rfl, rfl⟩

/-! ### The supply (16 R463 to R468) -/

/-- The divisor that is demanded. -/
def demanded (s : State) : Nat := max (max s.pwr.divSupply s.pwr.divPair) (max s.pwr.divPower s.pwr.divCooling)

theorem setDivisor_divisor (s : State) (cause : Nat) : (setDivisor s cause).pwr.divisor = demanded s := by
  unfold setDivisor demanded
  dsimp only
  split
  next h => exact h.symm
  next => rfl

/-- A change of the divisor leaves all but the divisor and the record of it. -/
theorem setDivisor_frame (s : State) (cause : Nat) : setDivisor s cause = { s with free := (setDivisor s cause).free, mgmt := (setDivisor s cause).mgmt, out := (setDivisor s cause).out,
                                                                                   pwr := { s.pwr with divisor := (setDivisor s cause).pwr.divisor,
                                                                                                       alertLow := (setDivisor s cause).pwr.alertLow } } ∧
    (setDivisor s cause).mgmt.cfgNv = s.mgmt.cfgNv := by
  unfold setDivisor
  dsimp only
  split <;> exact ⟨rfl, rfl⟩

/-- What the end of writes to NV leaves. -/
theorem nvEnds_frame (s : State) (i : NvItem) (b : Prop) [Decidable b] : let t := if b then nvRevert (draw s) i else nvDone (draw s) i
    t.jobs = s.jobs ∧ t.pwr = s.pwr ∧ t.mem.bytes = s.mem.bytes ∧ t.clk = s.clk := by
  dsimp only
  split
  · cases i <;> exact ⟨rfl, rfl, rfl, rfl⟩
  · cases i <;> exact ⟨rfl, rfl, rfl, rfl⟩

theorem abortNv_frame (s : State) : (abortNv s).jobs = s.jobs ∧ (abortNv s).pwr = { s.pwr with nvBusy := [] } ∧ (abortNv s).mem.bytes = s.mem.bytes := by
  have hfold : ∀ (l : List (NvItem × Nat)) (u : State), let t := l.foldl (fun s w =>
      if s.clk.now < w.2 + nvWriteNs && drawn s % 2 = 1 then nvRevert (draw s) w.1 else nvDone (draw s) w.1) u
      t.jobs = u.jobs ∧ t.pwr = u.pwr ∧ t.mem.bytes = u.mem.bytes := fun l => by
    induction l with
    | nil => exact fun _ => ⟨rfl, rfl, rfl⟩
    | cons w l ih =>
      intro u
      obtain ⟨hj, hp, hm, -⟩ := nvEnds_frame u w.1 ((u.clk.now < w.2 + nvWriteNs && drawn u % 2 = 1) = true)
      obtain ⟨hj', hp', hm'⟩ := ih (if u.clk.now < w.2 + nvWriteNs && drawn u % 2 = 1 then nvRevert (draw u) w.1 else nvDone (draw u) w.1)
      exact ⟨hj'.trans hj, hp'.trans hp, hm'.trans hm⟩
  exact hfold s.pwr.nvBusy.reverse { s with pwr := { s.pwr with nvBusy := [] } }

theorem abortNv_idle (h : s.pwr.nvBusy = []) : abortNv s = s := by
  unfold abortNv
  rw [h, List.reverse_nil, List.foldl_nil, ← h]

/-- The input falls below UV-warn. -/
def warned (s : State) (mv : Nat) : State :=
  { abortNv s with pwr := { (abortNv s).pwr with uvWarn := true, uvWarnSince := s.clk.now, inputMv := mv, divSupply := 2 } }

theorem uvWarn_goes (hon : s.pwr.hubOn = true) (hok : s.pwr.uvWarn = false) (mv : Nat) : exec (.uvWarn mv) s = .next (setDivisor (warned s mv) 1) :=
  congrArg Host.Outcome.next (if_pos (by simp [hon, hok]))

/-- Fuses that a retry of the waiting writes blows. -/
theorem fusesNow_items (l : List NvItem) (h : ∀ i ∈ l, ∀ n, i ≠ .fuses n) (s : State) : fusesNow (l.foldl nvWrite s) = fusesNow s := by
  induction l generalizing s with
  | nil => rfl
  | cons i l ih =>
    rw [List.foldl_cons, ih fun k hk => h k (List.mem_cons_of_mem _ hk)]
    unfold fusesNow nvWrite
    rw [List.foldl_append]
    cases i with
    | fuses n => exact absurd rfl (h _ (List.mem_cons_self ..) n)
    | _ => rfl

theorem nvWrites_frame (l : List NvItem) (s : State) : l.foldl nvWrite s = { s with pwr := { s.pwr with nvBusy := (l.foldl nvWrite s).pwr.nvBusy } } := by
  induction l generalizing s with
  | nil => rfl
  | cons i l ih =>
    rw [List.foldl_cons, ih]
    rfl

/-- The state after the waiting writes to NV have begun, with the writes that are then under way (16 R465). -/
def flushed (s : State) (busy : List (NvItem × Nat)) : State :=
  { s with
    pwr := { s.pwr with nvBusy := busy }
    mem := { s.mem with unsaved := [], unlogged := [], repairLog := s.mem.repairLog.map fun r : Nat × Bool => (r.1, r.2 || s.mem.unlogged.contains (r.1, true)) }
    mgmt := { s.mgmt with cfgNv := s.mgmt.cfgUnsaved.getD s.mgmt.cfgNv, cfgUnsaved := none, critUnsaved := [],
                          nvCritical := newestCritical (s.mgmt.nvCritical ++ s.mgmt.critUnsaved) }
    fab := { s.fab with nvStation := s.fab.stationUnsaved.getD s.fab.nvStation, stationUnsaved := none } }

/-- The items of a retry: the fuses come last. -/
def retried (s : State) : List NvItem :=
  s.mem.unsaved.map (fun f => NvItem.frame f.1 f.2) ++ s.mem.unlogged.map (fun r => NvItem.repair r.1 r.2) ++
    (s.mgmt.cfgUnsaved.map fun _ => NvItem.cfg s.mgmt.cfgNv).toList ++ (s.fab.stationUnsaved.map fun _ => NvItem.station s.fab.nvStation).toList

theorem retried_no_fuses (s : State) : ∀ i ∈ retried s, ∀ n, i ≠ .fuses n := by
  intro i hi n
  simp only [retried, List.mem_append, List.mem_map, Option.mem_toList, Option.map_eq_some_iff] at hi
  rcases hi with ((⟨_, _, rfl⟩ | ⟨_, _, rfl⟩) | ⟨_, _, rfl⟩) | ⟨_, _, rfl⟩ <;> simp

theorem flushNv_goes (s : State) : ∃ busy, flushNv s = s.fw.fusePending.elim (flushed s busy) (fun n => health { flushed s busy with fw := { s.fw with fusePending := none } }
      { code := 0x0702, severity := 0, value := n }) ∧ fusesNow (flushed s busy) = max (fusesNow s) (s.fw.fusePending.getD 0) := by
  have hframe := nvWrites_frame (retried s ++ (s.fw.fusePending.map NvItem.fuses).toList) s
  refine ⟨((retried s ++ (s.fw.fusePending.map NvItem.fuses).toList).foldl nvWrite s).pwr.nvBusy, ?_, ?_⟩
  · have hgo : flushNv s = (
        let u := (retried s ++ (s.fw.fusePending.map NvItem.fuses).toList).foldl nvWrite s
        let u := { u with
          mem := { u.mem with unsaved := [], unlogged := [], repairLog := s.mem.repairLog.map fun r : Nat × Bool => (r.1, r.2 || s.mem.unlogged.contains (r.1, true)) }
          mgmt := { u.mgmt with cfgNv := u.mgmt.cfgUnsaved.getD u.mgmt.cfgNv, cfgUnsaved := none, nvCritical := newestCritical (u.mgmt.nvCritical ++ u.mgmt.critUnsaved)
                                critUnsaved := [] }
          fab := { u.fab with nvStation := u.fab.stationUnsaved.getD u.fab.nvStation, stationUnsaved := none } }
        match u.fw.fusePending with
        | none => u
        | some n => health { u with fw := { u.fw with fusePending := none } } { code := 0x0702, severity := 0, value := n }) := rfl
    rw [hgo, hframe]
    dsimp only
    cases s.fw.fusePending <;> rfl
  · have hfuses : fusesNow (flushed s ((retried s ++ (s.fw.fusePending.map NvItem.fuses).toList).foldl nvWrite s).pwr.nvBusy) =
        fusesNow ((retried s ++ (s.fw.fusePending.map NvItem.fuses).toList).foldl nvWrite s) := by
      conv_rhs => rw [hframe]
      rfl
    rw [hfuses, List.foldl_append]
    have hkept := fusesNow_items (retried s) (retried_no_fuses s) s
    cases s.fw.fusePending with
    | none => exact hkept.trans (Nat.max_zero _).symm
    | some n => exact (fusesNow_nvWrite _ n).trans (congrArg (max · n) hkept)

/-- The input has recovered (16 R466). -/
def recovered (s : State) (us : Nat) : State :=
  { advance s (s.pwr.uvWarnSince + us * 1000) with
    pwr := { s.pwr with uvWarn := false, nvStop := false, aboveWarnSince := max s.clk.now (s.pwr.uvWarnSince + us * 1000), inputMv := 43500, divSupply := 1 } }

theorem sag_goes (hwarn : s.pwr.uvWarn = true) (us mv : Nat) : exec (.sag us mv) s =
    .next (health (setDivisor (recovered s us) 1) { code := 0x0801, severity := 1, value := satTo 32 us * 2 ^ 32 + satTo 16 mv }) :=
  congrArg Host.Outcome.next (if_pos hwarn)

/-- Settles O59: each event by what it sets, with the writes to NV that it meets or retries. -/
theorem supplyEvents : Obligations.SupplyEvents := by
  unfold Obligations.SupplyEvents
  refine ⟨fun s mv hon hok => ?_, fun s us mv hwarn => ?_, fun s hon hwarn => congrArg Host.Outcome.next (if_pos (by simp [hon, hwarn])),
    fun s hstop => congrArg Host.Outcome.next (if_pos hstop), fun s hon hok hstop hmv hnone => ?_, fun s hon => ?_, fun s mv hon => ?_⟩
  · obtain ⟨hframe, hcfg⟩ := setDivisor_frame (warned s mv) 1
    obtain ⟨hjobs, hpwr, hbytes⟩ := abortNv_frame s
    refine ⟨_, uvWarn_goes hon hok mv, ?_, ?_, ?_, ?_, ?_, ?_, ?_, ?_, fun hidle => ⟨?_, ?_, ?_⟩⟩
    · rw [hframe]
      rfl
    · rw [hframe]
      rfl
    · rw [setDivisor_divisor]
      exact (le_max_left 2 _).trans (le_max_left _ _)
    · rw [hframe]
      rfl
    · rw [hframe]
      rfl
    · rw [hframe]
      exact hjobs
    · rw [hframe]
      exact congrArg (fun p => p.nvBusy) hpwr
    · rw [hframe]
      exact hbytes
    · rw [hframe]
      exact (congrArg State.mem (abortNv_idle hidle) :)
    · rw [hcfg]
      exact (congrArg (fun s : State => s.mgmt.cfgNv) (abortNv_idle hidle) :)
    · rw [hframe]
      exact (congrArg State.fw (abortNv_idle hidle) :)
  · obtain ⟨hframe, -⟩ := setDivisor_frame (recovered s us) 1
    refine ⟨_, _, sag_goes hwarn us mv, ?_, ?_, ?_, ?_, Health.health_ring _ _, rfl, ?_, ?_⟩
    · rw [health_pwr, hframe]
      rfl
    · rw [health_pwr, hframe]
      rfl
    · rw [health_pwr, hframe]
      rfl
    · rw [health_pwr]
      exact setDivisor_divisor (recovered s us) 1
    · rw [health_jobs, hframe]
      rfl
    · rw [health_mem, hframe]
      rfl
  · have hgo : exec .nvWriteRetry s = .next (stageWaiting (flushNv (advance s (s.pwr.aboveWarnSince + 10000000)))) :=
      congrArg Host.Outcome.next (if_pos (by simp [hon, hok, hstop, hmv]))
    obtain ⟨busy, hflush, hfuses⟩ := flushNv_goes (advance s (s.pwr.aboveWarnSince + 10000000))
    have hstage : stageWaiting (flushNv (advance s (s.pwr.aboveWarnSince + 10000000))) = flushNv (advance s (s.pwr.aboveWarnSince + 10000000)) := by
      have hcontent : (flushNv (advance s (s.pwr.aboveWarnSince + 10000000))).fw.content = none := by
        rw [hflush]
        cases (advance s (s.pwr.aboveWarnSince + 10000000)).fw.fusePending <;> exact hnone
      rw [stageWaiting, hcontent, Option.elim_none]
    rw [hstage, hflush] at hgo
    refine ⟨_, hgo, ?_⟩
    cases hpend : (advance s (s.pwr.aboveWarnSince + 10000000)).fw.fusePending with
    | none =>
      rw [hpend] at hfuses
      have hpend' : s.fw.fusePending = none := hpend
      rw [hpend']
      exact ⟨rfl, rfl, rfl, rfl, rfl, hpend, hfuses, rfl, rfl⟩
    | some n =>
      rw [hpend] at hfuses
      have hpend' : s.fw.fusePending = some n := hpend
      rw [hpend']
      exact ⟨rfl, rfl, rfl, rfl, rfl, rfl, hfuses, rfl, rfl⟩
  · exact ⟨_, congrArg Host.Outcome.next (if_pos hon), rfl, rfl, rfl, rfl, rfl, rfl⟩
  · refine ⟨_, _, congrArg Host.Outcome.next (if_pos hon), rfl, rfl, rfl, Health.health_ring _ _, rfl, rfl, rfl⟩

end Sys2Proof.Power
end

section
/-! Warm restarts of Ohmub (16 R475, R476; 15 R441). -/

namespace Sys2Proof.Power

open Sys2Proof Sys2Proof.Machine Sys2Proof.Laws Sys2Proof.Completion

variable {s t u : State}

/-! ### Jobs that stay open -/

theorem mem_keys_iff {α : Type} (l : Tbl α) (k : Nat) : k ∈ l.map Prod.fst ↔ (tget l k).isSome = true := by
  induction l with
  | nil => simp
  | cons c l ih =>
    rw [List.map_cons, List.mem_cons, tget, ih]
    by_cases hc : c.1 = k
    · simp [hc]
    · simp [hc, Ne.symm hc]

theorem keys_pairwise {α : Type} {l : Tbl α} (h : rising l = true) : (l.map Prod.fst).Pairwise (· < ·) := by
  induction l with
  | nil => exact .nil
  | cons c l ih =>
    obtain ⟨habove, hr⟩ := (rising_cons _ _).1 h
    refine List.pairwise_cons.2 ⟨fun k hk => ?_, ih hr⟩
    obtain ⟨q, hq, rfl⟩ := List.mem_map.1 hk
    exact habove q hq

/-- Two tables whose keys rise and that list the same keys have the same keys in order. -/
theorem keys_eq {α β : Type} {a : Tbl α} {b : Tbl β} (ha : rising a = true) (hb : rising b = true) (h : ∀ k, (tget a k).isSome = (tget b k).isSome) :
    a.map Prod.fst = b.map Prod.fst := by
  have hpa := keys_pairwise ha
  have hpb := keys_pairwise hb
  refine List.Perm.eq_of_pairwise (fun x y _ _ hxy hyx => absurd hxy (Nat.lt_asymm hyx)) hpa hpb ?_
  refine (List.perm_ext_iff_of_nodup (hpa.imp Nat.ne_of_lt) (hpb.imp Nat.ne_of_lt)).2 fun k => ?_
  rw [mem_keys_iff, mem_keys_iff, h]

/-- The same jobs are open, and the firmware side is as it was. -/
structure SameJobs (s t : State) : Prop where
  fw : t.fw = s.fw
  ok : jobsOk s.jobs = true → jobsOk t.jobs = true
  jobs : jobsOk s.jobs = true → ∀ i, (jobOf t i).isSome = (jobOf s i).isSome

theorem SameJobs.refl (s : State) : SameJobs s s := ⟨rfl, id, fun _ _ => rfl⟩

theorem SameJobs.trans (h : SameJobs s t) (k : SameJobs t u) : SameJobs s u where
  fw := k.fw.trans h.fw
  ok := k.ok ∘ h.ok
  jobs hj i := (k.jobs (h.ok hj) i).trans (h.jobs hj i)

theorem SameJobs.foldl {α : Type} {f : State → α → State} (hf : ∀ s x, SameJobs s (f s x)) (l : List α) (s : State) : SameJobs s (l.foldl f s) := by
  induction l generalizing s with
  | nil => exact .refl s
  | cons x l ih => exact (hf s x).trans (ih _)

theorem SameJobs.of_eq (hfw : t.fw = s.fw) (hjobs : t.jobs = s.jobs) : SameJobs s t :=
  ⟨hfw, fun hj => by rwa [hjobs], fun _ i => by rw [jobOf, hjobs, jobOf]⟩

theorem Told.sameJobs (h : Told s t) : SameJobs s t where
  fw := by rw [h.frame]
  ok := h.ok
  jobs hj i := by simpa using congrArg Option.isSome (h.jobs hj i)

theorem sameJobs_updJob (s : State) (n : Nat) {f : Job → Job} (hf : ∀ j, (f j).id = j.id) : SameJobs s (updJob s n f) where
  fw := updJob_fw ..
  ok hj := jobsOk_updJob hj n f
  jobs hj i := by simpa using congrArg Option.isSome (jobOf_updJob_view (fun _ => ()) hj hf (fun _ => rfl) n i)

theorem sameJobs_publish (s : State) (a : Active) (st : Nat) : SameJobs s (publish s a st) := by
  unfold publish
  extract_lets s1 s2 live s3
  have h1 : SameJobs s s1 := .of_eq rfl rfl
  have h2 : SameJobs s s2 := by
    unfold s2
    split
    · exact h1.trans (.of_eq (wrBytes_fw ..) (wrBytes_jobs ..))
    · exact h1
  have h3 : SameJobs s s3 := by
    unfold s3
    split
    · exact h2.trans (sameJobs_updJob s2 a.job fun _ => rfl)
    · exact h2
  split
  · exact h1
  · split
    · exact h3.trans (Told.sameJobs (told_sendVector ..))
    · exact h3

theorem sameJobs_completeWith (s : State) (a : Active) (st : Nat) : SameJobs s (completeWith s a st) := by
  unfold completeWith
  extract_lets s1 s2 late n s3 s4 after l s5 l' s6 s7 s8 s9
  have h1 : SameJobs s s1 := by
    unfold s1 accrue
    exact sameJobs_updJob s a.job fun _ => rfl
  have h2 : SameJobs s s2 := h1.trans (sameJobs_publish ..)
  have h4 : SameJobs s s4 := by
    refine SameJobs.trans (t := s3) (h2.trans (.of_eq rfl rfl)) ?_
    unfold s4
    exact sameJobs_updJob s3 a.job fun _ => rfl
  have h6 : SameJobs s s6 := by
    refine h4.trans ((SameJobs.of_eq (t := s5) ?_ ?_).trans (.of_eq ?_ ?_))
    · unfold s5; split <;> rfl
    · unfold s5; split <;> rfl
    · unfold s6; split <;> rfl
    · unfold s6; split <;> rfl
  have hid : ∀ j : Job, (settleRecords j a.sid).id = j.id := fun j => by
    rw [settleRecords_frame]
  have h7 : SameJobs s6 s7 := sameJobs_updJob s6 a.job hid
  have h9 : SameJobs s s9 := SameJobs.trans (t := s7) (h6.trans h7) (.of_eq rfl rfl)
  refine .trans ?_ (Told.sameJobs (told_judgeAll _))
  split
  · exact h9
  · refine h9.trans (.of_eq ?_ ?_)
    · rw [releaseSlot_frame]
    · rw [releaseSlot_frame]

theorem sameJobs_saveQueue (s : State) (n : Nat) (q : Queue) : SameJobs s (saveQueue s n q) := .of_eq (saveQueue_fw ..) (saveQueue_jobs ..)

theorem sameJobs_haltJob (s : State) (job : Nat) : SameJobs s (haltJob s job) := by
  unfold haltJob
  cases hj : jobOf s job with
  | none => exact .refl s
  | some j =>
    dsimp only
    split
    · exact .refl s
    have hput : SameJobs s (putJob s { j with halted := true }) := by
      have hupd : putJob s { j with halted := true } = updJob s job fun j => { j with halted := true } := by
        rw [updJob, hj]
        rfl
      rw [hupd]
      exact sameJobs_updJob s job fun _ => rfl
    refine hput.trans (.foldl (fun s q => ?_) _ _)
    unfold haltQueue
    dsimp only
    split
    · exact (SameJobs.of_eq (rejectRecord_fw ..) (rejectRecord_jobs ..)).trans (sameJobs_saveQueue ..)
    · exact sameJobs_saveQueue ..

theorem sameJobs_abortUnstarted (s : State) (p : Active → Bool) : SameJobs s (abortUnstarted s p) :=
  SameJobs.trans (t := { s with acts := s.acts.map fun a => if p a && a.started.isSome then { a with marks := { a.marks with mute := true } } else a })
    (.of_eq rfl rfl) (.foldl (fun s a => sameJobs_completeWith s a stAborted) _ _)

theorem sameJobs_keepHalted (s : State) (job : Nat) : SameJobs s (keepHalted s job) := by
  unfold keepHalted
  refine .trans ?_ (sameJobs_updJob _ job fun _ => rfl)
  refine .trans ?_ (.foldl (fun s q => ?_) _ _)
  · exact ((sameJobs_haltJob s job).trans (sameJobs_abortUnstarted ..)).trans (.foldl (fun _ _ => sameJobs_completeWith ..) _ _)
  · split
    · exact .refl s
    · exact sameJobs_saveQueue ..

theorem sameJobs_preserveJobs (s : State) : SameJobs s (preserveJobs s) := .foldl sameJobs_keepHalted _ _

/-! ### What a warm restart leaves -/

/-- The check of the image at a boot: which slot runs, and the record of it. -/
theorem bootCheck_frame (s : State) : (bootCheck s).hub = { s.hub with bootFailed := (bootCheck s).hub.bootFailed } ∧ (bootCheck s).fw.fuses = s.fw.fuses ∧
    (bootCheck s).jobs = s.jobs ∧ (bootCheck s).acts = s.acts ∧ (bootCheck s).mem = s.mem ∧ (bootCheck s).mgmt.sessions = s.mgmt.sessions := by
  unfold bootCheck
  dsimp only
  split_ifs <;> exact ⟨rfl, rfl, rfl, rfl, rfl, rfl⟩

theorem closeJobs_fw (s : State) : (closeJobs s).fw = s.fw := by
  have hfold : ∀ (l : Tbl Job) (s : State), (l.foldl (fun s j => startZero s (some j.1) (zeroRanges j.2.windows)) s).fw = s.fw := fun l => by
    induction l with
    | nil => exact fun _ => rfl
    | cons j l ih => exact fun s => (ih _).trans rfl
  unfold closeJobs
  extract_lets a b
  have hb : b.fw = a.fw := by
    unfold b
    split <;> rfl
  exact hb.trans (hfold s.jobs s)

/-- Ohmub and its memory start afresh, with the jobs that stay. -/
def restarted (s : State) : State :=
  let f := s.fab
  { s with
    lag := {}, shadows := [], test := freshTest s, nibs := { s.nibs with marks := [], panelStopped := [] }
    mem := { s.mem with scrub := 0, scrubStart := s.clk.now, scrubStroke := strokeNow s, rowErrs := [], reqs := [], jobOpened := false }
    fab := { f with ports := coldPorts s, stationSet := false, portEn := 0
                    trans := [], waiting := [], held := [], reds := [], rx := [], arrived := [], inbox := [] }
    pair := { s.pair with drains := [], frags := [], heldJournal := [], received := [] }
    hub := { s.hub with phase := startPhase s, pages := s.hub.pages.map (fun p => (p.1, restartPage p.2)), staging := []
                        longOps := s.hub.longOps.filter (fun o => o.kind == 8 || (o.kind == 7 && o.state == 1)), pstate := 0, drowsePage := none
                        streams := s.hub.streams.filter fun c => c.use == .route }
    mgmt := { s.mgmt with sessions := [], spdmI3c := {}, spdmSgmii := {}, tunnel := [], uartOn := false }
    fw := { s.fw with staging := false, stagingPldm := false, stagedPack := none, received := 0 } }

theorem warmRestart_eq (s : State) : warmRestart s = bootCheck (restarted (defaultStrokes (if s.hub.preserve then preserveJobs s else closeJobs s))) := rfl

theorem warmRestart_leaves (s : State) : (warmRestart s).hub.phase = startPhase s ∧ (warmRestart s).hub.pstate = 0 ∧ (warmRestart s).mgmt.sessions = [] ∧
    (warmRestart s).hub.staging = [] ∧ (warmRestart s).fw.fuses = s.fw.fuses := by
  have hfw : (if s.hub.preserve then preserveJobs s else closeJobs s).fw = s.fw := by
    split
    · exact (sameJobs_preserveJobs s).fw
    · exact closeJobs_fw s
  obtain ⟨hhub, hfuses, -, -, -, hsess⟩ := bootCheck_frame (restarted (defaultStrokes (if s.hub.preserve then preserveJobs s else closeJobs s)))
  rw [warmRestart_eq, hhub, hfuses, hsess]
  exact ⟨congrArg (fun f : Fw => if f.returnFuse then (2 : BitVec 2) else 0) hfw, rfl, rfl, rfl, (congrArg (fun f : Fw => f.fuses) hfw :)⟩

theorem warmRestart_closes (h : s.hub.preserve = false) : (warmRestart s).jobs = [] ∧ (warmRestart s).acts = [] ∧ (warmRestart s).mem.bytes = [] := by
  obtain ⟨-, -, hjobs, hacts, hmem, -⟩ := bootCheck_frame (restarted (defaultStrokes (closeJobs s)))
  rw [warmRestart_eq, if_neg (by simp [h]), hjobs, hacts, hmem]
  exact ⟨rfl, rfl, rfl⟩

theorem warmRestart_preserves (h : s.hub.preserve = true) (hj : jobsOk s.jobs = true) : (warmRestart s).jobs.map Prod.fst = s.jobs.map Prod.fst := by
  obtain ⟨-, -, hjobs, -, -, -⟩ := bootCheck_frame (restarted (defaultStrokes (preserveJobs s)))
  have hsame := sameJobs_preserveJobs s
  rw [warmRestart_eq, if_pos h, hjobs]
  exact keys_eq ((jobsOk_iff _).1 (hsame.ok hj)).1 ((jobsOk_iff _).1 hj).1 (hsame.jobs hj)

/-- Settles O58: what a restart leaves, and each cause of one. -/
theorem warmRestarts : Obligations.WarmRestarts := by
  unfold Obligations.WarmRestarts
  refine ⟨fun s => ?_, fun s hperst => if_neg (by simp [hperst]), fun s hon => congrArg Host.Outcome.next (if_pos hon), fun s hon hstraps hphase => ?_,
    fun s hon hstraps hphase hfew => ?_, fun s hon hstraps hphase hmany hboot => ?_⟩
  · obtain ⟨hphase, hpstate, hsess, hstaging, hfuses⟩ := warmRestart_leaves s
    exact ⟨_, rfl, hphase, hpstate, hsess, hstaging, warmRestart_closes, warmRestart_preserves, hfuses⟩
  · exact congrArg Host.Outcome.next ((if_pos (by simp [hon, hstraps])).trans (congrArg warmRestart (if_pos (by simpa using hphase))))
  · refine congrArg Host.Outcome.next ((if_pos (by simp [hon, hstraps])).trans (congrArg warmRestart ((if_neg (by simp [hphase])).trans (if_neg ?_))))
    rw [decide_eq_false (by omega), Bool.false_and]
    decide
  · refine congrArg Host.Outcome.next ((if_pos (by simp [hon, hstraps])).trans (congrArg warmRestart ((if_neg (by simp [hphase])).trans (if_pos ?_))))
    rw [hboot, decide_eq_true (by omega)]
    rfl

end Sys2Proof.Power
end

section
/-! The flit that an UP port sends (11 R319 to R321). -/

namespace Sys2Proof.Links

open Sys2Proof Sys2Proof.Machine Sys2Proof.Laws

variable {s t u : State} {p k port q : Nat} {x y : Port} {f g : Flit}

/-! ### A flit that leaves -/

/-- A flit as it leaves a port: with what the port has taken, the credits that it returns, and its CRC. -/
def leaving (x : Port) (f : Flit) : Flit :=
  let owed := x.creditsOwed.find? fun c => c.2 != 0
  sealFlit { f with fack := (x.expectFseq + 4095) % 4096, crVl := owed.elim 0 (·.1), crN := owed.elim 0 fun c => min c.2 4095 }

/-- A port that has sent a flit. -/
def emitted (x : Port) (f : Flit) : Port :=
  let owed := x.creditsOwed.find? fun c => c.2 != 0
  { x with creditsOwed := owed.elim x.creditsOwed fun c => tset x.creditsOwed c.1 (c.2 - owed.elim 0 fun c => min c.2 4095),
           sinceCtrl := if f.kind == .ctrl then 0 else x.sinceCtrl + 1 }

theorem emitFlit_eq (s : State) (p : Nat) (x : Port) (f : Flit) :
    emitFlit s p x f = { putPort s p (emitted x f) with out := { s.out with flits := s.out.flits ++ [(p, leaving x f)] } } := rfl

/-- What a flit says of itself stays as it leaves. -/
theorem leaving_says (x : Port) (f : Flit) : (leaving x f).kind = f.kind ∧ (leaving x f).ctrl = f.ctrl ∧ (leaving x f).vl = f.vl ∧ (leaving x f).fseq = f.fseq ∧
    (leaving x f).hdr = f.hdr ∧ (leaving x f).payload = f.payload := by
  unfold leaving sealFlit
  exact ⟨rfl, rfl, rfl, rfl, rfl, rfl⟩

theorem flitPayload_crc (f : Flit) (c : Word32) : flitPayload { f with crc := c } = flitPayload f := rfl

theorem flitCrc_crc (f : Flit) (c : Word32) : flitCrc { f with crc := c } = flitCrc f := by
  unfold flitCrc flitBody
  rw [flitPayload_crc]

theorem leaving_crc (x : Port) (f : Flit) : (leaving x f).crc = flitCrc (leaving x f) := (flitCrc_crc _ _).symm

theorem portOf_emitFlit_self (s : State) (p : Nat) (x : Port) (f : Flit) : portOf (emitFlit s p x f) p = emitted x f := portOf_putPort_self ..

theorem portOf_emitFlit_ne (s : State) (h : k ≠ p) (x : Port) (f : Flit) : portOf (emitFlit s p x f) k = portOf s k := portOf_putPort_ne _ _ _ _ h

theorem sentAgain_eq (h : tgetD (portOf s p).sent q 0 < 15) :
    sentAgain s p q = putPort s p { portOf s p with sent := tset (portOf s p).sent q (tgetD (portOf s p).sent q 0 + 1) } := by
  unfold sentAgain
  exact if_neg (by omega)

/-- One flit leaves a port: nothing else leaves, and no other port changes. -/
structure FlitOut (s : State) (port : Nat) (x : Port) (t : State) (f : Flit) : Prop where
  flits : t.out.flits = s.out.flits ++ [(port, f)]
  fack : f.fack = (x.expectFseq + 4095) % 4096
  crc : f.crc = flitCrc f
  frame : t = { s with fab := t.fab, pair := t.pair, out := t.out }
  others : ∀ k, k ≠ port → portOf t k = portOf s k

theorem flitOut_emit (hu : u = { s with pair := u.pair }) (hx : y.expectFseq = x.expectFseq) (f : Flit) : FlitOut s port x (emitFlit u port y f) (leaving y f) where
  flits := by
    rw [hu]
    rfl
  fack := congrArg (fun n => (n + 4095) % 4096) hx
  crc := leaving_crc y f
  frame := by
    rw [hu]
    rfl
  others k hk := by
    rw [portOf_emitFlit_ne u hk, hu]
    rfl

theorem FlitOut.again (h : FlitOut s port x t f) (hn : tgetD (portOf t port).sent q 0 < 15) : FlitOut s port x (sentAgain t port q) f where
  flits := by
    rw [sentAgain_eq hn]
    exact h.flits
  fack := h.fack
  crc := h.crc
  frame := by
    rw [sentAgain_eq hn]
    conv_lhs => rw [h.frame]
    rfl
  others k hk := by
    rw [sentAgain_eq hn, portOf_putPort_ne _ _ _ _ hk]
    exact h.others k hk

theorem portOf_sentAgain_self (hn : tgetD (portOf s p).sent q 0 < 15) :
    portOf (sentAgain s p q) p = { portOf s p with sent := tset (portOf s p).sent q (tgetD (portOf s p).sent q 0 + 1) } := by
  rw [sentAgain_eq hn, portOf_putPort_self]

/-! ### The lane that is next -/

theorem laneReady_holds (h : laneReady s x k = true) : laneNow s x k ≠ [] := by
  simp only [laneReady, Bool.and_eq_true] at h
  obtain ⟨⟨hout, -⟩, hlets⟩ := h
  unfold laneNow
  by_cases h4 : k = 4
  · subst h4
    rw [if_pos rfl]
    intro hnil
    simp [bucketLets, laneNow, hnil] at hlets
  · rw [if_neg h4]
    simpa using hout

theorem nextLane_ready {r : Nat × Nat × Nat} (h : nextLane s x = some r) : laneReady s x r.1 = true := by
  unfold nextLane at h
  split at h
  next h0 => cases h; exact h0
  split at h
  next h1 => cases h; exact h1
  split at h
  next h2 =>
    cases h
    exact (Bool.and_eq_true .. |>.mp h2).2
  unfold roundRobin at h
  dsimp only at h
  split at h
  next hw =>
    cases h
    exact (Bool.and_eq_true .. |>.mp hw).2
  · simp only [Option.orElse_none] at h
    obtain ⟨i, hi, rfl⟩ := Option.map_eq_some_iff.1 h
    exact List.find?_some (p := fun i => laneReady s x (i + 2)) hi

theorem bucketTake_frame (s : State) (k : Nat) (f : Flit) : bucketTake s k f = { s with pair := (bucketTake s k f).pair } := by
  unfold bucketTake
  split <;> rfl

/-- A data flit of a lane with its sequence number (11 R319). -/
def stamped (x : Port) (vl : Nat) (g : Flit) : Flit := { g with vl := vl, fseq := x.nextFseq }

/-- A port that sends a data flit of a lane, with the round robin's turn after it. -/
def served (x : Port) (r : Nat × Nat × Nat) (g : Flit) (rest : List Flit) : Port :=
  { x with
    lanes := tset x.lanes r.1 rest, nextFseq := (x.nextFseq + 1) % 4096, retry := x.retry ++ [stamped x r.1 g], wrr := r.2.1, wrrUsed := r.2.2
    credits := tadj x.credits r.1 0 (· - 1) }

/-! ### The order of the kinds (11 R319, R321) -/

section Order

variable (hx : portOf s port = x) (hup : x.lstate = .up)
include hx hup

theorem flitSend_ctrl {c : LinkCtrl} {rest : List LinkCtrl} (hc : x.ctrlOut = c :: rest) :
    exec (.flitSend port) s = .next (emitFlit s port { x with ctrlOut := rest } (bareFlit .ctrl c)) := by
  show execFlitSend port s = _
  unfold execFlitSend
  rw [hx]
  dsimp only
  rw [if_neg (by simp [hup]), hc]

theorem flitSend_due (hc : x.ctrlOut = []) (hdue : 127 ≤ x.sinceCtrl) : exec (.flitSend port) s = .next (emitFlit s port x (bareFlit .ctrl .none)) := by
  show execFlitSend port s = _
  unfold execFlitSend
  rw [hx]
  dsimp only
  rw [if_neg (by simp [hup]), hc]
  dsimp only
  rw [if_pos hdue]

variable (hc : x.ctrlOut = []) (hdue : x.sinceCtrl < 127)
include hc hdue

theorem flitSend_resend {rest : List Flit} (hr : x.resend = g :: rest) :
    exec (.flitSend port) s = .next (sentAgain (emitFlit s port { x with resend := rest } g) port g.fseq) := by
  show execFlitSend port s = _
  unfold execFlitSend
  rw [hx]
  dsimp only
  rw [if_neg (by simp [hup]), hc]
  dsimp only
  rw [if_neg (by omega), hr]

theorem flitSend_idle (hr : x.resend = []) (hno : 2048 ≤ x.retry.length ∨ nextLane s x = none) :
    exec (.flitSend port) s = .next (emitFlit s port x (bareFlit .idle .none)) := by
  have hnone : (if x.retry.length < 2048 then nextLane s x else none) = none := by
    split
    next hlt => exact hno.resolve_left (by omega)
    next => rfl
  show execFlitSend port s = _
  unfold execFlitSend
  rw [hx]
  dsimp only
  rw [if_neg (by simp [hup]), hc]
  dsimp only
  rw [if_neg (by omega), hr]
  dsimp only
  rw [hnone]

theorem flitSend_data {r : Nat × Nat × Nat} {rest : List Flit} (hr : x.resend = []) (hroom : x.retry.length < 2048) (hlane : nextLane s x = some r)
    (hnow : laneNow s x r.1 = g :: rest) : exec (.flitSend port) s = .next (
      sentAgain (emitFlit (bucketTake s r.1 (stamped x r.1 g)) port (served x r g rest) (stamped x r.1 g)) port x.nextFseq) := by
  show execFlitSend port s = _
  unfold execFlitSend served
  rw [hx]
  dsimp only
  rw [if_neg (by simp [hup]), hc]
  dsimp only
  rw [if_neg (by omega), hr]
  dsimp only
  rw [if_pos hroom, hlane]
  dsimp only
  rw [hnow] <;> rfl

end Order

/-- Settles O28: by the order of the kinds, each with the flit that it sends. -/
theorem oneFlitLeaves : Obligations.OneFlitLeaves := by
  unfold Obligations.OneFlitLeaves
  intro s port x hx hup hsent
  cases hc : x.ctrlOut with
  | cons c rest =>
    obtain ⟨hflits, hfack, hcrc, hframe, hothers⟩ := flitOut_emit (s := s) (u := s) (port := port) (x := x) (y := { x with ctrlOut := rest }) rfl rfl (bareFlit .ctrl c)
    refine ⟨_, _, flitSend_ctrl hx hup hc, hflits, hfack, hcrc, hframe, hothers, fun c' rest' h => ?_, fun h => absurd h (by simp)⟩
    obtain ⟨rfl, rfl⟩ := List.cons.inj h
    rw [portOf_emitFlit_self]
    exact ⟨rfl, rfl, rfl, rfl⟩
  | nil =>
    by_cases hdue : 127 ≤ x.sinceCtrl
    · obtain ⟨hflits, hfack, hcrc, hframe, hothers⟩ := flitOut_emit (s := s) (u := s) (port := port) (x := x) (y := x) rfl rfl (bareFlit .ctrl .none)
      refine ⟨_, _, flitSend_due hx hup hc hdue, hflits, hfack, hcrc, hframe, hothers, fun c' rest' h => absurd h (by simp), fun _ => ⟨fun _ => ⟨rfl, ?_⟩, fun h => absurd h (by omega)⟩⟩
      rw [portOf_emitFlit_self]
      rfl
    have hdue' : x.sinceCtrl < 127 := by omega
    cases hr : x.resend with
    | cons g rest =>
      have hn : tgetD (portOf (emitFlit s port { x with resend := rest } g) port).sent g.fseq 0 < 15 := by
        rw [portOf_emitFlit_self]
        exact hsent _
      obtain ⟨hflits, hfack, hcrc, hframe, hothers⟩ := (flitOut_emit (s := s) (u := s) (port := port) (x := x) (y := { x with resend := rest }) rfl rfl g).again hn
      refine ⟨_, _, flitSend_resend hx hup hc hdue' hr, hflits, hfack, hcrc, hframe, hothers, fun c' rest' h => absurd h (by simp), fun _ => ⟨fun h => absurd h hdue,
        fun _ => ⟨fun g' rest' h => ?_, fun h => absurd h (by simp)⟩⟩⟩
      obtain ⟨rfl, rfl⟩ := List.cons.inj h
      rw [portOf_sentAgain_self hn, portOf_emitFlit_self]
      obtain ⟨-, -, -, hfseq, hhdr, hpay⟩ := leaving_says { x with resend := rest } g
      exact ⟨hfseq, hhdr, hpay, rfl⟩
    | nil =>
      by_cases hno : 2048 ≤ x.retry.length ∨ nextLane s x = none
      · obtain ⟨hflits, hfack, hcrc, hframe, hothers⟩ := flitOut_emit (s := s) (u := s) (port := port) (x := x) (y := x) rfl rfl (bareFlit .idle .none)
        refine ⟨_, _, flitSend_idle hx hup hc hdue' hr hno, hflits, hfack, hcrc, hframe, hothers, fun c' rest' h => absurd h (by simp), fun _ => ⟨fun h => absurd h hdue,
          fun _ => ⟨fun g' rest' h => absurd h (by simp), fun _ => ⟨fun _ => ⟨rfl, ?_⟩, fun r hroom hlane => ?_⟩⟩⟩⟩
        · rw [portOf_emitFlit_self]
          rfl
        · rcases hno with h | h
          · omega
          · rw [hlane] at h
            cases h
      · have hroom : x.retry.length < 2048 := by omega
        obtain ⟨r, hlane⟩ := Option.ne_none_iff_exists'.1 fun h => hno (.inr h)
        obtain ⟨g, rest, hnow⟩ := List.exists_cons_of_ne_nil (laneReady_holds (nextLane_ready hlane))
        have hgo := flitSend_data hx hup hc hdue' hr hroom hlane hnow
        have hn : tgetD (portOf (emitFlit (bucketTake s r.1 (stamped x r.1 g)) port (served x r g rest) (stamped x r.1 g)) port).sent x.nextFseq 0 < 15 := by
          rw [portOf_emitFlit_self]
          exact hsent _
        obtain ⟨hflits, hfack, hcrc, hframe, hothers⟩ := (flitOut_emit (s := s) (port := port) (x := x) (y := served x r g rest) (bucketTake_frame s r.1 (stamped x r.1 g)) rfl
          (stamped x r.1 g)).again hn
        refine ⟨_, _, hgo, hflits, hfack, hcrc, hframe, hothers, fun c' rest' h => absurd h (by simp), fun _ => ⟨fun h => absurd h hdue,
          fun _ => ⟨fun g' rest' h => absurd h (by simp), fun _ => ⟨fun h => absurd h hno, fun r' _ hlane' => ?_⟩⟩⟩⟩
        obtain rfl : r = r' := Option.some.inj (hlane.symm.trans hlane')
        obtain ⟨-, -, hvl, hfseq, hhdr, hpay⟩ := leaving_says (served x r g rest) (stamped x r.1 g)
        rw [portOf_sentAgain_self hn, portOf_emitFlit_self, hnow]
        refine ⟨hvl, hfseq, rfl, ?_, ?_, ?_, fun g' h => ?_⟩
        · exact List.length_append
        · exact (congrArg (·.getD 0) (tget_tset_self x.credits r.1 (tgetD x.credits r.1 0 - 1)) :)
        · exact (congrArg (·.getD []) (tget_tset_self x.lanes r.1 rest) :)
        · obtain rfl : g = g' := Option.some.inj h
          exact ⟨hhdr, hpay⟩

end Sys2Proof.Links
end

section
/-! Flits that arrive at a port (11 R318 to R320). -/

namespace Sys2Proof.Links

open Sys2Proof Sys2Proof.Machine Sys2Proof.Laws

variable {s t u : State} {p k port q : Nat} {x y : Port} {f g : Flit}

/-- A port whose partner has answered: what the `FACK` covers leaves the retry buffer, and its credits come back. -/
def answered (x : Port) (f : Flit) : Port := takeFack { x with credits := if f.crN = 0 then x.credits else tadj x.credits f.crVl 0 (· + f.crN) } f.fack

/-- A port that has met a bad flit, which is counted when it is a data flit. -/
def miscounted (x : Port) (f : Flit) : Port := { x with crcErr := if f.kind == .data then satInc x.crcErr else x.crcErr }

section Receive

variable (hx : portOf s port = x) (hup : x.lstate = .up)
include hx hup

theorem flitReceive_fails (hcrc : f.crc ≠ flitCrc f) : exec (.flitReceive port f ⟨false, 0⟩) s =
    .next (putPort s port (failFlit (miscounted x f))) := by
  show execFlitReceive port f ⟨false, 0⟩ s = _
  unfold execFlitReceive
  rw [hx]
  dsimp only
  rw [if_neg (by simp [hup])]
  exact congrArg Host.Outcome.next ((if_neg (by simp)).trans (if_pos (by simpa using hcrc)))

theorem flitReceive_data (hcrc : f.crc = flitCrc f) (hkind : f.kind = .data) :
    exec (.flitReceive port f ⟨false, 0⟩) s = .next (dataFlit s port (answered x f) f) := by
  show execFlitReceive port f ⟨false, 0⟩ s = _
  unfold execFlitReceive
  rw [hx]
  dsimp only
  rw [if_neg (by simp [hup])]
  refine congrArg Host.Outcome.next ((if_neg (by simp)).trans ((if_neg (by simpa using hcrc)).trans ?_))
  unfold goodFlit
  rw [hx, hkind]
  rfl

end Receive

/-- A port that has taken the flit that it expected. -/
def took (x : Port) : Port := { x with expectFseq := (x.expectFseq + 1) % 4096, discarding := false }

theorem dataFlit_next (hf : f.fseq = x.expectFseq) (h7 : f.vl ≠ 7) : dataFlit s p x f = joinFlit s p (took x) f := by
  rw [dataFlit, if_pos hf]
  exact if_neg h7

theorem dataFlit_ahead (hf : f.fseq ≠ x.expectFseq) (hahead : 2048 < (x.expectFseq + 4096 - f.fseq) % 4096) : dataFlit s p x f = putPort s p (failFlit x) := by
  rw [dataFlit, if_neg hf, if_neg (by omega)]

/-- A flit that joins its message leaves of its port all but the flits of the message that is arriving. -/
theorem joinFlit_port (h0 : f.vl ≠ 0) (s : State) (p : Nat) (x : Port) : ∃ l, portOf (joinFlit s p x f) p = { x with rx := l } := by
  unfold joinFlit
  dsimp only
  rw [if_neg h0]
  split
  · exact ⟨_, portOf_putPort_self ..⟩
  · exact ⟨_, portOf_putPort_self ..⟩

theorem joinFlit_frame (s : State) (p : Nat) (x : Port) (f : Flit) : joinFlit s p x f = { s with fab := (joinFlit s p x f).fab } := by
  unfold joinFlit
  dsimp only
  split_ifs <;> rfl

theorem joinFlit_single (h0 : f.vl ≠ 0) (hsom : f.som = true) (heom : f.eom = true) : (joinFlit s p x f).fab.arrived = s.fab.arrived ++
    [{ port := p, vl := f.vl, flits := 1, hdr := f.hdr, data := f.payload.take f.hdr.len, marks := f.marks, source := f.source }] := by
  unfold joinFlit
  dsimp only
  rw [if_neg h0, if_pos heom, if_pos hsom]
  simp [putPort]

theorem joinFlit_part (h0 : f.vl ≠ 0) (heom : f.eom = false) : (joinFlit s p x f).fab.arrived = s.fab.arrived := by
  unfold joinFlit
  dsimp only
  rw [if_neg h0, if_neg (by simp [heom])]
  rfl

theorem failFlit_discards (h : x.discarding = false) : failFlit x = { x with discarding := true, ctrlOut := x.ctrlOut ++ [.nakFor x.expectFseq] } :=
  if_neg (by simp [h])

/-- Settles O29: a flit by its CRC and its sequence number. -/
theorem flitsArrive : Obligations.FlitsArrive := by
  unfold Obligations.FlitsArrive
  refine ⟨fun s port f x hx hup hdis hcrc => ?_, fun s port f x hx hup hcrc hkind hf h0 h7 => ?_, fun s port f x hx hup hdis hcrc hkind hf hahead => ?_, fun s port fseq x hx hup => ?_⟩
  · refine ⟨_, flitReceive_fails hx hup hcrc, rfl, ?_⟩
    rw [portOf_putPort_self, failFlit_discards (x := miscounted x f) hdis]
    exact ⟨rfl, rfl, rfl, rfl⟩
  · have hgo := flitReceive_data hx hup hcrc hkind
    rw [dataFlit_next (x := answered x f) hf h7] at hgo
    obtain ⟨l, hport⟩ := joinFlit_port h0 s port (took (answered x f))
    refine ⟨_, hgo, joinFlit_frame .., ?_, ?_, ?_, fun hsom heom => joinFlit_single h0 hsom heom, fun heom => joinFlit_part h0 heom⟩
    all_goals rw [hport]
    all_goals rfl
  · have hgo := flitReceive_data hx hup hcrc hkind
    rw [dataFlit_ahead (x := answered x f) hf hahead] at hgo
    refine ⟨_, hgo, ?_⟩
    rw [portOf_putPort_self, failFlit_discards (x := answered x f) hdis]
    exact ⟨rfl, rfl, rfl⟩
  · subst hx
    refine ⟨_, congrArg Host.Outcome.next (if_pos (by simp [hup])), rfl, ?_⟩
    rw [portOf_putPort_self]
    exact ⟨rfl, rfl, fun k hk => portOf_putPort_ne _ _ _ _ hk⟩

end Sys2Proof.Links
end

section
/-! Messages that are forwarded (11 R320, R329, R333, R345). -/

namespace Sys2Proof.Links

open Sys2Proof Sys2Proof.Machine Sys2Proof.Laws

variable {s t u : State} {p k port vl : Nat} {h : MsgHdr} {data : List Byte} {x : Arrived} {o : Option Arrived}

theorem routedCredits_some (hx : s.fab.arrived.find? (fun x => x.hdr == h && x.data == data) = some x) : routedCredits s h data =
    (putPort { s with fab := { s.fab with arrived := s.fab.arrived.erase x } } x.port
      { portOf s x.port with creditsOwed := tadj (portOf s x.port).creditsOwed x.vl 0 (· + x.flits) }, some x) := by
  rw [routedCredits, hx]
  rfl

/-- What the return of the credits leaves: the messages that have arrived and the ports. -/
theorem routedCredits_frame (hu : routedCredits s h data = (u, o)) : u = { s with fab := { s.fab with ports := u.fab.ports, arrived := u.fab.arrived } } := by
  cases hx : s.fab.arrived.find? (fun x => x.hdr == h && x.data == data) with
  | none =>
    rw [routedCredits, hx] at hu
    cases hu
    rfl
  | some x =>
    rw [routedCredits_some hx] at hu
    cases hu
    rfl

section Forward

variable (hu : routedCredits s h data = (u, o)) {m : InMsg} (hvl : vl = o.elim (laneOf h.mtype) (·.vl))
  (hm : m = { hdr := h, data := data, marks := o.elim [] (·.marks), source := o.bind (·.source), die := o.elim 0 fun x => x.port / 16 })
include hu hvl hm

theorem messageForward_goes (hroom : (answersTo s h.dst && noRedRoom s h data) = false) : exec (.messageForward h data) s =
    if answersTo s h.dst then .next (deliverHere u m) else
    match routeHop u h.rdst h.hops vl none with
    | .deliver => .next (deliverHere u m)
    | .hopLimit => .next { u with fab := { u.fab with hopLimit := satInc u.fab.hopLimit } }
    | .noRoute => .next (unreachTo { u with fab := { u.fab with noRoute := satInc u.fab.noRoute } } h)
    | .port p => .next (enqueue u p vl (flitsOf { h with hops := h.hops + 1 } vl data m.marks m.source)) := by
  have hsame : answersTo u h.dst = answersTo s h.dst := by
    rw [routedCredits_frame hu]
    rfl
  show execMessageForward h data s = _
  unfold execMessageForward
  rw [hroom, if_neg (by decide), hu]
  dsimp only
  rw [hsame, ← hvl, hm] <;> rfl

end Forward

theorem routeHop_none (hans : answersTo s k = false) (hmask : routeMask s k = []) {hops : Nat} (hhops : hops ≠ 15) : routeHop s k hops vl none = .noRoute := by
  rw [routeHop, if_neg (by simp [hans]), if_neg hhops, hmask]
  rfl

theorem laneOut_enqueue (s : State) (p vl : Nat) (fs : List Flit) : laneOut (portOf (enqueue s p vl fs) p) vl = laneOut (portOf s p) vl ++ fs := by
  unfold enqueue
  rw [portOf_putPort_self]
  exact (congrArg (·.getD []) (tget_tset_self (portOf s p).lanes vl (tgetD (portOf s p).lanes vl [] ++ fs)) :)

/-- Settles O31: a message by whom it is for and by the port that its route gives. -/
theorem messagesAreForwarded : Obligations.MessagesAreForwarded := by
  unfold Obligations.MessagesAreForwarded
  refine ⟨fun s h data x hx => ?_, fun s u h data o vl m hu hvl hm => ?_, fun s h data hdst hroom => if_pos (by rw [hdst, hroom]; rfl)⟩
  · refine ⟨_, routedCredits_some hx, rfl, rfl, ?_, fun k hk => portOf_putPort_ne _ _ _ _ hk⟩
    rw [portOf_putPort_self]
    exact (congrArg (·.getD 0) (tget_tset_self (portOf s x.port).creditsOwed x.vl (tgetD (portOf s x.port).creditsOwed x.vl 0 + x.flits)) :)
  have hgo := messageForward_goes hu hvl hm
  have hframe := routedCredits_frame hu
  have hsame : answersTo u h.rdst = answersTo s h.rdst := by
    rw [hframe]
    rfl
  refine ⟨fun hroom hans => ⟨?_, ?_⟩, fun hdst hrdst => ⟨fun hhops => ?_, fun hhops hmask => ?_, fun p hhop => ?_⟩⟩
  · rw [hgo (by rw [hroom, Bool.and_false])]
    by_cases hdst : answersTo s h.dst = true
    · rw [if_pos hdst]
    · rw [if_neg hdst, routeHop, if_pos (hsame.trans ((Bool.or_eq_true .. |>.mp hans).resolve_left hdst))]
  · rw [hframe]
    rfl
  · have hcount : u.fab.hopLimit = s.fab.hopLimit := by rw [hframe]
    rw [hgo (by rw [hdst, Bool.false_and]), if_neg (by simp [hdst]), routeHop, if_neg (by simp [hsame, hrdst]), if_pos hhops]
    dsimp only
    rw [hcount]
  · rw [hgo (by rw [hdst, Bool.false_and]), if_neg (by simp [hdst]), routeHop_none (hsame.trans hrdst) hmask hhops]
  · refine ⟨_, (hgo (by rw [hdst, Bool.false_and])).trans (by rw [if_neg (by simp [hdst]), hhop]), ?_, laneOut_enqueue .., fun k hk => portOf_putPort_ne _ _ _ _ hk⟩
    rw [hframe]
    rfl

end Sys2Proof.Links
end

section
/-! The stroke (09 R261 to R279): what ends and starts with an edge, the marks that leave with it, and the marks that arrive. -/

namespace Sys2Proof.Strokes

open Sys2Proof Sys2Proof.Machine Sys2Proof.Laws Sys2Proof.Completion Sys2Proof.Links

variable {s t u : State} {p k : Nat}

/-! ### What admissions and completions leave of the clock and of the ports -/

/-- What a mark needs of a port. -/
def marked (x : Port) : LState × Option (BitVec 16) × BitVec 16 × Nat := (x.lstate, x.markTally, x.markTallyOut, x.missedRun)

/-- The clock, the marks handed out and what marks need of each port are the same in both states. -/
structure Calm (s t : State) : Prop where
  clk : t.clk = s.clk
  marks : t.out.marks = s.out.marks
  port : ∀ p, marked (portOf t p) = marked (portOf s p)

theorem Calm.refl (s : State) : Calm s s := ⟨rfl, rfl, fun _ => rfl⟩

theorem Calm.trans (h : Calm s t) (g : Calm t u) : Calm s u :=
  ⟨g.clk.trans h.clk, g.marks.trans h.marks, fun p => (g.port p).trans (h.port p)⟩

theorem Calm.foldl {α : Type} {f : State → α → State} (hf : ∀ s x, Calm s (f s x)) (l : List α) (s : State) : Calm s (l.foldl f s) := by
  induction l generalizing s with
  | nil => exact .refl s
  | cons x l ih => exact (hf s x).trans (ih _)

theorem Calm.elim {α : Type} {o : Option α} {f : α → State} (h : Calm s t) (hf : ∀ x, Calm s (f x)) : Calm s (o.elim t f) := by
  cases o with
  | none => exact h
  | some x => exact hf x

theorem Calm.ite {c : Prop} [Decidable c] (h : Calm s t) (g : Calm s u) : Calm s (if c then t else u) := by
  split
  · exact h
  · exact g

/-- Neither the clock nor the ports nor the output has changed. -/
theorem Calm.of_eq (hclk : t.clk = s.clk) (hfab : t.fab = s.fab) (hout : t.out = s.out) : Calm s t :=
  ⟨hclk, by rw [hout], fun p => by rw [portOf, hfab, portOf]⟩

/-- A change of other parts of the state comes before a calm one. -/
theorem Calm.from_eq (h : Calm t u) (hclk : t.clk = s.clk) (hfab : t.fab = s.fab) (hout : t.out = s.out) : Calm s u := .trans (.of_eq hclk hfab hout) h

/-- A change of other parts of the state follows a calm one. -/
theorem Calm.then_eq (h : Calm s t) (hclk : u.clk = t.clk) (hfab : u.fab = t.fab) (hout : u.out = t.out) : Calm s u := h.trans (.of_eq hclk hfab hout)

theorem calm_updJob (s : State) (n : Nat) (f : Job → Job) : Calm s (updJob s n f) := .of_eq (updJob_clk ..) (updJob_fab ..) (updJob_out ..)

theorem calm_wrBytes (s : State) (a : Nat) (l : List Byte) : Calm s (wrBytes s a l) := .of_eq (wrBytes_clk ..) (wrBytes_fab ..) (wrBytes_out ..)

theorem calm_saveQueue (s : State) (n : Nat) (q : Queue) : Calm s (saveQueue s n q) := .of_eq (saveQueue_clk ..) (saveQueue_fab ..) (saveQueue_out ..)

theorem calm_sendVector (s : State) (v : Nat) : Calm s (sendVector s v) := by
  unfold sendVector sendMsix
  split_ifs
  · exact .refl s
  · exact .of_eq rfl rfl rfl
  · exact ⟨rfl, rfl, fun _ => rfl⟩

theorem calm_jobEvent (s : State) (n : Nat) (e : Event) : Calm s (jobEvent s n e) := by
  refine ⟨jobEvent_clk .., ?_, fun p => by rw [portOf, jobEvent_fab, portOf]⟩
  unfold jobEvent
  split
  · rfl
  · exact (calm_sendVector _ _).marks.trans (by simp)

theorem calm_health (s : State) (i : HealthInfo) : Calm s (health s i) := ⟨health_clk .., rfl, fun p => by rw [portOf, health_fab, portOf]⟩

theorem calm_lagReport (s : State) (k : Nat) : Calm s (lagReport s k) := (Calm.foldl (fun s _ => calm_jobEvent s _ _) _ s).trans (calm_health ..)

theorem calm_lag (s : State) (l : Lag) : Calm s { s with lag := l } := .of_eq rfl rfl rfl

theorem calm_judge (s : State) (x : LagStroke) : Calm s (judge s x) := by
  unfold judge lagOverrun lagClean
  extract_lets
  refine .ite (calm_lag ..) (.ite ?_ (.ite (calm_lag ..) ?_))
  · extract_lets
    exact .ite ((calm_lagReport ..).from_eq rfl rfl rfl) (.of_eq rfl rfl rfl)
  · extract_lets
    exact .ite ((calm_lagReport ..).from_eq rfl rfl rfl) (.of_eq rfl rfl rfl)

theorem calm_judgeAll (s : State) : Calm s (judgeAll s) :=
  (calm_lag s _).trans ((Calm.foldl calm_judge _ _).trans (calm_lag ..))

theorem calm_publish (s : State) (a : Active) (n : Nat) : Calm s (publish s a n) := by
  unfold publish
  extract_lets s1 s2 live s3
  have h1 : Calm s s1 := .of_eq rfl rfl rfl
  have h2 : Calm s s2 := h1.trans (.ite (calm_wrBytes ..) (.refl _))
  have h3 : Calm s s3 := h2.trans (.ite (calm_updJob ..) (.refl _))
  exact .ite h1 (.ite (h3.trans (calm_sendVector ..)) h3)

theorem calm_releaseSlot (s : State) (n : Nat) : Calm s (releaseSlot s n) := .of_eq (releaseSlot_clk ..) (releaseSlot_fab ..) (releaseSlot_out ..)

theorem calm_completeWith (s : State) (a : Active) (n : Nat) : Calm s (completeWith s a n) := by
  unfold completeWith
  extract_lets s1 s2 late n s3 s4 after l s5 l' s6 s7 s8 s9
  have h4 : Calm s s4 := (calm_updJob ..).trans ((calm_publish ..).trans (Calm.trans (t := s3) (.of_eq rfl rfl rfl) (calm_updJob ..)))
  have h5 : Calm s s5 := .ite h4 (h4.trans (calm_lag ..))
  have h6 : Calm s s6 := .ite (h5.trans (calm_lag ..)) h5
  have h9 : Calm s s9 := (h6.trans (calm_updJob ..)).then_eq rfl rfl rfl
  exact (Calm.ite h9 (h9.trans (calm_releaseSlot ..))).trans (calm_judgeAll _)

theorem calm_rejectRecord (s : State) (sid : Sid) (st : Stitch) (n : Nat) : Calm s (rejectRecord s sid st n) := .ite (calm_wrBytes ..) (.refl s)

theorem calm_rejectHead (s : State) (n : Nat) (q : Queue) (r : Reject) : Calm s (rejectHead s n q r) :=
  (calm_rejectRecord ..).trans ((calm_saveQueue ..).trans (calm_jobEvent ..))

theorem calm_haltQueue (s : State) (n : Nat) (q : Queue) : Calm s (haltQueue s n q) :=
  (Calm.ite (calm_rejectRecord ..) (.refl s)).trans (calm_saveQueue ..)

theorem calm_haltJob (s : State) (n : Nat) : Calm s (haltJob s n) := by
  unfold haltJob
  split
  · exact .refl s
  · exact .ite (.refl s) (.from_eq (.foldl (fun s _ => calm_haltQueue s _ _) _ _) rfl rfl rfl)

theorem calm_abortUnstarted (s : State) (p : Active → Bool) : Calm s (abortUnstarted s p) := by
  unfold abortUnstarted
  extract_lets t
  exact .from_eq (t := t) (.foldl (fun s _ => calm_completeWith s _ _) _ _) rfl rfl rfl

theorem calm_haltPoison (s : State) (n action : Nat) (sid : Sid) (op : Nat) (x : UnitRef) (st : Nat) : Calm s (haltPoison s n action sid op x st) := by
  unfold haltPoison
  split
  · exact .refl s
  · exact .ite (.refl s) ((calm_haltJob ..).trans ((calm_abortUnstarted ..).trans (calm_jobEvent ..)))

theorem calm_flushWatch (s : State) (n : Nat) (f : WatchRec → Bool) (l : Job → Nat → Nat) : Calm s (flushWatch s n f l) := by
  unfold flushWatch
  split
  · exact .refl s
  · refine Calm.from_eq (.foldl (fun s w => ?_) _ _) rfl rfl rfl
    unfold watchEvent
    split
    · exact .refl s
    · exact calm_jobEvent ..

theorem calm_leaveWith (s : State) (a : Active) (n : Nat) : Calm s (leaveWith s a n) :=
  .ite (calm_completeWith ..) ((calm_completeWith ..).trans (calm_flushWatch ..))

theorem calm_releaseHeldActs (s : State) (n : Nat) : Calm s (releaseHeldActs s n) := .foldl (fun s a => calm_leaveWith s _ _) _ s

/-! ### A message that is sent -/

theorem marked_enqueue (s : State) (q vl : Nat) (fs : List Flit) (p : Nat) : marked (portOf (enqueue s q vl fs) p) = marked (portOf s p) := by
  unfold enqueue
  by_cases h : p = q
  · rw [h, portOf_putPort_self]
    rfl
  · rw [portOf_putPort_ne _ _ _ _ h]

theorem calm_sendOn (s : State) (h : MsgHdr) (vl : Nat) (d : List Byte) (avoid : Option Nat) (m : List Nat) (src : Option SendSource) :
    Calm s (sendOn s h vl d avoid m src).1 := by
  refine ⟨sendOn_clk .., by rw [sendOn_out], fun p => ?_⟩
  unfold sendOn
  split
  · rfl
  · rfl
  · rfl
  · exact marked_enqueue ..

theorem calm_inject (s : State) (m : OutMsg) : Calm s (inject s m).1 := by
  unfold inject
  dsimp only
  split
  · split
    · exact ⟨rfl, rfl, fun _ => rfl⟩
    · split
      · exact calm_sendOn ..
      · exact (calm_sendOn ..).trans ⟨rfl, rfl, fun _ => rfl⟩
  · exact calm_sendOn ..

theorem calm_ctrlTo (s : State) (a b : Nat) (fjk : Word32) (name : String) (arg : Nat) (e : BitVec 16) : Calm s (ctrlTo s a b fjk name arg e) :=
  Calm.trans (t := { s with out := { s.out with lane1 := s.out.lane1 ++ [(b, name)] } }) ⟨rfl, rfl, fun _ => rfl⟩ (calm_inject ..)

theorem calm_toStations (s : State) (j : Job) (name : String) (arg : Nat) : Calm s (toStations s j name arg) := .foldl (fun s _ => calm_ctrlTo s _ _ _ _ _ _) _ s

theorem calm_consumePoison (s : State) (a : Active) : Calm s (consumePoison s a) := by
  unfold consumePoison
  extract_lets o s1 s2 s3
  have h3 : Calm s s3 := (calm_haltPoison ..).trans ((calm_leaveWith ..).trans (calm_releaseHeldActs ..))
  exact .ite (.elim h3 fun _ => h3.trans (calm_toStations ..)) h3

/-! ### Heads that are planned again -/

theorem calm_compactAt (s : State) (n : Nat) (l : Loc) : Calm s (compactAt s n l) := by
  unfold compactAt
  split
  · exact .refl s
  · exact .of_eq rfl rfl rfl

theorem calm_placeAt {n x : Nat} {l : Loc} {r : State × Nat} (h : placeAt s n l x = some r) : Calm s r.1 := by
  unfold placeAt at h
  split at h
  · exact absurd h (by simp)
  · extract_lets a gap at h
    split at h
    · exact absurd h (by simp)
    · split at h
      · injection h with h
        rw [← h]
        exact .refl s
      · obtain ⟨j, -, h⟩ := Option.bind_eq_some_iff.1 h
        obtain ⟨y, -, h⟩ := Option.map_eq_some_iff.1 h
        rw [← h]
        exact calm_compactAt ..

theorem calm_ringRoom {n x f : Nat} {r : State × Nat} (h : ringRoom s n x f = some r) : Calm s r.1 := by
  induction f generalizing s with
  | zero => exact calm_placeAt h
  | succ f ih =>
    unfold ringRoom at h
    split at h
    next hp => exact calm_placeAt (hp.trans h)
    next => exact absurd h (by simp)
    next =>
      split at h
      · exact absurd h (by simp)
      · split at h
        · exact absurd h (by simp)
        · exact ((calm_wrBytes ..).then_eq (by rfl) (by rfl) (by rfl)).trans (ih h)

theorem calm_applyPolicy (s : State) (j : Job) (n : Nat) : Calm s (applyPolicy s j n) := by
  unfold applyPolicy
  split
  · exact .refl s
  split
  · exact .refl s
  · extract_lets q b j' s1
    have h1 : Calm s s1 := .ite (.refl s) ((calm_jobEvent ..).from_eq rfl rfl rfl)
    exact h1.trans (calm_updJob ..)

theorem calm_reserve (s : State) (n x : Nat) : Calm s (reserve s n x).1 := by
  unfold reserve
  split
  · exact .refl s
  · extract_lets c t
    have ht : Calm s t := calm_applyPolicy ..
    split
    · exact .refl s
    split
    · exact ht
    split
    · split
      · exact ht
      split
      next hr => exact ht.trans (calm_ringRoom hr)
      next => exact ht
    · split
      next hr => exact ht.trans (calm_placeAt hr)
      next => split <;> exact ht

theorem calm_reserveFor (s : State) (a : Active) : Calm s (reserveFor s a).1 := by
  unfold reserveFor
  split
  · exact .refl s
  next o _ =>
    split
    · exact .refl s
    split
    · exact .refl s
    · have h := calm_reserve s a.job (recordMax o)
      split
      · rename_i heq
        rw [heq] at h
        exact h.trans (calm_updJob ..)
      all_goals
        rename_i heq
        rw [heq] at h
        exact h

theorem calm_waitHead (s : State) (n : Nat) (q : Queue) : Calm s (waitHead s n q) := .ite (.of_eq rfl rfl rfl) (calm_saveQueue ..)

theorem calm_haltStash (s : State) (n : Nat) : Calm s (haltStash s n) := by
  unfold haltStash
  split
  · exact .refl s
  · exact (calm_haltJob ..).trans (calm_jobEvent ..)

theorem calm_enterAct (s : State) (a : Active) : Calm s (enterAct s a) := by
  unfold enterAct
  extract_lets o s1 tag s2 s3
  have h3 : Calm s s3 := ((calm_updJob s1 ..).trans (calm_updJob ..)).from_eq rfl rfl rfl
  exact .ite (h3.trans (calm_completeWith ..)) h3

theorem calm_accountPlan (s : State) (n t0 e k : Nat) : Calm s (accountPlan s n t0 e k) := calm_updJob ..

theorem calm_admitPlanned (s : State) (n : Nat) (q : Queue) (a : Active) (b : Option Active) : Calm s (admitPlanned s n q a b) := by
  unfold admitPlanned
  extract_lets m enter timed a1 b1 ns
  have henter (s : State) (c : Active) : Calm s (enter s c) := (calm_saveQueue ..).trans (calm_enterAct ..)
  refine .ite ?_ (.ite (.elim (henter ..) fun c => (henter ..).trans (calm_enterAct ..)) ?_)
  · split
    · exact calm_waitHead ..
    · extract_lets t
      exact Calm.trans (t := t) ⟨rfl, rfl, fun _ => rfl⟩ (henter ..)
  · split
    · exact calm_waitHead ..
    · extract_lets s1 s2 sh sn t1 k marks s3 plan planned a2 s4
      have h3 : Calm s s3 := Calm.ite (.trans (t := s2) (.trans (t := s1) (.of_eq rfl rfl rfl) (calm_accountPlan ..)) (.of_eq rfl rfl rfl))
        (.trans (t := s1) (.of_eq rfl rfl rfl) (calm_accountPlan ..))
      have hplan (s : State) (c : Active) : Calm s (plan s c) := .ite (.refl s) (calm_lag ..)
      have h4 : Calm s s4 := h3.trans ((hplan ..).trans (henter ..))
      exact .elim h4 fun c => h4.trans ((hplan ..).trans (calm_enterAct ..))

theorem calm_admitChecked (s : State) (n : Nat) (a : Active) (b : Option Active) : Calm s (admitChecked s n a b) := by
  unfold admitChecked
  extract_lets w
  have h := calm_reserveFor s w
  split
  all_goals
    rename_i heq
    rw [heq] at h
  · exact .elim h fun _ => h.trans (calm_admitPlanned ..)
  · exact .elim h fun _ => h.trans (calm_waitHead ..)
  · refine .ite (.trans ?_ (calm_haltStash ..)) ?_
    all_goals exact .elim h fun _ => h.trans (calm_rejectHead ..)

theorem calm_poisonHead (s : State) (n : Nat) (q : Queue) : Calm s (poisonHead s n q) := by
  unfold poisonHead
  extract_lets a m
  exact Calm.trans (t := { s with acts := s.acts ++ [a] }) (.of_eq rfl rfl rfl) ((calm_saveQueue ..).trans (calm_consumePoison ..))

theorem calm_admitHead (s : State) (j : Job) (n : Nat) (q : Queue) : Calm s (admitHead s j n q) := by
  unfold admitHead
  extract_lets pair
  split
  · exact calm_poisonHead ..
  · exact calm_rejectHead ..
  · refine .ite (calm_admitChecked ..) ?_
    split
    · exact calm_poisonHead ..
    · exact calm_rejectHead ..
    · exact calm_admitChecked ..

theorem calm_admitPassed (s : State) (j : Job) (n : Nat) (q : Queue) (a : Active) : Calm s (admitPassed s j n q a) := by
  unfold admitPassed
  refine .ite (calm_admitChecked ..) ?_
  extract_lets t
  have ht : Calm s t := .elim (calm_updJob ..) fun _ => (calm_updJob ..).trans (calm_updJob ..)
  split
  · exact ht
  · exact ht.trans (calm_admitHead ..)

theorem calm_replanHeads (s : State) : Calm s (replanHeads s) := by
  refine .ite (.refl s) (.foldl (fun s x => ?_) _ s)
  split
  · exact .refl s
  · split
    · exact .ite (calm_admitPassed ..) (.refl s)
    · exact .refl s

end Sys2Proof.Strokes
end

section
/-! Edges of the stroke and marks that arrive (09 R261, R273 to R279; 16 R459). -/

namespace Sys2Proof.Strokes

open Sys2Proof Sys2Proof.Machine Sys2Proof.Laws Sys2Proof.Completion Sys2Proof.Links

variable {s t u : State} {p k : Nat}

/-! ### The marks of an edge -/

/-- The edge's mark is handed to one port. -/
def sendMark (s : State) (p : Nat) : State :=
  let x := portOf s p
  let m := ownMark s x.markTallyOut
  enqueue (putPort { s with out := { s.out with marks := s.out.marks ++ [(p, m, markCrc m)] } } p { x with markTallyOut := x.markTallyOut + 1 }) p 0 [markFlit m]

theorem sendMarks_eq (s : State) : sendMarks s = ((List.range 64).filter fun p => (portOf s p).lstate == .up).foldl sendMark s := rfl

theorem portOf_sendMark_ne (s : State) (h : k ≠ p) : portOf (sendMark s p) k = portOf s k := by
  unfold sendMark enqueue
  rw [portOf_putPort_ne _ _ _ _ h, portOf_putPort_ne _ _ _ _ h]
  rfl

theorem marks_grow (l : List Nat) {x : Nat × Mark × Word32} (h : x ∈ s.out.marks) : x ∈ (l.foldl sendMark s).out.marks := by
  induction l generalizing s with
  | nil => exact h
  | cons q l ih => exact ih (List.mem_append_left _ h)

theorem foldl_sendMark {l : List Nat} (hl : l.Nodup) (hp : p ∈ l) (s : State) :
    ∃ m, (p, m, markCrc m) ∈ (l.foldl sendMark s).out.marks ∧ m.stroke = s.clk.stroke ∧ m.tally = (portOf s p).markTallyOut := by
  induction l generalizing s with
  | nil => simp at hp
  | cons q l ih =>
    obtain ⟨hq, hl⟩ := List.nodup_cons.1 hl
    by_cases hpq : p = q
    · subst hpq
      exact ⟨ownMark s (portOf s p).markTallyOut, marks_grow l (List.mem_append_right _ (List.mem_singleton.2 rfl)), rfl, rfl⟩
    · obtain ⟨m, hm, hk, ht⟩ := ih hl ((List.mem_cons.1 hp).resolve_left hpq) (sendMark s q)
      exact ⟨m, hm, hk, ht.trans (by rw [portOf_sendMark_ne s hpq])⟩

/-- Every port that is UP is handed the mark of the stroke, with its own tally. -/
theorem sendMarks_marks (s : State) (hp : p < 64) (hup : (portOf s p).lstate = .up) :
    ∃ m, (p, m, markCrc m) ∈ (sendMarks s).out.marks ∧ m.stroke = s.clk.stroke ∧ m.tally = (portOf s p).markTallyOut :=
  foldl_sendMark (List.nodup_range.filter _) (List.mem_filter.2 ⟨List.mem_range.2 hp, by simp [hup]⟩) s

/-- What has been heard on a port. -/
def heard (x : Port) : LState × Option (BitVec 16) × Nat := (x.lstate, x.markTally, x.missedRun)

theorem heard_of_marked {x y : Port} (h : marked x = marked y) : heard x = heard y := by
  simp only [marked, heard, Prod.mk.injEq] at h ⊢
  obtain ⟨hl, ht, -, hm⟩ := h
  exact ⟨hl, ht, hm⟩

theorem sendMarks_heard (s : State) (p : Nat) : heard (portOf (sendMarks s) p) = heard (portOf s p) := by
  rw [sendMarks_eq]
  refine foldl_keep (fun s : State => heard (portOf s p)) _ (fun s q => ?_) _ s
  by_cases h : p = q
  · unfold sendMark enqueue
    rw [h, portOf_putPort_self, portOf_putPort_self]
    rfl
  · rw [portOf_sendMark_ne s h]

theorem sendMarks_clk (s : State) : (sendMarks s).clk = s.clk := by
  rw [sendMarks_eq]
  exact foldl_keep (fun s : State => s.clk) sendMark (fun _ _ => rfl) _ s

/-! ### A stroke ends, and the next begins -/

theorem enterHoldover_clk (s : State) : (enterHoldover s).clk = { s.clk with holdover := true, holdoverSince := (enterHoldover s).clk.holdoverSince } := by
  unfold enterHoldover
  split
  next h => rw [← h]
  · rfl

theorem enterHoldover_eq (s : State) : enterHoldover s = { s with clk := (enterHoldover s).clk } := by
  unfold enterHoldover
  split <;> rfl

theorem checkHoldover_eq (s : State) : checkHoldover s = { s with clk := (checkHoldover s).clk } := by
  unfold checkHoldover
  split
  · exact enterHoldover_eq s
  · rfl

theorem checkHoldover_clk (s : State) :
    (checkHoldover s).clk = { s.clk with holdover := (checkHoldover s).clk.holdover, holdoverSince := (checkHoldover s).clk.holdoverSince } := by
  unfold checkHoldover
  split
  · rw [enterHoldover_clk]
  · rfl

theorem checkHoldover_of_source (h : s.clk.source ≠ 1) : checkHoldover s = s := if_neg (by simp [h])

theorem calm_startSlice (s : State) (p : Nat) : Calm s (startSlice s p) := by
  unfold startSlice
  split
  · exact .refl s
  · exact .ite (.refl s) (.of_eq rfl rfl rfl)

theorem calm_selfTest (s : State) : Calm s (selfTest s) := by
  have h : Calm s (endSweep s) := .ite (.of_eq rfl rfl rfl) (.refl s)
  exact .ite (.refl s) (h.trans (.foldl calm_startSlice _ _))

/-- What follows the marks of an edge is calm. -/
theorem openStroke_calm (s : State) : Calm (sendMarks (checkHoldover s)) (openStroke s) := (calm_selfTest _).trans (calm_replanHeads _)

theorem openStroke_clk (s : State) : (openStroke s).clk = (checkHoldover s).clk := (openStroke_calm s).clk.trans (sendMarks_clk _)

theorem portOf_checkHoldover (s : State) (p : Nat) : portOf (checkHoldover s) p = portOf s p := by
  rw [checkHoldover_eq]
  rfl

theorem openStroke_heard (s : State) (p : Nat) : heard (portOf (openStroke s) p) = heard (portOf s p) :=
  (heard_of_marked ((openStroke_calm s).port p)).trans ((sendMarks_heard _ p).trans (by rw [portOf_checkHoldover]))

theorem openStroke_marks (s : State) (hp : p < 64) (hup : (portOf s p).lstate = .up) :
    ∃ m, (p, m, markCrc m) ∈ (openStroke s).out.marks ∧ m.stroke = s.clk.stroke ∧ m.tally = (portOf s p).markTallyOut := by
  obtain ⟨m, hm, hk, ht⟩ := sendMarks_marks (checkHoldover s) hp (by rw [portOf_checkHoldover]; exact hup)
  exact ⟨m, by rw [(openStroke_calm s).marks]; exact hm, hk.trans (by rw [checkHoldover_clk]), ht.trans (by rw [portOf_checkHoldover])⟩

/-- The clock at an edge at the instant `t`. -/
def edgeClock (c : Clock) (t : Nat) : Clock := edgeSettings { c with stroke := c.stroke + 1, edge := t, now := max c.now t, steer := 0 }

theorem edgeClock_frame (c : Clock) (t : Nat) : (edgeClock c t).stroke = c.stroke + 1 ∧ (edgeClock c t).edge = t ∧ (edgeClock c t).now = max c.now t ∧
    (edgeClock c t).steer = 0 ∧ (edgeClock c t).source = c.nextSource := by
  unfold edgeClock edgeSettings
  extract_lets due c1 root new c2 c3
  have hdue : c1.stroke = c.stroke + 1 ∧ c1.edge = t ∧ c1.now = max c.now t ∧ c1.steer = 0 ∧ c1.nextSource = c.nextSource := by
    unfold c1
    split <;> exact ⟨rfl, rfl, rfl, rfl, rfl⟩
  have hnew : c3.stroke = c1.stroke ∧ c3.edge = c1.edge ∧ c3.now = c1.now ∧ c3.steer = c1.steer ∧ c3.source = c1.nextSource := by
    unfold c3
    split <;> exact ⟨rfl, rfl, rfl, rfl, rfl⟩
  obtain ⟨hk, he, hn, hs, hx⟩ := hdue
  obtain ⟨hk', he', hn', hs', hx'⟩ := hnew
  have h3 : c3.stroke = c.stroke + 1 ∧ c3.edge = t ∧ c3.now = max c.now t ∧ c3.steer = 0 ∧ c3.source = c.nextSource :=
    ⟨hk'.trans hk, he'.trans he, hn'.trans hn, hs'.trans hs, hx'.trans hx⟩
  split
  · exact h3
  · exact h3

theorem edgeClock_refMisses (c : Clock) (t : Nat) (h : c.refMisses = 0) : (edgeClock c t).refMisses = 0 := by
  unfold edgeClock edgeSettings
  dsimp only
  split_ifs <;> first | rfl | exact h

theorem edgeClock_holdover (c : Clock) (t : Nat) (hsrc : c.source = c.nextSource) (h : c.holdover = false) : (edgeClock c t).holdover = false := by
  unfold edgeClock edgeSettings
  dsimp only
  split_ifs <;> first | rfl | exact h

theorem calm_endStroke (s : State) (a b n : Nat) : Calm s (endStroke s a b n) := by
  unfold endStroke
  split
  · exact .refl s
  · exact (Calm.ite (.refl s) (calm_wrBytes ..)).trans (calm_updJob ..)

theorem calm_applyRoute (s : State) : Calm s (applyRoute s) := by
  unfold applyRoute
  split
  · exact .refl s
  · exact .ite ⟨rfl, rfl, fun _ => rfl⟩ (.refl s)

theorem calm_applyPack (s : State) : Calm s (applyPack s) := by
  unfold applyPack
  split
  · exact .refl s
  · exact .of_eq rfl rfl rfl

/-- The end of a stroke at an instant moves the clock to the edge, and is calm besides. -/
theorem closeStroke_calm (s : State) (t : Nat) : Calm { s with clk := edgeClock s.clk t } (closeStroke s t) := by
  unfold closeStroke
  extract_lets k len jobs s1 e c s2 l s3 s4
  have h1 : Calm s s1 := .foldl (fun s j => calm_updJob s _ _) _ s
  have h2 : Calm { s with clk := edgeClock s.clk t } s2 :=
    ⟨congrArg (edgeClock · t) h1.clk, h1.marks, h1.port⟩
  have h3 : Calm { s with clk := edgeClock s.clk t } s3 := .ite h2 (h2.trans (calm_lag ..))
  exact h3.trans ((calm_judgeAll _).trans ((Calm.foldl (fun s _ => calm_endStroke s _ _ _) _ _).trans ((calm_applyRoute _).trans (calm_applyPack _))))

/-- What an edge leaves of the clock. -/
theorem takeEdge_clk (s : State) (t : Nat) :
    (takeEdge s t).clk = { edgeClock s.clk t with holdover := (takeEdge s t).clk.holdover, holdoverSince := (takeEdge s t).clk.holdoverSince } := by
  unfold takeEdge
  rw [openStroke_clk, checkHoldover_clk, (closeStroke_calm s t).clk]

theorem takeEdge_stroke (s : State) (t : Nat) : (takeEdge s t).clk.stroke = s.clk.stroke + 1 ∧ (takeEdge s t).clk.edge = t ∧
    (takeEdge s t).clk.now = max s.clk.now t ∧ (takeEdge s t).clk.steer = 0 := by
  obtain ⟨hk, he, hn, hs, -⟩ := edgeClock_frame s.clk t
  rw [takeEdge_clk]
  exact ⟨hk, he, hn, hs⟩

theorem takeEdge_holdover (t : Nat) (hsrc : s.clk.source = 2) (hnext : s.clk.nextSource = 2) (h : s.clk.holdover = false) :
    (takeEdge s t).clk.holdover = false := by
  have hclk := (closeStroke_calm s t).clk
  unfold takeEdge
  rw [openStroke_clk, checkHoldover_of_source, hclk]
  · exact edgeClock_holdover _ _ (hsrc.trans hnext.symm) h
  · rw [hclk, (edgeClock_frame s.clk t).2.2.2.2, hnext]
    decide

theorem takeEdge_marks (s : State) (t : Nat) (hp : p < 64) (hup : (portOf s p).lstate = .up) :
    ∃ m, (p, m, markCrc m) ∈ (takeEdge s t).out.marks ∧ m.stroke = s.clk.stroke + 1 ∧ m.tally = (portOf s p).markTallyOut := by
  have hport := (closeStroke_calm s t).port p
  simp only [marked, Prod.mk.injEq] at hport
  obtain ⟨hl, -, ht, -⟩ := hport
  obtain ⟨m, hm, hk, hm'⟩ := openStroke_marks (closeStroke s t) hp (hl.trans hup)
  exact ⟨m, hm, hk.trans (by rw [(closeStroke_calm s t).clk]; exact (edgeClock_frame s.clk t).1), hm'.trans ht⟩

theorem missRef_clk (s : State) (n : Nat) : (missRef s n).clk.stroke = s.clk.stroke ∧ (missRef s n).clk.edge = s.clk.edge ∧ (missRef s n).clk.refMisses = n := by
  unfold missRef
  extract_lets t
  split
  · rw [enterHoldover_clk]
    exact ⟨rfl, rfl, rfl⟩
  · exact ⟨rfl, rfl, rfl⟩

theorem missRef_holdover (s : State) {n : Nat} (h : 3 ≤ n) : (missRef s n).clk.holdover = true := by
  unfold missRef
  rw [if_pos h, enterHoldover_clk]

/-- Settles O26: the timebase's edge, and the reference's in its time and too early. -/
theorem strokeEdgeAdvances : Obligations.StrokeEdgeAdvances := by
  unfold Obligations.StrokeEdgeAdvances
  refine ⟨fun s h => ?_, fun s time hsrc hnear => ?_, fun s time hsrc hhold hmiss htime => ?_⟩
  · obtain ⟨hk, he, hn, hs⟩ := takeEdge_stroke s (nextEdge s)
    exact ⟨_, congrArg Host.Outcome.next (if_pos h), hk, he, hn, hs, fun p hp hup => takeEdge_marks s _ hp hup⟩
  · have hgo : exec (.strokeRefEdge time) s = .next (takeEdge { s with clk := { s.clk with refMisses := 0, holdover := false } } time) := by
      show execStrokeRefEdge time s = _
      unfold execStrokeRefEdge
      rw [if_neg (by simp [hsrc])]
      exact if_pos (decide_eq_true hnear)
    obtain ⟨hk, he, hn, -⟩ := takeEdge_stroke { s with clk := { s.clk with refMisses := 0, holdover := false } } time
    refine ⟨_, hgo, hk, he, hn, ?_, fun hnext => takeEdge_holdover _ hsrc hnext rfl, fun p hp hup => takeEdge_marks _ _ hp hup⟩
    rw [takeEdge_clk]
    exact edgeClock_refMisses _ _ rfl
  · have hgo : exec (.strokeRefEdge time) s = .next (missRef (takeEdge (cutStroke s) time) 1) := by
      show execStrokeRefEdge time s = _
      unfold execStrokeRefEdge
      have hfar : ¬((time : Int) - (nextEdge s : Int)).natAbs ≤ 1000 := by omega
      simp only [hsrc, hhold, hmiss, hfar, ne_eq, not_true_eq_false, decide_false, Bool.false_and, Bool.false_eq_true, bne_self_eq_false, if_false]
      rw [if_pos (by omega)]
    obtain ⟨hk, he, -, -⟩ := takeEdge_stroke (cutStroke s) time
    obtain ⟨hk', he', hn'⟩ := missRef_clk (takeEdge (cutStroke s) time) 1
    exact ⟨_, hgo, hk'.trans hk, he'.trans he, hn'⟩

/-! ### Marks -/

theorem missMark_marks (s : State) (p : Nat) : (portOf (missMark s p) p).marksMissed = satInc (portOf s p).marksMissed ∧
    ((portOf s p).missedRun < 2 → (portOf s p).lstate = .up → (portOf (missMark s p) p).lstate = .up ∧ (portOf (missMark s p) p).missedRun = (portOf s p).missedRun + 1) ∧
    (2 ≤ (portOf s p).missedRun → (portOf (missMark s p) p).lstate = .down) ∧ ∀ k, k ≠ p → portOf (missMark s p) k = portOf s k := by
  unfold missMark
  extract_lets x t
  simp only [portOf_checkHoldover]
  by_cases h : 2 ≤ x.missedRun
  · rw [if_pos (show 3 ≤ x.missedRun + 1 by omega)]
    refine ⟨?_, fun h2 => absurd h (Nat.not_le.2 h2), fun _ => ?_, fun k hk => ?_⟩
    · rw [portOf_goDown_self, portOf_putPort_self]
      rfl
    · rw [portOf_goDown_self]
    · rw [portOf_goDown_ne _ hk, portOf_putPort_ne _ _ _ _ hk]
  · rw [if_neg (show ¬3 ≤ x.missedRun + 1 by omega)]
    refine ⟨?_, fun _ hup => ?_, fun h2 => absurd h2 h, fun k hk => portOf_putPort_ne _ _ _ _ hk⟩
    · rw [portOf_putPort_self]
    · rw [portOf_putPort_self]
      exact ⟨hup, rfl⟩

/-- What a clock that follows a port takes from its mark. -/
def adopted (m : Mark) (c : Clock) : Clock := if c.source ≠ 1 then c else { c with
  root := m.root, hops := m.hops + 1, periodUs := m.periodUs, xchPct := m.xchPct, nextPeriodUs := m.nextUs, nextXchPct := m.nextXch
  changeAt := if m.changeIn = 0 then none else some (m.stroke + BitVec.ofNat 64 m.changeIn), followedHoldover := m.holdover
  holdover := c.holdover && m.holdover }

/-- The clock says what a mark says of root, hops, period and reserve. -/
def Says (m : Mark) (c : Clock) : Prop := c.root = m.root ∧ c.hops = m.hops + 1 ∧ c.periodUs = m.periodUs ∧ c.xchPct = m.xchPct ∧ c.nextPeriodUs = m.nextUs

theorem adopted_says (m : Mark) {c : Clock} (h : c.source = 1) : Says m (adopted m c) ∧ (adopted m c).edge = c.edge ∧ (adopted m c).stroke = c.stroke := by
  unfold adopted
  rw [if_neg (not_not_intro h)]
  exact ⟨⟨rfl, rfl, rfl, rfl, rfl⟩, rfl, rfl⟩

theorem openStroke_says {m : Mark} (h : Says m s.clk) :
    Says m (openStroke s).clk ∧ (openStroke s).clk.edge = s.clk.edge ∧ (openStroke s).clk.stroke = s.clk.stroke := by
  rw [openStroke_clk, checkHoldover_clk]
  exact ⟨h, rfl, rfl⟩

/-- An edge and a number that are adopted with a mark. -/
theorem resync_adopts (m : Mark) (edge : Nat) (hsrc : s.clk.source = 1) (hnext : s.clk.nextSource = 1) :
    Says m (resync s edge m.stroke.toNat (adopted m)).clk ∧ (resync s edge m.stroke.toNat (adopted m)).clk.edge = edge ∧
    (resync s edge m.stroke.toNat (adopted m)).clk.stroke = m.stroke ∧
    ∀ p, heard (portOf (resync s edge m.stroke.toNat (adopted m)) p) = heard (portOf s p) := by
  unfold resync
  extract_lets adopt cut s1
  have hadopt (t : State) (h1 : t.clk.source = 1) : Says m (adopt t).clk ∧ (adopt t).clk.edge = t.clk.edge ∧ (adopt t).clk.stroke = m.stroke ∧
      ∀ p, portOf (adopt t) p = portOf t p := by
    obtain ⟨hs, he, hk⟩ := adopted_says m (c := (renumber t m.stroke.toNat).clk) h1
    exact ⟨hs, he, hk.trans (BitVec.ofNat_toNat ..), fun _ => rfl⟩
  split
  · have hu : (if edge < nextEdge s then cutStroke s else s).clk = s.clk ∧ ∀ p, portOf (if edge < nextEdge s then cutStroke s else s) p = portOf s p := by
      split <;> exact ⟨rfl, fun _ => rfl⟩
    obtain ⟨hclk, hport⟩ := hu
    have hclose := closeStroke_calm (if edge < nextEdge s then cutStroke s else s) edge
    have hc := hclose.clk.trans (congrArg (edgeClock · edge) hclk)
    obtain ⟨-, hedge, -, -, hs1⟩ := edgeClock_frame s.clk edge
    obtain ⟨hs, he, hk, hp⟩ := hadopt _ ((congrArg Clock.source hc).trans (hs1.trans hnext))
    obtain ⟨hs', he', hk'⟩ := openStroke_says hs
    refine ⟨hs', he'.trans (he.trans ((congrArg Clock.edge hc).trans hedge)), hk'.trans hk, fun p => ?_⟩
    rw [openStroke_heard, hp, heard_of_marked (hclose.port p)]
    exact congrArg heard (hport p)
  · have hu : s1.clk = s.clk ∧ ∀ p, portOf s1 p = portOf s p := by
      unfold s1
      split <;> exact ⟨rfl, fun _ => rfl⟩
    obtain ⟨hs, he, hk, hp⟩ := hadopt { s1 with clk := { s1.clk with edge := edge, now := max s1.clk.now edge, steer := 0 } } ((congrArg Clock.source hu.1).trans hsrc)
    exact ⟨hs, he, hk, fun p => congrArg heard ((hp p).trans (hu.2 p))⟩

/-- A mark that is followed: what it says is taken, with its edge and number or as steering. -/
theorem followMark_follows {port arrival root : Nat} {m : Mark} (hsrc : s.clk.source = 1) (hnext : s.clk.nextSource = 1)
    (hroot : root = arrival - (portOf s port).delayNs.toNat - 64) : Says m (followMark s port m arrival).clk ∧
    (∀ p, heard (portOf (followMark s port m arrival) p) = heard (portOf s p)) ∧
    ((50 < ((root : Int) - ((nearestEdge s root).1 : Int)).natAbs ∨ (nearestEdge s root).2 ≠ m.stroke.toNat) →
      (followMark s port m arrival).clk.edge = root ∧ (followMark s port m arrival).clk.stroke = m.stroke) ∧
    (((root : Int) - ((nearestEdge s root).1 : Int)).natAbs ≤ 50 → (nearestEdge s root).2 = m.stroke.toNat →
      (followMark s port m arrival).clk.edge = s.clk.edge ∧ (followMark s port m arrival).clk.stroke = s.clk.stroke ∧
      (followMark s port m arrival).clk.steer = max (-1) (min 1 ((root : Int) - ((nearestEdge s root).1 : Int)))) := by
  have heq : followMark s port m arrival = if ((root : Int) - ((nearestEdge s root).1 : Int)).natAbs ≤ 50 && (nearestEdge s root).2 == m.stroke.toNat
      then { s with clk := { adopted m s.clk with steer := max (-1) (min 1 ((root : Int) - ((nearestEdge s root).1 : Int))) } }
      else resync s root m.stroke.toNat (adopted m) := by
    rw [hroot]
    rfl
  rw [heq]
  by_cases hsteer : ((root : Int) - ((nearestEdge s root).1 : Int)).natAbs ≤ 50 ∧ (nearestEdge s root).2 = m.stroke.toNat
  · rw [if_pos (by simp [hsteer])]
    obtain ⟨hs, he, hk⟩ := adopted_says m hsrc
    exact ⟨hs, fun _ => rfl, fun h => absurd hsteer (by omega), fun _ _ => ⟨he, hk, rfl⟩⟩
  · rw [if_neg (by simpa using hsteer)]
    obtain ⟨hs, he, hk, hp⟩ := resync_adopts m root hsrc hnext
    exact ⟨hs, hp, fun _ => ⟨he, hk⟩, fun h h' => absurd ⟨h, h'⟩ hsteer⟩

theorem raiseLoss_eq (s : State) (k : Nat) : (raiseLoss s k).clk = s.clk ∧ (raiseLoss s k).fab = s.fab := by
  unfold raiseLoss
  extract_lets
  split
  · exact ⟨rfl, rfl⟩
  · exact ⟨health_clk .., health_fab ..⟩

/-- A mark within 1 µs has been heard on a port: its tally is kept, and a gap in the tallies is a loss. -/
def hearMark (s : State) (port : Nat) (m : Mark) (arrival : Nat) : State :=
  let x := portOf s port
  let t := putPort (advance s arrival) port { x with markTally := some m.tally, missedRun := 0 }
  if x.markTally.any fun l => m.tally != l + 1 then raiseLoss t 1 else t

theorem hearMark_clk (s : State) (port : Nat) (m : Mark) (arrival : Nat) : (hearMark s port m arrival).clk = { s.clk with now := max s.clk.now arrival } := by
  unfold hearMark
  extract_lets x t
  split
  · exact (raiseLoss_eq t 1).1
  · rfl

theorem hearMark_port (s : State) (port : Nat) (m : Mark) (arrival : Nat) :
    portOf (hearMark s port m arrival) port = { portOf s port with markTally := some m.tally, missedRun := 0 } := by
  unfold hearMark
  extract_lets x t
  split
  · rw [portOf, (raiseLoss_eq t 1).2]
    exact portOf_putPort_self ..
  · exact portOf_putPort_self ..

theorem hearMark_lstate (s : State) (port : Nat) (m : Mark) (arrival p : Nat) : (portOf (hearMark s port m arrival) p).lstate = (portOf s p).lstate := by
  by_cases h : p = port
  · rw [h, hearMark_port]
  · unfold hearMark
    extract_lets x t
    split
    · rw [portOf, (raiseLoss_eq t 1).2, ← portOf, portOf_putPort_ne _ _ _ _ h]
      rfl
    · rw [portOf_putPort_ne _ _ _ _ h]
      rfl

theorem execStrokeMarkReceive_follows {port arrival : Nat} {m : Mark} (hup : (portOf s port).lstate = .up) (htally : (portOf s port).markTally ≠ some m.tally)
    (hfollow : followsPort s port = true)
    (hnear : (((arrival - (portOf s port).delayNs.toNat - 64 : Nat) : Int) - ((nearestEdge s (arrival - (portOf s port).delayNs.toNat - 64)).1 : Int)).natAbs ≤ 1000) :
    exec (.strokeMarkReceive port m (markCrc m) arrival) s = .next (followMark (hearMark s port m arrival) port m arrival) := by
  show execStrokeMarkReceive port m (markCrc m) arrival s = _
  have hf : followsPort (hearMark s port m arrival) port = true := by
    unfold followsPort at hfollow ⊢
    rw [hearMark_clk, hearMark_lstate]
    exact hfollow
  unfold execStrokeMarkReceive
  extract_lets x t gap root own inWindow t1 t2 t3
  rw [if_neg (by simp [x, hup]), if_neg (by simp), if_neg (by simp [x, htally])]
  have hw : inWindow = true := decide_eq_true hnear
  have h3 : t3 = hearMark s port m arrival := by
    unfold t3 t2 t1
    rw [hw]
    rfl
  rw [h3, hf]
  rfl

/-- Settles O27: marks that arrive, marks that are missed, 20 ms of holdover, and reference edges that are missing. -/
theorem marksAndHoldover : Obligations.MarksAndHoldover := by
  unfold Obligations.MarksAndHoldover
  refine ⟨fun s port arrival root m hup => ⟨fun crc hcrc => ?_, fun htally => ?_, fun htally hfollow hnext hroot hnear => ?_⟩, fun s port hup => ?_,
    fun s hhold => ?_, fun s hsrc hhold => ?_⟩
  · show execStrokeMarkReceive port m crc arrival s = _
    unfold execStrokeMarkReceive
    simp [hup, hcrc]
  · show execStrokeMarkReceive port m (markCrc m) arrival s = _
    unfold execStrokeMarkReceive
    simp [hup, htally]
  · subst hroot
    have hgo := execStrokeMarkReceive_follows hup htally hfollow hnear
    have hclk := hearMark_clk s port m arrival
    have hport := hearMark_port s port m arrival
    have hsrc : s.clk.source = 1 := by
      simp only [followsPort, Bool.and_eq_true, beq_iff_eq] at hfollow
      exact hfollow.1
    have hown (x : Nat) : nearestEdge (hearMark s port m arrival) x = nearestEdge s x := by
      unfold nearestEdge nextEdge periodNs
      rw [hclk]
    obtain ⟨⟨h1, h2, h3, h4, h5⟩, hheard, hfar, hsteer⟩ := followMark_follows (s := hearMark s port m arrival) (port := port) (arrival := arrival) (m := m)
      ((congrArg Clock.source hclk).trans hsrc) ((congrArg Clock.nextSource hclk).trans hnext) rfl
    have hx := hheard port
    rw [hport] at hx hfar hsteer
    simp only [heard, Prod.mk.injEq] at hx
    simp only [hown] at hfar hsteer
    refine ⟨_, hgo, hx.2.1, hx.2.2, h1, h2, h3, h4, h5, hfar, fun h h' => ?_⟩
    obtain ⟨he, hk, hs⟩ := hsteer h h'
    exact ⟨he.trans (congrArg Clock.edge hclk :), hk.trans (congrArg Clock.stroke hclk :), hs⟩
  · obtain ⟨hm, h1, h2, hk⟩ := missMark_marks s port
    exact ⟨_, congrArg Host.Outcome.next (if_pos (by simp [hup])), hm, fun h => h1 h hup, h2, hk⟩
  · exact ⟨_, _, congrArg Host.Outcome.next (if_pos hhold), by rw [health_clk]; rfl, Health.health_ring _ _, rfl, rfl, rfl, rfl, health_jobs .., health_mem ..⟩
  · obtain ⟨hk, he, -, -⟩ := takeEdge_stroke s (nextEdge s)
    obtain ⟨hk', he', hn'⟩ := missRef_clk (takeEdge s (nextEdge s)) (s.clk.refMisses + 1)
    exact ⟨_, congrArg Host.Outcome.next (if_pos (by simp [hsrc, hhold])), hk'.trans hk, he'.trans he, hn', fun h => missRef_holdover _ (by omega)⟩

end Sys2Proof.Strokes
end

section
/-! Notices, messages of the station table, answers and timeouts (11 R332 to R338). -/

namespace Sys2Proof.Notices

open Sys2Proof Sys2Proof.Machine Sys2Proof.Laws Sys2Proof.Completion Sys2Proof.Links Sys2Proof.Commands

variable {s t u : State} {h : MsgHdr} {j : Job}

/-! ### Messages that leave the inbox -/

theorem ackAsked_injected (s : State) (h : MsgHdr) : Injected s (ackAsked s h) := by
  unfold ackAsked
  split
  · exact injected_inject ..
  · rfl

theorem ackAsked_jobs (s : State) (h : MsgHdr) : (ackAsked s h).jobs = s.jobs := by rw [ackAsked_injected]

theorem ackAsked_aliases (s : State) (h : MsgHdr) : (ackAsked s h).fab.aliases = s.fab.aliases := by rw [ackAsked_injected]

/-- A message has been taken out of the inbox, and acknowledged where it asks for it. -/
theorem taken_eq (s : State) (h : MsgHdr) : ackAsked (takeInbox s h []) h = { s with fab := (ackAsked (takeInbox s h []) h).fab } := by
  conv_lhs => rw [ackAsked_injected]
  conv_rhs => rw [ackAsked_injected]
  rfl

theorem noticeJob_of_jobs (hj : t.jobs = s.jobs) : noticeJob t h = noticeJob s h := by
  unfold noticeJob jobByFjk
  rw [hj]

theorem mem_of_noticeJob (hj : noticeJob s h = some j) : ∃ n, (n, j) ∈ s.jobs := by
  obtain ⟨hk, -⟩ := Option.filter_eq_some_iff.1 hj
  obtain ⟨p, hp, rfl⟩ := Option.map_eq_some_iff.1 hk
  exact ⟨p.1, List.mem_of_find?_eq_some hp⟩

/-! ### Alias entries -/

theorem find_alias_added (l : List (Nat × Nat)) (x y : Nat) : ((l.filter fun a => a.1 != x) ++ [(x, y)]).find? (fun a => a.1 == x) = some (x, y) := by
  rw [List.find?_append, List.find?_eq_none.2 fun a ha => by simpa using (List.mem_filter.1 ha).2]
  simp

theorem find_alias_other (l : List (Nat × Nat)) {x z : Nat} (y : Nat) (hz : z ≠ x) :
    ((l.filter fun a => a.1 != x) ++ [(x, y)]).find? (fun a => a.1 == z) = l.find? fun a => a.1 == z := by
  rw [List.find?_append, List.find?_filter]
  have hx : [(x, y)].find? (fun a => a.1 == z) = none := by simp [hz.symm]
  rw [hx, Option.or_none]
  congr 1
  funext a
  by_cases ha : a.1 = z
  · simp [ha, hz]
  · simp [ha]

/-- A job is told that a station answers to another's name: it is not lost, and a new entry counts as a replaced station of the job. -/
def aliasSeen (fresh : Bool) (x : Nat) (j : Job) : Job :=
  let j := { j with lost := j.lost.filter (· != x) }
  if fresh && j.stations.contains x then { j with check := { j.check with replacedStations := j.check.replacedStations + 1 } } else j

/-- A station entry has been taken from a message. -/
def aliased (s : State) (h : MsgHdr) (x y : Nat) : State :=
  let t := ackAsked (takeInbox s h []) h
  { t with fab := { t.fab with aliases := (s.fab.aliases.filter fun a => a.1 != x) ++ [(x, y)] }
           jobs := t.jobs.map fun p => (p.1, aliasSeen (!s.fab.aliases.any fun a => a.1 == x) x p.2) }

/-- Settles O35: a notice halts the job or asks for a replay, an ALIAS_MESSAGE adds an entry while there is room, and MGMT is kept. -/
theorem noticesArrive : Obligations.NoticesArrive := by
  unfold Obligations.NoticesArrive
  refine ⟨fun s h j hj => ⟨fun hbit => ?_, fun hbit => ?_, fun hok hhalt hreq hep => ?_⟩, fun s h x y hroom => ?_, fun s h x y hfull => ?_, fun s h data => ?_⟩
  · show execHaltNotice h s = _
    unfold execHaltNotice
    simp only [noticeJob_of_jobs (ackAsked_jobs (takeInbox s h []) h), hj]
    exact if_pos hbit
  · show execHaltNotice h s = _
    unfold execHaltNotice
    simp only [noticeJob_of_jobs (ackAsked_jobs (takeInbox s h []) h), hj]
    exact if_neg (by simp [hbit])
  · have hgo : exec (.stepReplayRequest h) s =
        .next (putJob (takeInbox s h []) { j with step := { j.step with replayRequested := true, replayTag := 0, replayCond := 0 } }) := by
      show execStepReplayRequest h s = _
      unfold execStepReplayRequest
      simp only [hj]
      exact congrArg Host.Outcome.next (if_pos (by simp [hhalt, hreq, hep]))
    exact ⟨_, _, hgo, jobOf_putJob_self (takeInbox s h []) _, rfl, fun i hi => jobOf_putJob_ne (takeInbox s h []) _ i hi⟩
  · have hal := ackAsked_aliases (takeInbox s h []) h
    refine ⟨aliased s h x y, ?_, ?_, ?_, fun z hz => find_alias_other _ _ hz⟩
    · show execAliasMessage h x y s = _
      unfold execAliasMessage
      dsimp only
      rw [hal]
      exact if_neg (Nat.not_le.2 hroom)
    · unfold aliased
      rw [taken_eq]
    · exact find_alias_added _ _ _
  · have hal := ackAsked_aliases (takeInbox s h []) h
    refine ⟨health (ackAsked (takeInbox s h []) h) { code := 0x0103, severity := 2, value := x }, ?_, ?_⟩
    · show execAliasMessage h x y s = _
      unfold execAliasMessage
      dsimp only
      rw [hal]
      exact if_pos hfull
    · rw [health_fab, hal]
      rfl
  · exact ⟨_, rfl, rfl, rfl⟩

/-! ### Answers and timeouts -/

variable {x : Trans} {die tag p : Nat}

theorem execAck_of_answered (hx : answered (takeInbox s h []) h = some x) : exec (.ack h) s =
    match x.sid.bind (actOf (freeTrans (takeInbox s h []) x)) with
    | none => .next (freeTrans (takeInbox s h []) x)
    | some a =>
      if a.st.opcode == opSend && a.stage == .running && !a.allSent && !outstanding (freeTrans (takeInbox s h []) x) a.sid
      then .next (sendEnd (freeTrans (takeInbox s h []) x) a) else .next (groundCheck (freeTrans (takeInbox s h []) x) a.sid) := by
  show execAck h s = _
  unfold execAck
  simp only [hx] <;> rfl

theorem key_of_transOf (hx : transOf s die tag = some x) : x.die = die ∧ x.tag = tag := by
  simpa using List.find?_some hx

/-- A transaction that is sent again by a port. -/
def resentBy (u : State) (p : Nat) (x q : Trans) : Trans :=
  { q with hdr := { x.hdr with rdst := rdstOf u x.hdr.dst }, resent := true, firstPort := p, injectedAt := u.clk.now }

/-- The first time that a transaction has no answer, its message leaves again by the port that the route gives. -/
def retried (u : State) (p : Nat) (x : Trans) : State :=
  let e := enqueue u p x.vl (flitsOf { x.hdr with rdst := rdstOf u x.hdr.dst } x.vl x.data x.marks x.source)
  { e with fab := { e.fab with trans := e.fab.trans.map fun q => if q.die == x.die && q.tag == x.tag then resentBy u p x q else q } }

theorem retryTrans_resends (hx : x.resent = false) (hp : routeHop s (rdstOf s x.hdr.dst) x.hdr.hops x.vl (some x.firstPort) = .port p) :
    retryTrans s x = retried s p x := by
  unfold retryTrans sendOn
  simp only [hx, hp] <;> rfl

theorem transOf_retried (hx : transOf s die tag = some x) (p : Nat) : transOf (retried s p x) die tag = some (resentBy s p x x) := by
  obtain ⟨hd, ht⟩ := key_of_transOf hx
  have hk : ((fun t : Trans => t.die == die && t.tag == tag) ∘ fun q => if q.die == x.die && q.tag == x.tag then resentBy s p x q else q) =
      fun t => t.die == die && t.tag == tag := by
    funext q
    rw [Function.comp_apply]
    split <;> rfl
  show List.find? _ (List.map _ s.fab.trans) = _
  rw [List.find?_map, hk, show List.find? (fun t : Trans => t.die == die && t.tag == tag) s.fab.trans = some x from hx]
  simp

/-- Settles O33: an answer frees its transaction, one that gets none is sent again once, and a message held too long is stale. -/
theorem answersAndTimeouts : Obligations.AnswersAndTimeouts := by
  unfold Obligations.AnswersAndTimeouts
  refine ⟨?_, fun s h x hx => ?_, fun s u die tag p x hx hre hu hp => ?_, fun s die tag x hx hre => ?_, fun s u k m hm hu => ?_⟩
  · rintro s u h x hx rfl
    refine ⟨fun hnone => ?_, fun a ha => ⟨fun hop => ?_, fun hop hst hsent hout => ?_, fun hst href => ?_⟩⟩
    · rw [execAck_of_answered hx, hnone]
    · rw [execAck_of_answered hx, ha]
      exact if_neg (by simp [hop])
    · rw [execAck_of_answered hx, ha]
      exact if_pos (by simp [hop, hst, hsent, hout])
    · show execNack h s = _
      unfold execNack
      simp [href, hx, ha, hst]
  · show execUnreach h s = _
    unfold execUnreach
    dsimp only
    rw [hx, Option.elim_some]
  · have hgo : exec (.transactionTimeout die tag) s = .next (retried u p x) := by
      show execTransactionTimeout die tag s = _
      unfold execTransactionTimeout
      rw [hx]
      exact congrArg Host.Outcome.next (by rw [← hu]; exact retryTrans_resends hre hp)
    refine ⟨_, _, hgo, transOf_retried (by rw [hu]; exact hx) p, rfl, rfl, rfl, rfl, ?_⟩
    rw [hu]
    exact laneOut_enqueue ..
  · show execTransactionTimeout die tag s = _
    unfold execTransactionTimeout
    rw [hx]
    exact congrArg Host.Outcome.next (if_pos hre)
  · show execHeldMessageTimeout k s = _
    unfold execHeldMessageTimeout
    rw [hm, hu]
    rfl

end Sys2Proof.Notices
end

section
/-! The messages of a SEND at its destination (11 R336 to R340). -/

namespace Sys2Proof.Notices

open Sys2Proof Sys2Proof.Machine Sys2Proof.Laws Sys2Proof.Completion

variable {s t u : State} {h : MsgHdr} {j : Job} {r : RxSend} {n p : Nat}

/-- What the first message of a SEND keeps of it: the checks of the destination, and the destination. -/
def firstRx (u : State) (h : MsgHdr) (j : Job) (source : Option SendSource) : RxSend :=
  { src := h.src, number := argBits h 63 32, job := j.id, handle := argBits h 95 64, epoch := h.epoch
    refused := destStatus u j (argBits h 95 64) source, dst := readOperand u j (argBits h 95 64) }

/-- A WRITE goes by what its SEND keeps. -/
theorem execWrite_goes {src : SendSource} {data : List Byte} {marks : List Nat} (hj : Taken s h data j)
    (hr : r = (rxFind (takeInbox s h data) j.id h.src (argBits h 63 32)).getD (firstRx (takeInbox s h data) h j (inMsg s h data marks (some src)).source)) :
    exec (.write h src data marks) s = if r.refused ≠ 0 then .next (nackTo (putRx (takeInbox s h data) r) h 3 r.refused)
      else .next (ackTo (r.dst.elim (putRx (takeInbox s h data) r) fun o =>
        putStream (putRx (takeInbox s h data) r) none o (64 * argBits h 31 0) data (inMsg s h data marks (some src)).marks) h 3) := by
  show execWrite h src data marks s = _
  unfold execWrite
  rw [hr]
  simp only [show verdict (takeInbox s h data) h = .take j from hj] <;> rfl

/-- A WRITE_END goes by what its SEND keeps. -/
theorem execWriteEnd_goes (hj : Taken s h [] j) (hr : rxFind (takeInbox s h []) j.id h.src (argBits h 95 64) = some r) :
    exec (.writeEnd h) s =
      if r.refused ≠ 0 then .next (nackTo (takeInbox s h []) h 3 r.refused)
      else if r.done then .next (ackTo (takeInbox s h []) h 3)
      else if bit h.arg.toNat 27 && j.pinCount ≤ argBits h 63 44 then .next (nackTo (putRx (takeInbox s h []) { r with refused := adPinRange }) h 3 adPinRange)
      else
        let u := putRx (r.dst.elim (takeInbox s h []) (reachOperand (takeInbox s h []) j)) { r with done := true }
        .next (ackTo (if bit h.arg.toNat 27 && !j.halted then updJob u j.id fun j => addPin j (argBits h 63 44) (argBits h 43 28) true else u) h 3) := by
  show execWriteEnd h s = _
  unfold execWriteEnd
  simp only [show verdict (takeInbox s h []) h = .take j from hj, hr] <;> rfl

theorem pinOf_addPin (j : Job) (n inc : Nat) (b : Bool) (p : Nat) : pinOf (addPin j n inc b) p = if p == n then pinOf j p + BitVec.ofNat 32 inc else pinOf j p := by
  unfold pinOf addPin tgetD
  rw [tget_tset]
  by_cases hp : p = n
  · simp [hp, pinOf, tgetD]
  · simp [hp, Ne.symm hp]

/-- The destination of a SEND has been reached, and its last message noted. -/
theorem reached_frame (s : State) (j : Job) (o : Option Operand) (r : RxSend) : ∃ f m, putRx (o.elim s (reachOperand s j)) r = { s with fab := f, mem := m } ∧
    ReadsAlike s { s with mem := m } := by
  cases o with
  | none => exact ⟨(putRx s r).fab, s.mem, rfl, .refl s⟩
  | some o =>
    refine ⟨(putRx s r).fab, (reachOperand s j o).mem, ?_, ?_⟩
    · rw [Option.elim_some, reachOperand_mem]
      rfl
    · rw [← reachOperand_mem]
      exact reachOperand_reads s j o

/-- Settles O32: the first WRITE brings the checks, later ones go by what they found, and WRITE_END signals once. -/
theorem sendsArrive : Obligations.SendsArrive := by
  unfold Obligations.SendsArrive
  refine ⟨?_, ?_, fun s h j r hok hjob hj hr => ⟨fun href => ?_, fun href hdone => ?_, fun href hdone hsig hpin => ?_, fun href hdone hpin hhalt => ?_⟩⟩
  · rintro s u h src data marks j m st hj rfl rfl rfl hnone
    have hgo := execWrite_goes (src := src) (marks := marks) hj (r := firstRx (takeInbox s h data) h j (inMsg s h data marks (some src)).source) (by rw [hnone]; rfl)
    refine ⟨fun hst => ⟨_, _, hgo.trans (if_pos hst), rfl, rfl, rfl, rfl⟩, fun o hst ho => ⟨firstRx (takeInbox s h data) h j (inMsg s h data marks (some src)).source, hgo.trans ((if_neg (not_not_intro hst)).trans ?_), rfl, hst, rfl, rfl⟩⟩
    show Host.Outcome.next (ackTo (Option.elim (readOperand _ _ _) _ _) h 3) = _
    rw [ho, Option.elim_some]
  · rintro s u h src data marks j r hj rfl hr
    have hgo := execWrite_goes (src := src) (marks := marks) hj (r := r) (by rw [hr]; rfl)
    refine ⟨fun href => hgo.trans (if_pos href), fun o href ho => hgo.trans ((if_neg (not_not_intro href)).trans ?_)⟩
    rw [ho, Option.elim_some]
  · exact (execWriteEnd_goes hj hr).trans (if_pos href)
  · rw [execWriteEnd_goes hj hr, if_neg (not_not_intro href), if_pos hdone]
  · rw [execWriteEnd_goes hj hr, if_neg (not_not_intro href), if_neg (by simp [hdone]), if_pos (by simp [hsig, hpin])]
  · have hok' : ¬(bit h.arg.toNat 27 && decide (j.pinCount ≤ argBits h 63 44)) = true := by
      rw [Bool.and_eq_true, decide_eq_true_eq]
      exact fun ⟨hs, hp⟩ => absurd (hpin hs) (Nat.not_lt.2 hp)
    have hgo := execWriteEnd_goes hj hr
    rw [if_neg (not_not_intro href), if_neg (by simp [hdone]), if_neg hok'] at hgo
    obtain ⟨f, m, hu, hreads⟩ := reached_frame (takeInbox s h []) j r.dst { r with done := true }
    rw [hu] at hgo
    have hjob' : jobOf { takeInbox s h [] with fab := f, mem := m } j.id = some j := hjob
    have hbytes (w : Memory.wf s.mem.bytes = true) (k : Memory.wcbOk s.mem.wcb = true) (x : Nat) (hx : frameRetired s.mem x = false) : memByte m x = memByte s.mem x :=
      ((hreads w k).2.2 x hx).2
    by_cases hsig : bit h.arg.toNat 27 = true
    · dsimp only at hgo
      rw [if_pos (by simp [hsig, hhalt])] at hgo
      refine ⟨_, addPin j (argBits h 63 44) (argBits h 43 28) true, hgo, jobOf_updJob_self hok (fun _ => rfl) hjob', ?_, fun p => ?_, fun w k x hx => ?_⟩
      · rw [ScriptRows.updJob_eq]
        rfl
      · rw [pinOf_addPin, hsig, Bool.true_and]
      · rw [updJob_mem]
        exact hbytes w k x hx
    · dsimp only at hgo
      rw [if_neg (by simp [hsig])] at hgo
      exact ⟨_, j, hgo, hjob', rfl, fun p => (if_neg (by simp [hsig])).symm, fun w k x hx => hbytes w k x hx⟩

end Sys2Proof.Notices
end

section
/-! Messages of collectives and of the pair (11 R344 to R348, 12 R354 to R381). -/

namespace Sys2Proof.Notices

open Sys2Proof Sys2Proof.Machine Sys2Proof.Laws Sys2Proof.Completion Sys2Proof.Commands

variable {s t u : State} {h : MsgHdr} {j : Job}

/-! ### Collectives -/

theorem execRedUp_of_node {data : List Byte} {given : Bool} {n : RedNode} {a : Active} (hj : Taken s h data j) (hn : msgNode (takeInbox s h data) j h = some n)
    (ha : nodeAct (takeInbox s h data) n = some a) : exec (.redUp h data given) s =
      let u := takeInbox s h data
      let bad := !(inMsg s h data (markAll given data) none).marks.isEmpty
      let fresh := freshContribs a n h data bad
      if n.children.length ≤ n.children.idxOf h.src || n.size.any fun k => (upContribs (collOp a.st) (argBits h 24 0) data bad).any fun c => k ≤ c.1
      then .next (addCountsTo u a.sid { malformed := 1 })
      else if overMemory u n fresh then .next s
      else
        let m := contribute a { n with childLeaves := tset n.childLeaves (n.children.idxOf h.src) (argBits h 41 25) } (n.children.idxOf h.src) h.src fresh
        let v := ackTo (putNode u m) h 2
        .next (nodeStep v j ((actOf v a.sid).getD a) m) := by
  show execRedUp h data given s = _
  unfold execRedUp
  simp only [show verdict (takeInbox s h data) h = .take j from hj, hn, ha] <;> rfl

theorem execRedDown_of_node {source : Option SendSource} {data : List Byte} {marks : List Nat} {n : RedNode} {a : Active} (hj : Taken s h data j)
    (hn : msgNode (takeInbox s h data) j h = some n) (ha : actOf (takeInbox s h data) n.sid = some a) : exec (.redDown h ⟨source, data⟩ marks) s =
      if n.parent != some h.src then .next (addCountsTo (takeInbox s h data) a.sid { malformed := 1 })
      else .next (if a.st.opcode == opMulticast then castArrives (takeInbox s h data) j a n (inMsg s h data marks source)
        else downArrives (takeInbox s h data) j a n (inMsg s h data marks source)) := by
  show execRedDown h ⟨source, data⟩ marks s = _
  unfold execRedDown
  simp only [show verdict (takeInbox s h data) h = .take j from hj, hn, ha] <;> rfl

/-- Settles O34: contributions of a child join its node where there is room, and what comes down comes from the parent. -/
theorem collectiveMessages : Obligations.CollectiveMessages := by
  unfold Obligations.CollectiveMessages
  refine ⟨?_, ?_⟩
  · rintro s u v h data given bad j n m a rfl hj rfl hn ha hwho hsize
    have hin : ¬(decide (n.children.length ≤ n.children.idxOf h.src) || n.size.any fun k =>
        (upContribs (collOp a.st) (argBits h 24 0) data !(inMsg s h data (markAll given data) none).marks.isEmpty).any fun c => decide (k ≤ c.1)) = true := by
      rw [Bool.or_eq_true, decide_eq_true_eq, Option.any_eq_true]
      rintro (hle | ⟨k, hk, hany⟩)
      · exact absurd hwho (Nat.not_lt.2 hle)
      · obtain ⟨c, hc, hkc⟩ := List.any_eq_true.1 hany
        exact absurd (hsize k hk c hc) (Nat.not_lt.2 (of_decide_eq_true hkc))
    refine ⟨fun hover => ?_, ?_⟩
    · rw [execRedUp_of_node hj hn ha]
      exact (if_neg hin).trans (if_pos hover)
    · rintro hover rfl rfl
      rw [execRedUp_of_node hj hn ha]
      exact (if_neg hin).trans (if_neg (by simp [hover]))
  · rintro s u h source data marks j n a m rfl hj rfl hn ha
    rw [execRedDown_of_node hj hn ha]
    refine ⟨fun hp => ?_, fun hp => if_pos (by simpa using hp)⟩
    rw [if_neg (by simp [hp])]
    exact ⟨fun hop => by simp [hop], fun hop => by simp [hop]⟩

/-! ### Messages of the pair -/

theorem isPartner_of_partner {n : Nat} (hp : s.pair.partner = some n) : isPartner s n = true := by
  unfold isPartner
  simp [hp]

theorem ackAsked_pair (s : State) (h : MsgHdr) : (ackAsked s h).pair = s.pair := by rw [ackAsked_injected]

/-- Whether a station is the partner is the same once a message has been taken. -/
theorem isPartner_taken (s : State) (h : MsgHdr) (n : Nat) : isPartner (ackAsked (takeInbox s h []) h) n = isPartner s n := by
  unfold isPartner
  rw [ackAsked_pair, ackAsked_aliases]
  rfl

theorem storeGate_of_partner (hp : isPartner s h.src = true) (f : State) : storeGate s h f = if s.hub.pstate = 2 then nackTo s h (laneOf h.mtype) nackPark else f := by
  unfold storeGate
  rw [hp]
  rfl

theorem storeGate_foreign (hp : isPartner s h.src = false) (f : State) : storeGate s h f = { s with fab := { s.fab with foreign := satInc s.fab.foreign } } := by
  unfold storeGate
  rw [hp]
  rfl

/-- The key of a slot that a mirror message writes. -/
theorem slotFor_key (s : State) (h : MsgHdr) : (slotFor s h).fjk = h.fjk ∧ (slotFor s h).handle = argBits h 95 64 ∧ (slotFor s h).slot = argBits h 63 63 := by
  unfold slotFor
  extract_lets handle slot
  split
  next m hm =>
    have hkey := List.find?_some hm
    simp only [Bool.and_eq_true, beq_iff_eq] at hkey
    obtain ⟨⟨hf, hh⟩, hs⟩ := hkey
    split
    · exact ⟨hf, hh, hs⟩
    · exact ⟨rfl, rfl, rfl⟩
  next => exact ⟨rfl, rfl, rfl⟩

theorem slotWrite_key (m : MirSlot) (h : MsgHdr) (data : List Byte) : (slotWrite m h data).fjk = m.fjk ∧ (slotWrite m h data).handle = m.handle ∧
    (slotWrite m h data).slot = m.slot ∧ (slotWrite m h data).complete = m.complete := by
  unfold slotWrite
  extract_lets o put
  split <;> exact ⟨rfl, rfl, rfl, rfl⟩

/-- A mirror message of the master leaves its bytes at its place. -/
theorem slotWrite_master (m : MirSlot) (data : List Byte) {i : Nat} (hm : argBits h 62 62 = 0) (hi : i < data.length) :
    tget (slotWrite m h data).master (64 * argBits h 61 32 + i) = data[i]? := by
  unfold slotWrite
  extract_lets o put
  rw [if_pos hm]
  show tget (List.foldl _ _ _) _ = _
  have hfold := Granules.tget_foldl_tset (Granules.rising_offsets (fun i => data.getD i 0) o (List.pairwise_lt_range (n := data.length))) m.master (o + i)
  rw [List.foldl_map] at hfold
  rw [hfold, Granules.tget_offsets, if_pos ⟨by omega, List.mem_range.2 (by omega)⟩]
  simp [hi]

/-- A MIRROR message of the partner writes its bytes into its slot, which is not complete then, and no other slot. -/
theorem mirror_writes (hpart : s.pair.partner = some h.src) (hpark : s.hub.pstate ≠ 2) (data : List Byte) (bad : Bool) :
    ∃ t m, exec (.mirror h data bad) s = .next t ∧ m ∈ t.pair.slots ∧ m.fjk = h.fjk ∧ m.handle = argBits h 95 64 ∧ m.slot = argBits h 63 63 ∧ m.complete = false ∧
      (argBits h 62 62 = 0 → ∀ i, i < data.length → tget m.master (64 * argBits h 61 32 + i) = data[i]?) ∧
      ∀ q ∈ s.pair.slots, q.fjk ≠ m.fjk ∨ q.handle ≠ m.handle ∨ q.slot ≠ m.slot → q ∈ t.pair.slots := by
  have hbox : isPartner (takeInbox s h data) h.src = true := isPartner_of_partner hpart
  obtain ⟨hf, hh, hs⟩ := slotFor_key (takeInbox s h data) h
  obtain ⟨hf', hh', hs', hc'⟩ := slotWrite_key { slotFor (takeInbox s h data) h with complete := false } h data
  refine ⟨_, slotWrite { slotFor (takeInbox s h data) h with complete := false } h data,
    congrArg Host.Outcome.next ((storeGate_of_partner hbox _).trans (if_neg hpark)), ?_, hf'.trans hf, hh'.trans hh, hs'.trans hs, hc',
    fun hm i hi => slotWrite_master _ data hm hi, fun q hq hne => ?_⟩
  · rw [ctrlTo_pair]
    exact List.mem_append_right _ (List.mem_singleton.2 rfl)
  · rw [ctrlTo_pair]
    refine List.mem_append_left _ (List.mem_filter.2 ⟨hq, ?_⟩)
    obtain hne | hne | hne := hne <;> simp [hne]

/-! ### The end of a drain -/

variable {p q : Protect} {f : Protect → Protect} {handle job : Nat}

theorem protOf_updProt (hf : ∀ p, (f p).handle = p.handle) (hp : protOf j handle = some p) : protOf (updProt j handle f) handle = some (f p) := by
  have hk : ((fun p : Protect => p.handle == handle) ∘ fun p => if p.handle == handle then f p else p) = fun p => p.handle == handle := by
    funext p
    rw [Function.comp_apply]
    split
    · rw [hf]
    · rfl
  unfold protOf at hp ⊢
  have hh : p.handle = handle := by simpa using List.find?_some hp
  show List.find? _ (List.map _ _) = _
  rw [List.find?_map, hk, hp, Option.map_some, if_pos (by simp [hh])]

theorem updProt_id (j : Job) (n : Nat) (f : Protect → Protect) : (updProt j n f).id = j.id := rfl

theorem journalReach_congr (hpair : t.pair = s.pair) {k : Job} (hfjk : k.fjk = j.fjk) (hr : q.retained = p.retained) (hh : q.handle = p.handle) (f m : Nat) :
    journalReach t k q f m = journalReach s j p f m := by
  induction f generalizing m with
  | zero => rfl
  | succ f ih =>
    unfold journalReach
    rw [hpair, hfjk, hr, hh, ih]

theorem covered_congr (hpair : t.pair = s.pair) {k : Job} (hfjk : k.fjk = j.fjk) (hc : k.committed = j.committed) (hr : q.retained = p.retained)
    (hh : q.handle = p.handle) (hs : q.slotStep = p.slotStep) : covered t k q = covered s j p := by
  unfold covered
  rw [hs, hc, hr]
  congr 1
  funext m
  rw [journalReach_congr hpair hfjk hr hh]

/-- A tensor is protected from then on, and nothing else of its entry changes. -/
theorem nowProtected_prot (hok : jobsOk s.jobs = true) (hj : jobOf s job = some j) (hp : protOf j handle = some p) :
    ∃ k, jobOf (nowProtected s job handle) job = some k ∧ k.fjk = j.fjk ∧ k.committed = j.committed ∧ protOf k handle = some { p with protected_ := true } := by
  unfold nowProtected
  rw [hj]
  dsimp only
  split
  next h =>
    rw [hp, Option.any_some] at h
    exact ⟨j, hj, rfl, rfl, by rw [hp, ← h]⟩
  next h =>
    have hprot := protOf_updProt (f := fun p => { p with protected_ := true }) (fun _ => rfl) hp
    have hid := id_of_jobOf hok hj
    have put (k : Job) (hk : k.id = job) (hok' : jobsOk (putJob s k).jobs = true) : jobOf (protectRecord (putJob s k) k handle 1) job = some { k with eqCount := k.eqCount + 1 } := by
      unfold protectRecord
      exact (congrArg (fun n => jobOf (jobEvent (putJob s k) n _) job) hk).trans (jobOf_jobEvent hok' (jobOf_putJob_id s k hk) _)
    split
    · exact ⟨_, put _ hid (jobsOk_put hok _), rfl, rfl, hprot⟩
    · exact ⟨_, put _ hid (jobsOk_put hok _), rfl, rfl, hprot⟩

theorem nowProtected_pair (s : State) (job handle : Nat) : (nowProtected s job handle).pair = s.pair := by
  unfold nowProtected
  split
  · rfl
  · dsimp only
    split
    · rfl
    · exact jobEvent_pair ..

/-- A tensor whose slot a drain has filled. -/
def slotted (d : Drain) (p : Protect) : Protect :=
  { p with slotStep := some d.step, slotIdx := d.slot, retained := p.retained.filter fun q => d.step < q.1 }

/-- A drain is over: it is listed no more, and its report is kept. -/
def drainOver (s : State) (d : Drain) (job handle : Nat) : State :=
  putOp { s with pair := { s.pair with drains := s.pair.drains.filter fun x => !(x.job == job && x.handle == handle) } }
    { kind := 1, subject := handle, job := some job, unit := true, position := d.bytes, total := d.bytes, state := if d.incomplete then 3 else 2
      startStroke := BitVec.ofNat 64 d.stroke }

/-- A drain is over with all that it was to bring, and the partner is told. -/
def drainWhole (s : State) (d : Drain) (j : Job) (job handle : Nat) : State :=
  let t := updJob (drainOver s d job handle) job fun j => updProt j handle (slotted d)
  ctrlTo t (srcOf t j) (t.pair.partner.getD 0) j.fjk "DRAIN_DONE" (handle * 2 ^ 64 + d.slot * 2 ^ 63 + d.step % 2 ^ 32)

theorem execMirrorDrainComplete_goes {d : Drain} (hj : jobOf s job = some j) (hagain : (protOf j handle).any (·.again) = false)
    (hd : s.pair.drains.find? (fun d => d.job == job && d.handle == handle) = some d) : exec (.mirrorDrainComplete job handle) s =
      if d.incomplete then .next (updJob (drainOver s d job handle) job fun j => updProt j handle fun p => { p with remirror := true }) else
      .next (if (jobOf (drainWhole s d j job handle) job).any fun k => (protOf k handle).any (covered (drainWhole s d j job handle) k)
        then nowProtected (drainWhole s d j job handle) job handle else drainWhole s d j job handle) := by
  show execMirrorDrainComplete job handle s = _
  unfold execMirrorDrainComplete
  simp only [hd, hj, hagain, Bool.false_eq_true, if_false] <;> rfl

/-- What the end of a drain leaves of its tensor's entry. -/
theorem drainWhole_prot {d : Drain} (hok : jobsOk s.jobs = true) (hj : jobOf s job = some j) (hp : protOf j handle = some p) :
    jobOf (drainWhole s d j job handle) job = some (updProt j handle (slotted d)) ∧ jobsOk (drainWhole s d j job handle).jobs = true ∧
    (drainWhole s d j job handle).pair.drains = s.pair.drains.filter (fun x => !(x.job == job && x.handle == handle)) ∧
    protOf (updProt j handle (slotted d)) handle = some (slotted d p) := by
  unfold drainWhole
  extract_lets t
  refine ⟨?_, ?_, ?_, protOf_updProt (fun _ => rfl) hp⟩
  · rw [jobOf, ctrlTo_jobs]
    exact jobOf_updJob_self (s := drainOver s d job handle) hok (fun _ => rfl) hj
  · rw [ctrlTo_jobs]
    exact jobsOk_updJob (s := drainOver s d job handle) hok ..
  · rw [ctrlTo_pair, updJob_pair]
    rfl

/-- The end of a drain that no commit has asked for again. -/
theorem execMirrorDrainComplete_ends {d : Drain} (hok : jobsOk s.jobs = true) (hj : jobOf s job = some j) (hp : protOf j handle = some p) (hagain : p.again = false)
    (hd : s.pair.drains.find? (fun d => d.job == job && d.handle == handle) = some d) :
    ∃ t k q, exec (.mirrorDrainComplete job handle) s = .next t ∧ t.pair.drains = s.pair.drains.filter (fun x => !(x.job == job && x.handle == handle)) ∧
      jobOf t job = some k ∧ protOf k handle = some q ∧ (d.incomplete = true → q = { p with remirror := true }) ∧
      (d.incomplete = false → q = { p with slotStep := some d.step, slotIdx := d.slot, retained := p.retained.filter (fun r => d.step < r.1), protected_ := q.protected_ } ∧
        q.protected_ = (p.protected_ || covered t k q)) := by
  have hgo := execMirrorDrainComplete_goes hj (by rw [hp]; exact hagain) hd
  by_cases hinc : d.incomplete = true
  · rw [if_pos hinc] at hgo
    refine ⟨_, _, _, hgo, ?_, jobOf_updJob_self (s := drainOver s d job handle) hok (fun _ => rfl) hj, protOf_updProt (fun _ => rfl) hp, fun _ => rfl,
      fun h => absurd (hinc.symm.trans h) (by decide)⟩
    rw [updJob_pair]
    rfl
  · obtain ⟨hk, hok', hdr, hprot⟩ := drainWhole_prot (d := d) hok hj hp
    rw [if_neg hinc, hk, Option.any_some, hprot, Option.any_some] at hgo
    by_cases hw : covered (drainWhole s d j job handle) (updProt j handle (slotted d)) (slotted d p) = true
    · rw [if_pos hw] at hgo
      obtain ⟨k, hk', hfjk, hcom, hq⟩ := nowProtected_prot hok' hk hprot
      have hpair := nowProtected_pair (drainWhole s d j job handle) job handle
      have hcov := covered_congr hpair hfjk hcom (p := slotted d p) (q := { slotted d p with protected_ := true }) rfl rfl rfl
      refine ⟨_, k, _, hgo, by rw [hpair, hdr], hk', hq, fun h => absurd h hinc, fun _ => ⟨rfl, ?_⟩⟩
      rw [hcov, hw, Bool.or_true]
    · rw [if_neg hw] at hgo
      refine ⟨_, _, _, hgo, hdr, hk, hprot, fun h => absurd h hinc, fun _ => ⟨rfl, ?_⟩⟩
      rw [Bool.eq_false_of_not_eq_true hw, Bool.or_false]
      rfl

/-- Settles O36: each message by its kind and sender, the gap timer, and the end of a drain. -/
theorem pairMessages : Obligations.PairMessages := by
  unfold Obligations.PairMessages
  refine ⟨?_, ?_, ?_, fun s l newest r rest hl hr hnew => ?_, fun s job handle d j p hok hj hp hagain hd => ?_⟩
  · rintro s u h hpart rfl
    have hp : isPartner (ackAsked (takeInbox s h []) h) h.src = true := (isPartner_taken ..).trans (isPartner_of_partner hpart)
    have hbox (data : List Byte) : isPartner (takeInbox s h data) h.src = true := isPartner_of_partner hpart
    have hpair := ackAsked_pair (takeInbox s h []) h
    have hjobs := ackAsked_jobs (takeInbox s h []) h
    refine ⟨fun tally => ⟨_, congrArg Host.Outcome.next (if_pos hp), ?_, rfl, hjobs⟩, fun a b => congrArg Host.Outcome.next (if_pos hp),
      fun a b c => congrArg Host.Outcome.next (if_pos hp), fun a => congrArg Host.Outcome.next (if_pos hp), fun a b c => congrArg Host.Outcome.next (if_pos hp),
      fun n => ⟨_, rfl, hjobs, ?_⟩, ⟨_, rfl, ?_⟩, fun data bad hpark => ?_, fun data bad hpark => ⟨?_, ?_⟩, fun data bad hpark => ?_⟩
    · show List.filter _ (ackAsked (takeInbox s h []) h).pair.unacked = _
      rw [hpair]
      rfl
    · show (takeTensors _ _ _ _).pair = _
      rw [hp]
      unfold takeTensors
      rw [hpair]
      rfl
    · have hpp : (ackAsked (takeInbox s h []) h).pair.partner = some h.src := by
        rw [hpair]
        exact hpart
      unfold takeUnbind
      dsimp only
      rw [if_pos (by simp [hpp])]
      exact ⟨rfl, hpp.trans hpart.symm, hjobs⟩
    · exact congrArg Host.Outcome.next ((storeGate_of_partner (hbox data) _).trans (if_neg hpark))
    · exact congrArg Host.Outcome.next ((storeGate_of_partner (hbox data) _).trans (if_pos hpark))
    · exact congrArg Host.Outcome.next ((storeGate_of_partner (hbox data) _).trans (if_pos hpark))
    · exact mirror_writes hpart hpark data bad
  · rintro s u h hpart rfl
    have hp : ¬isPartner (ackAsked (takeInbox s h []) h) h.src = true := by
      rw [isPartner_taken, hpart]
      exact Bool.false_ne_true
    have hbox (data : List Byte) : isPartner (takeInbox s h data) h.src = false := hpart
    refine ⟨fun data bad => ⟨_, congrArg Host.Outcome.next (storeGate_foreign (hbox data) _), rfl, rfl⟩,
      fun data bad => ⟨_, congrArg Host.Outcome.next (storeGate_foreign (hbox data) _), rfl, rfl⟩, fun tally => congrArg Host.Outcome.next (if_neg hp),
      fun a b => congrArg Host.Outcome.next (if_neg hp), fun a b c => congrArg Host.Outcome.next (if_neg hp), fun a => congrArg Host.Outcome.next (if_neg hp),
      fun a b c => congrArg Host.Outcome.next (if_neg hp), fun n => ⟨_, rfl, ?_, ackAsked_jobs (takeInbox s h []) h⟩⟩
    show (takeTensors _ _ _ _).pair.peerTensors = _
    rw [Bool.eq_false_of_not_eq_true hp]
    unfold takeTensors
    rw [ackAsked_pair]
    rfl
  · rintro s u h rfl
    exact ⟨fun _ _ _ => rfl, fun _ _ => rfl, fun _ => rfl, fun _ _ _ => rfl⟩
  · show execJournalGapTimeout s = _
    unfold execJournalGapTimeout
    rw [hl, hr, hnew]
  · obtain ⟨t, k, q, hgo, hdr, rest⟩ := execMirrorDrainComplete_ends hok hj hp hagain hd
    refine ⟨t, k, q, hgo, ?_, rest⟩
    rw [hdr, List.all_eq_true]
    exact fun x hx => (List.mem_filter.1 hx).2

end Sys2Proof.Notices
end

section
/-! Admission, execution and the ends of stitches (08 R239 to R256). -/

namespace Sys2Proof.Completion

open Sys2Proof Sys2Proof.Machine Sys2Proof.Laws

variable {s t u : State} {sid : Sid} {n op : Nat} {j : Job} {a : Active} {q : Queue}

/-! ### Executions -/

theorem runAct_ready (h : Ready s sid op j a) (f : State → Job → Active → State) : runAct s sid op f = .next (f (reachReads s j a) j a) := by
  obtain ⟨ha, hj, hrun, hslots⟩ := h
  unfold runAct
  simp only [ha, hj, hrun, hslots, Bool.false_eq_true, if_false, if_true]

theorem runGround_ready (h : Ready s sid op j a) (hi : a.injected = true) (f : State → Job → Active → State) :
    runGround s sid op f = .next (f (reachReads s j a) j a) := by
  unfold runGround
  rw [h.1, Option.any_some, hi, if_pos rfl]
  exact runAct_ready h f

/-- A stitch that is ready has nothing of its tensors to be drained first. -/
theorem execUpdate_ready (h : Ready s sid opUpdate j a) : exec (.update sid) s = .next (updateExec (reachReads s j a) j a) := by
  have hclear : drainClear s a = true := by
    have hrun := h.2.2.1
    simp only [canRun, mayStart, Bool.and_eq_true] at hrun
    exact hrun.1.1.2
  show execUpdate sid s = _
  unfold execUpdate
  rw [h.1]
  dsimp only
  rw [if_neg (by simp [hclear])]
  exact runAct_ready h updateExec

/-- Settles O12: each row that may run executes, by `runAct_ready` and `runGround_ready`. -/
theorem stitchExecutions : Obligations.StitchExecutions := by
  unfold Obligations.StitchExecutions
  refine ⟨fun s sid a ha hop hst => ?_, fun s sid j a => ⟨fun h => runAct_ready h _, fun h => runAct_ready h _, fun h => runAct_ready h _, fun h => runAct_ready h _,
    fun h => runAct_ready h _, execUpdate_ready, fun h => runAct_ready h _, fun h => runAct_ready h _, fun h => runAct_ready h _, fun h => runAct_ready h _,
    fun h => runAct_ready h _, fun h => runAct_ready h _⟩, fun s sid a ha hg hst hi => ?_,
    fun s sid j a hi => ⟨fun h => runGround_ready h hi _, fun h => runGround_ready h hi _, fun h => runGround_ready h hi _⟩⟩
  · show execNop sid s = _
    unfold execNop
    rw [ha]
    exact congrArg Host.Outcome.next (if_pos (by simp [hop, hst]))
  · show execGroundInject sid s = _
    unfold execGroundInject
    rw [ha]
    exact congrArg Host.Outcome.next (if_pos (by simp [hg, hst, hi]))

/-! ### The end of a stitch -/

theorem endAct_of (hj : jobOf s a.job = some j) : endAct s a =
    if comparesFirst s j a then putAct s { a with stage := .comparing }
    else if a.marks.discarded then endDiscarded s a
    else if a.recompute then endRecompute s a
    else if a.marks.poisoned then consumePoison s a
    else if a.marks.mute || j.halted then leaveMuted s a
    else if a.marks.escalated then releaseAct s a
    else if a.shadow then putAct s { a with stage := .comparing }
    else evaluateAct s j a := by
  unfold endAct
  rw [hj]

theorem execStitchComplete_ends (ha : actOf s sid = some a) (hst : a.stage = .finished) (hmate : (a.marks.poisoned && mateRunning s a) = false) (n : Nat) :
    exec (.stitchComplete sid n) s =
      .next (afterEnds (endAct (advance s (a.started.getD s.clk.now + n)) a) (advance s (a.started.getD s.clk.now + n))) := by
  show execStitchComplete sid n s = _
  unfold execStitchComplete
  rw [ha]
  dsimp only
  rw [if_neg (by simp [hst, hmate])]

/-- Settles O21: a finished stitch ends by its marks, in the order of `endAct_of`. -/
theorem stitchesEnd : Obligations.StitchesEnd := by
  unfold Obligations.StitchesEnd
  rintro s u sid n j a ha hst hj hmate rfl
  dsimp only
  rw [execStitchComplete_ends ha hst hmate n, endAct_of (s := advance s (a.started.getD s.clk.now + n)) hj]
  refine ⟨fun hc => by rw [if_pos hc], fun hc => ?_⟩
  rw [hc, if_neg Bool.false_ne_true]
  refine ⟨fun hd => by rw [if_pos hd], fun hd hr => by rw [hd, hr]; rfl, fun hd hr => ?_⟩
  rw [hd, hr, if_neg Bool.false_ne_true, if_neg Bool.false_ne_true]
  refine ⟨fun hp => by rw [if_pos hp], fun hp => ?_⟩
  rw [hp, if_neg Bool.false_ne_true]
  refine ⟨fun hm => by rw [if_pos hm], fun hm => ?_⟩
  rw [hm, if_neg Bool.false_ne_true]
  refine ⟨fun he => by rw [if_pos he], fun he => ?_⟩
  rw [he, if_neg Bool.false_ne_true]
  exact ⟨fun hs => by rw [if_pos hs], fun hs => by rw [hs]; rfl⟩

/-! ### Admission -/

/-- STITCH_ADMIT of a stitch that is no chained pair, on a queue that nothing stops. -/
theorem execStitchAdmit_single (hq : queueOf s n = some q) (hj : jobOf s q.job = some j) (hhead : q.head ≠ q.tail)
    (hst : q.state = .running ∨ q.state = .headWaiting ∨ q.state = .empty) (hpassed : q.passed = none) (hps : s.hub.pstate = 0) (hdp : s.hub.drowsePage = none)
    (hsingle : chainedHead s q = false) : exec (.stitchAdmit n) s =
      .next (if readyWaits j (slotStitch s q q.head.toNat) then admitHead (reachHead s j q) j n q else waitHead s n q) := by
  have hgo : ¬(decide (q.head = q.tail) || q.state == .rejected || q.state == .halted || q.state == .rewinding) = true := by
    obtain h | h | h := hst <;> simp [h, hhead]
  show execStitchAdmit n s = _
  unfold execStitchAdmit
  simp only [hq, hj, hps, hdp, hpassed, hsingle]
  rw [if_neg hgo]
  simp

theorem admitHead_single (hsingle : chainedHead s q = false) : admitHead s j n q =
    match checkStitch s j n q q.head.toNat false none with
    | .poison => poisonHead s n q
    | .reject r => rejectHead s n q r
    | .pass a => admitChecked s n a none := by
  unfold admitHead
  rw [hsingle]
  split <;> simp_all

theorem jobOf_jobEvent_ne (h : jobOf s n = some j) (hok : jobsOk s.jobs = true) {k : Nat} (hk : k ≠ n) (e : Event) : jobOf (jobEvent s n e) k = jobOf s k := by
  unfold jobEvent
  rw [h]
  dsimp only
  rw [jobOf, sendVector_jobs, draw_jobs]
  exact (jobOf_putJob_ne _ _ _ (by rw [id_of_jobOf hok h]; exact hk)).trans (by rw [jobOf, wrHost_jobs, wrHost_jobs, jobOf])

theorem jobEvent_free (h : jobOf s n = some j) (e : Event) : (jobEvent s n e).free = s.free + 1 := by
  unfold jobEvent
  rw [h]
  dsimp only
  rw [sendVector_free]
  show (putJob _ _).free + 1 = _
  simp

/-- A record for an open job takes a free value; it touches host memory, the job and its vector. -/
theorem jobEvent_frame (h : jobOf s n = some j) (e : Event) : jobEvent s n e =
    { s with free := s.free + 1, host := (jobEvent s n e).host, jobs := (jobEvent s n e).jobs, hub := (jobEvent s n e).hub, out := (jobEvent s n e).out } := by
  apply state_eq <;> simp [jobEvent_free h]

theorem rejectRecord_frame (s : State) (sid : Sid) (st : Stitch) (x : Nat) : rejectRecord s sid st x =
    { s with mem := (rejectRecord s sid st x).mem, host := (rejectRecord s sid st x).host } := by
  unfold rejectRecord
  split
  · exact wrBytes_frame ..
  · rfl

/-- A rejected head: its record is written, and its queue stops with the status. -/
def rejectedQueue (s : State) (n : Nat) (q : Queue) (r : Reject) : State :=
  saveQueue (rejectRecord s (stitchId q.job n q.head.toNat) (slotStitch s q q.head.toNat) r.status) n
    { q with state := .rejected, lastAdmit := BitVec.ofNat 8 r.status, passed := none, passedMate := none }

theorem rejectedQueue_frame (s : State) (n : Nat) (q : Queue) (r : Reject) : rejectedQueue s n q r =
    { s with mem := (rejectedQueue s n q r).mem, host := (rejectedQueue s n q r).host, queues := (rejectedQueue s n q r).queues } := by
  apply state_eq <;> simp [rejectedQueue]

/-- A rejected head whose record its job has been told. -/
theorem rejected_frame (hu : u = { s with mem := u.mem, host := u.host, queues := u.queues })
    (ht : t = { u with free := u.free + 1, host := t.host, jobs := t.jobs, hub := t.hub, out := t.out }) :
    t = { s with mem := t.mem, host := t.host, queues := t.queues, jobs := t.jobs, free := s.free + 1, hub := t.hub, out := t.out } := by
  rw [ht, hu]

/-- Settles O11: what admission answers, what a head that waits leaves, and what a rejected one does. -/
theorem admissionOutcomes : Obligations.AdmissionOutcomes := by
  unfold Obligations.AdmissionOutcomes
  refine ⟨fun s n q j hq hj hhead hst hpassed hps hdp hsingle hsingle' => ⟨fun hw => ?_, ?_⟩, fun s n q _ => ?_, fun s n q j r hok hj => ?_⟩
  · rw [execStitchAdmit_single hq hj hhead hst hpassed hps hdp hsingle, hw]
    rfl
  · rintro hw u rfl
    rw [execStitchAdmit_single hq hj hhead hst hpassed hps hdp hsingle, if_pos hw, admitHead_single hsingle']
    exact ⟨fun r hc => by rw [hc], fun hc => by rw [hc], fun a hc => by rw [hc]⟩
  · by_cases hwait : q.state = .headWaiting
    · have heq : waitHead s n q = putQueue s n q := if_pos (by simp [hwait])
      exact ⟨_, q, heq, queueOf_putQueue_self .., hwait, rfl, rfl, fun k hk => queueOf_putQueue_ne _ _ _ _ hk⟩
    · have heq : waitHead s n q = saveQueue s n { q with state := .headWaiting } := if_neg (by simp [hwait])
      exact ⟨_, _, heq, Doorbells.queueOf_saveQueue_self .., rfl, rfl, Doorbells.saveQueue_frame .., fun k hk => Doorbells.queueOf_saveQueue_ne _ hk _⟩
  · have heq : rejectHead s n q r = jobEvent (rejectedQueue s n q r) q.job
        { area := areaReject (stitchId q.job n q.head.toNat) n r.handle r.status r.place, sid := stitchId q.job n q.head.toNat
          opcode := (slotStitch s q q.head.toNat).opcode } := rfl
    have hframe := rejectedQueue_frame s n q r
    have hjobs : (rejectedQueue s n q r).jobs = s.jobs := by rw [hframe]
    have hj' : jobOf (rejectedQueue s n q r) q.job = some j := by
      rw [jobOf, hjobs]
      exact hj
    have hqueue (e : Event) (k : Nat) : queueOf (jobEvent (rejectedQueue s n q r) q.job e) k = queueOf (rejectedQueue s n q r) k := by
      rw [queueOf, jobEvent_queues, queueOf]
    refine ⟨_, _, _, heq, (hqueue ..).trans (Doorbells.queueOf_saveQueue_self ..), rfl, rfl, rfl, jobOf_jobEvent (by rw [hjobs]; exact hok) hj' _, rfl, ?_,
      fun k hk => (hqueue ..).trans ((Doorbells.queueOf_saveQueue_ne _ hk _).trans ?_), fun k hk => ?_⟩
    · exact rejected_frame hframe (jobEvent_frame hj' _)
    · rw [queueOf, rejectRecord_queues, queueOf]
    · refine (jobOf_jobEvent_ne hj' (by rw [hjobs]; exact hok) hk _).trans ?_
      rw [jobOf, hjobs, jobOf]

end Sys2Proof.Completion
end

section
/-! Responses to held stitches, replays, the commit and the Blotter (04 R108 to R121, 05 R143 to R153, R171, R172). -/

namespace Sys2Proof.Completion

open Sys2Proof Sys2Proof.Machine Sys2Proof.Laws

variable {s t u : State} {sid : Sid} {n job : Nat} {j : Job} {a b : Active}

/-! ### New scales -/

/-- Memory on this part or in the host's window has taken data, and nothing else has changed. -/
def Wrote (s t : State) : Prop := t = { s with mem := t.mem, host := t.host }

theorem Wrote.refl (s : State) : Wrote s s := rfl

theorem Wrote.trans (h : Wrote s t) (k : Wrote t u) : Wrote s u := by
  unfold Wrote at *
  rw [k, h]

theorem wrote_foldl {α β : Type} (g : β → State) (f : β → α → β) (hf : ∀ b x, Wrote (g b) (g (f b x))) (l : List α) (b : β) : Wrote (g b) (g (l.foldl f b)) := by
  induction l generalizing b with
  | nil => exact .refl _
  | cons x l ih => exact (hf b x).trans (ih _)

theorem recomputeScale_wrote (s : State) (o : Operand) (l : List Rat) : Wrote s (recomputeScale s o l).1 := by
  unfold recomputeScale
  split
  · exact .refl s
  · refine wrote_foldl Prod.fst _ (fun b x => ?_) _ (s, false)
    dsimp only
    split
    · exact .refl _
    · exact wrBytes_frame ..

theorem recomputeOf_wrote (s : State) (a : Active) : Wrote s (recomputeOf s a).1 := by
  unfold recomputeOf
  cases a.out with
  | none => exact .refl s
  | some o => exact recomputeScale_wrote ..

/-- New scales of gradients are written, and the job keeps which stitches run with them. -/
theorem recomputeGrads_frame (s : State) (job tag : Nat) : (recomputeGrads s job tag).1 =
    { s with mem := (recomputeGrads s job tag).1.mem, host := (recomputeGrads s job tag).1.host, jobs := (recomputeGrads s job tag).1.jobs } := by
  unfold recomputeGrads
  split
  · rfl
  · extract_lets gs r
    have hr : Wrote s r.1 := by
      unfold r
      refine wrote_foldl Prod.fst _ (fun b g => ?_) gs (s, false)
      exact recomputeScale_wrote b.1 ..
    rw [ScriptRows.updJob_eq, hr]

theorem newScales_frame (s : State) (a : Active) : newScales s a =
    { s with mem := (newScales s a).mem, host := (newScales s a).host, jobs := (newScales s a).jobs } := by
  unfold newScales
  extract_lets t
  have ht : Wrote s t := by
    unfold t
    split
    · exact recomputeOf_wrote s a
    · exact .refl s
  split
  · rw [recomputeGrads_frame, ht]
  · rw [ht]

theorem newScales_foldl (l : List Active) (s : State) : l.foldl newScales s =
    { s with mem := (l.foldl newScales s).mem, host := (l.foldl newScales s).host, jobs := (l.foldl newScales s).jobs } := by
  induction l generalizing s with
  | nil => rfl
  | cons a l ih =>
    rw [List.foldl_cons, ih, newScales_frame]

/-! ### Replays -/

/-- A stitch that is admitted again, with its old scales left to it and its counts at zero. -/
def renewed (b : Active) : Active :=
  { b with stage := .replaying, st := { b.st with scaleSrc := false }, counts := {}, conds := [], tiles := [], amax := []
           marks := { b.marks with toReplay := false, flagged := false, replayed := false } }

/-- A member of a stitch's group is held under a stitch's number. -/
def heldMember (s : State) (a b : Active) : Bool := (groupMembers s a).any fun x => x.stage == .held && x.sid == b.sid

/-- The group of a stitch has been admitted again. -/
def regrouped (s : State) (a : Active) : State :=
  let t := ((groupMembers s a).filter fun b => b.stage == .held).foldl newScales s
  { t with acts := s.acts.map fun b => if heldMember s a b then renewed b else b }

theorem execStitchGroupReplay_goes (ha : actOf s sid = some a) (hj : jobOf s a.job = some j) (hall : (groupMembers s a).all evaluated = true)
    (hund : (groupMembers s a).any undecided = false) (hrep : (groupMembers s a).any (fun b => b.marks.toReplay) = true) (hhalt : j.halted = false)
    (hrew : j.step.rewinding = false) : exec (.stitchGroupReplay sid) s = .next (regrouped s a) := by
  show execStitchGroupReplay sid s = _
  unfold execStitchGroupReplay
  rw [ha]
  dsimp only
  rw [if_neg (by simp [hall, hund, hrep, hj, hhalt, hrew])]
  unfold regrouped heldMember
  rw [show (List.foldl newScales s _).acts = s.acts by rw [newScales_foldl]]
  simp only [List.any_filter]
  rfl

theorem actOf_regrouped {k : Sid} (hb : actOf s k = some b) (a : Active) : actOf (regrouped s a) k = some (if heldMember s a b then renewed b else b) := by
  have hk : ((fun b : Active => b.sid == k) ∘ fun b => if heldMember s a b then renewed b else b) = fun b => b.sid == k := by
    funext x
    rw [Function.comp_apply]
    split <;> rfl
  show List.find? _ (List.map _ s.acts) = _
  rw [List.find?_map, hk, show List.find? (fun b : Active => b.sid == k) s.acts = some b from hb, Option.map_some]

theorem regrouped_frame (s : State) (a : Active) : regrouped s a =
    { s with mem := (regrouped s a).mem, host := (regrouped s a).host, jobs := (regrouped s a).jobs, acts := (regrouped s a).acts } := by
  unfold regrouped
  dsimp only
  rw [newScales_foldl]

/-- Settles O23: the response to a held stitch, the replay of its group and its end, and the start of a step replay. -/
theorem responsesAndReplays : Obligations.ResponsesAndReplays := by
  unfold Obligations.ResponsesAndReplays
  refine ⟨?_, fun s sid j a ha hj hall hund hrep hhalt hrew => ⟨_, execStitchGroupReplay_goes ha hj hall hund hrep hhalt hrew, regrouped_frame s a, fun k b hb => ?_⟩,
    fun s sid j a ha hj hst hgroup hpois hdisc hmute hhalt hesc => ⟨fun hsh => ?_, fun hsh => ?_⟩, fun s job j hj hreq hrew hhalt => ?_⟩
  · rintro s sid j a p q r ha hj hund hall hhalt rfl rfl rfl
    show execWatchResponse sid s = _
    unfold execWatchResponse
    simp only [ha, hj, hund, hall, hhalt] <;> rfl
  · refine ⟨_, actOf_regrouped hb a, ?_⟩
    show if heldMember s a b then _ else _
    split
    · exact ⟨rfl, rfl, rfl, rfl, rfl, rfl⟩
    · rfl
  · show execStitchGroupReplayDone sid s = _
    have hsid : a.sid = sid := by simpa using List.find?_some ha
    unfold execStitchGroupReplayDone
    have hleave : ¬(a.marks.escalated = true ∧ a.marks.halts = true) := by
      rw [← Bool.and_eq_true, hesc]
      exact Bool.false_ne_true
    simp [ha, hgroup, hst, hsh, hpois, hdisc, hmute, hhalt, hsid, hj, if_neg hleave]
  · show execStitchGroupReplayDone sid s = _
    unfold execStitchGroupReplayDone
    simp [ha, hgroup, hst, hsh, hpois]
  · show execStepReplay job s = _
    unfold execStepReplay
    rw [hj]
    exact congrArg Host.Outcome.next (if_pos (by simp [hreq, hrew, hhalt]))

/-! ### The commit -/

theorem noteStart_starts {now : Nat} (hok : jobsOk s.jobs = true) (hj : jobOf s a.job = some j) :
    ∃ k, jobOf (noteStart s a now) a.job = some k ∧ k = { j with step := { j.step with starts := k.step.starts } } ∧ (∀ x ∈ j.step.starts, x ∈ k.step.starts) ∧
      (onStepQueue s a = true → (k.step.starts.any fun x => x.1 == a.sid) = true) := by
  unfold noteStart
  by_cases hq : onStepQueue s a = true
  · rw [if_neg (by simp [hq])]
    by_cases hhas : (j.step.starts.any fun x => x.1 == a.sid) = true
    · refine ⟨j, ?_, rfl, fun _ h => h, fun _ => hhas⟩
      rw [jobOf_updJob_self hok (fun j => by split <;> rfl) hj, if_pos hhas]
    · refine ⟨{ j with step := { j.step with starts := j.step.starts ++ [(a.sid, now)] } }, ?_, rfl, fun _ h => List.mem_append_left _ h, fun _ => by simp⟩
      rw [jobOf_updJob_self hok (fun j => by split <;> rfl) hj, if_neg hhas]
  · rw [if_pos (by simp [hq])]
    exact ⟨j, hj, rfl, fun _ h => h, fun h => absurd h hq⟩

theorem noteStart_frame (s : State) (a : Active) (now : Nat) : noteStart s a now = { s with jobs := (noteStart s a now).jobs } := by
  unfold noteStart
  split
  · rfl
  · exact ScriptRows.updJob_eq ..

/-- A COMMIT has started. -/
def committing (s : State) (sid : Sid) (a : Active) : State :=
  let t := noteStart (updJob s a.job fun j => { j with step := { j.step with commitSid := some sid } }) a s.clk.now
  putAct t { a with stage := .running, started := some t.clk.now }

theorem committing_frame (s : State) (sid : Sid) (a : Active) : committing s sid a =
    { s with jobs := (committing s sid a).jobs, acts := (committing s sid a).acts } := by
  unfold committing
  dsimp only
  rw [noteStart_frame, ScriptRows.updJob_eq]
  rfl

theorem toStations_votes (s : State) (j : Job) (name : String) (arg : Nat) : (toStations s j name arg).out.votes = s.out.votes := by
  unfold toStations
  refine foldl_keep (fun s : State => s.out.votes) _ (fun s x => ?_) _ s
  unfold ctrlTo
  dsimp only
  rw [inject_out]

/-- A vote of this part has left, and the step's outcome is in doubt. -/
def voteOut (s : State) (job : Nat) (j : Job) : State :=
  let t := putJob s { j with step := { j.step with voteSent := true, voted := (voteOf j).levels }, inDoubt := true }
  { t with out := { t.out with votes := t.out.votes ++ [(job, voteOf j)] } }

/-- The result of a vote that this part has sent. -/
theorem execCommitVoteResult_sent (hj : jobOf s job = some j) (hsid : j.step.commitSid.isSome = true) (hsent : j.step.voteSent = true) (v : Vote) :
    exec (.commitVoteResult job v) s =
      if j.halted || v.halt || v.step ≠ BitVec.ofNat 64 (j.committed + 1) then
        .next (abortUnstarted (haltJob s job) fun a => a.job == job && a.st.opcode == opCommit && a.started.isSome)
      else if v.replay then
        .next (startStepReplay (putJob s { j with step := { j.step with replayTag := if j.step.replayRequested then j.step.replayTag else 0
                                                                        replayCond := if j.step.replayRequested then j.step.replayCond else 0 } }) job)
      else if stepHeld s job then .next s
      else .next (commitStep s job v.levels) := by
  show execCommitVoteResult job v s = _
  unfold execCommitVoteResult
  rw [hj]
  dsimp only
  rw [if_neg (by simp [hsent, Option.isSome_iff_ne_none.1 hsid])]

/-- Settles O24: COMMIT starts, its vote is sent, and the result of the vote. -/
theorem commitRows : Obligations.CommitRows := by
  unfold Obligations.CommitRows
  refine ⟨fun s sid j a hok ha hj hop hst hheld hnone => ?_, fun s job j hok hj hsid hsent hheld hclear => ?_, fun s job v j hj hsid hsent => ⟨fun hbad => ?_, fun hhalt hv hstep =>
    ⟨fun hrep hheld => ?_, fun hrep hheld => ?_, fun hrep hreq => ?_, fun hrep hreq => ?_⟩⟩⟩
  · have hgo : exec (.commit sid) s = .next (committing s sid a) := by
      show execCommit sid s = _
      unfold execCommit
      rw [ha]
      dsimp only
      exact if_pos (by simp [hop, hst, hheld, hj, hnone])
    obtain ⟨k, hk, hkeq, hstarts, hown⟩ := noteStart_starts (a := a) (now := s.clk.now) (jobsOk_updJob hok a.job fun j => { j with step := { j.step with commitSid := some sid } })
      (jobOf_updJob_self hok (fun _ => rfl) hj)
    have hsid : a.sid = sid := by simpa using List.find?_some ha
    have hact : actOf (committing s sid a) sid = some { a with stage := .running, started := some s.clk.now } := by
      unfold committing
      dsimp only
      rw [noteStart_clk, updJob_clk, ← hsid]
      exact actOf_putAct_self _ { a with stage := .running, started := some s.clk.now } a (by rw [actOf, noteStart_acts, updJob_acts, ← actOf]; exact hsid ▸ ha)
    refine ⟨_, k, _, hgo, committing_frame s sid a, hk, hkeq, hstarts, fun hq => hown ?_, hact, rfl⟩
    · rw [onStepQueue, queueOf, updJob_queues]
      exact hq
  · have hgo : exec (.commitVoteSend job) s = .next (toStations (voteOut s job j) j "COMMIT_VOTE") := by
      show execCommitVoteSend job s = _
      unfold execCommitVoteSend
      rw [hj]
      dsimp only
      exact if_pos (by simp [hsid, hsent, hheld, hclear])
    refine ⟨_, _, hgo, ?_, ?_, rfl, toStations_acts .., toStations_mem ..⟩
    · rw [toStations_votes]
      rfl
    · rw [jobOf, toStations_jobs]
      exact jobOf_putJob_id s _ (id_of_jobOf (j := j) hok hj)
  · rw [execCommitVoteResult_sent hj hsid hsent, if_pos]
    obtain h | h | h := hbad <;> simp [h]
  · rw [execCommitVoteResult_sent hj hsid hsent, if_neg (by simp [hhalt, hv, hstep]), if_neg (by simp [hrep]), if_neg (by simp [hheld])]
  · rw [execCommitVoteResult_sent hj hsid hsent, if_neg (by simp [hhalt, hv, hstep]), if_neg (by simp [hrep]), if_pos hheld]
  · rw [execCommitVoteResult_sent hj hsid hsent, if_neg (by simp [hhalt, hv, hstep]), if_pos hrep, hreq]
    rfl
  · rw [execCommitVoteResult_sent hj hsid hsent, if_neg (by simp [hhalt, hv, hstep]), if_pos hrep, hreq]
    rfl

/-! ### A record that is recalled -/

/-- A job whose Blotter lies outside HBM, with a record to be recalled. -/
def farJob : Job := { Tests.job1 with blot := { cfg := { base := Granules.pastHbm, size := 0x1000 }, recs := [Tests.recallRec] } }

/-- The job's state, with a pending entry for the granule at which the kept area begins. -/
def farRecall : State := { Tests.blotUp { base := Granules.pastHbm, size := 0x1000 } Tests.recallRec with mem := Granules.pendingPastHbm }

theorem farRecall_found : jobsOk farRecall.jobs = true ∧ jobOf farRecall 1 = some farJob ∧
    farJob.blot.recs.find? (fun q => q.handle == 4 && q.recalling && (q.loc == .atPeer || q.loc == .atHost)) = some Tests.recallRec ∧
    Tests.recallRec.loc = .atPeer ∧ inHost Granules.pastHbm = false ∧ Tests.recallRec.movedBad = false := by decide +kernel

theorem farRecall_place : placeAt farRecall 1 .kept Tests.recallRec.bytes = some (farRecall, Granules.pastHbm) := rfl

/-- After the recall the first byte of the kept area reads as the pending entry has it. -/
theorem farRecall_reads : (match exec (.stashRecallComplete 1 4) farRecall with | .next t => memByte t.mem Granules.pastHbm | _ => 0) = 5 := by decide +kernel

/-- Refutes O25: a record that is recalled to an area outside HBM, which no condition excludes, does not read as its bytes where a pending entry, which memory's form
allows there, still shows its own. -/
theorem not_blotterRows : ¬ Obligations.BlotterRows := by
  unfold Obligations.BlotterRows
  rintro ⟨-, hrecall, -⟩
  obtain ⟨hok, hj, hfind, hloc, hhost, hbad⟩ := farRecall_found
  obtain ⟨hwf, hwcb, hret⟩ := Granules.pendingPastHbm_formed
  obtain ⟨t, k, hgo, -, -, -, hbyte⟩ := hrecall farRecall 1 4 Granules.pastHbm farJob Tests.recallRec hok hwf hwcb hj hfind hloc farRecall_place hhost hbad
  have hread := hbyte Granules.pastHbm hret
  have hgot := farRecall_reads
  rw [hgo] at hgot
  dsimp only at hgot
  rw [hgot] at hread
  exact absurd hread (by decide +kernel)

end Sys2Proof.Completion
end

section
/-! Loads, stores and tile moves of the vector engine (06 R185 to R187, R192). -/

namespace Sys2Proof.ScriptRows

open Sys2Proof Sys2Proof.Machine Sys2Proof.Laws Sys2Proof.Elementwise

variable {s : State} {sid : Sid} {n op : Nat} {j : Job} {a : Active} {r q : Run} {c : Instr} {f : VeEnv → Run → Option VeRes}

/-! ### Elements that are written at distinct positions -/

theorem foldl_putEl (ty reg d k : Nat) {l : List (Nat × Nat × BitVec 8 × Bool)} (hl : (l.map Prod.fst).Nodup) (hlt : ∀ x ∈ l, x.1 < 4096) (hk : k < 4096)
    (r : Run) (hr : rising r.vec = true) : rising (l.foldl (fun r e => putEl r ty reg e.1 e.2.1 e.2.2.2) r).vec = true ∧
    getEl (l.foldl (fun r e => putEl r ty reg e.1 e.2.1 e.2.2.2) r) ty d k =
      if d = reg then (l.find? fun x => x.1 == k).elim (getEl r ty d k) fun x => x.2.1 % 2 ^ elBits ty else getEl r ty d k := by
  induction l generalizing r with
  | nil => exact ⟨hr, by simp⟩
  | cons x l ih =>
    obtain ⟨hx, hl⟩ := List.nodup_cons.1 hl
    obtain ⟨hget, hrise⟩ := getEl_putEl r ty reg x.1 x.2.1 d k x.2.2.2 hr (hlt x (List.mem_cons_self ..)) hk
    obtain ⟨hrise', hrest⟩ := ih hl (fun y hy => hlt y (List.mem_cons_of_mem _ hy)) _ hrise
    refine ⟨hrise', hrest.trans ?_⟩
    rw [hget, List.find?_cons]
    by_cases hd : d = reg
    · by_cases hxk : x.1 = k
      · have hnone : l.find? (fun y => y.1 == k) = none :=
          List.find?_eq_none.2 fun y hy hyk => hx (List.mem_map.2 ⟨y, hy, (beq_iff_eq.1 hyk).trans hxk.symm⟩)
        simp [hd, hxk, hnone]
      · simp [hd, Ne.symm hxk, beq_eq_false_iff_ne.2 hxk]
    · simp [hd]

theorem getEl_putEls_pairs (ty reg d : Nat) {k : Nat} {l : List (Nat × Nat × BitVec 8 × Bool)} (hl : (l.map Prod.fst).Nodup) (hlt : ∀ x ∈ l, x.1 < 4096) (hk : k < 4096)
    (hr : rising r.vec = true) : getEl (putEls r ty reg l) ty d k =
      if d = reg then (l.find? fun x => x.1 == k).elim (getEl r ty d k) fun x => x.2.1 % 2 ^ elBits ty else getEl r ty d k :=
  (foldl_putEl ty reg d k hl hlt hk r hr).2

theorem rising_putEls (ty reg : Nat) {l : List (Nat × Nat × BitVec 8 × Bool)} (hl : (l.map Prod.fst).Nodup) (hlt : ∀ x ∈ l, x.1 < 4096)
    (hr : rising r.vec = true) : rising (putEls r ty reg l).vec = true := (foldl_putEl ty reg 0 0 hl hlt (by decide) r hr).1

/-! ### Instructions that go on -/

theorem loaded_frame {s u t : State} (hu : u = { s with mem := u.mem }) (ht : t = { u with runs := t.runs, acts := t.acts, free := t.free }) :
    t = { s with runs := t.runs, acts := t.acts, free := t.free, mem := t.mem } ∧ t.mem = u.mem := by
  refine ⟨?_, by rw [ht]⟩
  rw [ht, hu]

/-- A load that goes on: pending entries have drained, and every byte reads as before. -/
theorem load_goes (h : Amid s sid n op j a r) (hwf : Memory.wf s.mem.bytes = true) (hwcb : Memory.wcbOk s.mem.wcb = true) (hc : exec c s = veRow sid n op s f)
    (hf : f (envOf s j a r) r = some { run := q }) (hq : (q.sid = r.sid ∧ q.index = r.index) ∧ q.executed = r.executed ∧ q.state = r.state) :
    ∃ t, exec c s = .next t ∧ RunReads s t sid n (went q (r.pc + 1)) := by
  obtain ⟨hkey, hex, hst⟩ := hq
  obtain ⟨t, hrow, hrun, ht⟩ := veRow_goes h.1 f _ hf rfl rfl h.2 hkey hex hst
  obtain ⟨hframe, hmem⟩ := loaded_frame (reachLoads_mem s j a _) ht
  refine ⟨t, hc.trans hrow, hrun, hframe, fun x hx => ?_⟩
  rw [hmem]
  exact ((reachLoads_reads s j a _ hwf hwcb).2.2 x hx).2

/-- A store that goes on. -/
theorem store_goes (h : Amid s sid n op j a r) (ho : (op = 0x10 || op = 0x12 || op = 0x15) = false) (hc : exec c s = veRow sid n op s f)
    (hf : f (envOf s j a r) r = some { run := q }) (hq : (q.sid = r.sid ∧ q.index = r.index) ∧ q.executed = r.executed ∧ q.state = r.state) :
    ∃ t, exec c s = .next t ∧ RunIs s t sid n (went q (r.pc + 1)) := by
  obtain ⟨hkey, hex, hst⟩ := hq
  obtain ⟨t, hrow, hrun⟩ := veRow_goes_plain h.1 ho f _ hf rfl rfl h.2 hkey hex hst
  exact ⟨t, hc.trans hrow, hrun⟩

/-! ### Loads -/

/-- A load of elements touches registers, their flags, and what is counted of what it read. -/
theorem loadEls_fields (e : VeEnv) (r : Run) (v : View) (cover : List (Nat × Nat)) (take raise : Nat → Bool) : loadEls e r v cover take raise =
    { r with vec := (loadEls e r v cover take raise).vec, badVec := (loadEls e r v cover take raise).badVec, flags := (loadEls e r v cover take raise).flags,
             poisoned := (loadEls e r v cover take raise).poisoned, nonfinite := (loadEls e r v cover take raise).nonfinite } := by
  unfold loadEls
  dsimp only
  rw [putEls_fields]

/-- Each element of a load is that of its place in the tensor. -/
theorem getEl_loadEls (e : VeEnv) (v : View) {cover : List (Nat × Nat)} {take : Nat → Bool} (raise : Nat → Bool) (d : Nat) {k : Nat}
    (hnodup : ((cover.filter fun c => take c.1).map Prod.fst).Nodup) (hlt : ∀ c ∈ cover.filter fun c => take c.1, c.1 < 4096) (hk : k < 4096)
    (hr : rising r.vec = true) : getEl (loadEls e r v cover take raise) e.w.ty d k =
      if d = e.w.dst then ((cover.filter fun c => take c.1).find? fun c => c.1 == k).elim (getEl r e.w.ty d k)
        fun c => (loadEl e (modeOf e.a r) v c.2).1 % 2 ^ elBits e.w.ty
      else getEl r e.w.ty d k := by
  show getEl (putEls r e.w.ty e.w.dst (List.map _ _)) e.w.ty d k = _
  rw [getEl_putEls_pairs _ _ _ (by rw [List.map_map]; exact hnodup) (fun x hx => by obtain ⟨c, hc, rfl⟩ := List.mem_map.1 hx; exact hlt c hc) hk hr, List.find?_map, Option.elim_map]
  rfl

theorem getEl_advanceCursor (r : Run) (k ty d i : Nat) : getEl (advanceCursor r k) ty d i = getEl r ty d i := rfl

/-- A load leaves its run so: registers, flags and counts have changed, and the elements of its destination are those given. -/
def LoadsTo (c : Instr) (s : State) (sid : Sid) (n : Nat) (r : Run) (dst : Nat) (cursors : List Nat) (bad ty : Nat) (val : Nat → Option Nat) : Prop :=
  ∃ t q, exec c s = .next t ∧ RunReads s t sid n (went q (r.pc + 1)) ∧
    q = { r with vec := q.vec, badVec := q.badVec, flags := q.flags, poisoned := q.poisoned, malformed := r.malformed + bad, cursors := cursors, nonfinite := q.nonfinite } ∧
    ∀ d i, i < 4096 → getEl q ty d i = if d = dst then (val i).elim (getEl r ty d i) (· % 2 ^ elBits ty) else getEl r ty d i

theorem loadsTo_of (h : Amid s sid n op j a r) (hwf : Memory.wf s.mem.bytes = true) (hwcb : Memory.wcbOk s.mem.wcb = true) (hc : exec c s = veRow sid n op s f)
    (hf : f (envOf s j a r) r = some { run := q }) {dst bad ty : Nat} {cursors : List Nat} {val : Nat → Option Nat}
    (hq : q = { r with vec := q.vec, badVec := q.badVec, flags := q.flags, poisoned := q.poisoned, malformed := r.malformed + bad, cursors := cursors, nonfinite := q.nonfinite })
    (hget : ∀ d i, i < 4096 → getEl q ty d i = if d = dst then (val i).elim (getEl r ty d i) (· % 2 ^ elBits ty) else getEl r ty d i) :
    LoadsTo c s sid n r dst cursors bad ty val := by
  obtain ⟨t, hgo, hrun⟩ := load_goes h hwf hwcb hc hf (by rw [hq]; exact ⟨⟨rfl, rfl⟩, rfl, rfl⟩)
  exact ⟨t, q, hgo, hrun, hq, hget⟩

/-! ### Stores -/

/-- A store leaves its run so: the writes given are pending, and flags and counts have changed. -/
def StoresTo (c : Instr) (s : State) (sid : Sid) (n : Nat) (r : Run) (cursors : List Nat) (bad : Nat) (l : List (Nat × OutVal × Bool)) : Prop :=
  ∃ t q, exec c s = .next t ∧ RunIs s t sid n (went q (r.pc + 1)) ∧
    q = { r with writes := r.writes ++ l, flags := q.flags, poisoned := q.poisoned, malformed := r.malformed + bad, cursors := cursors }

theorem storesTo_of (h : Amid s sid n op j a r) (ho : (op = 0x10 || op = 0x12 || op = 0x15) = false) (hc : exec c s = veRow sid n op s f)
    (hf : f (envOf s j a r) r = some { run := q }) {bad : Nat} {cursors : List Nat} {l : List (Nat × OutVal × Bool)}
    (hq : q = { r with writes := r.writes ++ l, flags := q.flags, poisoned := q.poisoned, malformed := r.malformed + bad, cursors := cursors }) :
    StoresTo c s sid n r cursors bad l := by
  obtain ⟨t, hgo, hrun⟩ := store_goes h ho hc hf (by rw [hq]; exact ⟨⟨rfl, rfl⟩, rfl, rfl⟩)
  exact ⟨t, q, hgo, hrun, hq⟩

/-- What a store puts out for an element: its value under the output's type, and whether it depends on poison. -/
def storedEl (e : VeEnv) (r : Run) (i : Nat) : OutVal × Bool :=
  ((storeAs (modeOf e.a r) (e.a.out.elim 0 fun o => o.desc.type) e.w.ty (getEl r e.w.ty e.w.sa i)).1, elBad r e.w.ty e.w.sa i || chooseBad r e.w i)

theorem storeEls_eq (e : VeEnv) (r : Run) (cover : List (Nat × Nat)) : storeEls e r cover =
    { r with writes := r.writes ++ (cover.filter fun c => (activeEls r e.w).contains c.1).map fun c => (c.2, storedEl e r c.1)
             flags := (storeEls e r cover).flags, poisoned := (storeEls e r cover).poisoned } := by
  unfold storeEls
  simp only [List.map_map]
  rfl

/-! ### Gathers and scatters -/

/-- The index of an element lies in a tensor of `m` elements. -/
def indexInside (r : Run) (reg m i : Nat) : Bool := 0 ≤ indexEl r reg i && indexEl r reg i < (m : Int)

/-- What VGATH writes for an element: position, value, flags, poison, and whether its index is outside and whether it read poison. -/
def gatherEl (e : VeEnv) (r : Run) (v : View) (i : Nat) : Nat × Nat × BitVec 8 × Bool × Bool × Bool :=
  let k := indexEl r e.w.sa i
  let b := elBad r 2 e.w.sa i || chooseBad r e.w i
  if k < 0 || (elems v.desc : Int) ≤ k then (i, 0, 0, b, true, false) else
  let x := loadEl e (modeOf e.a r) v k.toNat
  (i, x.1, x.2, b || loadBad v k.toNat, false, loadBad v k.toNat)

theorem indexInside_not (r : Run) (reg m i : Nat) : (indexEl r reg i < 0 || (m : Int) ≤ indexEl r reg i) = !indexInside r reg m i := by
  unfold indexInside
  by_cases h : 0 ≤ indexEl r reg i <;> by_cases h' : indexEl r reg i < (m : Int) <;> simp [h, h', Int.not_lt.2, Int.not_le.1, not_lt.1]

theorem gatherEl_eq (e : VeEnv) (r : Run) (v : View) (i : Nat) : gatherEl e r v i =
    if indexInside r e.w.sa (elems v.desc) i then
      (i, (loadEl e (modeOf e.a r) v (indexEl r e.w.sa i).toNat).1, (loadEl e (modeOf e.a r) v (indexEl r e.w.sa i).toNat).2,
        elBad r 2 e.w.sa i || chooseBad r e.w i || loadBad v (indexEl r e.w.sa i).toNat, false, loadBad v (indexEl r e.w.sa i).toNat)
    else (i, 0, 0, elBad r 2 e.w.sa i || chooseBad r e.w i, true, false) := by
  unfold gatherEl
  dsimp only
  rw [indexInside_not]
  cases indexInside r e.w.sa (elems v.desc) i <;> rfl

theorem gatherEl_pos (e : VeEnv) (r : Run) (v : View) (i : Nat) : (gatherEl e r v i).1 = i := by rw [gatherEl_eq]; split <;> rfl

theorem gatherEl_value (e : VeEnv) (r : Run) (v : View) (i : Nat) :
    (gatherEl e r v i).2.1 = if indexInside r e.w.sa (elems v.desc) i then (loadEl e (modeOf e.a r) v (indexEl r e.w.sa i).toNat).1 else 0 := by
  rw [gatherEl_eq]; split <;> rfl

theorem gatherEl_outside (e : VeEnv) (r : Run) (v : View) (i : Nat) : (gatherEl e r v i).2.2.2.2.1 = !indexInside r e.w.sa (elems v.desc) i := by
  rw [gatherEl_eq]; split <;> simp_all

/-- The elements that VGATH writes. -/
def gathered (e : VeEnv) (r : Run) (v : View) : List (Nat × Nat × BitVec 8 × Bool) :=
  (activeEls r e.w).map fun i => (i, (gatherEl e r v i).2.1, (gatherEl e r v i).2.2.1, (gatherEl e r v i).2.2.2.1)

/-- The run after VGATH. -/
def gatheredRun (e : VeEnv) (r : Run) (v : View) : Run :=
  { putEls r e.w.ty e.w.dst (gathered e r v) with
    malformed := r.malformed + ((activeEls r e.w).filter fun i => !indexInside r e.w.sa (elems v.desc) i).length
    poisoned := r.poisoned || (activeEls r e.w).any fun i => (gatherEl e r v i).2.2.2.2.2
    nonfinite := r.nonfinite + loadNf v ((((activeEls r e.w).map (indexEl r e.w.sa)).filter fun k => 0 ≤ k && k < (elems v.desc : Int)).map (·.toNat)) }

theorem veVgath_eq {e : VeEnv} {v : View} (hv : slotView e e.w.sb = some v) : veVgath e r = some { run := gatheredRun e r v } := by
  have hes : ((activeEls r e.w).map (gatherEl e r v)).map (fun x => (x.1, x.2.1, x.2.2.1, x.2.2.2.1)) = gathered e r v := by
    rw [List.map_map]
    exact List.map_congr_left fun i _ => by rw [Function.comp_apply, gatherEl_pos]
  have hbad : (((activeEls r e.w).map (gatherEl e r v)).filter fun x => x.2.2.2.2.1).length = ((activeEls r e.w).filter fun i => !indexInside r e.w.sa (elems v.desc) i).length := by
    rw [List.filter_map, List.length_map]
    exact congrArg List.length (List.filter_congr fun i _ => gatherEl_outside e r v i)
  have hany : ((activeEls r e.w).map (gatherEl e r v)).any (fun x => x.2.2.2.2.2) = (activeEls r e.w).any fun i => (gatherEl e r v i).2.2.2.2.2 := List.any_map
  rw [veVgath, hv]
  unfold gatheredRun
  rw [← hes, ← hbad, ← hany]
  rfl

/-- The run after VSCAT. -/
def scatteredRun (e : VeEnv) (r : Run) : Run :=
  { storeEls e r (((activeEls r e.w).filter (indexInside r e.w.sb (slotElems e 3))).map fun i => (i, (indexEl r e.w.sb i).toNat)) with
    writes := r.writes ++ ((activeEls r e.w).filter (indexInside r e.w.sb (slotElems e 3))).map fun i =>
      ((indexEl r e.w.sb i).toNat, (storedEl e r i).1, (storedEl e r i).2 || elBad r 2 e.w.sb i)
    malformed := r.malformed + ((activeEls r e.w).filter fun i => !indexInside r e.w.sb (slotElems e 3) i).length }

theorem zip_map_self {α β : Type} (g : α → β) (l : List α) : (l.map g).zip l = l.map fun x => (g x, x) := by
  induction l with
  | nil => rfl
  | cons x l ih => rw [List.map_cons, List.zip_cons_cons, ih, List.map_cons]

theorem scatter_writes (e : VeEnv) (r : Run) (ok : Nat → Bool) (g : Nat → Nat) :
    (storeEls e r (((activeEls r e.w).filter ok).map fun i => (i, g i))).writes = r.writes ++ ((activeEls r e.w).filter ok).map fun i => (g i, storedEl e r i) := by
  rw [storeEls_eq]
  refine congrArg (r.writes ++ ·) ?_
  have hall : ((((activeEls r e.w).filter ok).map fun i => (i, g i)).filter fun c => (activeEls r e.w).contains c.1) = ((activeEls r e.w).filter ok).map fun i => (i, g i) := by
    refine List.filter_eq_self.2 fun c hc => ?_
    obtain ⟨i, hi, rfl⟩ := List.mem_map.1 hc
    exact List.contains_iff_mem.2 (List.mem_filter.1 hi).1
  rw [hall, List.map_map]
  rfl

theorem veVscat_eq (e : VeEnv) (r : Run) : veVscat e r = some { run := scatteredRun e r } := by
  have hw := scatter_writes e r (indexInside r e.w.sb (slotElems e 3)) fun i => (indexEl r e.w.sb i).toNat
  have hl := zip_map_self (fun i => ((indexEl r e.w.sb i).toNat, storedEl e r i)) ((activeEls r e.w).filter (indexInside r e.w.sb (slotElems e 3)))
  have hnew : ((((storeEls e r (((activeEls r e.w).filter (indexInside r e.w.sb (slotElems e 3))).map fun i => (i, (indexEl r e.w.sb i).toNat))).writes.drop r.writes.length).zip
      ((activeEls r e.w).filter (indexInside r e.w.sb (slotElems e 3)))).map fun x => (x.1.1, x.1.2.1, x.1.2.2 || elBad r 2 e.w.sb x.2)) =
      ((activeEls r e.w).filter (indexInside r e.w.sb (slotElems e 3))).map fun i => ((indexEl r e.w.sb i).toNat, (storedEl e r i).1, (storedEl e r i).2 || elBad r 2 e.w.sb i) := by
    rw [hw, List.drop_left, hl, List.map_map]
    rfl
  unfold scatteredRun
  rw [← hnew]
  rfl

/-! ### Tiles -/

/-- The elements that TQPOP writes: the words of its tile, none with `VL` = 0. -/
def poppedEls (e : VeEnv) (r : Run) (x : Tile) : List (Nat × Nat × BitVec 8 × Bool) :=
  if r.vl = 0 then [] else (List.range 512).map fun i => (i, moveEl (modeOf e.a r) 0 (x.data.getD i 0).toNat, (0 : BitVec 8), x.bad.contains i)

/-- The run after TQPOP. -/
def poppedRun (e : VeEnv) (r : Run) (x : Tile) : Run := { putEls r 0 e.w.dst (poppedEls e r x) with tile := some x }

theorem poppedEls_flags (e : VeEnv) (r : Run) (x : Tile) : (poppedEls e r x).foldl (fun f y => f ||| y.2.2.1) r.flags = r.flags := by
  unfold poppedEls
  split
  · rfl
  · rw [List.foldl_map]
    exact foldl_or_zero _ _

theorem poppedRun_fields (e : VeEnv) (r : Run) (x : Tile) : poppedRun e r x = { r with vec := (poppedRun e r x).vec, badVec := (poppedRun e r x).badVec, tile := some x } := by
  unfold poppedRun
  rw [putEls_fields, poppedEls_flags]

theorem getEl_poppedRun (e : VeEnv) {r : Run} (x : Tile) (d : Nat) {i : Nat} (hi : i < 4096) (hr : rising r.vec = true) :
    getEl (poppedRun e r x) 0 d i = if d = e.w.dst ∧ r.vl ≠ 0 ∧ i < 512 then moveEl (modeOf e.a r) 0 (x.data.getD i 0).toNat % 2 ^ 32 else getEl r 0 d i := by
  show getEl (putEls r 0 e.w.dst (poppedEls e r x)) 0 d i = _
  unfold poppedEls
  by_cases hz : r.vl = 0
  · rw [if_pos hz, if_neg (fun h => h.2.1 hz)]; rfl
  · rw [if_neg hz, getEl_putEls _ _ _ _ _ _ _ _ _ hr (fun k hk => (List.mem_range.1 hk).trans (by decide)) hi]
    simp [hz, elBits]

theorem streamEnded_of_queue {e : VeEnv} {p : Active} {x : Tile} {rest stream : List Tile} (hp : e.prod = some p)
    (ht : tget p.tiles r.index = some { stream := stream, queue := x :: rest }) : streamEnded e r = false := by
  simp [streamEnded, nibTiles, hp, ht]

theorem veTqpop_eq {p : Active} {x : Tile} {rest stream : List Tile} (hp : chainedProduct s a = some p)
    (ht : tget p.tiles r.index = some { stream := stream, queue := x :: rest }) :
    veTqpop (envOf s j a r) r = some { run := poppedRun (envOf s j a r) r x, popped := true } := by
  have hn : nibTiles (envOf s j a r) r = some { stream := stream, queue := x :: rest } := by
    unfold nibTiles
    rw [show (envOf s j a r).prod = some p from hp]
    exact ht
  rw [veTqpop, streamEnded_of_queue (e := envOf s j a r) hp ht, hn]
  rfl

theorem actOf_putAct_of_mem {p : Active} (b : Active) (hp : p ∈ s.acts) (hb : b.sid = p.sid) : actOf (putAct s b) p.sid = some b := by
  unfold actOf putAct
  rw [List.find?_map]
  cases hfind : s.acts.find? ((fun c : Active => c.sid == p.sid) ∘ fun c => if c.sid == b.sid then b else c) with
  | none =>
    have := List.find?_eq_none.1 hfind p hp
    simp [hb] at this
  | some c =>
    have hc := List.find?_some hfind
    by_cases hcb : c.sid = b.sid
    · simp [hcb]
    · simp [hcb] at hc
      exact absurd (hc.trans hb.symm) hcb

theorem chainedProduct_mem {p : Active} (hp : chainedProduct s a = some p) : p ∈ s.acts := by
  unfold chainedProduct at hp
  split at hp
  · exact List.mem_of_find?_eq_some hp
  · exact absurd hp (by simp)

/-- A tile that is popped leaves the queue of its run, in the stitch that produces it. -/
theorem actOf_veApply_popped (h : Stands s sid n 0x14 j a r) {p : Active} {x : Tile} {rest stream : List Tile} {y : VeRes} (hp : chainedProduct s a = some p)
    (ht : tget p.tiles r.index = some { stream := stream, queue := x :: rest }) :
    y.popped = true → y.fault = none → y.draws = false → y.stop = false → y.jump.getD (r.pc + 1) < a.script.length →
    actOf (veApply (envOf s j a r) r y) p.sid = some { p with tiles := tset p.tiles r.index { stream := stream, queue := rest } } := by
  intro hpop hf hd hs hj
  have htadj : tadj p.tiles r.index {} (fun t => { t with queue := t.queue.drop 1 }) = tset p.tiles r.index { stream := stream, queue := rest } := by
    unfold tadj tgetD
    rw [ht]
    rfl
  unfold veApply
  rw [hpop, hf, hd, hs, envOf_s h rfl, show (envOf s j a r).prod = some p from hp]
  dsimp only [Option.elim]
  rw [htadj]
  unfold afterRun
  rw [show (decide ((envOf s j a r).a.script.length ≤ y.jump.getD (r.pc + 1))) = false from decide_eq_false (Nat.not_le.2 hj)]
  exact actOf_putAct_of_mem _ (chainedProduct_mem hp) rfl

/-- The elements at which VLDT writes +0 first. -/
def clearedRun (w : VeWord) (r : Run) : Run := if r.vl = 0 then r else putEls r w.ty w.dst ((List.range 512).map fun i => (i, 0, (0 : BitVec 8), false))

theorem clearedEls_flags (fl : BitVec 8) : ((List.range 512).map fun i => (i, 0, (0 : BitVec 8), false)).foldl (fun f (y : Nat × Nat × BitVec 8 × Bool) => f ||| y.2.2.1) fl = fl := by
  rw [List.foldl_map]
  exact foldl_or_zero _ _

theorem clearedRun_fields (w : VeWord) (r : Run) : clearedRun w r = { r with vec := (clearedRun w r).vec, badVec := (clearedRun w r).badVec } := by
  unfold clearedRun
  split
  · rfl
  · rw [putEls_fields, clearedEls_flags]

theorem clearedEls_nodup : (((List.range 512).map fun i => (i, 0, (0 : BitVec 8), false)).map (Prod.fst (α := Nat) (β := Nat × BitVec 8 × Bool))).Nodup := by
  rw [List.map_map]
  simpa [Function.comp_def] using List.nodup_range

theorem rising_clearedRun (w : VeWord) (hr : rising r.vec = true) : rising (clearedRun w r).vec = true := by
  unfold clearedRun
  split
  · exact hr
  · refine rising_putEls _ _ clearedEls_nodup (fun x hx => ?_) hr
    obtain ⟨i, hi, rfl⟩ := List.mem_map.1 hx
    exact (List.mem_range.1 hi).trans (by decide)

theorem getEl_clearedRun (w : VeWord) (hr : rising r.vec = true) (d : Nat) {i : Nat} (hi : i < 4096) :
    getEl (clearedRun w r) w.ty d i = if d = w.dst ∧ r.vl ≠ 0 ∧ i < 512 then 0 else getEl r w.ty d i := by
  unfold clearedRun
  by_cases hz : r.vl = 0
  · simp [hz]
  · rw [if_neg hz, getEl_putEls _ _ _ _ _ (List.range 512) (fun _ => 0) (fun _ => 0) (fun _ => false) hr (fun k hk => (List.mem_range.1 hk).trans (by decide)) hi]
    simp [hz]

theorem modeOf_clearedRun (a : Active) (w : VeWord) (r : Run) : modeOf a (clearedRun w r) = modeOf a r := by rw [clearedRun_fields]; rfl

/-- A load that takes no element writes none. -/
theorem getEl_loadEls_none (e : VeEnv) (r : Run) (v : View) {cover : List (Nat × Nat)} {take : Nat → Bool} (raise : Nat → Bool) (ty d i : Nat)
    (h : ∀ c ∈ cover, take c.1 = false) : getEl (loadEls e r v cover take raise) ty d i = getEl r ty d i := by
  have hnil : (cover.filter fun c => take c.1) = [] := List.filter_eq_nil_iff.2 fun c hc => by rw [h c hc]; decide
  show getEl (putEls r e.w.ty e.w.dst ((cover.filter fun c => take c.1).map _)) ty d i = _
  rw [hnil]
  rfl

/-- The elements that a tile covers are distinct ones of the first 512. -/
theorem tileRange_keys {dsc : Desc} {x : Tile} {cover : List (Nat × Nat)} (hrows : x.rows ≤ 16) (hcols : x.cols ≤ 32) (hc : tileRange dsc x = some cover) :
    (cover.map Prod.fst).Nodup ∧ ∀ y ∈ cover, y.1 < 512 := by
  unfold tileRange at hc
  obtain ⟨-, rfl⟩ := Option.ite_none_right_eq_some.1 hc |>.imp_right Option.some.inj
  constructor
  · rw [List.map_flatten, List.map_map, List.nodup_flatten]
    constructor
    · intro l hl
      obtain ⟨i, _, rfl⟩ := List.mem_map.1 hl
      rw [Function.comp_apply, List.map_map]
      exact List.nodup_range.map fun k k' hk => Nat.add_left_cancel hk
    · rw [List.pairwise_map]
      refine List.nodup_range.imp_of_mem fun {i i'} hi hi' hne => ?_
      rw [Function.comp_apply, Function.comp_apply, List.map_map, List.map_map, List.disjoint_left]
      intro y hy hy'
      obtain ⟨k, hk, rfl⟩ := List.mem_map.1 hy
      obtain ⟨k', hk', he⟩ := List.mem_map.1 hy'
      have hk := List.mem_range.1 hk
      have hk' := List.mem_range.1 hk'
      simp only [Function.comp_apply] at he
      omega
  · intro y hy
    obtain ⟨l, hl, hy⟩ := List.mem_flatten.1 hy
    obtain ⟨i, hi, rfl⟩ := List.mem_map.1 hl
    obtain ⟨k, hk, rfl⟩ := List.mem_map.1 hy
    have hi := List.mem_range.1 hi
    have hk := List.mem_range.1 hk
    show 32 * i + k < 512
    omega

theorem load_over {z : Run} (hz : z = { r with vec := z.vec, badVec := z.badVec })
    (hq : q = { z with vec := q.vec, badVec := q.badVec, flags := q.flags, poisoned := q.poisoned, nonfinite := q.nonfinite }) :
    q = { r with vec := q.vec, badVec := q.badVec, flags := q.flags, poisoned := q.poisoned, malformed := r.malformed + 0, cursors := r.cursors, nonfinite := q.nonfinite } := by
  rw [hq, hz]
  rfl

theorem veVldt_eq {e : VeEnv} {x : Tile} {v : View} {cover : List (Nat × Nat)} (hend : r.sawEnd = false) (htile : r.tile = some x)
    (hv : slotView e e.w.sa = some v) (hc : tileRange v.desc x = some cover) :
    veVldt e r = some { run := loadEls e (clearedRun e.w r) v cover (fun _ => r.vl != 0) (activeEls r e.w).contains } := by
  rw [veVldt, hend, htile, hv]
  dsimp only
  rw [hc]
  rfl

/-! ### The rows -/

theorem filter_fromCursor (r : Run) (w : VeWord) (k : Nat) :
    ((fromCursor r k).filter fun c => (activeEls r w).contains c.1) = (activeEls r w).map fun i => (i, r.cursors.getD k 0 + i) := by
  unfold fromCursor
  rw [List.filter_map]
  congr 1
  refine List.filter_congr fun i hi => ?_
  rw [Function.comp_apply, Bool.eq_iff_iff, List.contains_iff_mem]
  unfold activeEls
  rw [List.mem_filter]
  exact and_iff_right hi

theorem activeEls_nodup (r : Run) (w : VeWord) : (activeEls r w).Nodup := List.nodup_range.filter _

theorem find?_map_key {α : Type} (g : Nat → α) (l : List Nat) (k : Nat) : (l.map fun i => (i, g i)).find? (fun c => c.1 == k) = if k ∈ l then some (k, g k) else none := by
  induction l with
  | nil => rfl
  | cons i l ih =>
    rw [List.map_cons, List.find?_cons, ih]
    by_cases hi : i = k
    · simp [hi]
    · simp [beq_eq_false_iff_ne.2 hi, Ne.symm hi]

section Rows

variable (hwf : Memory.wf s.mem.bytes = true) (hwcb : Memory.wcbOk s.mem.wcb = true) (hr : rising r.vec = true) (hvl : r.vl ≤ 4096)

include hwf hwcb hr hvl in
theorem vld_loads (h : Amid s sid n 0x10 j a r) {v : View} (hv : slotView (envOf s j a r) (envOf s j a r).w.sa = some v)
    (hin : rangeOut r (envOf s j a r).w.sa (elems v.desc) = false) :
    LoadsTo (.vld sid n) s sid n r (envOf s j a r).w.dst (r.cursors.set (envOf s j a r).w.sa (r.cursors.getD (envOf s j a r).w.sa 0 + r.vl)) 0 (envOf s j a r).w.ty
      fun i => if i ∈ activeEls r (envOf s j a r).w then some (loadEl (envOf s j a r) (modeOf a r) v (r.cursors.getD (envOf s j a r).w.sa 0 + i)).1 else none := by
  refine loadsTo_of h hwf hwcb (f := veVld) rfl (by rw [veVld, hv]; exact if_neg (by simp [hin])) ?_ fun d i hi => ?_
  · unfold advanceCursor
    rw [loadEls_fields]
    rfl
  · have hcover := filter_fromCursor r (envOf s j a r).w (envOf s j a r).w.sa
    rw [getEl_advanceCursor]
    refine (getEl_loadEls (envOf s j a r) v _ d ?_ ?_ hi hr).trans ?_
    · rw [hcover, List.map_map]
      simpa [Function.comp_def] using activeEls_nodup r _
    · rw [hcover]
      rintro c hc
      obtain ⟨i, hi, rfl⟩ := List.mem_map.1 hc
      exact lt_of_lt_of_le (activeEls_lt hi) hvl
    · rw [hcover, find?_map_key]
      split
      · split <;> rfl
      · rfl

theorem vst_stores (h : Amid s sid n 0x11 j a r) (hin : rangeOut r 3 (slotElems (envOf s j a r) 3) = false) :
    StoresTo (.vst sid n) s sid n r (r.cursors.set 3 (r.cursors.getD 3 0 + r.vl)) 0
      ((activeEls r (envOf s j a r).w).map fun i => (r.cursors.getD 3 0 + i, storedEl (envOf s j a r) r i)) := by
  refine storesTo_of h rfl (f := veVst) rfl (by rw [veVst]; exact if_neg (by simp [hin])) ?_
  unfold advanceCursor
  rw [storeEls_eq, filter_fromCursor, List.map_map]
  rfl

include hwf hwcb hr hvl in
theorem vgath_loads (h : Amid s sid n 0x12 j a r) {v : View} (hv : slotView (envOf s j a r) (envOf s j a r).w.sb = some v) :
    LoadsTo (.vgath sid n) s sid n r (envOf s j a r).w.dst r.cursors
      ((activeEls r (envOf s j a r).w).filter fun i => !indexInside r (envOf s j a r).w.sa (elems v.desc) i).length (envOf s j a r).w.ty
      fun i => if i ∈ activeEls r (envOf s j a r).w then
        some (if indexInside r (envOf s j a r).w.sa (elems v.desc) i then (loadEl (envOf s j a r) (modeOf a r) v (indexEl r (envOf s j a r).w.sa i).toNat).1 else 0) else none := by
  refine loadsTo_of h hwf hwcb (f := veVgath) rfl (by rw [veVgath_eq hv]) ?_ fun d i hi => ?_
  · unfold gatheredRun
    rw [putEls_fields]
  · refine (getEl_putEls _ _ _ d i (activeEls r (envOf s j a r).w) (fun i => (gatherEl (envOf s j a r) r v i).2.1) _ _ hr
      (fun i hi => lt_of_lt_of_le (activeEls_lt hi) hvl) hi).trans ?_
    by_cases hd : d = (envOf s j a r).w.dst
    · by_cases hmem : i ∈ activeEls r (envOf s j a r).w
      · rw [if_pos ⟨hd, hmem⟩, if_pos hd, if_pos hmem, gatherEl_value]; rfl
      · rw [if_neg (fun h => hmem h.2), if_pos hd, if_neg hmem]; rfl
    · rw [if_neg (fun h => hd h.1), if_neg hd]

theorem vscat_stores (h : Amid s sid n 0x13 j a r) :
    StoresTo (.vscat sid n) s sid n r r.cursors
      ((activeEls r (envOf s j a r).w).filter fun i => !indexInside r (envOf s j a r).w.sb (slotElems (envOf s j a r) 3) i).length
      (((activeEls r (envOf s j a r).w).filter (indexInside r (envOf s j a r).w.sb (slotElems (envOf s j a r) 3))).map fun i =>
        ((indexEl r (envOf s j a r).w.sb i).toNat, (storedEl (envOf s j a r) r i).1, (storedEl (envOf s j a r) r i).2 || elBad r 2 (envOf s j a r).w.sb i)) := by
  refine storesTo_of h rfl (f := veVscat) rfl (veVscat_eq _ _) ?_
  unfold scatteredRun
  rw [storeEls_eq]

include hr in
theorem tqpop_pops (h : Amid s sid n 0x14 j a r) {p : Active} {x : Tile} {rest : List Tile} {stream : List Tile} (hp : chainedProduct s a = some p)
    (ht : tget p.tiles r.index = some { stream := stream, queue := x :: rest }) :
    ∃ t q, exec (.tqpop sid n) s = .next t ∧ RunIs s t sid n (went q (r.pc + 1)) ∧ q = { r with vec := q.vec, badVec := q.badVec, tile := some x } ∧
      (∀ d i, i < 4096 → getEl q 0 d i = if d = (envOf s j a r).w.dst ∧ r.vl ≠ 0 ∧ i < 512 then moveEl (modeOf a r) 0 (x.data.getD i 0).toNat % 2 ^ 32 else getEl r 0 d i) ∧
      actOf t p.sid = some { p with tiles := tset p.tiles r.index { stream := stream, queue := rest } } := by
  have hpop : veTqpop (envOf s j a r) r = some { run := poppedRun (envOf s j a r) r x, popped := true } := veTqpop_eq hp ht
  obtain ⟨t, hrow, hrun⟩ := veRow_goes_plain h.1 rfl veTqpop _ hpop rfl rfl h.2 ⟨by rw [poppedRun_fields], by rw [poppedRun_fields]⟩ (by rw [poppedRun_fields]) (by rw [poppedRun_fields])
  refine ⟨t, poppedRun (envOf s j a r) r x, hrow, hrun, poppedRun_fields _ _ _, fun d i hi => getEl_poppedRun _ x d hi hr, ?_⟩
  rw [veRow_of_stands h.1 veTqpop _ hpop] at hrow
  rw [← Host.Outcome.next.inj hrow]
  exact actOf_veApply_popped h.1 hp ht rfl rfl rfl rfl h.2

include hwf hwcb hr in
theorem vldt_loads (h : Amid s sid n 0x15 j a r) (hend : r.sawEnd = false) {x : Tile} {v : View} {c : List (Nat × Nat)} (htile : r.tile = some x)
    (hrows : x.rows ≤ 16) (hcols : x.cols ≤ 32) (hv : slotView (envOf s j a r) (envOf s j a r).w.sa = some v) (hc : tileRange v.desc x = some c) :
    LoadsTo (.vldt sid n) s sid n r (envOf s j a r).w.dst r.cursors 0 (envOf s j a r).w.ty
      fun i => if r.vl = 0 || 512 ≤ i then none else some ((c.find? fun y => y.1 == i).elim 0 fun y => (loadEl (envOf s j a r) (modeOf a r) v y.2).1) := by
  obtain ⟨hnodup, hlt⟩ := tileRange_keys hrows hcols hc
  refine loadsTo_of h hwf hwcb (f := veVldt) rfl (veVldt_eq hend htile hv hc) ?_ fun d i hi => ?_
  · exact load_over (clearedRun_fields _ _) (loadEls_fields ..)
  · by_cases hz : r.vl = 0
    · refine (getEl_loadEls_none (take := fun _ => r.vl != 0) _ _ _ _ _ _ _ fun _ _ => bne_eq_false_iff_eq.2 hz).trans ?_
      rw [clearedRun, if_pos hz]
      simp [hz]
    · have hcover : (c.filter fun _ => r.vl != 0) = c := List.filter_eq_self.2 fun _ _ => bne_iff_ne.2 hz
      rw [getEl_loadEls (envOf s j a r) v _ d (by rw [hcover]; exact hnodup) (by rw [hcover]; exact fun y hy => (hlt y hy).trans (by decide)) hi
        (rising_clearedRun _ hr), hcover, getEl_clearedRun _ hr d hi]
      by_cases hd : d = (envOf s j a r).w.dst
      · by_cases hi' : i < 512
        · cases c.find? fun y => y.1 == i with
          | none => simp [hd, hz, hi', Nat.not_le.2 hi']
          | some y => simp [hd, hz, Nat.not_le.2 hi', modeOf_clearedRun]; rfl
        · have hnone : c.find? (fun y => y.1 == i) = none := List.find?_eq_none.2 fun y hy hyi => hi' ((beq_iff_eq.1 hyi) ▸ hlt y hy)
          simp [hd, hz, hi', Nat.not_lt.1 hi', hnone]
      · simp [hd]

theorem vstt_stores (h : Amid s sid n 0x16 j a r) {x : Tile} {o : Operand} {c : List (Nat × Nat)} (htile : r.tile = some x) (hout : a.out = some o)
    (hc : tileRange o.desc x = some c) :
    StoresTo (.vstt sid n) s sid n r r.cursors 0
      ((c.filter fun y => (activeEls r (envOf s j a r).w).contains y.1).map fun y => (y.2, storedEl (envOf s j a r) r y.1)) := by
  refine storesTo_of h rfl (f := veVstt) rfl (by rw [veVstt, htile, show (envOf s j a r).a.out = some o from hout]; dsimp only; rw [hc]) ?_
  rw [storeEls_eq]
  rfl

end Rows

/-- Settles O14: each row writes the elements, or adds the pending writes, that its cover of the tensor gives. -/
theorem veMemoryAccess : Obligations.VeMemoryAccess := by
  intro s sid n j a r e w m act cur moves stored badEl loads stores hwf hwcb hr hvl
  exact ⟨fun h v hv hin => vld_loads hwf hwcb hr hvl h hv hin, fun h hin => vst_stores h hin, fun h v hv => vgath_loads hwf hwcb hr hvl h hv, fun h => vscat_stores h,
    fun h p x rest stream hp ht => tqpop_pops hr h hp ht, fun h hend x v c htile hrows hcols hv hc => vldt_loads hwf hwcb hr h hend htile hrows hcols hv hc,
    fun h x o c htile hout hc => vstt_stores h htile hout hc⟩

end Sys2Proof.ScriptRows
end
